-- ==== Sys2Proof/Word.lean ====
section
/-! DEFINITION. Word types of the Haltor and their plainest arithmetic (R3: little-endian, bit 0 least significant). -/

namespace Sys2Proof

/-- A general register (R65). -/
abbrev Word := BitVec 64

/-- One byte of memory. -/
abbrev Byte := BitVec 8

/-- An instruction word (R11). -/
abbrev InstrWord := BitVec 96

/-- The data of a vector or interval register (R68). -/
abbrev Wide := BitVec 2048

end Sys2Proof
end

