-- ==== Sys2Proof/Syntax.lean ====
section
/-! DEFINITION. The syntax of the machine: operands (R14), variants selected by `FN` and `MOD` (R23 to R27, R55 to R63), and one
constructor of `Instr` for every row of the opcode table: thread instructions and machine events. -/

namespace Sys2Proof

/-- Width of a scalar integer instruction, `FN`[1:0] (R27). -/
inductive Width where
  | i64 | i32 | i16 | i8
  deriving DecidableEq, Repr

/-- Float format of a scalar float instruction, `FN`[1:0] (R27). -/
inductive FFmt where
  | f32 | f64 | f16 | b16
  deriving DecidableEq, Repr

/-- Condition, `FN`[7:4] (R56). -/
inductive Cond where
  | eq | ne | lt | le | gt | ge | uo | ord
  deriving DecidableEq, Repr

/-- Access size, `FN`[2:0] (R27). -/
inductive Size where
  | s1 | s2 | s4 | s8 | s16
  deriving DecidableEq, Repr

/-- Bytes of a size code (R27). -/
def Size.bytes : Size → Nat
  | .s1 => 1 | .s2 => 2 | .s4 => 4 | .s8 => 8 | .s16 => 16

/-- Memory order of an atomic, `FN`[5:4] (R27). -/
inductive Order where
  | rlx | acq | rel | ar
  deriving DecidableEq, Repr

/-- Operation of `aop`, cat(`FN`[7:6], `FN`[3]) (R60). -/
inductive AtomOp where
  | add | swp | and | or | xor | min | max | umax
  deriving DecidableEq, Repr

/-- Operation of `vred` and `vscan`, `FN`[2:0] (R61). -/
inductive RedOp where
  | add | min | max | and | or | xor
  deriving DecidableEq, Repr

/-- Kind of an `fcvt` (R58). -/
inductive CvtKind where
  /-- float to float -/
  | ff (src dst : FFmt)
  /-- float to 64-bit integer, `u` unsigned -/
  | fi (src : FFmt) (u : Bool)
  /-- 64-bit integer to float, `u` unsigned source -/
  | fromInt (dst : FFmt) (u : Bool)
  deriving DecidableEq, Repr

/-- Function of `mlog` (R62). -/
inductive MlogFn where
  | and | or | not | imp | eqv | tstFalse | tstTrue | tstUnk
  deriving DecidableEq, Repr

/-- Rounding selection, `MOD`[2:0] (R23). -/
inductive Rnd where
  | dyn | rne | rtz | rdn | rup | rna
  deriving DecidableEq, Repr

/-- Special registers (R75). -/
inductive XReg where
  | status | npth | ferl | cyc | rank | core | slot | wins | group | group1 | group2
  | grid | grid1 | grid2 | ctag | cseg
  deriving DecidableEq, Repr

/-- Guard and hints of a thread instruction (R19, R22). -/
structure Ctl where
  /-- `GN`: the guard is negated -/
  gn : Bool
  /-- `GP`: the guard predicate -/
  gp : Fin 8
  /-- hint T: timed -/
  t : Bool
  /-- hint D: deep idle -/
  d : Bool
  deriving DecidableEq, Repr

/-- An operand (R14). `none` stands for an unused field and `wide` for the 40-bit immediate of R26, in position B only. -/
inductive Opnd where
  | none
  | g (n : Fin 128)
  | v (n : Fin 32)
  | k (n : Fin 16)
  | p (n : Fin 8)
  | m (n : Fin 8)
  | q (n : Fin 16)
  | s (n : Fin 8)
  | x (r : XReg)
  | acc (n : Fin 16)
  | bg (n : Fin 128)
  | imm (v : BitVec 17)
  | wide (v : BitVec 40)
  deriving DecidableEq, Repr

/-- A memory operand (R38): segment register, base and offset. -/
structure MemRef where
  seg : Fin 8
  base : Opnd
  off : Opnd
  deriving DecidableEq, Repr

/-- Kind of a segment (R72). -/
inductive SegKind where
  | null | memory | core | vault | barrier | code | res6 | res7
  deriving DecidableEq, Repr

/-- A segment register, or an entry of a segment descriptor table (R71). -/
structure Segment where
  base : BitVec 56
  limit : BitVec 48
  r : Bool
  w : Bool
  x : Bool
  t : Bool
  colour : BitVec 4
  kind : SegKind
  index : BitVec 12
  deriving DecidableEq, Repr

/-- The null segment (R67). -/
def Segment.null : Segment := ⟨0, 0, false, false, false, false, 0, .null, 0⟩

/-- A page entry (R315). -/
structure PageEntry where
  v : Bool
  r : Bool
  w : Bool
  xn : Bool
  size : BitVec 2
  tier : BitVec 2
  mg : Bool
  ptag : BitVec 4
  ctag : BitVec 16
  vpn : BitVec 39
  frame : BitVec 47
  module : BitVec 12
  deriving DecidableEq, Repr

/-- A registered window (R436). -/
structure WindowEntry where
  wv : Bool
  module : BitVec 12
  wbase : BitVec 56
  wsize : BitVec 40
  grows : BitVec 12
  gcols : BitVec 12
  tsize : BitVec 40
  deriving DecidableEq, Repr

/-- A change of a page entry (R326), with the colour that the pager gives the granules of the frame it maps, if any (R318). -/
structure PageChange where
  entry : PageEntry
  colour : Option (BitVec 4)
  deriving DecidableEq, Repr

/-- A storage element that carries SECDED (R228, R285). -/
inductive ErrSite where
  | gfile (core entry : Nat)
  | wfile (core entry : Nat)
  /-- a queue entry, named by the sequence number of its push -/
  | queue (core q seq : Nat)
  /-- predicates, three-valued predicates and `x.status` of a slot -/
  | pred (core slot : Nat)
  /-- an 8-byte word of memory, by its location divided by 8 -/
  | memWord (w : Nat)
  /-- the full-empty bit of a core-store word, and the tag of a core-store granule, by location divided by 8 and by 64 -/
  | fullBit (w : Nat)
  | granTag (g : Nat)
  | acc (cluster a elem : Nat)
  | tile (cluster handle : Nat)
  | code (cluster launch : Nat)
  /-- an entry of a job queue, by its sequence number (R285) -/
  | job (cluster q seq : Nat)
  /-- the flit of a deposit (R239, R424) -/
  | deposit (id : Nat)
  deriving DecidableEq, Repr

/-- A resident context tag (R225): an entry with `VALID` = 1. `SLOTS` is the number of slots bound to it. -/
structure ResTag where
  ctag : BitVec 16
  sdt : BitVec 56
  sdtSize : BitVec 12
  ptRoot : BitVec 56
  tagKey : Word
  deriving DecidableEq, Repr

/-- The shape of a partition (R413): a rectangle of clusters on one die, or a set of whole dies, which may be all of them. -/
inductive PartShape where
  | rect (die row col rows cols : Nat)
  | dies (mask : BitVec 8)
  deriving DecidableEq, Repr

/-- What the root monitor writes into a partition's entry (R413). `JOBS` are queue numbers, and a range of `FRAMES` is a tier
with its first and last physical byte. -/
structure PartEntry where
  shape : PartShape
  tags : List ResTag
  jobs : List Nat
  frames : List (Nat × Nat × Nat)
  vfn : Nat
  priv : Bool
  pasid : BitVec 20
  deriving DecidableEq, Repr

/-- Where the registers stand that an agent outside the cores writes: in a function's BAR0 (R429), or in the error record of a
cluster, 8 bytes which the policy firmware reads and clears (R425); in a function's control block, as the root monitor writes it
(R430); or the size code of a function's BAR2 in its Resizable BAR capability (R432). -/
inductive RegPlace where
  | bar0 (fnum : Nat)
  | errors (cluster : Nat)
  | monitor (fnum : Nat)
  | rebar (fnum : Nat)
  deriving DecidableEq, Repr

/-- One thread of a placement (R396): rank, core number, slot. -/
structure Place where
  rank : Nat
  core : Nat
  slot : Nat
  deriving DecidableEq, Repr

/-- An image the boot chain checks (R420). -/
structure BootImage where
  bytes : List Byte
  signature : List Byte
  key : List Byte
  version : Nat
  deriving DecidableEq, Repr

/-- A Claom Link flit (R434). -/
structure LinkFlit where
  seq : BitVec 12
  kind : BitVec 4
  ackSeq : BitVec 12
  dst : BitVec 12
  src : BitVec 12
  payload : List Byte
  crc : BitVec 32
  deriving DecidableEq, Repr

/-- Kind of a fabric operation (R439). -/
inductive FabricKind where
  | put | puts | get
  deriving DecidableEq, Repr

/-- A fabric operation as it reaches the module that holds the window (R439). -/
structure FabricMsg where
  kind : FabricKind
  /-- module that issued the operation -/
  source : BitVec 12
  /-- number of the operation at its issuing module -/
  op : Nat
  /-- context and window on the module that holds the memory -/
  ctag : BitVec 16
  win : Nat
  off : Nat
  len : Nat
  bytes : List Byte
  deriving DecidableEq, Repr


/-- The instructions and events of the opcode table, one constructor per row. A thread instruction carries its guard
and hints (`Ctl`), the variants its `FN` and `MOD` bits select, and its operands. An event carries what comes with it
from outside; the numbers that name its object stand in `State.args` (entry 6), in the order its docstring lists. -/
inductive Instr where
  /-- NOP (R119). -/
  | nop (c : Ctl)
  /-- MOV (R119). -/
  | mov (c : Ctl) (w : Width) (u : Bool) (d : Opnd) (a : Opnd)
  /-- MOVI (R119). -/
  | movi (c : Ctl) (w : Width) (u : Bool) (d : Opnd) (b : Opnd)
  /-- ADD (R119). -/
  | add (c : Ctl) (w : Width) (u : Bool) (st : Bool) (d : Opnd) (a : Opnd) (b : Opnd)
  /-- SUB (R119). -/
  | sub (c : Ctl) (w : Width) (u : Bool) (st : Bool) (d : Opnd) (a : Opnd) (b : Opnd)
  /-- MUL (R119). -/
  | mul (c : Ctl) (w : Width) (u : Bool) (st : Bool) (d : Opnd) (a : Opnd) (b : Opnd)
  /-- MULH (R119). -/
  | mulh (c : Ctl) (w : Width) (u : Bool) (d : Opnd) (a : Opnd) (b : Opnd)
  /-- DIV (R120). -/
  | div (c : Ctl) (w : Width) (u : Bool) (d : Opnd) (a : Opnd) (b : Opnd)
  /-- REM (R120). -/
  | rem (c : Ctl) (w : Width) (u : Bool) (d : Opnd) (a : Opnd) (b : Opnd)
  /-- MIN (R119). -/
  | min (c : Ctl) (w : Width) (u : Bool) (d : Opnd) (a : Opnd) (b : Opnd)
  /-- MAX (R119). -/
  | max (c : Ctl) (w : Width) (u : Bool) (d : Opnd) (a : Opnd) (b : Opnd)
  /-- ABS (R119). -/
  | abs (c : Ctl) (w : Width) (st : Bool) (d : Opnd) (a : Opnd)
  /-- AND (R119). -/
  | and (c : Ctl) (d : Opnd) (a : Opnd) (b : Opnd)
  /-- OR (R119). -/
  | or (c : Ctl) (d : Opnd) (a : Opnd) (b : Opnd)
  /-- XOR (R119). -/
  | xor (c : Ctl) (d : Opnd) (a : Opnd) (b : Opnd)
  /-- ANDN (R119). -/
  | andn (c : Ctl) (d : Opnd) (a : Opnd) (b : Opnd)
  /-- SHL (R121). -/
  | shl (c : Ctl) (w : Width) (d : Opnd) (a : Opnd) (b : Opnd)
  /-- SHR (R121). -/
  | shr (c : Ctl) (w : Width) (d : Opnd) (a : Opnd) (b : Opnd)
  /-- SAR (R121). -/
  | sar (c : Ctl) (w : Width) (d : Opnd) (a : Opnd) (b : Opnd)
  /-- ROT (R121). -/
  | rot (c : Ctl) (w : Width) (d : Opnd) (a : Opnd) (b : Opnd)
  /-- CLZ (R119). -/
  | clz (c : Ctl) (w : Width) (d : Opnd) (a : Opnd)
  /-- CTZ (R119). -/
  | ctz (c : Ctl) (w : Width) (d : Opnd) (a : Opnd)
  /-- POPC (R119). -/
  | popc (c : Ctl) (w : Width) (d : Opnd) (a : Opnd)
  /-- BEXT (R122). -/
  | bext (c : Ctl) (d : Opnd) (a : Opnd) (b : Opnd)
  /-- BINS (R122). -/
  | bins (c : Ctl) (d : Opnd) (a : Opnd) (b : Opnd)
  /-- EXT (R119). -/
  | ext (c : Ctl) (w : Width) (u : Bool) (d : Opnd) (a : Opnd) (b : Opnd)
  /-- SEL (R123). -/
  | sel (c : Ctl) (n : BitVec 3) (d : Opnd) (a : Opnd) (b : Opnd)
  /-- CMP (R124). -/
  | cmp (c : Ctl) (w : Width) (u : Bool) (cond : Cond) (d : Opnd) (a : Opnd) (b : Opnd)
  /-- PLOG (R125). -/
  | plog (c : Ctl) (tt : BitVec 4) (d : Opnd) (a : Opnd) (b : Opnd)
  /-- PMOV (R125). -/
  | pmov (c : Ctl) (d : Opnd) (a : Opnd)
  /-- LEA (R119). -/
  | lea (c : Ctl) (n : BitVec 3) (d : Opnd) (a : Opnd) (b : Opnd)
  /-- FADD (R126). -/
  | fadd (c : Ctl) (fmt : FFmt) (rnd : Rnd) (d : Opnd) (a : Opnd) (b : Opnd)
  /-- FSUB (R126). -/
  | fsub (c : Ctl) (fmt : FFmt) (rnd : Rnd) (d : Opnd) (a : Opnd) (b : Opnd)
  /-- FMUL (R126). -/
  | fmul (c : Ctl) (fmt : FFmt) (rnd : Rnd) (d : Opnd) (a : Opnd) (b : Opnd)
  /-- FMA (R126). -/
  | fma (c : Ctl) (fmt : FFmt) (rnd : Rnd) (d : Opnd) (a : Opnd) (b : Opnd)
  /-- FDIV (R126). -/
  | fdiv (c : Ctl) (fmt : FFmt) (rnd : Rnd) (d : Opnd) (a : Opnd) (b : Opnd)
  /-- FSQRT (R126). -/
  | fsqrt (c : Ctl) (fmt : FFmt) (rnd : Rnd) (d : Opnd) (a : Opnd)
  /-- FMIN (R127). -/
  | fmin (c : Ctl) (fmt : FFmt) (d : Opnd) (a : Opnd) (b : Opnd)
  /-- FMAX (R127). -/
  | fmax (c : Ctl) (fmt : FFmt) (d : Opnd) (a : Opnd) (b : Opnd)
  /-- FABS (R126). -/
  | fabs (c : Ctl) (fmt : FFmt) (d : Opnd) (a : Opnd)
  /-- FNEG (R126). -/
  | fneg (c : Ctl) (fmt : FFmt) (d : Opnd) (a : Opnd)
  /-- FCMP (R128). -/
  | fcmp (c : Ctl) (fmt : FFmt) (cond : Cond) (d : Opnd) (a : Opnd) (b : Opnd)
  /-- FCVT (R126). -/
  | fcvt (c : Ctl) (k : CvtKind) (rnd : Rnd) (sat : Bool) (d : Opnd) (a : Opnd)
  /-- FCLASS (R129). -/
  | fclass (c : Ctl) (fmt : FFmt) (d : Opnd) (a : Opnd)
  /-- FRND (R126). -/
  | frnd (c : Ctl) (fmt : FFmt) (rnd : Rnd) (d : Opnd) (a : Opnd)
  /-- BR (R130). -/
  | br (c : Ctl) (b : Opnd)
  /-- BRR (R130). -/
  | brr (c : Ctl) (a : Opnd)
  /-- CALL (R130). -/
  | call (c : Ctl) (d : Opnd) (b : Opnd)
  /-- RET (R130). -/
  | ret (c : Ctl) (a : Opnd)
  /-- LOOP (R130). -/
  | loop (c : Ctl) (d : Opnd) (b : Opnd)
  /-- EXIT (R131). -/
  | exit (c : Ctl)
  /-- SPAWN (R132). -/
  | spawn (c : Ctl) (mig : Bool) (d : Opnd) (a : Opnd) (b : Opnd)
  /-- JOIN (R133). -/
  | join (c : Ctl) (a : Opnd)
  /-- SLOT (R134). -/
  | slot (c : Ctl) (d : Opnd)
  /-- LD (R139). -/
  | ld (c : Ctl) (size : Size) (u : Bool) (d : Opnd) (r : MemRef)
  /-- ST (R139). -/
  | st (c : Ctl) (size : Size) (d : Opnd) (r : MemRef)
  /-- LDFE (R140). -/
  | ldfe (c : Ctl) (d : Opnd) (r : MemRef)
  /-- STFE (R140). -/
  | stfe (c : Ctl) (d : Opnd) (r : MemRef)
  /-- LDFP (R140). -/
  | ldfp (c : Ctl) (d : Opnd) (r : MemRef)
  /-- CHK (R143). -/
  | chk (c : Ctl) (d : Opnd) (r : MemRef)
  /-- LSEG (R141). -/
  | lseg (c : Ctl) (d : Opnd) (a : Opnd)
  /-- STAG (R142). -/
  | stag (c : Ctl) (d : Opnd) (r : MemRef)
  /-- LTAG (R142). -/
  | ltag (c : Ctl) (d : Opnd) (r : MemRef)
  /-- AOP (R144). -/
  | aop (c : Ctl) (op : AtomOp) (wide : Bool) (ord : Order) (d : Opnd) (r : MemRef)
  /-- ACAS (R144). -/
  | acas (c : Ctl) (wide : Bool) (ord : Order) (d : Opnd) (r : MemRef)
  /-- ALD (R144). -/
  | ald (c : Ctl) (wide : Bool) (ord : Order) (d : Opnd) (r : MemRef)
  /-- AST (R144). -/
  | ast (c : Ctl) (wide : Bool) (ord : Order) (d : Opnd) (r : MemRef)
  /-- PUB (R146). -/
  | pub (c : Ctl)
  /-- REFRESH (R146). -/
  | refresh (c : Ctl)
  /-- PHASE (R146). -/
  | phase (c : Ctl)
  /-- PREF (R147). -/
  | pref (c : Ctl) (r : MemRef)
  /-- VADD (R156). -/
  | vadd (c : Ctl) (rnd : Rnd) (sat : Bool) (d : Opnd) (a : Opnd) (b : Opnd)
  /-- VSUB (R156). -/
  | vsub (c : Ctl) (rnd : Rnd) (sat : Bool) (d : Opnd) (a : Opnd) (b : Opnd)
  /-- VMUL (R156). -/
  | vmul (c : Ctl) (rnd : Rnd) (sat : Bool) (d : Opnd) (a : Opnd) (b : Opnd)
  /-- VFMA (R156). -/
  | vfma (c : Ctl) (rnd : Rnd) (sat : Bool) (d : Opnd) (a : Opnd) (b : Opnd)
  /-- VMIN (R157). -/
  | vmin (c : Ctl) (d : Opnd) (a : Opnd) (b : Opnd)
  /-- VMAX (R157). -/
  | vmax (c : Ctl) (d : Opnd) (a : Opnd) (b : Opnd)
  /-- VABS (R157). -/
  | vabs (c : Ctl) (sat : Bool) (d : Opnd) (a : Opnd)
  /-- VNEG (R157). -/
  | vneg (c : Ctl) (sat : Bool) (d : Opnd) (a : Opnd)
  /-- VRCP (R158). -/
  | vrcp (c : Ctl) (rnd : Rnd) (sat : Bool) (d : Opnd) (a : Opnd)
  /-- VRSQRT (R158). -/
  | vrsqrt (c : Ctl) (rnd : Rnd) (sat : Bool) (d : Opnd) (a : Opnd)
  /-- VEXP2 (R158). -/
  | vexp2 (c : Ctl) (rnd : Rnd) (sat : Bool) (d : Opnd) (a : Opnd)
  /-- VLOG2 (R158). -/
  | vlog2 (c : Ctl) (rnd : Rnd) (sat : Bool) (d : Opnd) (a : Opnd)
  /-- VDIV (R158). -/
  | vdiv (c : Ctl) (rnd : Rnd) (sat : Bool) (d : Opnd) (a : Opnd) (b : Opnd)
  /-- VSQRT (R158). -/
  | vsqrt (c : Ctl) (rnd : Rnd) (sat : Bool) (d : Opnd) (a : Opnd)
  /-- VAND (R159). -/
  | vand (c : Ctl) (d : Opnd) (a : Opnd) (b : Opnd)
  /-- VOR (R159). -/
  | vor (c : Ctl) (d : Opnd) (a : Opnd) (b : Opnd)
  /-- VXOR (R159). -/
  | vxor (c : Ctl) (d : Opnd) (a : Opnd) (b : Opnd)
  /-- VSHL (R159). -/
  | vshl (c : Ctl) (d : Opnd) (a : Opnd) (b : Opnd)
  /-- VSHR (R159). -/
  | vshr (c : Ctl) (ar : Bool) (d : Opnd) (a : Opnd) (b : Opnd)
  /-- VCMP (R160). -/
  | vcmp (c : Ctl) (cond : Cond) (d : Opnd) (a : Opnd) (b : Opnd)
  /-- VSEL (R161). -/
  | vsel (c : Ctl) (n : BitVec 3) (d : Opnd) (a : Opnd) (b : Opnd)
  /-- VCVT (R163). -/
  | vcvt (c : Ctl) (tag : BitVec 4) (rnd : Rnd) (sat : Bool) (part : BitVec 2) (d : Opnd) (a : Opnd)
  /-- VBFP (R164). -/
  | vbfp (c : Ctl) (tag : BitVec 4) (rnd : Rnd) (sat : Bool) (part : BitVec 2) (d : Opnd) (a : Opnd)
  /-- VUNBFP (R165). -/
  | vunbfp (c : Ctl) (tag : BitVec 4) (rnd : Rnd) (sat : Bool) (part : BitVec 2) (d : Opnd) (a : Opnd)
  /-- VPERM (R166). -/
  | vperm (c : Ctl) (d : Opnd) (a : Opnd) (b : Opnd)
  /-- VBCAST (R167). -/
  | vbcast (c : Ctl) (d : Opnd) (a : Opnd) (b : Opnd)
  /-- VEXT (R168). -/
  | vext (c : Ctl) (d : Opnd) (a : Opnd) (b : Opnd)
  /-- VINS (R168). -/
  | vins (c : Ctl) (d : Opnd) (a : Opnd) (b : Opnd)
  /-- VRED (R170). -/
  | vred (c : Ctl) (op : RedOp) (rnd : Rnd) (sat : Bool) (d : Opnd) (a : Opnd)
  /-- VSCAN (R171). -/
  | vscan (c : Ctl) (op : RedOp) (rnd : Rnd) (sat : Bool) (d : Opnd) (a : Opnd)
  /-- VDOT (R172). -/
  | vdot (c : Ctl) (rnd : Rnd) (sat : Bool) (d : Opnd) (a : Opnd) (b : Opnd)
  /-- VLD (R175). -/
  | vld (c : Ctl) (tag : BitVec 4) (d : Opnd) (r : MemRef)
  /-- VST (R175). -/
  | vst (c : Ctl) (d : Opnd) (r : MemRef)
  /-- VLDX (R176). -/
  | vldx (c : Ctl) (tag : BitVec 4) (d : Opnd) (r : MemRef)
  /-- VSTX (R176). -/
  | vstx (c : Ctl) (d : Opnd) (r : MemRef)
  /-- VTAG (R169). -/
  | vtag (c : Ctl) (tag : BitVec 4) (d : Opnd) (a : Opnd)
  /-- VGTAG (R169). -/
  | vgtag (c : Ctl) (d : Opnd) (a : Opnd)
  /-- VMOV (R169). -/
  | vmov (c : Ctl) (d : Opnd) (a : Opnd)
  /-- VCLAMP (R162). -/
  | vclamp (c : Ctl) (d : Opnd) (a : Opnd) (b : Opnd)
  /-- KADD_F (R188). -/
  | kaddF (c : Ctl) (d : Opnd) (a : Opnd) (b : Opnd)
  /-- KADD_B (R193). -/
  | kaddB (c : Ctl) (d : Opnd) (a : Opnd) (b : Opnd)
  /-- KSUB_F (R188). -/
  | ksubF (c : Ctl) (d : Opnd) (a : Opnd) (b : Opnd)
  /-- KSUB_B (R193). -/
  | ksubB (c : Ctl) (d : Opnd) (a : Opnd) (b : Opnd)
  /-- KMUL_F (R188). -/
  | kmulF (c : Ctl) (d : Opnd) (a : Opnd) (b : Opnd)
  /-- KMUL_B (R193). -/
  | kmulB (c : Ctl) (d : Opnd) (a : Opnd) (b : Opnd)
  /-- KDIV_F (R189). -/
  | kdivF (c : Ctl) (d : Opnd) (a : Opnd) (b : Opnd)
  /-- KDIV_B (R193). -/
  | kdivB (c : Ctl) (d : Opnd) (a : Opnd) (b : Opnd)
  /-- KFMA_F (R190). -/
  | kfmaF (c : Ctl) (d : Opnd) (a : Opnd) (b : Opnd)
  /-- KFMA_B (R193). -/
  | kfmaB (c : Ctl) (d : Opnd) (a : Opnd) (b : Opnd)
  /-- KNEG_F (R188). -/
  | knegF (c : Ctl) (d : Opnd) (a : Opnd)
  /-- KNEG_B (R193). -/
  | knegB (c : Ctl) (d : Opnd) (a : Opnd)
  /-- KABS_F (R188). -/
  | kabsF (c : Ctl) (d : Opnd) (a : Opnd)
  /-- KABS_B (R193). -/
  | kabsB (c : Ctl) (d : Opnd) (a : Opnd)
  /-- KSQR_F (R188). -/
  | ksqrF (c : Ctl) (d : Opnd) (a : Opnd)
  /-- KSQR_B (R193). -/
  | ksqrB (c : Ctl) (d : Opnd) (a : Opnd)
  /-- KSQRT_F (R188). -/
  | ksqrtF (c : Ctl) (d : Opnd) (a : Opnd)
  /-- KSQRT_B (R193). -/
  | ksqrtB (c : Ctl) (d : Opnd) (a : Opnd)
  /-- KEXP_F (R188). -/
  | kexpF (c : Ctl) (d : Opnd) (a : Opnd)
  /-- KEXP_B (R193). -/
  | kexpB (c : Ctl) (d : Opnd) (a : Opnd)
  /-- KLOG_F (R188). -/
  | klogF (c : Ctl) (d : Opnd) (a : Opnd)
  /-- KLOG_B (R193). -/
  | klogB (c : Ctl) (d : Opnd) (a : Opnd)
  /-- KRELU_F (R188). -/
  | kreluF (c : Ctl) (d : Opnd) (a : Opnd)
  /-- KRELU_B (R193). -/
  | kreluB (c : Ctl) (d : Opnd) (a : Opnd)
  /-- KMAX_F (R188). -/
  | kmaxF (c : Ctl) (d : Opnd) (a : Opnd) (b : Opnd)
  /-- KMAX_B (R193). -/
  | kmaxB (c : Ctl) (d : Opnd) (a : Opnd) (b : Opnd)
  /-- KMIN_F (R188). -/
  | kminF (c : Ctl) (d : Opnd) (a : Opnd) (b : Opnd)
  /-- KMIN_B (R193). -/
  | kminB (c : Ctl) (d : Opnd) (a : Opnd) (b : Opnd)
  /-- KSCALE_F (R188). -/
  | kscaleF (c : Ctl) (d : Opnd) (a : Opnd) (b : Opnd)
  /-- KSCALE_B (R193). -/
  | kscaleB (c : Ctl) (d : Opnd) (a : Opnd) (b : Opnd)
  /-- KMAC_F (R190). -/
  | kmacF (c : Ctl) (d : Opnd) (a : Opnd) (b : Opnd)
  /-- KMAC_B (R194). -/
  | kmacB (c : Ctl) (d : Opnd) (a : Opnd) (b : Opnd)
  /-- KCAP (R195). -/
  | kcap (c : Ctl) (d : Opnd) (a : Opnd) (b : Opnd)
  /-- KHULL (R195). -/
  | khull (c : Ctl) (d : Opnd) (a : Opnd) (b : Opnd)
  /-- KMK (R196). -/
  | kmk (c : Ctl) (part : Bool) (d : Opnd) (a : Opnd) (b : Opnd)
  /-- KLO (R197). -/
  | klo (c : Ctl) (part : Bool) (d : Opnd) (a : Opnd)
  /-- KHI (R197). -/
  | khi (c : Ctl) (part : Bool) (d : Opnd) (a : Opnd)
  /-- KMID (R197). -/
  | kmid (c : Ctl) (part : Bool) (d : Opnd) (a : Opnd)
  /-- KWID (R197). -/
  | kwid (c : Ctl) (part : Bool) (d : Opnd) (a : Opnd)
  /-- KSPLIT (R198). -/
  | ksplit (c : Ctl) (d : Opnd) (a : Opnd)
  /-- KCMP_F (R200). -/
  | kcmpF (c : Ctl) (cond : Cond) (d : Opnd) (a : Opnd) (b : Opnd)
  /-- KCMP_B (R201). -/
  | kcmpB (c : Ctl) (cond : Cond) (d : Opnd) (a : Opnd) (b : Opnd)
  /-- KIN (R202). -/
  | kin (c : Ctl) (d : Opnd) (a : Opnd) (b : Opnd)
  /-- KSTAT (R199). -/
  | kstat (c : Ctl) (d : Opnd) (a : Opnd)
  /-- KLD (R204). -/
  | kld (c : Ctl) (d : Opnd) (r : MemRef)
  /-- KST (R204). -/
  | kst (c : Ctl) (d : Opnd) (r : MemRef)
  /-- KMOV (R203). -/
  | kmov (c : Ctl) (d : Opnd) (a : Opnd)
  /-- KSET (R203). -/
  | kset (c : Ctl) (d : Opnd) (a : Opnd) (b : Opnd)
  /-- MLOG (R205). -/
  | mlog (c : Ctl) (fn : MlogFn) (d : Opnd) (a : Opnd) (b : Opnd)
  /-- QLD (R231). -/
  | qld (c : Ctl) (d : Opnd) (r : MemRef)
  /-- QST (R232). -/
  | qst (c : Ctl) (d : Opnd) (r : MemRef)
  /-- QCNT (R233). -/
  | qcnt (c : Ctl) (d : Opnd) (a : Opnd)
  /-- QCLR (R234). -/
  | qclr (c : Ctl) (d : Opnd) (a : Opnd)
  /-- BORROW (R235). -/
  | borrow (c : Ctl) (d : Opnd) (a : Opnd)
  /-- BRET (R236). -/
  | bret (c : Ctl)
  /-- XMOV (R237). -/
  | xmov (c : Ctl) (d : Opnd) (a : Opnd)
  /-- SENDR (R238). -/
  | sendr (c : Ctl) (d : Opnd) (a : Opnd) (b : Opnd)
  /-- SENDW (R240). -/
  | sendw (c : Ctl) (a : Opnd) (b : Opnd)
  /-- SEND (R241). -/
  | send (c : Ctl) (a : Opnd) (b : Opnd)
  /-- MCAST (R381). -/
  | mcast (c : Ctl) (d : Opnd) (a : Opnd) (b : Opnd)
  /-- MIGRATE (R379). -/
  | migrate (c : Ctl) (r : MemRef)
  /-- WAIT (R300). -/
  | wait (c : Ctl)
  /-- MMA (R270). -/
  | mma (c : Ctl) (sat : Bool) (mq : BitVec 2) (d : Opnd) (a : Opnd) (b : Opnd)
  /-- MMAC (R270). -/
  | mmac (c : Ctl) (sat : Bool) (mq : BitVec 2) (d : Opnd) (a : Opnd) (b : Opnd)
  /-- MZERO (R270). -/
  | mzero (c : Ctl) (mq : BitVec 2) (d : Opnd) (a : Opnd) (b : Opnd)
  /-- MRD (R272). -/
  | mrd (c : Ctl) (sat : Bool) (mq : BitVec 2) (d : Opnd) (a : Opnd) (b : Opnd)
  /-- MWR (R272). -/
  | mwr (c : Ctl) (mq : BitVec 2) (d : Opnd) (a : Opnd) (b : Opnd)
  /-- TDEF (R268). -/
  | tdef (c : Ctl) (n : BitVec 3) (d : Opnd) (a : Opnd) (b : Opnd)
  /-- TREL (R269). -/
  | trel (c : Ctl) (a : Opnd)
  /-- TSTAT (R269). -/
  | tstat (c : Ctl) (d : Opnd) (a : Opnd)
  /-- TWAIT (R269). -/
  | twait (c : Ctl) (a : Opnd)
  /-- CPY (R273). -/
  | cpy (c : Ctl) (mq : BitVec 2) (d : Opnd) (a : Opnd) (b : Opnd)
  /-- JPOLL (R275). -/
  | jpoll (c : Ctl) (d : Opnd) (a : Opnd)
  /-- JWAIT (R275). -/
  | jwait (c : Ctl) (d : Opnd) (a : Opnd)
  /-- QFENCE (R276). -/
  | qfence (c : Ctl) (d : Opnd) (a : Opnd)
  /-- TSUB (R274). -/
  | tsub (c : Ctl) (d : Opnd) (a : Opnd) (b : Opnd)
  /-- PUT (R439). -/
  | put (c : Ctl) (d : Opnd) (a : Opnd)
  /-- PUTS (R439). -/
  | puts (c : Ctl) (d : Opnd) (a : Opnd)
  /-- GET (R439). -/
  | get (c : Ctl) (d : Opnd) (a : Opnd)
  /-- CWAIT (R441). -/
  | cwait (c : Ctl) (d : Opnd) (a : Opnd) (b : Opnd)
  /-- CREAD (R441). -/
  | cread (c : Ctl) (d : Opnd) (a : Opnd)
  /-- CADD (R441). -/
  | cadd (c : Ctl) (d : Opnd) (a : Opnd) (b : Opnd)
  /-- TRAP (R243). -/
  | trap (c : Ctl) (a : Opnd)
  /-- BRK (R243). -/
  | brk (c : Ctl)
  /-- XRD (R244). -/
  | xrd (c : Ctl) (d : Opnd) (a : Opnd)
  /-- XWR (R244). -/
  | xwr (c : Ctl) (d : Opnd) (a : Opnd)
  /-- CYC (R245). -/
  | cyc (c : Ctl) (d : Opnd)
  /-- CYC_DEADLINE (R245). -/
  | cycDeadline (c : Ctl) (d : Opnd) (a : Opnd)
  /-- IDLE (R246). -/
  | idle (c : Ctl) (a : Opnd)
  /-- PATROL_SCRUB (R228). The scrubber reads and corrects a file entry or core-store word in an idle bank cycle. -/
  | patrolScrub (site : ErrSite)
  /-- PAGE_ENTRY_CHANGE (R326). A page entry is written, caches drop it, affected buffer entries publish, and walks restart. -/
  | pageEntryChange (change : PageChange)
  /-- PAGE_MIGRATE (R327). A page is moved between HBM and the cellar under the MG flag. -/
  | pageMigrate (ctag vpn : Nat) (last : Bool) (tier : BitVec 2) (frame : BitVec 47)
  /-- GROUP_PLACE (R396). The scheduler places one released group whole and begins its start fills. -/
  | groupPlace (l pos lead : Nat) (places : List Place)
  /-- QKICK (R390). A write to QKICK is taken if it advances the index within range, otherwise counted as ignored. -/
  | qkick (queue : Nat) (value : BitVec 32)
  /-- QBASE (R388). A write to QBASE, allowed only while the queue is disabled, resets the queue's indices. -/
  | qbase (queue : Nat) (value : BitVec 64)
  /-- QCTL (R388). A write to QCTL sets size, host flag and job, or enables or disables the queue. -/
  | qctl (queue : Nat) (value : BitVec 64)
  /-- CAP (R415). A write to a die's CAP sets the cluster activity budget from the next window. -/
  | cap (die : Nat) (value : BitVec 12)
  /-- REGISTER_WRITE (R9). A write to a register without a row of its own, such as a W1C count. -/
  | registerWrite (place : RegPlace) (offset : Nat) (value : BitVec 64)
  /-- TEMP_UPDATE (R417). A die's temperature crosses 100, 95 or 110 degrees and HOT, ECAP or a thermal halt follow. -/
  | tempUpdate (die : Nat) (temp : BitVec 8)
  /-- RESTORE (R403). An admitted restore reads the context back into the target clusters. -/
  | restore (pid : Nat) (targets : List Nat)
  /-- PARTITION_ASSIGN (R414). The root monitor assigns or removes a free cluster, resetting its stores and vault. Numbers: cluster, and the
  partition it is assigned to. -/
  | partitionAssign
  /-- CONTEXT_TAG_RESIDE (R226). A context tag is made resident on a core, evicting an unbound one if needed. -/
  | contextTagReside (core : Nat) (ctag : BitVec 16) (evict : Option (BitVec 16))
  /-- WINDOW_REGISTER (R436). The root monitor registers a fabric window and zeroes its counters. -/
  | windowRegister (ctag n : Nat) (win : WindowEntry) (onFabricPlace : Bool)
  /-- BOOT (R420). The boot chain checks the root monitor and policy firmware images and extends the measurement. -/
  | boot (romVersion monitor policy : BootImage)
  /-- DOE_ATTESTATION (R433). An attestation request returns a signed report for the function's partition. -/
  | doeAttestation (fnum : Nat) (nonce : List (BitVec 8))
  /-- DOE_IDE_KM (R433). An IDE_KM object exchanges IDE stream keys. -/
  | doeIdeKm (fnum : Nat) (object : List (BitVec 8))
  /-- BAR2_WRITE (R432). A host write through BAR2 is performed at its home, or dropped and counted in HERR. -/
  | bar2Write (fnum offset : Nat) (bytes : List (BitVec 8))
  /-- LINK_FLIT_RECEIVE (R434). A Claom Link flit is acknowledged, or a CRC failure or gap draws a negative acknowledgement. -/
  | linkFlitReceive (port : Nat) (flit : LinkFlit)
  /-- FABRIC_PUT_ARRIVAL (R439). Put bytes are written at their homes at the window's module, then RC and TC are raised and an acknowledgement sent. -/
  | fabricPutArrival (msg : FabricMsg)
  /-- FABRIC_GET_ARRIVAL (R439). A get request reads the window bytes at their homes and returns them. -/
  | fabricGetArrival (msg : FabricMsg)
  /-- FABRIC_GET_DATA (R439). Returned get data are written locally at their homes and LC is raised. -/
  | fabricGetData (op : Nat) (bytes : List (BitVec 8))
  /-- DESCRIPTOR_CREATE (R72). The root monitor creates or changes a segment descriptor in a context's table, refusing those that break its limits. -/
  | descriptorCreate (ctag index : Nat) (seg : Segment)
  /-- ROUTE_TABLE_WRITE (R435). The root monitor writes a Claom Link route table entry, whose empty mask makes operations to that module fail. -/
  | routeTableWrite (mod : Nat) (mask : BitVec 16)
  /-- SPAN_FREEZE_END (R303). The span takes up issue again at cycle s + kL in the rotation's phase. Numbers: l, g. -/
  | spanFreezeEnd
  /-- PUBLICATION_COMPLETE (R332). Every entry of a publication has been performed at its home, releasing the event that waited on it. Numbers: id. -/
  | publicationComplete
  /-- REMOTE_ACCESS_REPLY (R137). The network reply of a remote load or atomic arrives and its result is written. Numbers: id. -/
  | remoteAccessReply
  /-- QLD_DATA_ARRIVAL (R231). The data of a qld arrive and make its reserved entry present. Numbers: id. -/
  | qldDataArrival
  /-- DEPOSIT_LANDING (R223). A register deposit lands at its target slot and is written, kept in a saved context, or dropped. Numbers: srcCore, srcSlot, id. -/
  | depositLanding
  /-- IDLE_EXPIRY (R246). The cycle count of an idle expires and the thread becomes READY. Numbers: core, slot. -/
  | idleExpiry
  /-- VECTOR_UNIT_GATE (R22). After 16 cycles with every slot in deep idle the vector unit is gated. Numbers: core. -/
  | vectorUnitGate
  /-- VECTOR_UNIT_WAKE (R22). The 8-cycle wake of a gated vector unit ends and the waiting lane instruction may issue. Numbers: core. -/
  | vectorUnitWake
  /-- CORE_GATE (R227). An empty core gates after 64 idle cycles. Numbers: core. -/
  | coreGate
  /-- CORE_WAKE_COMPLETE (R227). A core in WAKING becomes ACTIVE 24 cycles later. Numbers: core. -/
  | coreWakeComplete
  /-- CORE_RESET (R373). A core is reset, bounces its held packets and discards its arrivals and duplicate table. Numbers: core. -/
  | coreReset
  /-- HELD_WRITE_PERFORM (R253). A write held at its home by a tile not READY is performed once the tile is READY. Numbers: id. -/
  | heldWritePerform
  /-- WAIT_ARRIVAL (R297). A member's wait arrives at the lead marver and is bound to the oldest entry containing it, or left pending. Numbers: l, g, member. -/
  | waitArrival
  /-- MARVER_FIRE (R297). An entry whose members are all bound or exited fires and schedules its release. Numbers: l, g, entry. -/
  | marverFire
  /-- BARRIER_RELEASE (R297). In the release cycle the fired entry's members become READY and their cores refresh. Numbers: l, g, seq. -/
  | barrierRelease
  /-- GAFFER_STEP (R293). The gaffer processes one step of the record at GPC. Numbers: l, g. -/
  | gafferStep
  /-- GAFFER_RECORD_READ (R295). A prefetch read of a barrier record returns into PFB. Numbers: l, g, idx. -/
  | gafferRecordRead
  /-- WALK_PROBE (R320). A page-table probe at the home core returns a hit, a miss at a smaller size, or a fault. Numbers: cluster, miss. -/
  | walkProbe
  /-- PAGER_COMPLETE (R323). The pager completes a future and each waiting thread is restored and reissues. Numbers: ctag, page. -/
  | pagerComplete
  /-- PAGER_DECLINE (R324). The pager declines a fault and every waiter traps with E_PAGE. Numbers: ctag, page, hostRefused. -/
  | pagerDecline
  /-- PACKET_HEAD_ARRIVAL (R372). A packet's head flit arrives and is dropped as a duplicate, refused, or held. Numbers: pid. -/
  | packetHeadArrival
  /-- PACKET_END_ARRIVAL (R372). A packet's closing flit arrives and the destination replies ACCEPT or ADMIT. Numbers: pid. -/
  | packetEndArrival
  /-- ABORT_FLIT_ARRIVAL (R242). An abort flit arrives and the destination discards the packet. Numbers: pid. -/
  | abortFlitArrival
  /-- PARTIAL_PACKET_TIMEOUT (R372). A packet with a skipped flit or no END within 4,096 cycles is discarded silently. Numbers: core, src, seq, headAt. -/
  | partialPacketTimeout
  /-- PACKET_ADMIT (R375). An arrival is admitted to the lowest admissible slot and its thread is created. Numbers: core. -/
  | packetAdmit
  /-- SPILL_MOVE (R376). The oldest spilled entry reaches the arrival queue's tail 16 cycles after room appears. Numbers: core. -/
  | spillMove
  /-- REPLY_ACCEPT (R371). An ACCEPT marks the retained packet ACCEPTED and stops resends. Numbers: src, seq, dest. -/
  | replyAccept
  /-- REPLY_ADMIT (R371). An ADMIT frees the retention entry and the source answers FREE. Numbers: src, seq, dest, value, bad. -/
  | replyAdmit
  /-- REPLY_REFUSE (R371). A REFUSE schedules a resend 4,096 cycles later. Numbers: src, seq, dest. -/
  | replyRefuse
  /-- REPLY_BOUNCE (R371). A BOUNCE schedules a resend, or after the third gives the packet up. Numbers: src, seq, dest. -/
  | replyBounce
  /-- REPLY_FREE (R372). A FREE removes the ADMITTED entry from the duplicate table. Numbers: src, seq, dest. -/
  | replyFree
  /-- RETENTION_RESEND_TIMEOUT (R371). A retained packet with no reply for 4,096 cycles is resent, or after 16 sends treated as bounced. Numbers: src, seq, dest, tsend. -/
  | retentionResendTimeout
  /-- ADMIT_RESEND (R372). An ADMIT is resent every 4,096 cycles until FREE arrives. Numbers: core, src, seq. -/
  | admitResend
  /-- FLIT_AGE_DISCARD (R370). A router discards a flit that has spent over 1,024 cycles in the network. Numbers: pid, flit. -/
  | flitAgeDiscard
  /-- LINK_FLIT_CRC_FAIL (R370). A flit failing its link CRC is replayed by the link. Numbers: pid, flit. -/
  | linkFlitCrcFail
  /-- REMOTE_FE_REQUEST (R380). A remote full-empty request at the owner is performed, parked, or answered RETRY. Numbers: pid. -/
  | remoteFeRequest
  /-- FE_PARK_TIMEOUT (R380). A parked remote full-empty operation is removed after 4,096 cycles with RETRY. Numbers: core, src, seq. -/
  | feParkTimeout
  /-- REPLY_RETRY (R380). On RETRY the requester traps with E_FERETRY or spends budget and schedules a new request. Numbers: src, seq, reason. -/
  | replyRetry
  /-- FE_RETRY_RESEND (R380). A retried full-empty request leaves 64 cycles after the RETRY. Numbers: core, slot. -/
  | feRetryResend
  /-- MATRIX_JOB_START (R259). The engine starts the head job of the next eligible matrix queue in round robin. Numbers: cluster. -/
  | matrixJobStart
  /-- MATRIX_JOB_END (R278). At s + d the job's operand tiles return to READY, its destination becomes READY and the engine frees. Numbers: cluster. -/
  | matrixJobEnd
  /-- MATRIX_JOB_COMPLETE (R278). At s + d + 8 the job completes, its report is stored and the accumulator lock drops. Numbers: cluster, queue, seq. -/
  | matrixJobComplete
  /-- COPY_JOB_START (R259). The copy unit starts the head job of a copy queue. Numbers: cluster, queue. -/
  | copyJobStart
  /-- BYTES_LAND (R252). Bytes from a copy, mrd or streamer land in a FILLING tile and raise ARRIVED. Numbers: cluster, unit, row, seq. -/
  | bytesLand
  /-- COPY_JOB_COMPLETE (R264). A copy completes once every byte has landed or every write is performed. Numbers: cluster, queue. -/
  | copyJobComplete
  /-- QFENCE_COMPLETE (R276). The fence entries complete together once every earlier entry of every named queue is complete. Numbers: cluster, fence. -/
  | qfenceComplete
  /-- SUBSCRIPTION_TILE_START (R266). A loader's streamer begins filling a ring slot with its next tile. Numbers: cluster, sub, slot. -/
  | subscriptionTileStart
  /-- STORER_WRITEBACK_COMPLETE (R266). A storer slot's write-back ends and the slot becomes READY for its next tile. Numbers: cluster, sub, slot. -/
  | storerWritebackComplete
  /-- PACKET_LAUNCH (R391). The hub reads and checks a launch packet and makes its launch ready. Numbers: queue. -/
  | packetLaunch
  /-- PACKET_GRAPH (R393). The hub starts a graph of launches under its edges. Numbers: queue. -/
  | packetGraph
  /-- PACKET_WAIT (R393). The hub starts polling a word until it reaches a value. Numbers: queue. -/
  | packetWait
  /-- WAIT_PACKET_POLL (R393). A further read of the waited word is issued 1,024 cycles after the last. Numbers: queue, index. -/
  | waitPacketPoll
  /-- PACKET_SIGNAL (R393). Once earlier packets are complete the hub writes a value as a release. Numbers: queue. -/
  | packetSignal
  /-- PACKET_CANCEL (R393). The hub cancels a launch or graph and completes at once. Numbers: queue. -/
  | packetCancel
  /-- SCOREBOARD_ENTER (R400). Each cycle the next group in release order enters the window as WAITING. Numbers: l. -/
  | scoreboardEnter
  /-- GROUP_RELEASE (R400). A waiting group whose predecessors have all retired becomes RELEASED. Numbers: l, pos. -/
  | groupRelease
  /-- PRIORITY_AGE (R397). Each full millisecond ready and unplaced lowers a launch's effective priority number by one. Numbers: l. -/
  | priorityAge
  /-- GROUP_START (R217). The start fills complete and the group's threads first issue, refreshing their cores. Numbers: l, g. -/
  | groupStart
  /-- GROUP_RETIRE (R401). A group whose threads, jobs and packets are done publishes, ends its tiles and is recorded RETIRED. Numbers: l, g. -/
  | groupRetire
  /-- GROUP_CANCEL (R387). A group is cancelled: threads freed, jobs removed, barrier state discarded. Numbers: l, g. -/
  | groupCancel
  /-- LAUNCH_COMPLETE (R393). A launch completes and its completion record and signal are written. Numbers: l. -/
  | launchComplete
  /-- JCTL (R387). A JCTL write cancels a job, disabling its queues and cancelling its incomplete packets. Numbers: job. -/
  | jctl
  /-- POWER_WINDOW (R416). A new 256-cycle window begins and each cluster's engine allowance is set from V(n - 1). -/
  | powerWindow
  /-- THERMAL_EVENT_CLEAR (R417). The policy firmware clears the thermal event and packet starts resume. -/
  | thermalEventClear
  /-- HALT_REQUEST (R403). The policy firmware asks to halt a launch or a partition. Numbers: pid, launch. -/
  | haltRequest
  /-- HALT_TAKE_EFFECT (R403). In the first cycle with no open packet, unaccepted packet or reserved queue entry, the cores stop and their context is saved. Numbers: pid. -/
  | haltTakeEffect
  /-- HALT_PACKET_TIMEOUT (R242). 4,096 cycles after a halt request, open packets are aborted and their threads trap with E_LOST. Numbers: pid, requestedAt. -/
  | haltPacketTimeout
  /-- RESTORE_ISSUE_RESUME (R305). Issue resumes in cycle h' congruent to h modulo 64. Numbers: pid. -/
  | restoreIssueResume
  /-- LAZY_REGION_SAVE (R405). When another partition is placed on a cluster, the halted partition's dirty regions are coded into its save area. Numbers: cluster. -/
  | lazyRegionSave
  /-- SCHEDULER_CORE_ERROR (R423). The active scheduler core fails and the standby stops it, replays the journal and rescans kicks. -/
  | schedulerCoreError
  /-- STANDBY_FAILURE (R423). The standby also fails; no further packet starts and the host is told. -/
  | standbyFailure
  /-- DOE_DISCOVERY (R433). A DOE discovery request lists the supported object types. Numbers: fnum. -/
  | doeDiscovery
  /-- BAR2_READ (R432). A host read through BAR2 is translated and checked, or completes with Completer Abort. Numbers: fnum, offset, n. -/
  | bar2Read
  /-- ATS_INVALIDATION (R428). An ATS invalidation completes once every access using the translation has completed at the host. Numbers: fnum, iova. -/
  | atsInvalidation
  /-- LINK_REPLAY_TIMEOUT (R434). The sender replays from the oldest unacknowledged flit after 4,096 network cycles. Numbers: port, seq. -/
  | linkReplayTimeout
  /-- FABRIC_ACK (R439). An acknowledgement of a put raises LC at the issuing module. Numbers: op. -/
  | fabricAck
  /-- FABRIC_OP_TIMEOUT (R440). An operation unacknowledged for 2^24 cycles fails and ERR rises. Numbers: op. -/
  | fabricOpTimeout
  /-- ARRIVAL_AT_HOME (R137). A remote access, atomic or published store-buffer entry arrives at the home of its address and is performed there. Numbers: id. -/
  | arrivalAtHome
  /-- COPY_LAST_TILE_READ (R264). A direction 1 copy makes its last read of its tile, which returns the tile from DRAINING to READY. Numbers: cluster, unit, seq. -/
  | copyLastTileRead
  /-- CODE_BUFFER_LOAD_COMPLETE (R282). Loading a kernel into a cluster's code buffer completes, letting arrivals that wait on the kernel be admitted. Numbers: cluster, l. -/
  | codeBufferLoadComplete
  /-- ROUTER_PARITY_DISCARD (R370). A router discards a buffered flit whose parity check fails. Numbers: pid, flit. -/
  | routerParityDiscard
  /-- CORE_RESET_COMPLETE (R373). A core's reset completes; it stops bouncing arrivals and acts on replies held during the reset. Numbers: core. -/
  | coreResetComplete
  deriving DecidableEq, Repr

end Sys2Proof
end

