-- ==== Sys2Proof/WellFormed.lean ====
section
/-! DEFINITION. Which terms of `Instr` are instructions of the Haltor: the operand classes each entry admits in each
field (R14, R16), the variants its `FN` values assign (R55 to R63) and its use of `MOD` (R23, R25, R26, R38). -/

namespace Sys2Proof

/-- A kind of operand an entry may admit in a field. -/
inductive Cls where
  | g
  /-- an even general register (R139, R144) -/
  | ge
  /-- q0 to q11, q12 to q15, and any queue (R16, R229) -/
  | qn | qw | qa
  | imm
  /-- an immediate from `lo` to `hi` (R203) -/
  | immSet (lo hi : Nat)
  /-- immediate 3 or 7, the tag of `mzero` -/
  | imm37
  | p | m | k | v | s
  /-- a special register, and one that `xwr` may name (R76) -/
  | x | xrw
  | acc | bg
  deriving DecidableEq, Repr

/-- What an entry allows in `MOD`[6:4]. -/
inductive MUse where
  | zero | low1 | low2 | any
  deriving DecidableEq, Repr

/-- What an instruction's entry allows. An empty list of classes marks an unused field (R16). -/
structure Shape where
  rnd : Bool := false
  sat : Bool := false
  wi : Bool := false
  m : MUse := .zero
  d : List Cls := []
  a : List Cls := []
  b : List Cls := []
  deriving DecidableEq, Repr

/-- Position *int* with an immediate (R116). -/
def cInt : List Cls := [.g, .qn, .imm]
/-- Position *reg* (R116). -/
def cReg : List Cls := [.g, .qn]
/-- Position V (R148). -/
def cV : List Cls := [.v, .qw]
/-- Position V or S (R148). -/
def cVS : List Cls := [.v, .qw, .g, .qn, .imm]
/-- Base and offset of a memory operand (R38). -/
def cMem : List Cls := [.g, .imm]

namespace Opnd

def isWide (o : Opnd) : Bool := o matches .wide _
def isPred (o : Opnd) : Bool := o matches .p _ | .m _
def isBg (o : Opnd) : Bool := o matches .bg _

/-- Whether an operand is of a kind. -/
def fits : Opnd → Cls → Bool
  | .g _, .g => true
  | .g n, .ge => n.val % 2 == 0
  | .v _, .v => true
  | .k _, .k => true
  | .p _, .p => true
  | .m _, .m => true
  | .q n, .qn => decide (n.val < 12)
  | .q n, .qw => decide (12 ≤ n.val)
  | .q _, .qa => true
  | .s _, .s => true
  | .x _, .x => true
  | .x r, .xrw => r == .status || r == .npth || r == .ferl
  | .acc _, .acc => true
  | .bg _, .bg => true
  | .imm _, .imm => true
  | .imm z, .immSet lo hi => decide (lo ≤ z.toNat) && decide (z.toNat ≤ hi)
  | .imm z, .imm37 => z == 3 || z == 7
  | _, _ => false

/-- A vector value: a vector register or a wide queue (R148). -/
def isVec (o : Opnd) : Bool := o.fits .v || o.fits .qw

/-- Whether a field that admits `cs` may hold the operand; an unused field holds none. -/
def admitted (o : Opnd) (cs : List Cls) : Bool :=
  if cs = [] then o == .none else cs.any o.fits

end Opnd

/-- Values `sendr` admits for a target register (R238). -/
def sendrValue : Opnd → List Cls
  | .g _ => cInt
  | .v _ => cV
  | .k _ => [.k]
  | .p _ => [.p, .g, .qn, .imm]
  | .m _ => [.m]
  | _ => cInt

namespace MlogFn

/-- The `.tst` functions, which write a predicate (R205). -/
def isTst (f : MlogFn) : Bool := [MlogFn.tstFalse, .tstTrue, .tstUnk].contains f

/-- The functions that leave B unused (R205). -/
def unary (f : MlogFn) : Bool := f == .not || f.isTst

end MlogFn

/-- Conditions 0 to 5, assigned in `cmp` and `kcmp` (R56). -/
def Cond.ordered (c : Cond) : Bool := c != .uo && c != .ord

namespace Instr

/-- Guard and hints; none for a machine event. -/
def ctl : Instr → Option Ctl
  | .nop c .. | .mov c .. | .movi c .. | .add c .. | .sub c .. | .mul c .. | .mulh c .. | .div c .. | .rem c ..
  | .min c .. | .max c .. | .abs c .. | .and c .. | .or c .. | .xor c .. | .andn c .. | .shl c .. | .shr c ..
  | .sar c .. | .rot c .. | .clz c .. | .ctz c .. | .popc c .. | .bext c .. | .bins c .. | .ext c .. | .sel c ..
  | .cmp c .. | .plog c .. | .pmov c .. | .lea c .. | .fadd c .. | .fsub c .. | .fmul c .. | .fma c .. | .fdiv c ..
  | .fsqrt c .. | .fmin c .. | .fmax c .. | .fabs c .. | .fneg c .. | .fcmp c .. | .fcvt c .. | .fclass c ..
  | .frnd c .. | .br c .. | .brr c .. | .call c .. | .ret c .. | .loop c .. | .exit c .. | .spawn c .. | .join c ..
  | .slot c .. | .ld c .. | .st c .. | .ldfe c .. | .stfe c .. | .ldfp c .. | .chk c .. | .lseg c .. | .stag c ..
  | .ltag c .. | .aop c .. | .acas c .. | .ald c .. | .ast c .. | .pub c .. | .refresh c .. | .phase c .. | .pref c ..
  | .vadd c .. | .vsub c .. | .vmul c .. | .vfma c .. | .vmin c .. | .vmax c .. | .vabs c .. | .vneg c .. | .vrcp c ..
  | .vrsqrt c .. | .vexp2 c .. | .vlog2 c .. | .vdiv c .. | .vsqrt c .. | .vand c .. | .vor c .. | .vxor c ..
  | .vshl c .. | .vshr c .. | .vcmp c .. | .vsel c .. | .vcvt c .. | .vbfp c .. | .vunbfp c .. | .vperm c ..
  | .vbcast c .. | .vext c .. | .vins c .. | .vred c .. | .vscan c .. | .vdot c .. | .vld c .. | .vst c .. | .vldx c ..
  | .vstx c .. | .vtag c .. | .vgtag c .. | .vmov c .. | .vclamp c .. | .kaddF c .. | .kaddB c .. | .ksubF c ..
  | .ksubB c .. | .kmulF c .. | .kmulB c .. | .kdivF c .. | .kdivB c .. | .kfmaF c .. | .kfmaB c .. | .knegF c ..
  | .knegB c .. | .kabsF c .. | .kabsB c .. | .ksqrF c .. | .ksqrB c .. | .ksqrtF c .. | .ksqrtB c .. | .kexpF c ..
  | .kexpB c .. | .klogF c .. | .klogB c .. | .kreluF c .. | .kreluB c .. | .kmaxF c .. | .kmaxB c .. | .kminF c ..
  | .kminB c .. | .kscaleF c .. | .kscaleB c .. | .kmacF c .. | .kmacB c .. | .kcap c .. | .khull c .. | .kmk c ..
  | .klo c .. | .khi c .. | .kmid c .. | .kwid c .. | .ksplit c .. | .kcmpF c .. | .kcmpB c .. | .kin c .. | .kstat c ..
  | .kld c .. | .kst c .. | .kmov c .. | .kset c .. | .mlog c .. | .qld c .. | .qst c .. | .qcnt c .. | .qclr c ..
  | .borrow c .. | .bret c .. | .xmov c .. | .sendr c .. | .sendw c .. | .send c .. | .mcast c .. | .migrate c ..
  | .wait c .. | .mma c .. | .mmac c .. | .mzero c .. | .mrd c .. | .mwr c .. | .tdef c .. | .trel c .. | .tstat c ..
  | .twait c .. | .cpy c .. | .jpoll c .. | .jwait c .. | .qfence c .. | .tsub c .. | .put c .. | .puts c .. | .get c ..
  | .cwait c .. | .cread c .. | .cadd c .. | .trap c .. | .brk c .. | .xrd c .. | .xwr c .. | .cyc c ..
  | .cycDeadline c .. | .idle c .. => some c
  | .patrolScrub .. | .pageEntryChange .. | .pageMigrate .. | .groupPlace .. | .qkick .. | .qbase .. | .qctl ..
  | .cap .. | .registerWrite .. | .tempUpdate .. | .restore .. | .partitionAssign | .contextTagReside .. | .windowRegister .. | .boot ..
  | .doeAttestation .. | .doeIdeKm .. | .bar2Write .. | .linkFlitReceive .. | .fabricPutArrival ..
  | .fabricGetArrival .. | .fabricGetData .. | .descriptorCreate .. | .routeTableWrite .. | .spanFreezeEnd
  | .publicationComplete | .remoteAccessReply | .qldDataArrival | .depositLanding | .idleExpiry | .vectorUnitGate
  | .vectorUnitWake | .coreGate | .coreWakeComplete | .coreReset | .heldWritePerform | .waitArrival | .marverFire
  | .barrierRelease | .gafferStep | .gafferRecordRead | .walkProbe | .pagerComplete | .pagerDecline | .packetHeadArrival
  | .packetEndArrival | .abortFlitArrival | .partialPacketTimeout | .packetAdmit | .spillMove | .replyAccept
  | .replyAdmit | .replyRefuse | .replyBounce | .replyFree | .retentionResendTimeout | .admitResend | .flitAgeDiscard
  | .linkFlitCrcFail | .remoteFeRequest | .feParkTimeout | .replyRetry | .feRetryResend | .matrixJobStart
  | .matrixJobEnd | .matrixJobComplete | .copyJobStart | .bytesLand | .copyJobComplete | .qfenceComplete
  | .subscriptionTileStart | .storerWritebackComplete | .packetLaunch | .packetGraph | .packetWait | .waitPacketPoll
  | .packetSignal | .packetCancel | .scoreboardEnter | .groupRelease | .priorityAge | .groupStart | .groupRetire
  | .groupCancel | .launchComplete | .jctl | .powerWindow | .thermalEventClear | .haltRequest | .haltTakeEffect
  | .haltPacketTimeout | .restoreIssueResume | .lazyRegionSave | .schedulerCoreError
  | .standbyFailure | .doeDiscovery | .bar2Read | .atsInvalidation | .linkReplayTimeout | .fabricAck | .fabricOpTimeout
  | .arrivalAtHome | .copyLastTileRead | .codeBufferLoadComplete | .routerParityDiscard | .coreResetComplete => none

/-- The operand fields D, A, B of a thread instruction. -/
def operands : Instr → Option (Opnd × Opnd × Opnd)
  | .nop _ => some (.none, .none, .none)
  | .mov _ _ _ d a => some (d, a, .none)
  | .movi _ _ _ d b => some (d, .none, b)
  | .add _ _ _ _ d a b => some (d, a, b)
  | .sub _ _ _ _ d a b => some (d, a, b)
  | .mul _ _ _ _ d a b => some (d, a, b)
  | .mulh _ _ _ d a b => some (d, a, b)
  | .div _ _ _ d a b => some (d, a, b)
  | .rem _ _ _ d a b => some (d, a, b)
  | .min _ _ _ d a b => some (d, a, b)
  | .max _ _ _ d a b => some (d, a, b)
  | .abs _ _ _ d a => some (d, a, .none)
  | .and _ d a b => some (d, a, b)
  | .or _ d a b => some (d, a, b)
  | .xor _ d a b => some (d, a, b)
  | .andn _ d a b => some (d, a, b)
  | .shl _ _ d a b => some (d, a, b)
  | .shr _ _ d a b => some (d, a, b)
  | .sar _ _ d a b => some (d, a, b)
  | .rot _ _ d a b => some (d, a, b)
  | .clz _ _ d a => some (d, a, .none)
  | .ctz _ _ d a => some (d, a, .none)
  | .popc _ _ d a => some (d, a, .none)
  | .bext _ d a b => some (d, a, b)
  | .bins _ d a b => some (d, a, b)
  | .ext _ _ _ d a b => some (d, a, b)
  | .sel _ _ d a b => some (d, a, b)
  | .cmp _ _ _ _ d a b => some (d, a, b)
  | .plog _ _ d a b => some (d, a, b)
  | .pmov _ d a => some (d, a, .none)
  | .lea _ _ d a b => some (d, a, b)
  | .fadd _ _ _ d a b => some (d, a, b)
  | .fsub _ _ _ d a b => some (d, a, b)
  | .fmul _ _ _ d a b => some (d, a, b)
  | .fma _ _ _ d a b => some (d, a, b)
  | .fdiv _ _ _ d a b => some (d, a, b)
  | .fsqrt _ _ _ d a => some (d, a, .none)
  | .fmin _ _ d a b => some (d, a, b)
  | .fmax _ _ d a b => some (d, a, b)
  | .fabs _ _ d a => some (d, a, .none)
  | .fneg _ _ d a => some (d, a, .none)
  | .fcmp _ _ _ d a b => some (d, a, b)
  | .fcvt _ _ _ _ d a => some (d, a, .none)
  | .fclass _ _ d a => some (d, a, .none)
  | .frnd _ _ _ d a => some (d, a, .none)
  | .br _ b => some (.none, .none, b)
  | .brr _ a => some (.none, a, .none)
  | .call _ d b => some (d, .none, b)
  | .ret _ a => some (.none, a, .none)
  | .loop _ d b => some (d, .none, b)
  | .exit _ => some (.none, .none, .none)
  | .spawn _ _ d a b => some (d, a, b)
  | .join _ a => some (.none, a, .none)
  | .slot _ d => some (d, .none, .none)
  | .ld _ _ _ d r => some (d, r.base, r.off)
  | .st _ _ d r => some (d, r.base, r.off)
  | .ldfe _ d r => some (d, r.base, r.off)
  | .stfe _ d r => some (d, r.base, r.off)
  | .ldfp _ d r => some (d, r.base, r.off)
  | .chk _ d r => some (d, r.base, r.off)
  | .lseg _ d a => some (d, a, .none)
  | .stag _ d r => some (d, r.base, r.off)
  | .ltag _ d r => some (d, r.base, r.off)
  | .aop _ _ _ _ d r => some (d, r.base, r.off)
  | .acas _ _ _ d r => some (d, r.base, r.off)
  | .ald _ _ _ d r => some (d, r.base, r.off)
  | .ast _ _ _ d r => some (d, r.base, r.off)
  | .pub _ => some (.none, .none, .none)
  | .refresh _ => some (.none, .none, .none)
  | .phase _ => some (.none, .none, .none)
  | .pref _ r => some (.none, r.base, r.off)
  | .vadd _ _ _ d a b => some (d, a, b)
  | .vsub _ _ _ d a b => some (d, a, b)
  | .vmul _ _ _ d a b => some (d, a, b)
  | .vfma _ _ _ d a b => some (d, a, b)
  | .vmin _ d a b => some (d, a, b)
  | .vmax _ d a b => some (d, a, b)
  | .vabs _ _ d a => some (d, a, .none)
  | .vneg _ _ d a => some (d, a, .none)
  | .vrcp _ _ _ d a => some (d, a, .none)
  | .vrsqrt _ _ _ d a => some (d, a, .none)
  | .vexp2 _ _ _ d a => some (d, a, .none)
  | .vlog2 _ _ _ d a => some (d, a, .none)
  | .vdiv _ _ _ d a b => some (d, a, b)
  | .vsqrt _ _ _ d a => some (d, a, .none)
  | .vand _ d a b => some (d, a, b)
  | .vor _ d a b => some (d, a, b)
  | .vxor _ d a b => some (d, a, b)
  | .vshl _ d a b => some (d, a, b)
  | .vshr _ _ d a b => some (d, a, b)
  | .vcmp _ _ d a b => some (d, a, b)
  | .vsel _ _ d a b => some (d, a, b)
  | .vcvt _ _ _ _ _ d a => some (d, a, .none)
  | .vbfp _ _ _ _ _ d a => some (d, a, .none)
  | .vunbfp _ _ _ _ _ d a => some (d, a, .none)
  | .vperm _ d a b => some (d, a, b)
  | .vbcast _ d a b => some (d, a, b)
  | .vext _ d a b => some (d, a, b)
  | .vins _ d a b => some (d, a, b)
  | .vred _ _ _ _ d a => some (d, a, .none)
  | .vscan _ _ _ _ d a => some (d, a, .none)
  | .vdot _ _ _ d a b => some (d, a, b)
  | .vld _ _ d r => some (d, r.base, r.off)
  | .vst _ d r => some (d, r.base, r.off)
  | .vldx _ _ d r => some (d, r.base, r.off)
  | .vstx _ d r => some (d, r.base, r.off)
  | .vtag _ _ d a => some (d, a, .none)
  | .vgtag _ d a => some (d, a, .none)
  | .vmov _ d a => some (d, a, .none)
  | .vclamp _ d a b => some (d, a, b)
  | .kaddF _ d a b => some (d, a, b)
  | .kaddB _ d a b => some (d, a, b)
  | .ksubF _ d a b => some (d, a, b)
  | .ksubB _ d a b => some (d, a, b)
  | .kmulF _ d a b => some (d, a, b)
  | .kmulB _ d a b => some (d, a, b)
  | .kdivF _ d a b => some (d, a, b)
  | .kdivB _ d a b => some (d, a, b)
  | .kfmaF _ d a b => some (d, a, b)
  | .kfmaB _ d a b => some (d, a, b)
  | .knegF _ d a => some (d, a, .none)
  | .knegB _ d a => some (d, a, .none)
  | .kabsF _ d a => some (d, a, .none)
  | .kabsB _ d a => some (d, a, .none)
  | .ksqrF _ d a => some (d, a, .none)
  | .ksqrB _ d a => some (d, a, .none)
  | .ksqrtF _ d a => some (d, a, .none)
  | .ksqrtB _ d a => some (d, a, .none)
  | .kexpF _ d a => some (d, a, .none)
  | .kexpB _ d a => some (d, a, .none)
  | .klogF _ d a => some (d, a, .none)
  | .klogB _ d a => some (d, a, .none)
  | .kreluF _ d a => some (d, a, .none)
  | .kreluB _ d a => some (d, a, .none)
  | .kmaxF _ d a b => some (d, a, b)
  | .kmaxB _ d a b => some (d, a, b)
  | .kminF _ d a b => some (d, a, b)
  | .kminB _ d a b => some (d, a, b)
  | .kscaleF _ d a b => some (d, a, b)
  | .kscaleB _ d a b => some (d, a, b)
  | .kmacF _ d a b => some (d, a, b)
  | .kmacB _ d a b => some (d, a, b)
  | .kcap _ d a b => some (d, a, b)
  | .khull _ d a b => some (d, a, b)
  | .kmk _ _ d a b => some (d, a, b)
  | .klo _ _ d a => some (d, a, .none)
  | .khi _ _ d a => some (d, a, .none)
  | .kmid _ _ d a => some (d, a, .none)
  | .kwid _ _ d a => some (d, a, .none)
  | .ksplit _ d a => some (d, a, .none)
  | .kcmpF _ _ d a b => some (d, a, b)
  | .kcmpB _ _ d a b => some (d, a, b)
  | .kin _ d a b => some (d, a, b)
  | .kstat _ d a => some (d, a, .none)
  | .kld _ d r => some (d, r.base, r.off)
  | .kst _ d r => some (d, r.base, r.off)
  | .kmov _ d a => some (d, a, .none)
  | .kset _ d a b => some (d, a, b)
  | .mlog _ _ d a b => some (d, a, b)
  | .qld _ d r => some (d, r.base, r.off)
  | .qst _ d r => some (d, r.base, r.off)
  | .qcnt _ d a => some (d, a, .none)
  | .qclr _ d a => some (d, a, .none)
  | .borrow _ d a => some (d, a, .none)
  | .bret _ => some (.none, .none, .none)
  | .xmov _ d a => some (d, a, .none)
  | .sendr _ d a b => some (d, a, b)
  | .sendw _ a b => some (.none, a, b)
  | .send _ a b => some (.none, a, b)
  | .mcast _ d a b => some (d, a, b)
  | .migrate _ r => some (.none, r.base, r.off)
  | .wait _ => some (.none, .none, .none)
  | .mma _ _ _ d a b => some (d, a, b)
  | .mmac _ _ _ d a b => some (d, a, b)
  | .mzero _ _ d a b => some (d, a, b)
  | .mrd _ _ _ d a b => some (d, a, b)
  | .mwr _ _ d a b => some (d, a, b)
  | .tdef _ _ d a b => some (d, a, b)
  | .trel _ a => some (.none, a, .none)
  | .tstat _ d a => some (d, a, .none)
  | .twait _ a => some (.none, a, .none)
  | .cpy _ _ d a b => some (d, a, b)
  | .jpoll _ d a => some (d, a, .none)
  | .jwait _ d a => some (d, a, .none)
  | .qfence _ d a => some (d, a, .none)
  | .tsub _ d a b => some (d, a, b)
  | .put _ d a => some (d, a, .none)
  | .puts _ d a => some (d, a, .none)
  | .get _ d a => some (d, a, .none)
  | .cwait _ d a b => some (d, a, b)
  | .cread _ d a => some (d, a, .none)
  | .cadd _ d a b => some (d, a, b)
  | .trap _ a => some (.none, a, .none)
  | .brk _ => some (.none, .none, .none)
  | .xrd _ d a => some (d, a, .none)
  | .xwr _ d a => some (d, a, .none)
  | .cyc _ d => some (d, .none, .none)
  | .cycDeadline _ d a => some (d, a, .none)
  | .idle _ a => some (.none, a, .none)
  | .patrolScrub .. | .pageEntryChange .. | .pageMigrate .. | .groupPlace .. | .qkick .. | .qbase .. | .qctl ..
  | .cap .. | .registerWrite .. | .tempUpdate .. | .restore .. | .partitionAssign | .contextTagReside .. | .windowRegister .. | .boot ..
  | .doeAttestation .. | .doeIdeKm .. | .bar2Write .. | .linkFlitReceive .. | .fabricPutArrival ..
  | .fabricGetArrival .. | .fabricGetData .. | .descriptorCreate .. | .routeTableWrite .. | .spanFreezeEnd
  | .publicationComplete | .remoteAccessReply | .qldDataArrival | .depositLanding | .idleExpiry | .vectorUnitGate
  | .vectorUnitWake | .coreGate | .coreWakeComplete | .coreReset | .heldWritePerform | .waitArrival | .marverFire
  | .barrierRelease | .gafferStep | .gafferRecordRead | .walkProbe | .pagerComplete | .pagerDecline | .packetHeadArrival
  | .packetEndArrival | .abortFlitArrival | .partialPacketTimeout | .packetAdmit | .spillMove | .replyAccept
  | .replyAdmit | .replyRefuse | .replyBounce | .replyFree | .retentionResendTimeout | .admitResend | .flitAgeDiscard
  | .linkFlitCrcFail | .remoteFeRequest | .feParkTimeout | .replyRetry | .feRetryResend | .matrixJobStart
  | .matrixJobEnd | .matrixJobComplete | .copyJobStart | .bytesLand | .copyJobComplete | .qfenceComplete
  | .subscriptionTileStart | .storerWritebackComplete | .packetLaunch | .packetGraph | .packetWait | .waitPacketPoll
  | .packetSignal | .packetCancel | .scoreboardEnter | .groupRelease | .priorityAge | .groupStart | .groupRetire
  | .groupCancel | .launchComplete | .jctl | .powerWindow | .thermalEventClear | .haltRequest | .haltTakeEffect
  | .haltPacketTimeout | .restoreIssueResume | .lazyRegionSave | .schedulerCoreError
  | .standbyFailure | .doeDiscovery | .bar2Read | .atsInvalidation | .linkReplayTimeout | .fabricAck | .fabricOpTimeout
  | .arrivalAtHome | .copyLastTileRead | .codeBufferLoadComplete | .routerParityDiscard | .coreResetComplete => none

/-- The entry of a thread instruction: classes per field and use of `MOD`. `pmov` and `xmov` want a predicate, or a borrowed
register, in D or A (R125, R237); where neither is one, which field detail 7 names is open, and here it is D (entry 55). -/
def shape : Instr → Shape
  | .nop _ => {}
  | .mov _ _ _ _ _ => { d := cReg, a := cInt }
  | .movi _ _ _ _ _ => { wi := true, d := cReg, b := [.imm] }
  | .add _ _ _ _ _ _ _
  | .sub _ _ _ _ _ _ _ => { wi := true, d := cReg, a := cInt, b := cInt }
  | .mul _ _ _ _ _ _ _
  | .mulh _ _ _ _ _ _
  | .div _ _ _ _ _ _
  | .rem _ _ _ _ _ _ => { d := cReg, a := cInt, b := cInt }
  | .min _ _ _ _ _ _
  | .max _ _ _ _ _ _ => { wi := true, d := cReg, a := cInt, b := cInt }
  | .abs _ _ _ _ _ => { d := cReg, a := cInt }
  | .and _ _ _ _
  | .or _ _ _ _
  | .xor _ _ _ _
  | .andn _ _ _ _ => { wi := true, d := cReg, a := cInt, b := cInt }
  | .shl _ _ _ _ _
  | .shr _ _ _ _ _
  | .sar _ _ _ _ _
  | .rot _ _ _ _ _ => { d := cReg, a := cInt, b := cInt }
  | .clz _ _ _ _
  | .ctz _ _ _ _
  | .popc _ _ _ _ => { d := cReg, a := cInt }
  | .bext _ _ _ _
  | .bins _ _ _ _
  | .ext _ _ _ _ _ _ => { d := cReg, a := cInt, b := cInt }
  | .sel _ _ _ _ _ => { m := .any, d := cReg, a := cInt, b := cInt }
  | .cmp _ _ _ _ _ _ b => { wi := true, d := if b.isWide then [.g] else [.g, .qn, .p], a := cInt, b := cInt }
  | .plog _ _ _ _ _ => { d := [.p], a := [.p], b := [.p] }
  | .pmov _ _ a => { d := if a.isPred then [.p, .g, .qn] else [.p], a := [.p, .g, .qn, .imm] }
  | .lea _ _ _ _ _ => { m := .any, d := cReg, a := cInt, b := cInt }
  | .fadd _ _ _ _ _ _
  | .fsub _ _ _ _ _ _
  | .fmul _ _ _ _ _ _
  | .fma _ _ _ _ _ _
  | .fdiv _ _ _ _ _ _ => { rnd := true, d := cReg, a := cReg, b := cReg }
  | .fsqrt _ _ _ _ _ => { rnd := true, d := cReg, a := cReg }
  | .fmin _ _ _ _ _
  | .fmax _ _ _ _ _ => { d := cReg, a := cReg, b := cReg }
  | .fabs _ _ _ _
  | .fneg _ _ _ _ => { d := cReg, a := cReg }
  | .fcmp _ _ _ _ _ _ => { d := [.g, .qn, .p], a := cReg, b := cReg }
  | .fcvt _ _ _ _ _ _ => { rnd := true, sat := true, d := cReg, a := cReg }
  | .fclass _ _ _ _ => { d := cReg, a := cReg }
  | .frnd _ _ _ _ _ => { rnd := true, d := cReg, a := cReg }
  | .br _ _ => { b := [.imm] }
  | .brr _ _ => { a := cInt }
  | .call _ _ _ => { d := [.g], b := [.imm] }
  | .ret _ _ => { a := cInt }
  | .loop _ _ _ => { d := [.g], b := [.imm] }
  | .exit _ => {}
  | .spawn _ _ _ _ _ => { m := .low1, d := cReg, a := cInt, b := cInt }
  | .join _ _ => { a := cInt }
  | .slot _ _ => { d := cReg }
  | .ld _ size _ _ _ => { m := .any, d := if size = .s16 then [.ge] else cReg, a := cMem, b := cMem }
  | .st _ size _ _ => { m := .any, d := if size = .s16 then [.ge] else cInt, a := cMem, b := cMem }
  | .ldfe _ _ _ => { m := .any, d := cReg, a := cMem, b := cMem }
  | .stfe _ _ _ => { m := .any, d := cInt, a := cMem, b := cMem }
  | .ldfp _ _ _ => { m := .any, d := cReg, a := cMem, b := cMem }
  | .chk _ _ _ => { m := .any, d := [.g], a := cMem, b := cMem }
  | .lseg _ _ _ => { d := [.s], a := cInt }
  | .stag _ _ _ => { m := .any, d := cInt, a := cMem, b := cMem }
  | .ltag _ _ _
  | .aop _ _ _ _ _ _ => { m := .any, d := cReg, a := cMem, b := cMem }
  | .acas _ _ _ _ _ => { m := .any, d := [.ge], a := cMem, b := cMem }
  | .ald _ _ _ _ _ => { m := .any, d := cReg, a := cMem, b := cMem }
  | .ast _ _ _ _ _ => { m := .any, d := cInt, a := cMem, b := cMem }
  | .pub _
  | .refresh _
  | .phase _ => {}
  | .pref _ _ => { m := .any, a := cMem, b := cMem }
  | .vadd _ _ _ _ _ _
  | .vsub _ _ _ _ _ _
  | .vmul _ _ _ _ _ _
  | .vfma _ _ _ _ _ _ => { rnd := true, sat := true, d := cV, a := cV, b := cVS }
  | .vmin _ _ _ _
  | .vmax _ _ _ _ => { d := cV, a := cV, b := cVS }
  | .vabs _ _ _ _
  | .vneg _ _ _ _ => { sat := true, d := cV, a := cV }
  | .vrcp _ _ _ _ _
  | .vrsqrt _ _ _ _ _
  | .vexp2 _ _ _ _ _
  | .vlog2 _ _ _ _ _ => { rnd := true, sat := true, d := cV, a := cV }
  | .vdiv _ _ _ _ _ _ => { rnd := true, sat := true, d := cV, a := cV, b := cVS }
  | .vsqrt _ _ _ _ _ => { rnd := true, sat := true, d := cV, a := cV }
  | .vand _ _ _ _
  | .vor _ _ _ _
  | .vxor _ _ _ _
  | .vshl _ _ _ _
  | .vshr _ _ _ _ _ => { d := cV, a := cV, b := cVS }
  | .vcmp _ _ _ _ _ => { d := [.p, .v, .qw], a := cV, b := cVS }
  | .vsel _ _ _ _ _ => { m := .any, d := cV, a := cV, b := cVS }
  | .vcvt _ _ _ _ _ _ _
  | .vbfp _ _ _ _ _ _ _
  | .vunbfp _ _ _ _ _ _ _ => { rnd := true, sat := true, m := .low2, d := cV, a := cV }
  | .vperm _ _ _ _ => { d := cV, a := cV, b := cV }
  | .vbcast _ _ a _ => { d := cV, a := cVS, b := if a.isVec then cInt else [] }
  | .vext _ _ _ _ => { d := cReg, a := cV, b := cInt }
  | .vins _ _ _ _ => { d := cV, a := cInt, b := cInt }
  | .vred _ _ _ _ _ _ => { rnd := true, sat := true, d := cReg, a := cV }
  | .vscan _ _ _ _ _ _ => { rnd := true, sat := true, d := cV, a := cV }
  | .vdot _ _ _ _ _ _ => { rnd := true, sat := true, d := cReg, a := cV, b := cV }
  | .vld _ _ _ _
  | .vst _ _ _ => { m := .any, d := cV, a := cMem, b := cMem }
  | .vldx _ _ _ _
  | .vstx _ _ _ => { m := .any, d := [.v], a := cMem, b := cMem }
  | .vtag _ _ _ _ => { d := cV, a := cV }
  | .vgtag _ _ _ => { d := cReg, a := cV }
  | .vmov _ _ _ => { d := cV, a := cV }
  | .vclamp _ _ _ _ => { d := cV, a := cVS, b := cVS }
  | .kaddF _ _ _ _
  | .kaddB _ _ _ _
  | .ksubF _ _ _ _
  | .ksubB _ _ _ _
  | .kmulF _ _ _ _
  | .kmulB _ _ _ _
  | .kdivF _ _ _ _
  | .kdivB _ _ _ _
  | .kfmaF _ _ _ _
  | .kfmaB _ _ _ _ => { d := [.k], a := [.k], b := [.k] }
  | .knegF _ _ _
  | .knegB _ _ _
  | .kabsF _ _ _
  | .kabsB _ _ _
  | .ksqrF _ _ _
  | .ksqrB _ _ _
  | .ksqrtF _ _ _
  | .ksqrtB _ _ _
  | .kexpF _ _ _
  | .kexpB _ _ _
  | .klogF _ _ _
  | .klogB _ _ _
  | .kreluF _ _ _
  | .kreluB _ _ _ => { d := [.k], a := [.k] }
  | .kmaxF _ _ _ _
  | .kmaxB _ _ _ _
  | .kminF _ _ _ _
  | .kminB _ _ _ _ => { d := [.k], a := [.k], b := [.k] }
  | .kscaleF _ _ _ _
  | .kscaleB _ _ _ _ => { d := [.k], a := [.k], b := cInt }
  | .kmacF _ _ _ _
  | .kmacB _ _ _ _
  | .kcap _ _ _ _
  | .khull _ _ _ _ => { d := [.k], a := [.k], b := [.k] }
  | .kmk _ _ _ _ _ => { m := .low1, d := [.k], a := [.v], b := [.v] }
  | .klo _ _ _ _
  | .khi _ _ _ _
  | .kmid _ _ _ _
  | .kwid _ _ _ _ => { m := .low1, d := [.v], a := [.k] }
  | .ksplit _ _ _ => { d := [.k], a := [.k] }
  | .kcmpF _ _ _ _ _
  | .kcmpB _ _ _ _ _ => { d := [.m], a := [.k], b := [.k, .g, .qn, .imm] }
  | .kin _ _ _ _ => { d := [.m], a := [.k, .g, .qn, .imm], b := [.k] }
  | .kstat _ _ _ => { d := cReg, a := [.k] }
  | .kld _ _ _
  | .kst _ _ _ => { m := .any, d := [.k], a := cMem, b := cMem }
  | .kmov _ _ _ => { d := [.k], a := [.k] }
  | .kset _ _ a _ => { d := [.k], a := [.immSet 0 2], b := if a = .imm 0 then [.immSet 0 0] else [.immSet 0 4] }
  | .mlog _ fn _ _ _ => { d := if fn.isTst then [.p] else [.m], a := [.m], b := if fn.unary then [] else [.m] }
  | .qld _ _ _
  | .qst _ _ _ => { m := .any, d := [.qa], a := cMem, b := cMem }
  | .qcnt _ _ _
  | .qclr _ _ _ => { d := cReg, a := [.qa] }
  | .borrow _ _ _ => { d := cReg, a := cInt }
  | .bret _ => {}
  | .xmov _ _ a => { d := if a.isBg then [.g, .qn, .bg] else [.bg], a := [.g, .qn, .imm, .bg] }
  | .sendr _ d _ _ => { d := [.g, .v, .k, .p, .m], a := sendrValue d, b := cReg }
  | .sendw _ _ _
  | .send _ _ _ => { a := cInt, b := cInt }
  | .mcast _ _ _ _ => { d := cV, a := cReg, b := cInt }
  | .migrate _ _ => { m := .any, a := cMem, b := cMem }
  | .wait _ => {}
  | .mma _ _ _ _ _ _
  | .mmac _ _ _ _ _ _ => { sat := true, m := .low2, d := cReg, a := [.acc], b := cReg }
  | .mzero _ _ _ _ _ => { m := .low2, d := cReg, a := [.acc], b := [.imm37] }
  | .mrd _ _ _ _ _ _ => { sat := true, m := .low2, d := cReg, a := [.acc], b := cInt }
  | .mwr _ _ _ _ _ => { m := .low2, d := cReg, a := [.acc], b := cInt }
  | .tdef _ _ _ _ _ => { m := .any, d := cReg, a := cInt, b := cReg }
  | .trel _ _ => { a := cInt }
  | .tstat _ _ _ => { d := cReg, a := cInt }
  | .twait _ _ => { a := cInt }
  | .cpy _ _ _ _ _ => { m := .low2, d := cReg, a := cInt, b := [.g] }
  | .jpoll _ _ _
  | .jwait _ _ _
  | .qfence _ _ _ => { d := cReg, a := cInt }
  | .tsub _ _ _ _ => { d := cReg, a := cReg, b := [.g] }
  | .put _ _ _
  | .puts _ _ _
  | .get _ _ _ => { d := cReg, a := [.g] }
  | .cwait _ _ _ _ => { d := cReg, a := cInt, b := cInt }
  | .cread _ _ _ => { d := cReg, a := cInt }
  | .cadd _ _ _ _ => { d := cReg, a := cInt, b := cInt }
  | .trap _ _ => { a := cInt }
  | .brk _ => {}
  | .xrd _ _ _ => { d := cReg, a := [.x] }
  | .xwr _ _ _ => { d := [.xrw], a := cInt }
  | .cyc _ _ => { m := .low1, d := cReg }
  | .cycDeadline _ _ _ => { m := .low1, d := cReg, a := cInt }
  | .idle _ _ => { a := cInt }
  | .patrolScrub .. | .pageEntryChange .. | .pageMigrate .. | .groupPlace .. | .qkick .. | .qbase .. | .qctl ..
  | .cap .. | .registerWrite .. | .tempUpdate .. | .restore .. | .partitionAssign | .contextTagReside .. | .windowRegister .. | .boot ..
  | .doeAttestation .. | .doeIdeKm .. | .bar2Write .. | .linkFlitReceive .. | .fabricPutArrival ..
  | .fabricGetArrival .. | .fabricGetData .. | .descriptorCreate .. | .routeTableWrite .. | .spanFreezeEnd
  | .publicationComplete | .remoteAccessReply | .qldDataArrival | .depositLanding | .idleExpiry | .vectorUnitGate
  | .vectorUnitWake | .coreGate | .coreWakeComplete | .coreReset | .heldWritePerform | .waitArrival | .marverFire
  | .barrierRelease | .gafferStep | .gafferRecordRead | .walkProbe | .pagerComplete | .pagerDecline | .packetHeadArrival
  | .packetEndArrival | .abortFlitArrival | .partialPacketTimeout | .packetAdmit | .spillMove | .replyAccept
  | .replyAdmit | .replyRefuse | .replyBounce | .replyFree | .retentionResendTimeout | .admitResend | .flitAgeDiscard
  | .linkFlitCrcFail | .remoteFeRequest | .feParkTimeout | .replyRetry | .feRetryResend | .matrixJobStart
  | .matrixJobEnd | .matrixJobComplete | .copyJobStart | .bytesLand | .copyJobComplete | .qfenceComplete
  | .subscriptionTileStart | .storerWritebackComplete | .packetLaunch | .packetGraph | .packetWait | .waitPacketPoll
  | .packetSignal | .packetCancel | .scoreboardEnter | .groupRelease | .priorityAge | .groupStart | .groupRetire
  | .groupCancel | .launchComplete | .jctl | .powerWindow | .thermalEventClear | .haltRequest | .haltTakeEffect
  | .haltPacketTimeout | .restoreIssueResume | .lazyRegionSave | .schedulerCoreError
  | .standbyFailure | .doeDiscovery | .bar2Read | .atsInvalidation | .linkReplayTimeout | .fabricAck | .fabricOpTimeout
  | .arrivalAtHome | .copyLastTileRead | .codeBufferLoadComplete | .routerParityDiscard | .coreResetComplete => {}

/-- The variants that the opcode map assigns (R55 to R63, R139, R144). -/
def variantOk : Instr → Bool
  | .cmp _ _ _ cond _ _ _ => cond.ordered
  | .kcmpF _ cond _ _ _ => cond.ordered
  | .kcmpB _ cond _ _ _ => cond.ordered
  | .ld _ size u _ _ => !u || size == .s1 || size == .s2 || size == .s4
  | .ald _ _ ord _ _ => ord == .rlx || ord == .acq
  | .ast _ _ ord _ _ => ord == .rlx || ord == .rel
  | .vcvt _ tag _ _ _ _ _ => decide (1 ≤ tag.toNat) && decide (tag.toNat ≤ 8)
  | .vbfp _ tag _ _ _ _ _ => decide (9 ≤ tag.toNat)
  | .vunbfp _ tag _ _ _ _ _ => decide (5 ≤ tag.toNat) && decide (tag.toNat ≤ 8)
  | _ => true

/-- A well-formed instruction: one the opcode map and its entry allow. Every event is one: its guard decides its effect. -/
def wellFormed (i : Instr) : Bool :=
  match i.operands with
  | none => true
  | some (d, a, b) =>
    i.variantOk && d.admitted i.shape.d &&
      (if b.isWide then i.shape.wi && (a == if i.shape.a = [] then .none else d)
       else a.admitted i.shape.a && b.admitted i.shape.b)

end Instr

end Sys2Proof
end

