-- ==== Sys2Proof/Decode.lean ====
section
/-! DEFINITION. Decoding of the 96-bit instruction word (R11 to R30) and the encoder, from the same tables of the spec. -/

namespace Sys2Proof

/-- Why a word traps with E_ILLOP, in the order of R28. -/
inductive Illop where
  | zeroWord | onesWord
  | unassignedOp | unassignedFn
  | hintReserved | roundingCode
  | modNotAllowed (mod : BitVec 8)
  | unusedField (field : Nat)
  | classNotAllowed (field : Nat) (cls : BitVec 3)
  | valueIllegal (field : Nat) (val : BitVec 17)
  deriving DecidableEq, Repr

/-- The detail field of the trap record (R30). -/
def Illop.detail : Illop → BitVec 32
  | .zeroWord => 8
  | .onesWord => 9
  | .unassignedOp => 1
  | .unassignedFn => 2
  | .hintReserved => 3
  | .roundingCode => 4
  | .modNotAllowed m => (0 : BitVec 16) ++ m ++ 5#8
  | .unusedField f => (0 : BitVec 16) ++ BitVec.ofNat 8 f ++ 6#8
  | .classNotAllowed f c => c.setWidth 16 ++ BitVec.ofNat 8 f ++ 7#8
  | .valueIllegal f v => v.setWidth 16 ++ BitVec.ofNat 8 f ++ 10#8

/-! ### Fields (R11) -/

/-- The fields of a word; `lo` is `OPA` ∥ `OPB`. -/
structure Fields where
  op : BitVec 8
  fn : BitVec 8
  gn : BitVec 1
  gp : BitVec 3
  hint : BitVec 8
  mod : BitVec 8
  opd : BitVec 20
  lo : BitVec 40
  deriving DecidableEq, Repr

def pack (f : Fields) : InstrWord :=
  f.op ++ f.fn ++ f.gn ++ f.gp ++ f.hint ++ f.mod ++ f.opd ++ f.lo

def unpack (w : InstrWord) : Fields where
  op := w.extractLsb' 88 8
  fn := w.extractLsb' 80 8
  gn := w.extractLsb' 79 1
  gp := w.extractLsb' 76 3
  hint := w.extractLsb' 68 8
  mod := w.extractLsb' 60 8
  opd := w.extractLsb' 40 20
  lo := w.extractLsb' 0 40

/-! ### Operand fields (R14, R36) -/

/-- Number of a special register (R75). -/
def XReg.num : XReg → BitVec 12
  | .status => 0x000 | .npth => 0x001 | .ferl => 0x002 | .cyc => 0x003 | .rank => 0x004 | .core => 0x005
  | .slot => 0x006 | .wins => 0x007 | .group => 0x008 | .group1 => 0x009 | .group2 => 0x00A
  | .grid => 0x00C | .grid1 => 0x00D | .grid2 => 0x00E | .ctag => 0x010 | .cseg => 0x011

def XReg.ofNum (n : BitVec 12) : Option XReg :=
  match n.toNat with
  | 0x000 => some .status | 0x001 => some .npth | 0x002 => some .ferl | 0x003 => some .cyc
  | 0x004 => some .rank | 0x005 => some .core | 0x006 => some .slot | 0x007 => some .wins
  | 0x008 => some .group | 0x009 => some .group1 | 0x00A => some .group2 | 0x00C => some .grid
  | 0x00D => some .grid1 | 0x00E => some .grid2 | 0x010 => some .ctag | 0x011 => some .cseg
  | _ => none

/-- The 20-bit field of an operand (R36); an unused field is zero. A wide immediate has no field of its own. -/
def Opnd.enc : Opnd → BitVec 20
  | .none => 0
  | .g n => 0b000#3 ++ BitVec.ofNat 17 n.val
  | .v n => 0b001#3 ++ BitVec.ofNat 17 n.val
  | .k n => 0b010#3 ++ BitVec.ofNat 17 n.val
  | .p n => 0b011#3 ++ BitVec.ofNat 17 n.val
  | .m n => 0b011#3 ++ BitVec.ofNat 17 (8 + n.val)
  | .q n => 0b100#3 ++ BitVec.ofNat 17 n.val
  | .s n => 0b101#3 ++ BitVec.ofNat 17 n.val
  | .x r => 0b110#3 ++ 0b00000#5 ++ r.num
  | .acc n => 0b110#3 ++ 0b00001#5 ++ BitVec.ofNat 12 n.val
  | .bg n => 0b110#3 ++ 0b00010#5 ++ BitVec.ofNat 12 n.val
  | .imm z => 0b111#3 ++ z
  | .wide _ => 0

/-- The class and the value of a field. -/
def fieldCls (b : BitVec 20) : BitVec 3 := b.extractLsb' 17 3
def fieldVal (b : BitVec 20) : BitVec 17 := b.extractLsb' 0 17

/-- The operand a field names, from the value bits its class uses. -/
def rdOpnd (b : BitVec 20) : Opnd :=
  let v := fieldVal b
  match (fieldCls b).toNat with
  | 0 => .g (Fin.ofNat 128 v.toNat)
  | 1 => .v (Fin.ofNat 32 v.toNat)
  | 2 => .k (Fin.ofNat 16 v.toNat)
  | 3 => if v.toNat / 8 % 2 = 0 then .p (Fin.ofNat 8 v.toNat) else .m (Fin.ofNat 8 v.toNat)
  | 4 => .q (Fin.ofNat 16 v.toNat)
  | 5 => .s (Fin.ofNat 8 v.toNat)
  | 6 =>
    match v.toNat / 4096 with
    | 0 => match XReg.ofNum (v.extractLsb' 0 12) with
      | some r => .x r
      | none => .none
    | 1 => .acc (Fin.ofNat 16 v.toNat)
    | 2 => .bg (Fin.ofNat 128 v.toNat)
    | _ => .none
  | _ => .imm v

/-- Whether the value bits of a field are legal for its class (R14). -/
def valueOk (b : BitVec 20) : Bool :=
  let v := (fieldVal b).toNat
  match (fieldCls b).toNat with
  | 0 => v < 128
  | 1 => v < 32
  | 2 => v < 16
  | 3 => v < 16
  | 4 => v < 16
  | 5 => v < 8
  | 6 =>
    match v / 4096 with
    | 0 => (XReg.ofNum ((fieldVal b).extractLsb' 0 12)).isSome
    | 1 => v % 4096 < 16
    | 2 => v % 4096 < 128
    | _ => false
  | _ => true

/-- Whether the entry lists the field's class; each sub-kind of class 110 counts as a class, and one that names no
sub-kind counts as listed where some sub-kind is (R14, R16). A predicate field is p or m by value bit 3 (R125, R148). -/
def classOk (b : BitVec 20) (cs : List Cls) : Bool :=
  match (fieldCls b).toNat with
  | 0 => cs.any fun c => c == .g || c == .ge
  | 1 => cs.contains .v
  | 2 => cs.contains .k
  | 3 => if (fieldVal b).toNat / 8 % 2 = 0 then cs.contains .p else cs.contains .m
  | 4 => cs.any fun c => c == .qn || c == .qw || c == .qa
  | 5 => cs.contains .s
  | 6 =>
    let xs := cs.any fun c => c == .x || c == .xrw
    match (fieldVal b).toNat / 4096 with
    | 0 => xs
    | 1 => cs.contains .acc
    | 2 => cs.contains .bg
    | _ => xs || cs.contains .acc || cs.contains .bg
  | _ => cs.any fun c => match c with
    | .imm | .immSet _ _ | .imm37 => true
    | _ => false

/-- The checks of one field: unused, class, value (details 6, 7, 10 of R30). q12 to q15 in an S or G position of an interval
instruction, for which R178 names details 7 and 10, are an illegal value, detail 10 (entry 55). -/
def checkField (field : Nat) (b : BitVec 20) (cs : List Cls) : Option Illop :=
  if cs = [] then if b = 0 then none else some (.unusedField field)
  else if !classOk b cs then some (.classNotAllowed field (fieldCls b))
  else if valueOk b && (rdOpnd b).admitted cs then none
  else some (.valueIllegal field (fieldVal b))

/-! ### Variants in `FN` (R27, R55 to R63) -/

def Width.code : Width → BitVec 2
  | .i64 => 0 | .i32 => 1 | .i16 => 2 | .i8 => 3
def Width.ofCode (b : BitVec 2) : Width :=
  match b.toNat with
  | 0 => .i64 | 1 => .i32 | 2 => .i16 | _ => .i8
def FFmt.code : FFmt → BitVec 2
  | .f32 => 0 | .f64 => 1 | .f16 => 2 | .b16 => 3
def FFmt.ofCode (b : BitVec 2) : FFmt :=
  match b.toNat with
  | 0 => .f32 | 1 => .f64 | 2 => .f16 | _ => .b16
def Cond.code : Cond → BitVec 4
  | .eq => 0 | .ne => 1 | .lt => 2 | .le => 3 | .gt => 4 | .ge => 5 | .uo => 6 | .ord => 7
def Cond.ofCode (b : BitVec 4) : Option Cond :=
  match b.toNat with
  | 0 => some .eq | 1 => some .ne | 2 => some .lt | 3 => some .le
  | 4 => some .gt | 5 => some .ge | 6 => some .uo | 7 => some .ord | _ => none
def Size.code : Size → BitVec 3
  | .s1 => 0 | .s2 => 1 | .s4 => 2 | .s8 => 3 | .s16 => 4
def Size.ofCode (b : BitVec 3) : Option Size :=
  match b.toNat with
  | 0 => some .s1 | 1 => some .s2 | 2 => some .s4 | 3 => some .s8 | 4 => some .s16 | _ => none
def Order.code : Order → BitVec 2
  | .rlx => 0 | .acq => 1 | .rel => 2 | .ar => 3
def Order.ofCode (b : BitVec 2) : Order :=
  match b.toNat with
  | 0 => .rlx | 1 => .acq | 2 => .rel | _ => .ar
def AtomOp.code : AtomOp → BitVec 3
  | .add => 0 | .swp => 1 | .and => 2 | .or => 3 | .xor => 4 | .min => 5 | .max => 6 | .umax => 7
def AtomOp.ofCode (b : BitVec 3) : AtomOp :=
  match b.toNat with
  | 0 => .add | 1 => .swp | 2 => .and | 3 => .or | 4 => .xor | 5 => .min | 6 => .max | _ => .umax
def RedOp.code : RedOp → BitVec 3
  | .add => 0 | .min => 1 | .max => 2 | .and => 3 | .or => 4 | .xor => 5
def RedOp.ofCode (b : BitVec 3) : Option RedOp :=
  match b.toNat with
  | 0 => some .add | 1 => some .min | 2 => some .max | 3 => some .and | 4 => some .or | 5 => some .xor | _ => none
def MlogFn.code : MlogFn → BitVec 8
  | .and => 0x00 | .or => 0x01 | .not => 0x02 | .imp => 0x03 | .eqv => 0x04
  | .tstFalse => 0x05 | .tstTrue => 0x15 | .tstUnk => 0x25
def Rnd.code : Rnd → BitVec 3
  | .dyn => 0 | .rne => 1 | .rtz => 2 | .rdn => 3 | .rup => 4 | .rna => 5
def Rnd.ofCode (b : BitVec 3) : Rnd :=
  match b.toNat with
  | 1 => .rne | 2 => .rtz | 3 => .rdn | 4 => .rup | 5 => .rna | _ => .dyn

/-- A flag as one bit. -/
def bit1 (b : Bool) : BitVec 1 := BitVec.ofBool b
def bit3 (b : Bool) : BitVec 3 := 0#2 ++ bit1 b
def bit3of2 (b : BitVec 2) : BitVec 3 := 0#1 ++ b

def fnW (w : Width) : BitVec 8 := 0#6 ++ w.code
def fnWu (w : Width) (u : Bool) : BitVec 8 := 0#5 ++ bit1 u ++ w.code
def fnWus (w : Width) (u st : Bool) : BitVec 8 := 0#4 ++ bit1 st ++ bit1 u ++ w.code
def fnWs (w : Width) (st : Bool) : BitVec 8 := 0#4 ++ bit1 st ++ 0#1 ++ w.code
def fnCmp (w : Width) (u : Bool) (cond : Cond) : BitVec 8 := cond.code ++ 0#1 ++ bit1 u ++ w.code
def fnTable (t : BitVec 4) : BitVec 8 := 0#4 ++ t
def fnFmt (f : FFmt) : BitVec 8 := 0#6 ++ f.code
def fnFcmp (f : FFmt) (cond : Cond) : BitVec 8 := cond.code ++ 0#2 ++ f.code
def fnCvt : CvtKind → BitVec 8
  | .ff src dst => 0#4 ++ src.code ++ dst.code
  | .fi src u => 0#1 ++ bit1 u ++ 1#2 ++ 0#2 ++ src.code
  | .fromInt dst u => 0#1 ++ bit1 u ++ 2#2 ++ 0#2 ++ dst.code
def fnLd (s : Size) (u : Bool) : BitVec 8 := 0#4 ++ bit1 u ++ s.code
def fnSize (s : Size) : BitVec 8 := 0#5 ++ s.code
def sizeBit (wide : Bool) : BitVec 3 := 1#2 ++ bit1 wide
def fnAop (op : AtomOp) (wide : Bool) (ord : Order) : BitVec 8 :=
  op.code.extractLsb' 1 2 ++ ord.code ++ op.code.extractLsb' 0 1 ++ sizeBit wide
def fnAtom (wide : Bool) (ord : Order) : BitVec 8 := 0#2 ++ ord.code ++ 0#1 ++ sizeBit wide
def fnTag (t : BitVec 4) : BitVec 8 := 0#4 ++ t
def fnArith (a : Bool) : BitVec 8 := 0#7 ++ bit1 a
def fnCond (c : Cond) : BitVec 8 := c.code ++ 0#4
def fnRed (o : RedOp) : BitVec 8 := 0#5 ++ o.code
def fnKcmp (c : Cond) (back : Bool) : BitVec 8 := c.code ++ 0#3 ++ bit1 back
def fnMlog (f : MlogFn) : BitVec 8 := f.code

def fnBits (b : BitVec 8) (i n : Nat) : BitVec n := b.extractLsb' i n
def rdW (b : BitVec 8) : Option Width :=
  if b.toNat < 4 then some (Width.ofCode (fnBits b 0 2)) else none
def rdWu (b : BitVec 8) : Option (Width × Bool) :=
  if b.toNat < 8 then some (Width.ofCode (fnBits b 0 2), b.getLsbD 2) else none
def rdWus (b : BitVec 8) : Option (Width × Bool × Bool) :=
  if b.toNat < 16 then some (Width.ofCode (fnBits b 0 2), b.getLsbD 2, b.getLsbD 3) else none
def rdWs (b : BitVec 8) : Option (Width × Bool) :=
  if b.toNat < 16 && !b.getLsbD 2 then some (Width.ofCode (fnBits b 0 2), b.getLsbD 3) else none
def rdCmp (b : BitVec 8) : Option (Width × Bool × Cond) :=
  if b.getLsbD 3 then none else
  match Cond.ofCode (fnBits b 4 4) with
  | some c => if c.ordered then some (Width.ofCode (fnBits b 0 2), b.getLsbD 2, c) else none
  | none => none
def rdTable (b : BitVec 8) : Option (BitVec 4) :=
  if b.toNat < 16 then some (fnBits b 0 4) else none
def rdFmt (b : BitVec 8) : Option FFmt :=
  if b.toNat < 4 then some (FFmt.ofCode (fnBits b 0 2)) else none
def rdFcmp (b : BitVec 8) : Option (FFmt × Cond) :=
  if fnBits b 2 2 = 0 then (Cond.ofCode (fnBits b 4 4)).map fun c => (FFmt.ofCode (fnBits b 0 2), c) else none
def rdCvt (b : BitVec 8) : Option CvtKind :=
  if b.getLsbD 7 then none else
  match (fnBits b 4 2).toNat with
  | 0 => if b.getLsbD 6 then none else some (.ff (FFmt.ofCode (fnBits b 2 2)) (FFmt.ofCode (fnBits b 0 2)))
  | 1 => if fnBits b 2 2 = 0 then some (.fi (FFmt.ofCode (fnBits b 0 2)) (b.getLsbD 6)) else none
  | 2 => if fnBits b 2 2 = 0 then some (.fromInt (FFmt.ofCode (fnBits b 0 2)) (b.getLsbD 6)) else none
  | _ => none
def rdLd (b : BitVec 8) : Option (Size × Bool) :=
  if b.toNat < 16 then
    match Size.ofCode (fnBits b 0 3) with
    | some s => if b.getLsbD 3 && 3 ≤ (fnBits b 0 3).toNat then none else some (s, b.getLsbD 3)
    | none => none
  else none
def rdSize (b : BitVec 8) : Option Size :=
  if b.toNat < 8 then Size.ofCode (fnBits b 0 3) else none
def rdAop (b : BitVec 8) : Option (AtomOp × Bool × Order) :=
  if fnBits b 1 2 = 1 then
    some (AtomOp.ofCode (fnBits b 6 2 ++ fnBits b 3 1), b.getLsbD 0, Order.ofCode (fnBits b 4 2))
  else none
def rdAtom (b : BitVec 8) : Option (Bool × Order) :=
  if fnBits b 1 3 = 1 && fnBits b 6 2 = 0 then some (b.getLsbD 0, Order.ofCode (fnBits b 4 2)) else none
def rdAcas (b : BitVec 8) : Option (Bool × Order) := rdAtom b
def rdAld (b : BitVec 8) : Option (Bool × Order) := if b.getLsbD 5 then none else rdAtom b
def rdAst (b : BitVec 8) : Option (Bool × Order) := if b.getLsbD 4 then none else rdAtom b
def rdTag (b : BitVec 8) : Option (BitVec 4) := rdTable b
def rdTag18 (b : BitVec 8) : Option (BitVec 4) :=
  if 1 ≤ b.toNat && b.toNat ≤ 8 then some (fnBits b 0 4) else none
def rdTag915 (b : BitVec 8) : Option (BitVec 4) :=
  if 9 ≤ b.toNat && b.toNat ≤ 15 then some (fnBits b 0 4) else none
def rdTag58 (b : BitVec 8) : Option (BitVec 4) :=
  if 5 ≤ b.toNat && b.toNat ≤ 8 then some (fnBits b 0 4) else none
def rdArith (b : BitVec 8) : Option Bool :=
  if b.toNat < 2 then some (b.getLsbD 0) else none
def rdCond (b : BitVec 8) : Option Cond :=
  if fnBits b 0 4 = 0 then Cond.ofCode (fnBits b 4 4) else none
def rdRed (b : BitVec 8) : Option RedOp :=
  if b.toNat < 8 then RedOp.ofCode (fnBits b 0 3) else none
def rdKcmp (b : BitVec 8) : Option (Cond × Bool) :=
  if fnBits b 1 3 = 0 then
    match Cond.ofCode (fnBits b 4 4) with
    | some c => if c.ordered then some (c, b.getLsbD 0) else none
    | none => none
  else none
def rdMlog (b : BitVec 8) : Option MlogFn :=
  match b.toNat with
  | 0x00 => some .and | 0x01 => some .or | 0x02 => some .not | 0x03 => some .imp | 0x04 => some .eqv
  | 0x05 => some .tstFalse | 0x15 => some .tstTrue | 0x25 => some .tstUnk | _ => none

/-! ### From fields to an instruction -/

namespace Fields

def ctl (f : Fields) : Ctl := ⟨f.gn.getLsbD 0, Fin.ofNat 8 f.gp.toNat, f.hint.getLsbD 7, f.hint.getLsbD 6⟩
def rnd (f : Fields) : Rnd := Rnd.ofCode (f.mod.extractLsb' 0 3)
def sat (f : Fields) : Bool := f.mod.getLsbD 3
def m (f : Fields) : BitVec 3 := f.mod.extractLsb' 4 3
def m0 (f : Fields) : Bool := f.mod.getLsbD 4
def m01 (f : Fields) : BitVec 2 := f.mod.extractLsb' 4 2
def wi (f : Fields) : Bool := f.mod.getLsbD 7
def opa (f : Fields) : BitVec 20 := f.lo.extractLsb' 20 20
def opb (f : Fields) : BitVec 20 := f.lo.extractLsb' 0 20
def d (f : Fields) : Opnd := rdOpnd f.opd
def a (f : Fields) : Opnd := rdOpnd f.opa
def b (f : Fields) : Opnd := rdOpnd f.opb
/-- Operands A and B of an entry with a wide form (R26). -/
def wa (f : Fields) : Opnd := if f.wi then f.d else f.a
def wb (f : Fields) : Opnd := if f.wi then .wide f.lo else f.b
def mem (f : Fields) : MemRef := ⟨Fin.ofNat 8 f.m.toNat, f.a, f.b⟩
/-- B of `vbcast`, unused in the scalar form (R167). -/
def bcastB (f : Fields) : Opnd := if f.a.isVec then f.b else .none

end Fields

/-- The instructions of `OP` 0x01 to 0x1F. -/
def buildInt (f : Fields) : Option Instr :=
  match f.op.toNat with
  | 0x01 => if f.fn = 0 then some (.nop f.ctl) else none
  | 0x02 => (rdWu f.fn).map fun (w, u) => .mov f.ctl w u f.d f.a
  | 0x03 => (rdWu f.fn).map fun (w, u) => .movi f.ctl w u f.d f.wb
  | 0x04 => (rdWus f.fn).map fun (w, u, st) => .add f.ctl w u st f.d f.wa f.wb
  | 0x05 => (rdWus f.fn).map fun (w, u, st) => .sub f.ctl w u st f.d f.wa f.wb
  | 0x06 => (rdWus f.fn).map fun (w, u, st) => .mul f.ctl w u st f.d f.a f.b
  | 0x07 => (rdWu f.fn).map fun (w, u) => .mulh f.ctl w u f.d f.a f.b
  | 0x08 => (rdWu f.fn).map fun (w, u) => .div f.ctl w u f.d f.a f.b
  | 0x09 => (rdWu f.fn).map fun (w, u) => .rem f.ctl w u f.d f.a f.b
  | 0x0A => (rdWu f.fn).map fun (w, u) => .min f.ctl w u f.d f.wa f.wb
  | 0x0B => (rdWu f.fn).map fun (w, u) => .max f.ctl w u f.d f.wa f.wb
  | 0x0C => (rdWs f.fn).map fun (w, st) => .abs f.ctl w st f.d f.a
  | 0x0D => if f.fn = 0 then some (.and f.ctl f.d f.wa f.wb) else none
  | 0x0E => if f.fn = 0 then some (.or f.ctl f.d f.wa f.wb) else none
  | 0x0F => if f.fn = 0 then some (.xor f.ctl f.d f.wa f.wb) else none
  | 0x10 => if f.fn = 0 then some (.andn f.ctl f.d f.wa f.wb) else none
  | 0x11 => (rdW f.fn).map fun w => .shl f.ctl w f.d f.a f.b
  | 0x12 => (rdW f.fn).map fun w => .shr f.ctl w f.d f.a f.b
  | 0x13 => (rdW f.fn).map fun w => .sar f.ctl w f.d f.a f.b
  | 0x14 => (rdW f.fn).map fun w => .rot f.ctl w f.d f.a f.b
  | 0x15 => (rdW f.fn).map fun w => .clz f.ctl w f.d f.a
  | 0x16 => (rdW f.fn).map fun w => .ctz f.ctl w f.d f.a
  | 0x17 => (rdW f.fn).map fun w => .popc f.ctl w f.d f.a
  | 0x18 => if f.fn = 0 then some (.bext f.ctl f.d f.a f.b) else none
  | 0x19 => if f.fn = 0 then some (.bins f.ctl f.d f.a f.b) else none
  | 0x1A => (rdWu f.fn).map fun (w, u) => .ext f.ctl w u f.d f.a f.b
  | 0x1B => if f.fn = 0 then some (.sel f.ctl f.m f.d f.a f.b) else none
  | 0x1C => (rdCmp f.fn).map fun (w, u, cond) => .cmp f.ctl w u cond f.d f.wa f.wb
  | 0x1D => (rdTable f.fn).map fun tt => .plog f.ctl tt f.d f.a f.b
  | 0x1E => if f.fn = 0 then some (.pmov f.ctl f.d f.a) else none
  | 0x1F => if f.fn = 0 then some (.lea f.ctl f.m f.d f.a f.b) else none
  | _ => none

/-- The instructions of `OP` 0x20 to 0x2D. -/
def buildFloat (f : Fields) : Option Instr :=
  match f.op.toNat with
  | 0x20 => (rdFmt f.fn).map fun fmt => .fadd f.ctl fmt f.rnd f.d f.a f.b
  | 0x21 => (rdFmt f.fn).map fun fmt => .fsub f.ctl fmt f.rnd f.d f.a f.b
  | 0x22 => (rdFmt f.fn).map fun fmt => .fmul f.ctl fmt f.rnd f.d f.a f.b
  | 0x23 => (rdFmt f.fn).map fun fmt => .fma f.ctl fmt f.rnd f.d f.a f.b
  | 0x24 => (rdFmt f.fn).map fun fmt => .fdiv f.ctl fmt f.rnd f.d f.a f.b
  | 0x25 => (rdFmt f.fn).map fun fmt => .fsqrt f.ctl fmt f.rnd f.d f.a
  | 0x26 => (rdFmt f.fn).map fun fmt => .fmin f.ctl fmt f.d f.a f.b
  | 0x27 => (rdFmt f.fn).map fun fmt => .fmax f.ctl fmt f.d f.a f.b
  | 0x28 => (rdFmt f.fn).map fun fmt => .fabs f.ctl fmt f.d f.a
  | 0x29 => (rdFmt f.fn).map fun fmt => .fneg f.ctl fmt f.d f.a
  | 0x2A => (rdFcmp f.fn).map fun (fmt, cond) => .fcmp f.ctl fmt cond f.d f.a f.b
  | 0x2B => (rdCvt f.fn).map fun k => .fcvt f.ctl k f.rnd f.sat f.d f.a
  | 0x2C => (rdFmt f.fn).map fun fmt => .fclass f.ctl fmt f.d f.a
  | 0x2D => (rdFmt f.fn).map fun fmt => .frnd f.ctl fmt f.rnd f.d f.a
  | _ => none

/-- The instructions of `OP` 0x30 to 0x38. -/
def buildCtl (f : Fields) : Option Instr :=
  match f.op.toNat with
  | 0x30 => if f.fn = 0 then some (.br f.ctl f.b) else none
  | 0x31 => if f.fn = 0 then some (.brr f.ctl f.a) else none
  | 0x32 => if f.fn = 0 then some (.call f.ctl f.d f.b) else none
  | 0x33 => if f.fn = 0 then some (.ret f.ctl f.a) else none
  | 0x34 => if f.fn = 0 then some (.loop f.ctl f.d f.b) else none
  | 0x35 => if f.fn = 0 then some (.exit f.ctl) else none
  | 0x36 => if f.fn = 0 then some (.spawn f.ctl f.m0 f.d f.a f.b) else none
  | 0x37 => if f.fn = 0 then some (.join f.ctl f.a) else none
  | 0x38 => if f.fn = 0 then some (.slot f.ctl f.d) else none
  | _ => none

/-- The instructions of `OP` 0x40 to 0x50. -/
def buildMem (f : Fields) : Option Instr :=
  match f.op.toNat with
  | 0x40 => (rdLd f.fn).map fun (size, u) => .ld f.ctl size u f.d f.mem
  | 0x41 => (rdSize f.fn).map fun size => .st f.ctl size f.d f.mem
  | 0x42 => if f.fn = 3 then some (.ldfe f.ctl f.d f.mem) else none
  | 0x43 => if f.fn = 3 then some (.stfe f.ctl f.d f.mem) else none
  | 0x44 => if f.fn = 3 then some (.ldfp f.ctl f.d f.mem) else none
  | 0x45 => if f.fn = 0 then some (.chk f.ctl f.d f.mem) else none
  | 0x46 => if f.fn = 0 then some (.lseg f.ctl f.d f.a) else none
  | 0x47 => if f.fn = 0 then some (.stag f.ctl f.d f.mem) else none
  | 0x48 => if f.fn = 0 then some (.ltag f.ctl f.d f.mem) else none
  | 0x49 => (rdAop f.fn).map fun (op, wide, ord) => .aop f.ctl op wide ord f.d f.mem
  | 0x4A => (rdAcas f.fn).map fun (wide, ord) => .acas f.ctl wide ord f.d f.mem
  | 0x4B => (rdAld f.fn).map fun (wide, ord) => .ald f.ctl wide ord f.d f.mem
  | 0x4C => (rdAst f.fn).map fun (wide, ord) => .ast f.ctl wide ord f.d f.mem
  | 0x4D => if f.fn = 0 then some (.pub f.ctl) else none
  | 0x4E => if f.fn = 0 then some (.refresh f.ctl) else none
  | 0x4F => if f.fn = 0 then some (.phase f.ctl) else none
  | 0x50 => if f.fn = 0 then some (.pref f.ctl f.mem) else none
  | _ => none

/-- The instructions of `OP` 0x60 to 0x86. -/
def buildVec (f : Fields) : Option Instr :=
  match f.op.toNat with
  | 0x60 => if f.fn = 0 then some (.vadd f.ctl f.rnd f.sat f.d f.a f.b) else none
  | 0x61 => if f.fn = 0 then some (.vsub f.ctl f.rnd f.sat f.d f.a f.b) else none
  | 0x62 => if f.fn = 0 then some (.vmul f.ctl f.rnd f.sat f.d f.a f.b) else none
  | 0x63 => if f.fn = 0 then some (.vfma f.ctl f.rnd f.sat f.d f.a f.b) else none
  | 0x64 => if f.fn = 0 then some (.vmin f.ctl f.d f.a f.b) else none
  | 0x65 => if f.fn = 0 then some (.vmax f.ctl f.d f.a f.b) else none
  | 0x66 => if f.fn = 0 then some (.vabs f.ctl f.sat f.d f.a) else none
  | 0x67 => if f.fn = 0 then some (.vneg f.ctl f.sat f.d f.a) else none
  | 0x68 => if f.fn = 0 then some (.vrcp f.ctl f.rnd f.sat f.d f.a) else none
  | 0x69 => if f.fn = 0 then some (.vrsqrt f.ctl f.rnd f.sat f.d f.a) else none
  | 0x6A => if f.fn = 0 then some (.vexp2 f.ctl f.rnd f.sat f.d f.a) else none
  | 0x6B => if f.fn = 0 then some (.vlog2 f.ctl f.rnd f.sat f.d f.a) else none
  | 0x6C => if f.fn = 0 then some (.vdiv f.ctl f.rnd f.sat f.d f.a f.b) else none
  | 0x6D => if f.fn = 0 then some (.vsqrt f.ctl f.rnd f.sat f.d f.a) else none
  | 0x6E => if f.fn = 0 then some (.vand f.ctl f.d f.a f.b) else none
  | 0x6F => if f.fn = 0 then some (.vor f.ctl f.d f.a f.b) else none
  | 0x70 => if f.fn = 0 then some (.vxor f.ctl f.d f.a f.b) else none
  | 0x71 => if f.fn = 0 then some (.vshl f.ctl f.d f.a f.b) else none
  | 0x72 => (rdArith f.fn).map fun ar => .vshr f.ctl ar f.d f.a f.b
  | 0x73 => (rdCond f.fn).map fun cond => .vcmp f.ctl cond f.d f.a f.b
  | 0x74 => if f.fn = 0 then some (.vsel f.ctl f.m f.d f.a f.b) else none
  | 0x75 => (rdTag18 f.fn).map fun tag => .vcvt f.ctl tag f.rnd f.sat f.m01 f.d f.a
  | 0x76 => (rdTag915 f.fn).map fun tag => .vbfp f.ctl tag f.rnd f.sat f.m01 f.d f.a
  | 0x77 => (rdTag58 f.fn).map fun tag => .vunbfp f.ctl tag f.rnd f.sat f.m01 f.d f.a
  | 0x78 => if f.fn = 0 then some (.vperm f.ctl f.d f.a f.b) else none
  | 0x79 => if f.fn = 0 then some (.vbcast f.ctl f.d f.a f.bcastB) else none
  | 0x7A => if f.fn = 0 then some (.vext f.ctl f.d f.a f.b) else none
  | 0x7B => if f.fn = 0 then some (.vins f.ctl f.d f.a f.b) else none
  | 0x7C => (rdRed f.fn).map fun op => .vred f.ctl op f.rnd f.sat f.d f.a
  | 0x7D => (rdRed f.fn).map fun op => .vscan f.ctl op f.rnd f.sat f.d f.a
  | 0x7E => if f.fn = 0 then some (.vdot f.ctl f.rnd f.sat f.d f.a f.b) else none
  | 0x7F => (rdTag f.fn).map fun tag => .vld f.ctl tag f.d f.mem
  | 0x80 => if f.fn = 0 then some (.vst f.ctl f.d f.mem) else none
  | 0x81 => (rdTag f.fn).map fun tag => .vldx f.ctl tag f.d f.mem
  | 0x82 => if f.fn = 0 then some (.vstx f.ctl f.d f.mem) else none
  | 0x83 => (rdTag f.fn).map fun tag => .vtag f.ctl tag f.d f.a
  | 0x84 => if f.fn = 0 then some (.vgtag f.ctl f.d f.a) else none
  | 0x85 => if f.fn = 0 then some (.vmov f.ctl f.d f.a) else none
  | 0x86 => if f.fn = 0 then some (.vclamp f.ctl f.d f.a f.b) else none
  | _ => none

/-- The instructions of `OP` 0x90 to 0xAF. -/
def buildIvl (f : Fields) : Option Instr :=
  match f.op.toNat with
  | 0x90 => if f.fn = 0 then some (.kaddF f.ctl f.d f.a f.b) else if f.fn = 1 then some (.kaddB f.ctl f.d f.a f.b) else none
  | 0x91 => if f.fn = 0 then some (.ksubF f.ctl f.d f.a f.b) else if f.fn = 1 then some (.ksubB f.ctl f.d f.a f.b) else none
  | 0x92 => if f.fn = 0 then some (.kmulF f.ctl f.d f.a f.b) else if f.fn = 1 then some (.kmulB f.ctl f.d f.a f.b) else none
  | 0x93 => if f.fn = 0 then some (.kdivF f.ctl f.d f.a f.b) else if f.fn = 1 then some (.kdivB f.ctl f.d f.a f.b) else none
  | 0x94 => if f.fn = 0 then some (.kfmaF f.ctl f.d f.a f.b) else if f.fn = 1 then some (.kfmaB f.ctl f.d f.a f.b) else none
  | 0x95 => if f.fn = 0 then some (.knegF f.ctl f.d f.a) else if f.fn = 1 then some (.knegB f.ctl f.d f.a) else none
  | 0x96 => if f.fn = 0 then some (.kabsF f.ctl f.d f.a) else if f.fn = 1 then some (.kabsB f.ctl f.d f.a) else none
  | 0x97 => if f.fn = 0 then some (.ksqrF f.ctl f.d f.a) else if f.fn = 1 then some (.ksqrB f.ctl f.d f.a) else none
  | 0x98 => if f.fn = 0 then some (.ksqrtF f.ctl f.d f.a) else if f.fn = 1 then some (.ksqrtB f.ctl f.d f.a) else none
  | 0x99 => if f.fn = 0 then some (.kexpF f.ctl f.d f.a) else if f.fn = 1 then some (.kexpB f.ctl f.d f.a) else none
  | 0x9A => if f.fn = 0 then some (.klogF f.ctl f.d f.a) else if f.fn = 1 then some (.klogB f.ctl f.d f.a) else none
  | 0x9B => if f.fn = 0 then some (.kreluF f.ctl f.d f.a) else if f.fn = 1 then some (.kreluB f.ctl f.d f.a) else none
  | 0x9C => if f.fn = 0 then some (.kmaxF f.ctl f.d f.a f.b) else if f.fn = 1 then some (.kmaxB f.ctl f.d f.a f.b) else none
  | 0x9D => if f.fn = 0 then some (.kminF f.ctl f.d f.a f.b) else if f.fn = 1 then some (.kminB f.ctl f.d f.a f.b) else none
  | 0x9E => if f.fn = 0 then some (.kscaleF f.ctl f.d f.a f.b) else if f.fn = 1 then some (.kscaleB f.ctl f.d f.a f.b) else none
  | 0x9F => if f.fn = 0 then some (.kmacF f.ctl f.d f.a f.b) else if f.fn = 1 then some (.kmacB f.ctl f.d f.a f.b) else none
  | 0xA0 => if f.fn = 0 then some (.kcap f.ctl f.d f.a f.b) else none
  | 0xA1 => if f.fn = 0 then some (.khull f.ctl f.d f.a f.b) else none
  | 0xA2 => if f.fn = 0 then some (.kmk f.ctl f.m0 f.d f.a f.b) else none
  | 0xA3 => if f.fn = 0 then some (.klo f.ctl f.m0 f.d f.a) else none
  | 0xA4 => if f.fn = 0 then some (.khi f.ctl f.m0 f.d f.a) else none
  | 0xA5 => if f.fn = 0 then some (.kmid f.ctl f.m0 f.d f.a) else none
  | 0xA6 => if f.fn = 0 then some (.kwid f.ctl f.m0 f.d f.a) else none
  | 0xA7 => if f.fn = 0 then some (.ksplit f.ctl f.d f.a) else none
  | 0xA8 => (rdKcmp f.fn).map fun (cond, back) => if back then .kcmpB f.ctl cond f.d f.a f.b else .kcmpF f.ctl cond f.d f.a f.b
  | 0xA9 => if f.fn = 0 then some (.kin f.ctl f.d f.a f.b) else none
  | 0xAA => if f.fn = 0 then some (.kstat f.ctl f.d f.a) else none
  | 0xAB => if f.fn = 0 then some (.kld f.ctl f.d f.mem) else none
  | 0xAC => if f.fn = 0 then some (.kst f.ctl f.d f.mem) else none
  | 0xAD => if f.fn = 0 then some (.kmov f.ctl f.d f.a) else none
  | 0xAE => if f.fn = 0 then some (.kset f.ctl f.d f.a f.b) else none
  | 0xAF => (rdMlog f.fn).map fun fn => .mlog f.ctl fn f.d f.a (if fn.unary then .none else f.b)
  | _ => none

/-- The instructions of `OP` 0xB0 to 0xBC. -/
def buildCore (f : Fields) : Option Instr :=
  match f.op.toNat with
  | 0xB0 => if f.fn = 0 then some (.qld f.ctl f.d f.mem) else none
  | 0xB1 => if f.fn = 0 then some (.qst f.ctl f.d f.mem) else none
  | 0xB2 => if f.fn = 0 then some (.qcnt f.ctl f.d f.a) else none
  | 0xB3 => if f.fn = 0 then some (.qclr f.ctl f.d f.a) else none
  | 0xB4 => if f.fn = 0 then some (.borrow f.ctl f.d f.a) else none
  | 0xB5 => if f.fn = 0 then some (.bret f.ctl) else none
  | 0xB6 => if f.fn = 0 then some (.xmov f.ctl f.d f.a) else none
  | 0xB7 => if f.fn = 0 then some (.sendr f.ctl f.d f.a f.b) else none
  | 0xB8 => if f.fn = 0 then some (.sendw f.ctl f.a f.b) else none
  | 0xB9 => if f.fn = 0 then some (.send f.ctl f.a f.b) else none
  | 0xBA => if f.fn = 0 then some (.mcast f.ctl f.d f.a f.b) else none
  | 0xBB => if f.fn = 0 then some (.migrate f.ctl f.mem) else none
  | 0xBC => if f.fn = 0 then some (.wait f.ctl) else none
  | _ => none

/-- The instructions of `OP` 0xC0 to 0xCD. -/
def buildClu (f : Fields) : Option Instr :=
  match f.op.toNat with
  | 0xC0 => if f.fn = 0 then some (.mma f.ctl f.sat f.m01 f.d f.a f.b) else none
  | 0xC1 => if f.fn = 0 then some (.mmac f.ctl f.sat f.m01 f.d f.a f.b) else none
  | 0xC2 => if f.fn = 0 then some (.mzero f.ctl f.m01 f.d f.a f.b) else none
  | 0xC3 => if f.fn = 0 then some (.mrd f.ctl f.sat f.m01 f.d f.a f.b) else none
  | 0xC4 => if f.fn = 0 then some (.mwr f.ctl f.m01 f.d f.a f.b) else none
  | 0xC5 => if f.fn = 0 then some (.tdef f.ctl f.m f.d f.a f.b) else none
  | 0xC6 => if f.fn = 0 then some (.trel f.ctl f.a) else none
  | 0xC7 => if f.fn = 0 then some (.tstat f.ctl f.d f.a) else none
  | 0xC8 => if f.fn = 0 then some (.twait f.ctl f.a) else none
  | 0xC9 => if f.fn = 0 then some (.cpy f.ctl f.m01 f.d f.a f.b) else none
  | 0xCA => if f.fn = 0 then some (.jpoll f.ctl f.d f.a) else none
  | 0xCB => if f.fn = 0 then some (.jwait f.ctl f.d f.a) else none
  | 0xCC => if f.fn = 0 then some (.qfence f.ctl f.d f.a) else none
  | 0xCD => if f.fn = 0 then some (.tsub f.ctl f.d f.a f.b) else none
  | _ => none

/-- The instructions of `OP` 0xD0 to 0xD5. -/
def buildFab (f : Fields) : Option Instr :=
  match f.op.toNat with
  | 0xD0 => if f.fn = 0 then some (.put f.ctl f.d f.a) else none
  | 0xD1 => if f.fn = 0 then some (.puts f.ctl f.d f.a) else none
  | 0xD2 => if f.fn = 0 then some (.get f.ctl f.d f.a) else none
  | 0xD3 => if f.fn = 0 then some (.cwait f.ctl f.d f.a f.b) else none
  | 0xD4 => if f.fn = 0 then some (.cread f.ctl f.d f.a) else none
  | 0xD5 => if f.fn = 0 then some (.cadd f.ctl f.d f.a f.b) else none
  | _ => none

/-- The instructions of `OP` 0xE0 to 0xE5. -/
def buildSys (f : Fields) : Option Instr :=
  match f.op.toNat with
  | 0xE0 => if f.fn = 0 then some (.trap f.ctl f.a) else none
  | 0xE1 => if f.fn = 0 then some (.brk f.ctl) else none
  | 0xE2 => if f.fn = 0 then some (.xrd f.ctl f.d f.a) else none
  | 0xE3 => if f.fn = 0 then some (.xwr f.ctl f.d f.a) else none
  | 0xE4 => if f.fn = 0 then some (if f.m0 then .cycDeadline f.ctl f.d f.a else .cyc f.ctl f.d) else none
  | 0xE5 => if f.fn = 0 then some (.idle f.ctl f.a) else none
  | _ => none

/-- The instruction of a word's `OP` and `FN`, its fields read without checks; none where the pair is unassigned (R55). -/
def build (f : Fields) : Option Instr :=
  if f.op.toNat ≤ 0x1F then buildInt f else
  if f.op.toNat ≤ 0x2D then buildFloat f else
  if f.op.toNat ≤ 0x38 then buildCtl f else
  if f.op.toNat ≤ 0x50 then buildMem f else
  if f.op.toNat ≤ 0x86 then buildVec f else
  if f.op.toNat ≤ 0xAF then buildIvl f else
  if f.op.toNat ≤ 0xBC then buildCore f else
  if f.op.toNat ≤ 0xCD then buildClu f else
  if f.op.toNat ≤ 0xD5 then buildFab f else
  buildSys f

/-! ### Decoding (R28) -/

/-- The `OP` values of R55. -/
def assignedOp (op : BitVec 8) : Bool :=
  let n := op.toNat
  (0x01 ≤ n && n ≤ 0x2D) || (0x30 ≤ n && n ≤ 0x38) || (0x40 ≤ n && n ≤ 0x50) || (0x60 ≤ n && n ≤ 0x86) ||
  (0x90 ≤ n && n ≤ 0xBC) || (0xC0 ≤ n && n ≤ 0xCD) || (0xD0 ≤ n && n ≤ 0xD5) || (0xE0 ≤ n && n ≤ 0xE5)

/-- Whether `MOD`[6:4] is one the entry allows (R25). -/
def MUse.allows (u : MUse) (m : BitVec 3) : Bool :=
  match u with
  | .zero => m = 0
  | .low1 => m.toNat < 2
  | .low2 => m.toNat < 4
  | .any => true

/-- The check of detail 5 (R23, R25, R26). -/
def modOk (s : Shape) (f : Fields) : Bool :=
  (s.rnd || f.mod.extractLsb' 0 3 = 0) && (s.sat || !f.sat) && s.m.allows f.m && (s.wi || !f.wi)

/-- The field checks in the order D, A, B; none of bits [39:0] in a wide form (R26). -/
def checkFields (s : Shape) (f : Fields) : Option Illop :=
  match checkField 0 f.opd s.d with
  | some e => some e
  | none =>
    if f.wi then none else
    match checkField 1 f.opa s.a with
    | some e => some e
    | none => checkField 2 f.opb s.b

/-- Decoding of a word: the checks of R28 in their order. -/
def decode (w : InstrWord) : Except Illop Instr :=
  if w = 0 then .error .zeroWord
  else if w = BitVec.allOnes 96 then .error .onesWord
  else
    let f := unpack w
    if !assignedOp f.op then .error .unassignedOp
    else match build f with
      | none => .error .unassignedFn
      | some i =>
        if f.hint.extractLsb' 0 6 ≠ 0 then .error .hintReserved
        else if 6 ≤ (f.mod.extractLsb' 0 3).toNat then .error .roundingCode
        else if !modOk i.shape f then .error (.modNotAllowed f.mod)
        else match checkFields i.shape f with
          | some e => .error e
          | none => .ok i

/-! ### Encoding -/

def Ctl.gnBit (c : Ctl) : BitVec 1 := bit1 c.gn
def Ctl.gpBits (c : Ctl) : BitVec 3 := BitVec.ofNat 3 c.gp.val
def Ctl.hintBits (c : Ctl) : BitVec 8 := bit1 c.t ++ bit1 c.d ++ 0#6
def segBits (r : MemRef) : BitVec 3 := BitVec.ofNat 3 r.seg.val
def modOf (rnd : Rnd) (sat : Bool) (m : BitVec 3) (wi : Bool) : BitVec 8 :=
  bit1 wi ++ m ++ bit1 sat ++ rnd.code

/-- Bits [39:0]: the wide immediate, or the fields A and B. -/
def loBits (a b : Opnd) : BitVec 40 :=
  match b with
  | .wide v => v
  | _ => a.enc ++ b.enc

def mkFields (op fn : BitVec 8) (c : Ctl) (mod : BitVec 8) (d a b : Opnd) : Fields :=
  ⟨op, fn, c.gnBit, c.gpBits, c.hintBits, mod, d.enc, loBits a b⟩

/-- The fields of an instruction; none for a machine event. -/
def fieldsOf : Instr → Option Fields
  | .nop c => some (mkFields 0x01 0 c (modOf .dyn false 0 false) .none .none .none)
  | .mov c w u d a => some (mkFields 0x02 (fnWu w u) c (modOf .dyn false 0 false) d a .none)
  | .movi c w u d b => some (mkFields 0x03 (fnWu w u) c (modOf .dyn false 0 b.isWide) d .none b)
  | .add c w u st d a b => some (mkFields 0x04 (fnWus w u st) c (modOf .dyn false 0 b.isWide) d a b)
  | .sub c w u st d a b => some (mkFields 0x05 (fnWus w u st) c (modOf .dyn false 0 b.isWide) d a b)
  | .mul c w u st d a b => some (mkFields 0x06 (fnWus w u st) c (modOf .dyn false 0 false) d a b)
  | .mulh c w u d a b => some (mkFields 0x07 (fnWu w u) c (modOf .dyn false 0 false) d a b)
  | .div c w u d a b => some (mkFields 0x08 (fnWu w u) c (modOf .dyn false 0 false) d a b)
  | .rem c w u d a b => some (mkFields 0x09 (fnWu w u) c (modOf .dyn false 0 false) d a b)
  | .min c w u d a b => some (mkFields 0x0A (fnWu w u) c (modOf .dyn false 0 b.isWide) d a b)
  | .max c w u d a b => some (mkFields 0x0B (fnWu w u) c (modOf .dyn false 0 b.isWide) d a b)
  | .abs c w st d a => some (mkFields 0x0C (fnWs w st) c (modOf .dyn false 0 false) d a .none)
  | .and c d a b => some (mkFields 0x0D 0 c (modOf .dyn false 0 b.isWide) d a b)
  | .or c d a b => some (mkFields 0x0E 0 c (modOf .dyn false 0 b.isWide) d a b)
  | .xor c d a b => some (mkFields 0x0F 0 c (modOf .dyn false 0 b.isWide) d a b)
  | .andn c d a b => some (mkFields 0x10 0 c (modOf .dyn false 0 b.isWide) d a b)
  | .shl c w d a b => some (mkFields 0x11 (fnW w) c (modOf .dyn false 0 false) d a b)
  | .shr c w d a b => some (mkFields 0x12 (fnW w) c (modOf .dyn false 0 false) d a b)
  | .sar c w d a b => some (mkFields 0x13 (fnW w) c (modOf .dyn false 0 false) d a b)
  | .rot c w d a b => some (mkFields 0x14 (fnW w) c (modOf .dyn false 0 false) d a b)
  | .clz c w d a => some (mkFields 0x15 (fnW w) c (modOf .dyn false 0 false) d a .none)
  | .ctz c w d a => some (mkFields 0x16 (fnW w) c (modOf .dyn false 0 false) d a .none)
  | .popc c w d a => some (mkFields 0x17 (fnW w) c (modOf .dyn false 0 false) d a .none)
  | .bext c d a b => some (mkFields 0x18 0 c (modOf .dyn false 0 false) d a b)
  | .bins c d a b => some (mkFields 0x19 0 c (modOf .dyn false 0 false) d a b)
  | .ext c w u d a b => some (mkFields 0x1A (fnWu w u) c (modOf .dyn false 0 false) d a b)
  | .sel c n d a b => some (mkFields 0x1B 0 c (modOf .dyn false n false) d a b)
  | .cmp c w u cond d a b => some (mkFields 0x1C (fnCmp w u cond) c (modOf .dyn false 0 b.isWide) d a b)
  | .plog c tt d a b => some (mkFields 0x1D (fnTable tt) c (modOf .dyn false 0 false) d a b)
  | .pmov c d a => some (mkFields 0x1E 0 c (modOf .dyn false 0 false) d a .none)
  | .lea c n d a b => some (mkFields 0x1F 0 c (modOf .dyn false n false) d a b)
  | .fadd c fmt rnd d a b => some (mkFields 0x20 (fnFmt fmt) c (modOf rnd false 0 false) d a b)
  | .fsub c fmt rnd d a b => some (mkFields 0x21 (fnFmt fmt) c (modOf rnd false 0 false) d a b)
  | .fmul c fmt rnd d a b => some (mkFields 0x22 (fnFmt fmt) c (modOf rnd false 0 false) d a b)
  | .fma c fmt rnd d a b => some (mkFields 0x23 (fnFmt fmt) c (modOf rnd false 0 false) d a b)
  | .fdiv c fmt rnd d a b => some (mkFields 0x24 (fnFmt fmt) c (modOf rnd false 0 false) d a b)
  | .fsqrt c fmt rnd d a => some (mkFields 0x25 (fnFmt fmt) c (modOf rnd false 0 false) d a .none)
  | .fmin c fmt d a b => some (mkFields 0x26 (fnFmt fmt) c (modOf .dyn false 0 false) d a b)
  | .fmax c fmt d a b => some (mkFields 0x27 (fnFmt fmt) c (modOf .dyn false 0 false) d a b)
  | .fabs c fmt d a => some (mkFields 0x28 (fnFmt fmt) c (modOf .dyn false 0 false) d a .none)
  | .fneg c fmt d a => some (mkFields 0x29 (fnFmt fmt) c (modOf .dyn false 0 false) d a .none)
  | .fcmp c fmt cond d a b => some (mkFields 0x2A (fnFcmp fmt cond) c (modOf .dyn false 0 false) d a b)
  | .fcvt c k rnd sat d a => some (mkFields 0x2B (fnCvt k) c (modOf rnd sat 0 false) d a .none)
  | .fclass c fmt d a => some (mkFields 0x2C (fnFmt fmt) c (modOf .dyn false 0 false) d a .none)
  | .frnd c fmt rnd d a => some (mkFields 0x2D (fnFmt fmt) c (modOf rnd false 0 false) d a .none)
  | .br c b => some (mkFields 0x30 0 c (modOf .dyn false 0 false) .none .none b)
  | .brr c a => some (mkFields 0x31 0 c (modOf .dyn false 0 false) .none a .none)
  | .call c d b => some (mkFields 0x32 0 c (modOf .dyn false 0 false) d .none b)
  | .ret c a => some (mkFields 0x33 0 c (modOf .dyn false 0 false) .none a .none)
  | .loop c d b => some (mkFields 0x34 0 c (modOf .dyn false 0 false) d .none b)
  | .exit c => some (mkFields 0x35 0 c (modOf .dyn false 0 false) .none .none .none)
  | .spawn c mig d a b => some (mkFields 0x36 0 c (modOf .dyn false (bit3 mig) false) d a b)
  | .join c a => some (mkFields 0x37 0 c (modOf .dyn false 0 false) .none a .none)
  | .slot c d => some (mkFields 0x38 0 c (modOf .dyn false 0 false) d .none .none)
  | .ld c size u d r => some (mkFields 0x40 (fnLd size u) c (modOf .dyn false (segBits r) false) d r.base r.off)
  | .st c size d r => some (mkFields 0x41 (fnSize size) c (modOf .dyn false (segBits r) false) d r.base r.off)
  | .ldfe c d r => some (mkFields 0x42 3 c (modOf .dyn false (segBits r) false) d r.base r.off)
  | .stfe c d r => some (mkFields 0x43 3 c (modOf .dyn false (segBits r) false) d r.base r.off)
  | .ldfp c d r => some (mkFields 0x44 3 c (modOf .dyn false (segBits r) false) d r.base r.off)
  | .chk c d r => some (mkFields 0x45 0 c (modOf .dyn false (segBits r) false) d r.base r.off)
  | .lseg c d a => some (mkFields 0x46 0 c (modOf .dyn false 0 false) d a .none)
  | .stag c d r => some (mkFields 0x47 0 c (modOf .dyn false (segBits r) false) d r.base r.off)
  | .ltag c d r => some (mkFields 0x48 0 c (modOf .dyn false (segBits r) false) d r.base r.off)
  | .aop c op wide ord d r => some (mkFields 0x49 (fnAop op wide ord) c (modOf .dyn false (segBits r) false) d r.base r.off)
  | .acas c wide ord d r => some (mkFields 0x4A (fnAtom wide ord) c (modOf .dyn false (segBits r) false) d r.base r.off)
  | .ald c wide ord d r => some (mkFields 0x4B (fnAtom wide ord) c (modOf .dyn false (segBits r) false) d r.base r.off)
  | .ast c wide ord d r => some (mkFields 0x4C (fnAtom wide ord) c (modOf .dyn false (segBits r) false) d r.base r.off)
  | .pub c => some (mkFields 0x4D 0 c (modOf .dyn false 0 false) .none .none .none)
  | .refresh c => some (mkFields 0x4E 0 c (modOf .dyn false 0 false) .none .none .none)
  | .phase c => some (mkFields 0x4F 0 c (modOf .dyn false 0 false) .none .none .none)
  | .pref c r => some (mkFields 0x50 0 c (modOf .dyn false (segBits r) false) .none r.base r.off)
  | .vadd c rnd sat d a b => some (mkFields 0x60 0 c (modOf rnd sat 0 false) d a b)
  | .vsub c rnd sat d a b => some (mkFields 0x61 0 c (modOf rnd sat 0 false) d a b)
  | .vmul c rnd sat d a b => some (mkFields 0x62 0 c (modOf rnd sat 0 false) d a b)
  | .vfma c rnd sat d a b => some (mkFields 0x63 0 c (modOf rnd sat 0 false) d a b)
  | .vmin c d a b => some (mkFields 0x64 0 c (modOf .dyn false 0 false) d a b)
  | .vmax c d a b => some (mkFields 0x65 0 c (modOf .dyn false 0 false) d a b)
  | .vabs c sat d a => some (mkFields 0x66 0 c (modOf .dyn sat 0 false) d a .none)
  | .vneg c sat d a => some (mkFields 0x67 0 c (modOf .dyn sat 0 false) d a .none)
  | .vrcp c rnd sat d a => some (mkFields 0x68 0 c (modOf rnd sat 0 false) d a .none)
  | .vrsqrt c rnd sat d a => some (mkFields 0x69 0 c (modOf rnd sat 0 false) d a .none)
  | .vexp2 c rnd sat d a => some (mkFields 0x6A 0 c (modOf rnd sat 0 false) d a .none)
  | .vlog2 c rnd sat d a => some (mkFields 0x6B 0 c (modOf rnd sat 0 false) d a .none)
  | .vdiv c rnd sat d a b => some (mkFields 0x6C 0 c (modOf rnd sat 0 false) d a b)
  | .vsqrt c rnd sat d a => some (mkFields 0x6D 0 c (modOf rnd sat 0 false) d a .none)
  | .vand c d a b => some (mkFields 0x6E 0 c (modOf .dyn false 0 false) d a b)
  | .vor c d a b => some (mkFields 0x6F 0 c (modOf .dyn false 0 false) d a b)
  | .vxor c d a b => some (mkFields 0x70 0 c (modOf .dyn false 0 false) d a b)
  | .vshl c d a b => some (mkFields 0x71 0 c (modOf .dyn false 0 false) d a b)
  | .vshr c ar d a b => some (mkFields 0x72 (fnArith ar) c (modOf .dyn false 0 false) d a b)
  | .vcmp c cond d a b => some (mkFields 0x73 (fnCond cond) c (modOf .dyn false 0 false) d a b)
  | .vsel c n d a b => some (mkFields 0x74 0 c (modOf .dyn false n false) d a b)
  | .vcvt c tag rnd sat part d a => some (mkFields 0x75 (fnTag tag) c (modOf rnd sat (bit3of2 part) false) d a .none)
  | .vbfp c tag rnd sat part d a => some (mkFields 0x76 (fnTag tag) c (modOf rnd sat (bit3of2 part) false) d a .none)
  | .vunbfp c tag rnd sat part d a => some (mkFields 0x77 (fnTag tag) c (modOf rnd sat (bit3of2 part) false) d a .none)
  | .vperm c d a b => some (mkFields 0x78 0 c (modOf .dyn false 0 false) d a b)
  | .vbcast c d a b => some (mkFields 0x79 0 c (modOf .dyn false 0 false) d a b)
  | .vext c d a b => some (mkFields 0x7A 0 c (modOf .dyn false 0 false) d a b)
  | .vins c d a b => some (mkFields 0x7B 0 c (modOf .dyn false 0 false) d a b)
  | .vred c op rnd sat d a => some (mkFields 0x7C (fnRed op) c (modOf rnd sat 0 false) d a .none)
  | .vscan c op rnd sat d a => some (mkFields 0x7D (fnRed op) c (modOf rnd sat 0 false) d a .none)
  | .vdot c rnd sat d a b => some (mkFields 0x7E 0 c (modOf rnd sat 0 false) d a b)
  | .vld c tag d r => some (mkFields 0x7F (fnTag tag) c (modOf .dyn false (segBits r) false) d r.base r.off)
  | .vst c d r => some (mkFields 0x80 0 c (modOf .dyn false (segBits r) false) d r.base r.off)
  | .vldx c tag d r => some (mkFields 0x81 (fnTag tag) c (modOf .dyn false (segBits r) false) d r.base r.off)
  | .vstx c d r => some (mkFields 0x82 0 c (modOf .dyn false (segBits r) false) d r.base r.off)
  | .vtag c tag d a => some (mkFields 0x83 (fnTag tag) c (modOf .dyn false 0 false) d a .none)
  | .vgtag c d a => some (mkFields 0x84 0 c (modOf .dyn false 0 false) d a .none)
  | .vmov c d a => some (mkFields 0x85 0 c (modOf .dyn false 0 false) d a .none)
  | .vclamp c d a b => some (mkFields 0x86 0 c (modOf .dyn false 0 false) d a b)
  | .kaddF c d a b => some (mkFields 0x90 0 c (modOf .dyn false 0 false) d a b)
  | .kaddB c d a b => some (mkFields 0x90 1 c (modOf .dyn false 0 false) d a b)
  | .ksubF c d a b => some (mkFields 0x91 0 c (modOf .dyn false 0 false) d a b)
  | .ksubB c d a b => some (mkFields 0x91 1 c (modOf .dyn false 0 false) d a b)
  | .kmulF c d a b => some (mkFields 0x92 0 c (modOf .dyn false 0 false) d a b)
  | .kmulB c d a b => some (mkFields 0x92 1 c (modOf .dyn false 0 false) d a b)
  | .kdivF c d a b => some (mkFields 0x93 0 c (modOf .dyn false 0 false) d a b)
  | .kdivB c d a b => some (mkFields 0x93 1 c (modOf .dyn false 0 false) d a b)
  | .kfmaF c d a b => some (mkFields 0x94 0 c (modOf .dyn false 0 false) d a b)
  | .kfmaB c d a b => some (mkFields 0x94 1 c (modOf .dyn false 0 false) d a b)
  | .knegF c d a => some (mkFields 0x95 0 c (modOf .dyn false 0 false) d a .none)
  | .knegB c d a => some (mkFields 0x95 1 c (modOf .dyn false 0 false) d a .none)
  | .kabsF c d a => some (mkFields 0x96 0 c (modOf .dyn false 0 false) d a .none)
  | .kabsB c d a => some (mkFields 0x96 1 c (modOf .dyn false 0 false) d a .none)
  | .ksqrF c d a => some (mkFields 0x97 0 c (modOf .dyn false 0 false) d a .none)
  | .ksqrB c d a => some (mkFields 0x97 1 c (modOf .dyn false 0 false) d a .none)
  | .ksqrtF c d a => some (mkFields 0x98 0 c (modOf .dyn false 0 false) d a .none)
  | .ksqrtB c d a => some (mkFields 0x98 1 c (modOf .dyn false 0 false) d a .none)
  | .kexpF c d a => some (mkFields 0x99 0 c (modOf .dyn false 0 false) d a .none)
  | .kexpB c d a => some (mkFields 0x99 1 c (modOf .dyn false 0 false) d a .none)
  | .klogF c d a => some (mkFields 0x9A 0 c (modOf .dyn false 0 false) d a .none)
  | .klogB c d a => some (mkFields 0x9A 1 c (modOf .dyn false 0 false) d a .none)
  | .kreluF c d a => some (mkFields 0x9B 0 c (modOf .dyn false 0 false) d a .none)
  | .kreluB c d a => some (mkFields 0x9B 1 c (modOf .dyn false 0 false) d a .none)
  | .kmaxF c d a b => some (mkFields 0x9C 0 c (modOf .dyn false 0 false) d a b)
  | .kmaxB c d a b => some (mkFields 0x9C 1 c (modOf .dyn false 0 false) d a b)
  | .kminF c d a b => some (mkFields 0x9D 0 c (modOf .dyn false 0 false) d a b)
  | .kminB c d a b => some (mkFields 0x9D 1 c (modOf .dyn false 0 false) d a b)
  | .kscaleF c d a b => some (mkFields 0x9E 0 c (modOf .dyn false 0 false) d a b)
  | .kscaleB c d a b => some (mkFields 0x9E 1 c (modOf .dyn false 0 false) d a b)
  | .kmacF c d a b => some (mkFields 0x9F 0 c (modOf .dyn false 0 false) d a b)
  | .kmacB c d a b => some (mkFields 0x9F 1 c (modOf .dyn false 0 false) d a b)
  | .kcap c d a b => some (mkFields 0xA0 0 c (modOf .dyn false 0 false) d a b)
  | .khull c d a b => some (mkFields 0xA1 0 c (modOf .dyn false 0 false) d a b)
  | .kmk c part d a b => some (mkFields 0xA2 0 c (modOf .dyn false (bit3 part) false) d a b)
  | .klo c part d a => some (mkFields 0xA3 0 c (modOf .dyn false (bit3 part) false) d a .none)
  | .khi c part d a => some (mkFields 0xA4 0 c (modOf .dyn false (bit3 part) false) d a .none)
  | .kmid c part d a => some (mkFields 0xA5 0 c (modOf .dyn false (bit3 part) false) d a .none)
  | .kwid c part d a => some (mkFields 0xA6 0 c (modOf .dyn false (bit3 part) false) d a .none)
  | .ksplit c d a => some (mkFields 0xA7 0 c (modOf .dyn false 0 false) d a .none)
  | .kcmpF c cond d a b => some (mkFields 0xA8 (fnKcmp cond false) c (modOf .dyn false 0 false) d a b)
  | .kcmpB c cond d a b => some (mkFields 0xA8 (fnKcmp cond true) c (modOf .dyn false 0 false) d a b)
  | .kin c d a b => some (mkFields 0xA9 0 c (modOf .dyn false 0 false) d a b)
  | .kstat c d a => some (mkFields 0xAA 0 c (modOf .dyn false 0 false) d a .none)
  | .kld c d r => some (mkFields 0xAB 0 c (modOf .dyn false (segBits r) false) d r.base r.off)
  | .kst c d r => some (mkFields 0xAC 0 c (modOf .dyn false (segBits r) false) d r.base r.off)
  | .kmov c d a => some (mkFields 0xAD 0 c (modOf .dyn false 0 false) d a .none)
  | .kset c d a b => some (mkFields 0xAE 0 c (modOf .dyn false 0 false) d a b)
  | .mlog c fn d a b => some (mkFields 0xAF (fnMlog fn) c (modOf .dyn false 0 false) d a b)
  | .qld c d r => some (mkFields 0xB0 0 c (modOf .dyn false (segBits r) false) d r.base r.off)
  | .qst c d r => some (mkFields 0xB1 0 c (modOf .dyn false (segBits r) false) d r.base r.off)
  | .qcnt c d a => some (mkFields 0xB2 0 c (modOf .dyn false 0 false) d a .none)
  | .qclr c d a => some (mkFields 0xB3 0 c (modOf .dyn false 0 false) d a .none)
  | .borrow c d a => some (mkFields 0xB4 0 c (modOf .dyn false 0 false) d a .none)
  | .bret c => some (mkFields 0xB5 0 c (modOf .dyn false 0 false) .none .none .none)
  | .xmov c d a => some (mkFields 0xB6 0 c (modOf .dyn false 0 false) d a .none)
  | .sendr c d a b => some (mkFields 0xB7 0 c (modOf .dyn false 0 false) d a b)
  | .sendw c a b => some (mkFields 0xB8 0 c (modOf .dyn false 0 false) .none a b)
  | .send c a b => some (mkFields 0xB9 0 c (modOf .dyn false 0 false) .none a b)
  | .mcast c d a b => some (mkFields 0xBA 0 c (modOf .dyn false 0 false) d a b)
  | .migrate c r => some (mkFields 0xBB 0 c (modOf .dyn false (segBits r) false) .none r.base r.off)
  | .wait c => some (mkFields 0xBC 0 c (modOf .dyn false 0 false) .none .none .none)
  | .mma c sat mq d a b => some (mkFields 0xC0 0 c (modOf .dyn sat (bit3of2 mq) false) d a b)
  | .mmac c sat mq d a b => some (mkFields 0xC1 0 c (modOf .dyn sat (bit3of2 mq) false) d a b)
  | .mzero c mq d a b => some (mkFields 0xC2 0 c (modOf .dyn false (bit3of2 mq) false) d a b)
  | .mrd c sat mq d a b => some (mkFields 0xC3 0 c (modOf .dyn sat (bit3of2 mq) false) d a b)
  | .mwr c mq d a b => some (mkFields 0xC4 0 c (modOf .dyn false (bit3of2 mq) false) d a b)
  | .tdef c n d a b => some (mkFields 0xC5 0 c (modOf .dyn false n false) d a b)
  | .trel c a => some (mkFields 0xC6 0 c (modOf .dyn false 0 false) .none a .none)
  | .tstat c d a => some (mkFields 0xC7 0 c (modOf .dyn false 0 false) d a .none)
  | .twait c a => some (mkFields 0xC8 0 c (modOf .dyn false 0 false) .none a .none)
  | .cpy c mq d a b => some (mkFields 0xC9 0 c (modOf .dyn false (bit3of2 mq) false) d a b)
  | .jpoll c d a => some (mkFields 0xCA 0 c (modOf .dyn false 0 false) d a .none)
  | .jwait c d a => some (mkFields 0xCB 0 c (modOf .dyn false 0 false) d a .none)
  | .qfence c d a => some (mkFields 0xCC 0 c (modOf .dyn false 0 false) d a .none)
  | .tsub c d a b => some (mkFields 0xCD 0 c (modOf .dyn false 0 false) d a b)
  | .put c d a => some (mkFields 0xD0 0 c (modOf .dyn false 0 false) d a .none)
  | .puts c d a => some (mkFields 0xD1 0 c (modOf .dyn false 0 false) d a .none)
  | .get c d a => some (mkFields 0xD2 0 c (modOf .dyn false 0 false) d a .none)
  | .cwait c d a b => some (mkFields 0xD3 0 c (modOf .dyn false 0 false) d a b)
  | .cread c d a => some (mkFields 0xD4 0 c (modOf .dyn false 0 false) d a .none)
  | .cadd c d a b => some (mkFields 0xD5 0 c (modOf .dyn false 0 false) d a b)
  | .trap c a => some (mkFields 0xE0 0 c (modOf .dyn false 0 false) .none a .none)
  | .brk c => some (mkFields 0xE1 0 c (modOf .dyn false 0 false) .none .none .none)
  | .xrd c d a => some (mkFields 0xE2 0 c (modOf .dyn false 0 false) d a .none)
  | .xwr c d a => some (mkFields 0xE3 0 c (modOf .dyn false 0 false) d a .none)
  | .cyc c d => some (mkFields 0xE4 0 c (modOf .dyn false 0 false) d .none .none)
  | .cycDeadline c d a => some (mkFields 0xE4 0 c (modOf .dyn false 1 false) d a .none)
  | .idle c a => some (mkFields 0xE5 0 c (modOf .dyn false 0 false) .none a .none)
  | .patrolScrub .. | .pageEntryChange .. | .pageMigrate .. | .groupPlace .. | .qkick .. | .qbase .. | .qctl ..
  | .cap .. | .registerWrite .. | .tempUpdate .. | .restore .. | .partitionAssign | .contextTagReside .. | .windowRegister .. | .boot ..
  | .doeAttestation .. | .doeIdeKm .. | .bar2Write .. | .linkFlitReceive .. | .fabricPutArrival ..
  | .fabricGetArrival .. | .fabricGetData .. | .descriptorCreate .. | .routeTableWrite .. | .spanFreezeEnd
  | .publicationComplete | .remoteAccessReply | .qldDataArrival | .depositLanding | .idleExpiry | .vectorUnitGate
  | .vectorUnitWake | .coreGate | .coreWakeComplete | .coreReset | .heldWritePerform | .waitArrival | .marverFire
  | .barrierRelease | .gafferStep | .gafferRecordRead | .walkProbe | .pagerComplete | .pagerDecline | .packetHeadArrival
  | .packetEndArrival | .abortFlitArrival | .partialPacketTimeout | .packetAdmit | .spillMove | .replyAccept
  | .replyAdmit | .replyRefuse | .replyBounce | .replyFree | .retentionResendTimeout | .admitResend | .flitAgeDiscard
  | .linkFlitCrcFail | .remoteFeRequest | .feParkTimeout | .replyRetry | .feRetryResend | .matrixJobStart
  | .matrixJobEnd | .matrixJobComplete | .copyJobStart | .bytesLand | .copyJobComplete | .qfenceComplete
  | .subscriptionTileStart | .storerWritebackComplete | .packetLaunch | .packetGraph | .packetWait | .waitPacketPoll
  | .packetSignal | .packetCancel | .scoreboardEnter | .groupRelease | .priorityAge | .groupStart | .groupRetire
  | .groupCancel | .launchComplete | .jctl | .powerWindow | .thermalEventClear | .haltRequest | .haltTakeEffect
  | .haltPacketTimeout | .restoreIssueResume | .lazyRegionSave | .schedulerCoreError
  | .standbyFailure | .doeDiscovery | .bar2Read | .atsInvalidation | .linkReplayTimeout | .fabricAck | .fabricOpTimeout
  | .arrivalAtHome | .copyLastTileRead | .codeBufferLoadComplete | .routerParityDiscard | .coreResetComplete => none

/-- The word of an instruction; none for a machine event. -/
def encode (i : Instr) : Option InstrWord := (fieldsOf i).map pack

/-! ### Bytes (R12) -/

/-- A word from its 12 bytes, the lowest address first. -/
def wordOfBytes (bs : List Byte) : Nat := bs.foldr (fun b acc => b.toNat + 256 * acc) 0

/-- The bytes of a number, the lowest first. -/
def bytesOf : Nat → Nat → List Byte
  | 0, _ => []
  | n + 1, w => BitVec.ofNat 8 w :: bytesOf n (w / 256)

/-- The result of decoding bytes: a fetch of fewer than 12 bytes decodes nothing. -/
inductive BytesResult where
  | short
  | illop (e : Illop)
  | instr (i : Instr) (rest : List Byte)
  deriving DecidableEq, Repr

/-- Decoding of the bytes at a program counter, total on any bytes. -/
def decodeBytes (bs : List Byte) : BytesResult :=
  if bs.length < 12 then .short
  else match decode (BitVec.ofNat 96 (wordOfBytes (bs.take 12))) with
    | .error e => .illop e
    | .ok i => .instr i (bs.drop 12)

/-- The instruction the decoder reads from a word of `nbits` bits numbered as the opcode table numbers them. -/
def decodeTableWord (nbits w : Nat) : Option Instr :=
  match decodeBytes (bytesOf 12 (w % 2 ^ nbits)) with
  | .instr i _ => some i
  | _ => none

end Sys2Proof
end

