-- ==== Sys2Proof/Machine/Num.lean ====
section
/-! DEFINITION. Numbers: integer fitting (R88), binary floating point (R90 to R98), rounding (R94 to R96) and the exact
values that are rounded. Reals that are not dyadic (quotients, roots, logarithms) are held truncated with a sticky mark,
precise enough that rounding cannot tell the difference. -/

namespace Sys2Proof.Machine

/-! ### Bits -/

/-- Bits `[i + n − 1 : i]` of a number. -/
def bitsAt (w i n : Nat) : Nat := w / 2 ^ i % 2 ^ n

/-- The number whose low `n` bits are `w`, read as two's complement. -/
def toSigned (n w : Nat) : Int :=
  let u := w % 2 ^ n
  if u < 2 ^ (n - 1) then (u : Int) else (u : Int) - 2 ^ n

/-- The low `n` bits of an integer. -/
def ofInt (n : Nat) (x : Int) : Nat := (x % 2 ^ n).toNat

/-- A value of `n` bits read as signed or unsigned. -/
def readInt (u : Bool) (n w : Nat) : Int := if u then ((w % 2 ^ n : Nat) : Int) else toSigned n w

/-- An exact result fitted to `n` bits: wrapping, or clamped under saturation (R88). -/
def fitInt (sat u : Bool) (n : Nat) (x : Int) : Nat :=
  if sat then
    let lo : Int := if u then 0 else -(2 ^ (n - 1))
    let hi : Int := if u then 2 ^ n - 1 else 2 ^ (n - 1) - 1
    ofInt n (max lo (min hi x))
  else ofInt n x

/-- Quotient rounded toward zero (R120). -/
def truncDiv (a b : Int) : Int := Int.tdiv a b

/-- The integer square root, by bits from `b` down. -/
def isqrtFrom (n : Nat) : Nat → Nat → Nat
  | 0, r => r
  | b + 1, r => let r' := r + 2 ^ b; isqrtFrom n b (if r' * r' ≤ n then r' else r)

def isqrt (n : Nat) : Nat := isqrtFrom n (Nat.log2 n / 2 + 1) 0

/-! ### Formats (R90) -/

/-- A binary format: exponent and fraction widths. -/
structure Fmt where
  ebits : Nat
  fbits : Nat
  deriving DecidableEq, Repr

namespace Fmt

def f64 : Fmt := ⟨11, 52⟩
def f32 : Fmt := ⟨8, 23⟩
def f16 : Fmt := ⟨5, 10⟩
def b16 : Fmt := ⟨8, 7⟩

def bits (f : Fmt) : Nat := 1 + f.ebits + f.fbits
def p (f : Fmt) : Nat := f.fbits + 1
def bias (f : Fmt) : Nat := 2 ^ (f.ebits - 1) - 1
def emin (f : Fmt) : Int := 1 - (f.bias : Int)
def emax (f : Fmt) : Int := f.bias

/-- The sign bit in place. -/
def sign (f : Fmt) (neg : Bool) : Nat := if neg then 2 ^ (f.ebits + f.fbits) else 0
def infBits (f : Fmt) (neg : Bool) : Nat := f.sign neg + (2 ^ f.ebits - 1) * 2 ^ f.fbits
def zeroBits (f : Fmt) (neg : Bool) : Nat := f.sign neg
def maxBits (f : Fmt) (neg : Bool) : Nat := f.infBits neg - 1
/-- The canonical NaN (R92). -/
def nanBits (f : Fmt) : Nat := f.infBits false + 2 ^ (f.fbits - 1)

end Fmt

/-- The format of a scalar float instruction (R27). -/
def fmtOf : FFmt → Fmt
  | .f32 => .f32 | .f64 => .f64 | .f16 => .f16 | .b16 => .b16

/-! ### Flags (R78, R96) -/

/-- The flags `x.status`[8:0]. -/
abbrev Flags := BitVec 9

namespace Flags

def nx : Flags := 0x01
def uf : Flags := 0x02
def of : Flags := 0x04
def dz : Flags := 0x08
def nv : Flags := 0x10
def np : Flags := 0x20
def em : Flags := 0x40
def iv : Flags := 0x80
def tb : Flags := 0x100

end Flags

/-- A flag under a condition. -/
def flagIf (b : Bool) (f : Flags) : Flags := if b then f else 0

/-- Rounding modes (R23). -/
inductive RMode where
  | rne | rtz | rdn | rup | rna
  deriving DecidableEq, Repr

/-- The mode of a code 1 to 5; other codes are never held (R24). -/
def RMode.ofCode (n : Nat) : RMode :=
  match n with
  | 2 => .rtz | 3 => .rdn | 4 => .rup | 5 => .rna | _ => .rne

/-! ### Exact values -/

/-- A nonzero real of sign `neg`: its magnitude is `m · 2^e` exactly, or, when `st`, lies strictly between `m · 2^e` and
`(m + 1) · 2^e`. -/
structure Ex where
  neg : Bool
  m : Nat
  e : Int
  st : Bool
  deriving DecidableEq, Repr

/-- A datum of a format (R91), or the exact result of an operation. -/
inductive XVal where
  | nan (sig : Bool)
  | inf (neg : Bool)
  | zero (neg : Bool)
  | num (x : Ex)
  deriving DecidableEq, Repr

/-- The datum that bits encode (R91). -/
def Fmt.decode (f : Fmt) (w : Nat) : XVal :=
  let fr := w % 2 ^ f.fbits
  let ex := w / 2 ^ f.fbits % 2 ^ f.ebits
  let neg := w / 2 ^ (f.ebits + f.fbits) % 2 == 1
  if ex = 2 ^ f.ebits - 1 then
    if fr = 0 then .inf neg else .nan (fr / 2 ^ (f.fbits - 1) == 0)
  else if ex = 0 then
    if fr = 0 then .zero neg else .num ⟨neg, fr, f.emin - f.fbits, false⟩
  else .num ⟨neg, fr + 2 ^ f.fbits, (ex : Int) - f.bias - f.fbits, false⟩

/-- How a truncated quotient lies to the next integer. -/
inductive Frac where
  | exact | below | tie | above
  deriving DecidableEq, Repr

/-- The part cut off when `s` low bits of `m` are dropped, with the sticky mark. -/
def fracOf (m s : Nat) (st : Bool) : Frac :=
  let r := m % 2 ^ s
  if s = 0 then (if st then .below else .exact)
  else if r = 0 then (if st then .below else .exact)
  else if r < 2 ^ (s - 1) then .below
  else if r = 2 ^ (s - 1) then (if st then .above else .tie)
  else .above

/-- The integer step of `rnd` on a magnitude (R94). -/
def roundStep (mode : RMode) (neg : Bool) (j : Nat) (fr : Frac) : Nat :=
  match fr with
  | .exact => j
  | _ =>
    match mode with
    | .rtz => j
    | .rdn => if neg then j + 1 else j
    | .rup => if neg then j else j + 1
    | .rne => match fr with
      | .above => j + 1
      | .tie => j + j % 2
      | _ => j
    | .rna => match fr with
      | .above | .tie => j + 1
      | _ => j

/-- `floor(log2 |x|)`. -/
def Ex.log2 (x : Ex) : Int := (Nat.log2 x.m : Int) + x.e

/-- `x / 2^q` as an integer magnitude and the part cut off. -/
def Ex.scaled (x : Ex) (q : Int) : Nat × Frac :=
  if x.e ≥ q then (x.m * 2 ^ (x.e - q).toNat, if x.st then .below else .exact)
  else let s := (q - x.e).toNat; (x.m / 2 ^ s, fracOf x.m s x.st)

/-- The bits an overflow returns (R95). -/
def overflowBits (f : Fmt) (mode : RMode) (sat neg : Bool) : Nat :=
  let toInf := match mode with
    | .rne | .rna => true
    | .rtz => false
    | .rdn => neg
    | .rup => !neg
  if toInf && !sat then f.infBits neg else f.maxBits neg

/-- Whether a value is tiny: rounded with an unbounded exponent range it lies below 2^emin (R96). -/
def tiny (f : Fmt) (mode : RMode) (x : Ex) : Bool :=
  let l := x.log2
  if l ≥ f.emin then false
  else if l < f.emin - 1 then true
  else
    let (j, fr) := x.scaled (l - f.p + 1)
    decide (roundStep mode x.neg j fr < 2 ^ f.p)

/-- `rnd` of a nonzero real (R94 to R96). -/
def roundEx (f : Fmt) (mode : RMode) (sat : Bool) (x : Ex) : Nat × Flags :=
  let e := max x.log2 f.emin
  let q := e - f.p + 1
  let (j0, fr) := x.scaled q
  let j := roundStep mode x.neg j0 fr
  let inexact := fr != .exact
  if e > f.emax || (e = f.emax && j = 2 ^ f.p) then
    (overflowBits f mode sat x.neg, Flags.of ||| Flags.nx)
  else
    (f.sign x.neg + ((e - f.emin).toNat * 2 ^ f.fbits + j),
     flagIf inexact Flags.nx ||| flagIf (inexact && tiny f mode x) Flags.uf)

/-- A result with the flags its operation raised, written in a format. -/
def writeF (f : Fmt) (mode : RMode) (sat : Bool) (r : XVal × Flags) : Nat × Flags :=
  match r.1 with
  | .nan _ => (f.nanBits, r.2)
  | .inf neg => (f.infBits neg, r.2)
  | .zero neg => (f.zeroBits neg, r.2)
  | .num x => let (b, fl) := roundEx f mode sat x; (b, r.2 ||| fl)

/-! ### Arithmetic on exact values (R92, R93, R97) -/

namespace XVal

def isNan : XVal → Bool
  | .nan _ => true
  | _ => false

/-- A signalling NaN. -/
def isSig : XVal → Bool
  | .nan s => s
  | _ => false

def isInf : XVal → Bool
  | .inf _ => true
  | _ => false

def isZero : XVal → Bool
  | .zero _ => true
  | _ => false

/-- The sign; a NaN's is positive. -/
def sgn : XVal → Bool
  | .nan _ => false
  | .inf n => n
  | .zero n => n
  | .num x => x.neg

def negate : XVal → XVal
  | .nan s => .nan s
  | .inf n => .inf (!n)
  | .zero n => .zero (!n)
  | .num x => .num { x with neg := !x.neg }

def abs : XVal → XVal
  | .nan s => .nan s
  | .inf _ => .inf false
  | .zero _ => .zero false
  | .num x => .num { x with neg := false }

end XVal

/-- `NV` when an operand is a signalling NaN (R92). -/
def sigFlags (l : List XVal) : Flags := flagIf (l.any XVal.isSig) Flags.nv

/-- The signed integer of an exact value over exponent `e`, at or below its own. -/
def Ex.toInt (x : Ex) (e : Int) : Int :=
  let m : Int := (x.m : Int) * 2 ^ (x.e - e).toNat
  if x.neg then -m else m

/-- An exact value from an integer over an exponent. -/
def ofIntExp (i e : Int) : Option Ex :=
  if i = 0 then none else some ⟨decide (i < 0), i.natAbs, e, false⟩

/-- Exact sum of two exact values; none when it is zero. -/
def Ex.add (x y : Ex) : Option Ex :=
  let e := min x.e y.e
  ofIntExp (x.toInt e + y.toInt e) e

/-- Exact product. -/
def Ex.mul (x y : Ex) : Ex := ⟨x.neg != y.neg, x.m * y.m, x.e + y.e, false⟩

/-- The sign of an exact zero sum of operands of opposite sign (R97). -/
def zeroSum (mode : RMode) : Bool := mode == .rdn

/-- `a + b` with the flags of R92, R93 (R97 for zeros). -/
def xadd (mode : RMode) (a b : XVal) : XVal × Flags :=
  match a, b with
  | .nan s, y => (.nan false, flagIf (s || y.isSig) Flags.nv)
  | _, .nan s => (.nan false, flagIf s Flags.nv)
  | .inf n, .inf m => if n = m then (.inf n, 0) else (.nan false, Flags.nv)
  | .inf n, _ => (.inf n, 0)
  | _, .inf m => (.inf m, 0)
  | .zero n, .zero m => (.zero (if n = m then n else zeroSum mode), 0)
  | .zero _, .num y => (.num y, 0)
  | .num x, .zero _ => (.num x, 0)
  | .num x, .num y => match x.add y with
    | some z => (.num z, 0)
    | none => (.zero (zeroSum mode), 0)

/-- `a − b`. -/
def xsub (mode : RMode) (a b : XVal) : XVal × Flags := xadd mode a b.negate

/-- `a × b`. -/
def xmul (a b : XVal) : XVal × Flags :=
  let sg := a.sgn != b.sgn
  match a, b with
  | .nan s, y => (.nan false, flagIf (s || y.isSig) Flags.nv)
  | _, .nan s => (.nan false, flagIf s Flags.nv)
  | .inf _, .zero _ => (.nan false, Flags.nv)
  | .zero _, .inf _ => (.nan false, Flags.nv)
  | .inf _, _ => (.inf sg, 0)
  | _, .inf _ => (.inf sg, 0)
  | .zero _, _ => (.zero sg, 0)
  | _, .zero _ => (.zero sg, 0)
  | .num x, .num y => (.num (x.mul y), 0)

/-- `a × b + c` exactly (R111); 0 × ∞ is invalid even with a quiet NaN addend (R93). -/
def xfma (mode : RMode) (a b c : XVal) : XVal × Flags :=
  let p := xmul a b
  match p.1 with
  | .nan _ => (.nan false, p.2 ||| flagIf c.isSig Flags.nv)
  | _ => xadd mode p.1 c

/-- Quotient of two exact values, truncated with at least `prec` bits. -/
def Ex.div (prec : Nat) (x y : Ex) : Ex :=
  let k := prec + Nat.log2 y.m + 1
  let n := x.m * 2 ^ k
  ⟨x.neg != y.neg, n / y.m, x.e - y.e - k, n % y.m != 0⟩

/-- Precision that every rounding of R94 can use. -/
def workBits : Nat := 64

/-- `a / b` (R93). -/
def xdiv (a b : XVal) : XVal × Flags :=
  let sg := a.sgn != b.sgn
  match a, b with
  | .nan s, y => (.nan false, flagIf (s || y.isSig) Flags.nv)
  | _, .nan s => (.nan false, flagIf s Flags.nv)
  | .inf _, .inf _ => (.nan false, Flags.nv)
  | .zero _, .zero _ => (.nan false, Flags.nv)
  | .inf _, _ => (.inf sg, 0)
  | _, .inf _ => (.zero sg, 0)
  | .zero _, _ => (.zero sg, 0)
  | .num _, .zero _ => (.inf sg, Flags.dz)
  | .num x, .num y => (.num (x.div workBits y), 0)

/-- Square root of a positive exact value, truncated. -/
def Ex.sqrt (x : Ex) : Ex :=
  let (m, e) := if x.e % 2 = 0 then (x.m, x.e) else (2 * x.m, x.e - 1)
  let n := m * 2 ^ (2 * workBits)
  let r := isqrt n
  ⟨false, r, e / 2 - workBits, r * r != n⟩

/-- `√a` (R93, R126). -/
def xsqrt (a : XVal) : XVal × Flags :=
  match a with
  | .nan s => (.nan false, flagIf s Flags.nv)
  | .inf n => if n then (.nan false, Flags.nv) else (.inf false, 0)
  | .zero n => (.zero n, 0)
  | .num x => if x.neg then (.nan false, Flags.nv) else (.num x.sqrt, 0)

/-- An operation on data of one format, rounded into that format. -/
def fop2 (op : RMode → XVal → XVal → XVal × Flags) (f : Fmt) (mode : RMode) (sat : Bool) (a b : Nat) : Nat × Flags :=
  writeF f mode sat (op mode (f.decode a) (f.decode b))

def fop1 (op : XVal → XVal × Flags) (f : Fmt) (mode : RMode) (sat : Bool) (a : Nat) : Nat × Flags :=
  writeF f mode sat (op (f.decode a))

/-! ### Comparison (R127, R128) -/

/-- Order of two exact values. -/
def Ex.cmp (x y : Ex) : Ordering :=
  let e := min x.e y.e
  compare (x.toInt e) (y.toInt e)

/-- Order of two data, none when unordered; zeros compare equal. -/
def xcmp (a b : XVal) : Option Ordering :=
  match a, b with
  | .nan _, _ => none
  | _, .nan _ => none
  | .inf n, .inf m => some (if n = m then .eq else if n then .lt else .gt)
  | .inf n, _ => some (if n then .lt else .gt)
  | _, .inf m => some (if m then .gt else .lt)
  | .zero _, .zero _ => some .eq
  | .zero _, .num y => some (if y.neg then .gt else .lt)
  | .num x, .zero _ => some (if x.neg then .lt else .gt)
  | .num x, .num y => some (x.cmp y)

/-- A condition on an order (R128). -/
def Cond.holds (c : Cond) (o : Option Ordering) : Bool :=
  match c, o with
  | .eq, some .eq => true
  | .ne, none => true
  | .ne, some .eq => false
  | .ne, some _ => true
  | .lt, some .lt => true
  | .le, some .lt => true
  | .le, some .eq => true
  | .gt, some .gt => true
  | .ge, some .gt => true
  | .ge, some .eq => true
  | .uo, none => true
  | .ord, some _ => true
  | _, _ => false

/-- The value and flags of a float comparison (R128). -/
def fcompare (c : Cond) (a b : XVal) : Bool × Flags :=
  let relational := match c with
    | .lt | .le | .gt | .ge => true
    | _ => false
  (Cond.holds c (xcmp a b),
   flagIf (a.isSig || b.isSig || (relational && (a.isNan || b.isNan))) Flags.nv)

/-- `fmin` and `fmax` on encodings (R127): −0 below +0. -/
def fminmax (isMax : Bool) (f : Fmt) (a b : Nat) : Nat × Flags :=
  let x := f.decode a
  let y := f.decode b
  let fl := sigFlags [x, y]
  match x, y with
  | .nan _, .nan _ => (f.nanBits, fl)
  | .nan _, _ => (b % 2 ^ f.bits, fl)
  | _, .nan _ => (a % 2 ^ f.bits, fl)
  | _, _ =>
    let less := match xcmp x y with
      | some .lt => true
      | some .eq => x.sgn && !y.sgn
      | _ => false
    ((if less != isMax then a else b) % 2 ^ f.bits, fl)

/-! ### Conversions (R98) -/

/-- An exact value rounded to an integer by the integer step of `rnd`, and whether that changed it. -/
def Ex.roundInt (mode : RMode) (x : Ex) : Int × Bool :=
  let (j0, fr) := x.scaled 0
  let j := roundStep mode x.neg j0 fr
  (if x.neg then -(j : Int) else j, fr != .exact)

/-- Float to integer of `n` bits, saturating (R98). -/
def toInteger (mode : RMode) (u : Bool) (n : Nat) (x : XVal) : Nat × Flags :=
  let lo : Int := if u then 0 else -(2 ^ (n - 1))
  let hi : Int := if u then 2 ^ n - 1 else 2 ^ (n - 1) - 1
  match x with
  | .nan _ => (0, Flags.nv)
  | .inf neg => (ofInt n (if neg then lo else hi), Flags.nv)
  | .zero _ => (0, 0)
  | .num x =>
    let (j, inexact) := x.roundInt mode
    if j < lo then (ofInt n lo, Flags.nv)
    else if j > hi then (ofInt n hi, Flags.nv)
    else (ofInt n j, flagIf inexact Flags.nx)

/-- Integer to float (R98). -/
def ofInteger (f : Fmt) (mode : RMode) (sat : Bool) (i : Int) : Nat × Flags :=
  match ofIntExp i 0 with
  | none => (f.zeroBits false, 0)
  | some x => roundEx f mode sat x

/-- Float to float, whatever the two formats (R98, R126). -/
def toFloat (dst : Fmt) (mode : RMode) (sat : Bool) (x : XVal) : Nat × Flags :=
  writeF dst mode sat (x, flagIf x.isSig Flags.nv)

/-- A value rounded to an integral value of its own format (R126, `frnd`). -/
def roundIntegral (f : Fmt) (mode : RMode) (w : Nat) : Nat × Flags :=
  match f.decode w with
  | .nan s => (f.nanBits, flagIf s Flags.nv)
  | .inf _ => (w % 2 ^ f.bits, 0)
  | .zero _ => (w % 2 ^ f.bits, 0)
  | .num x =>
    let (j, inexact) := x.roundInt mode
    if j = 0 then (f.zeroBits x.neg, flagIf inexact Flags.nx)
    else
      let (b, _) := roundEx f mode false ⟨x.neg, j.natAbs, 0, false⟩
      (b, flagIf inexact Flags.nx)

/-- The bit `fclass` sets (R129). -/
def classBit (f : Fmt) (w : Nat) : Nat :=
  match f.decode w with
  | .inf true => 0
  | .inf false => 7
  | .zero true => 3
  | .zero false => 4
  | .nan true => 8
  | .nan false => 9
  | .num x =>
    let sub := w / 2 ^ f.fbits % 2 ^ f.ebits == 0
    match x.neg, sub with
    | true, false => 1
    | true, true => 2
    | false, true => 5
    | false, false => 6

end Sys2Proof.Machine
end

