-- ==== Sys2Proof/Machine/Trans.lean ====
section
/-! DEFINITION. Correctly rounded exponentials, logarithms and reciprocal square roots (R158, R188): a fixed-point
enclosure of the exact result, made finer until its two ends truncate alike. Every result that is not exact is
irrational, so the truncated value with its sticky mark rounds as the exact one. -/

namespace Sys2Proof.Machine

/-- `2^w · atanh(1/n)`, summed term by term: `x` is `2^w / n^(2k+1)`. -/
def atanhInv (n2 : Nat) : Nat → Nat → Nat → Nat
  | 0, _, _ => 0
  | fuel + 1, x, k => if x = 0 then 0 else x / (2 * k + 1) + atanhInv n2 fuel (x / n2) (k + 1)

/-- `2^w · ln 2`, within `w` units. -/
def ln2Fixed (w : Nat) : Nat :=
  let one := 2 ^ w
  18 * atanhInv (26 * 26) w (one / 26) 0 + 8 * atanhInv (8749 * 8749) w (one / 8749) 0
    - 2 * atanhInv (4801 * 4801) w (one / 4801) 0

/-- Terms of `2^w · (e^t − 1)` for `t = x / 2^w`: `term` is `2^w · t^k / k!`. -/
def expTerms (w x : Nat) : Nat → Nat → Nat → Nat
  | 0, _, _ => 0
  | fuel + 1, term, k =>
    if term = 0 then 0
    else
      let next := term * x / 2 ^ w / (k + 1)
      next + expTerms w x fuel next (k + 1)

/-- `2^w · e^(x / 2^w)` for `0 ≤ x < 2^w`, within `w` units below. -/
def expFixed (w x : Nat) : Nat := 2 ^ w + expTerms w x w (2 ^ w) 0

/-- Terms of `2^w · atanh(z)` for `z = x / 2^w`. -/
def atanhTerms (w z2 : Nat) : Nat → Nat → Nat → Nat
  | 0, _, _ => 0
  | fuel + 1, x, k => if x = 0 then 0 else x / (2 * k + 1) + atanhTerms w z2 fuel (x * z2 / 2 ^ w) (k + 1)

/-- `2^w · ln(y / 2^w)` for `2^w ≤ y < 2^(w+1)`, within `4 · w` units below. -/
def lnFixed (w y : Nat) : Nat :=
  let z := (y - 2 ^ w) * 2 ^ w / (y + 2 ^ w)
  2 * atanhTerms w (z * z / 2 ^ w) w z 0

/-- An enclosure `(v − err, v + err) · 2^-w` of an irrational, truncated to `w − 64` bits where both ends truncate alike. -/
def settle (w : Nat) (v err : Int) (scale : Int) : Option Ex :=
  let lo := v - err
  let hi := v + err
  let cut (a b : Int) (neg : Bool) : Option Ex :=
    let m := (a / 2 ^ 64).toNat
    if m = (b / 2 ^ 64).toNat ∧ 0 < m then some ⟨neg, m, scale - w + 64, true⟩ else none
  if 0 < lo then cut lo hi false else if hi < 0 then cut (-hi) (-lo) true else none

/-- The first enclosure that settles, over precisions that double. -/
def refine (f : Nat → Option Ex) : Nat → Nat → Ex
  | 0, _ => ⟨false, 2 ^ 64, 0, true⟩
  | fuel + 1, w => match f w with
    | some x => x
    | none => refine f fuel (2 * w)

/-- Beyond this magnitude an exponential overflows or underflows in every format. -/
def expLimit : Int := 8192

/-- One plus or minus a positive amount below 2^-65. -/
def nearOne (below : Bool) : Ex := if below then ⟨false, 2 ^ 65 - 1, -65, true⟩ else ⟨false, 2 ^ 65, -65, true⟩

/-- `floor(x · 2^w)` of an exact value, signed. -/
def Ex.fixed (x : Ex) (w : Nat) : Int :=
  let s := x.e + w
  let mag : Int := if s ≥ 0 then ((x.m * 2 ^ s.toNat : Nat) : Int) else ((x.m / 2 ^ (-s).toNat : Nat) : Int)
  if x.neg then
    (if s < 0 ∧ x.m % 2 ^ (-s).toNat ≠ 0 then -mag - 1 else -mag)
  else mag

/-- `2^x` for a nonzero exact `x`. -/
def Ex.exp2 (x : Ex) : Ex :=
  if x.log2 ≥ 13 then ⟨false, 2 ^ 65, (if x.neg then -expLimit else expLimit) - 65, true⟩
  else if x.log2 < -70 then nearOne x.neg
  else
    let i := x.fixed 0
    if x.e ≥ 0 then ⟨false, 1, i, false⟩
    else if (x.m : Int) % 2 ^ (-x.e).toNat = 0 then ⟨false, 1, i, false⟩
    else
      refine (fun w =>
        let fr := (x.fixed w - i * 2 ^ w).toNat
        let t := fr * ln2Fixed w / 2 ^ w
        settle w (expFixed w t) (8 * w) i) 5 256

/-- `e^x` at a precision of `w` bits, where that settles it. -/
def Ex.expAt (x : Ex) (w : Nat) : Option Ex :=
  let l : Int := ln2Fixed w
  let v := x.fixed w
  let i := v / l
  let r := (v - i * l).toNat
  settle w (expFixed w r) (2 ^ 15 * (8 * w)) i

/-- `e^x` for a nonzero exact `x`. -/
def Ex.exp (x : Ex) : Ex :=
  if x.log2 ≥ 13 then ⟨false, 2 ^ 65, (if x.neg then -expLimit else expLimit) - 65, true⟩
  else if x.log2 < -70 then nearOne x.neg
  else refine x.expAt 5 256

/-- The exponent `k` and `y · 2^w` with `x = 2^k · y`, `1 ≤ y < 2`, for a positive exact value. -/
def Ex.normal (x : Ex) (w : Nat) : Int × Nat :=
  let l := Nat.log2 x.m
  (x.e + l, if l ≤ w then x.m * 2 ^ (w - l) else x.m / 2 ^ (l - w))

/-- `ln x` at a precision of `w` bits, where that settles it. -/
def Ex.lnAt (x : Ex) (w : Nat) : Option Ex :=
  let (k, y) := x.normal w
  settle w (k * (ln2Fixed w : Int) + lnFixed w y) (2 ^ 13 * (8 * w)) 0

/-- `ln x` for a positive exact `x` other than 1. -/
def Ex.ln (x : Ex) : Ex := refine x.lnAt 5 320

/-- `log2 x` for a positive exact `x`; none where it is zero. -/
def Ex.lg (x : Ex) : Option Ex :=
  let l := Nat.log2 x.m
  if x.m = 2 ^ l then ofIntExp (x.e + l) 0
  else some (refine (fun w =>
    let (k, y) := x.normal w
    settle w (k * 2 ^ w + (lnFixed w y * 2 ^ w / ln2Fixed w : Nat)) (32 * w) 0) 5 320)

/-- `1 / √x` of a positive exact value. -/
def Ex.rsqrt (x : Ex) : Ex :=
  let (m, e) := if x.e % 2 = 0 then (x.m, x.e) else (2 * x.m, x.e - 1)
  let k := workBits + Nat.log2 m + 1
  let r := isqrt (2 ^ (2 * k) / m)
  ⟨false, r, -(e / 2) - k, r * r * m != 2 ^ (2 * k)⟩

/-- `1 / a`, with the special operands of R158. -/
def xrcp (a : XVal) : XVal × Flags := xdiv (.num ⟨false, 1, 0, false⟩) a

/-- `1 / √a` (R158). -/
def xrsqrt (a : XVal) : XVal × Flags :=
  match a with
  | .nan s => (.nan false, flagIf s Flags.nv)
  | .inf n => if n then (.nan false, Flags.nv) else (.zero false, 0)
  | .zero n => (.inf n, Flags.dz)
  | .num x => if x.neg then (.nan false, Flags.nv) else (.num x.rsqrt, 0)

/-- `2^a` (R158). -/
def xexp2 (a : XVal) : XVal × Flags :=
  match a with
  | .nan s => (.nan false, flagIf s Flags.nv)
  | .inf n => if n then (.zero false, 0) else (.inf false, 0)
  | .zero _ => (.num ⟨false, 1, 0, false⟩, 0)
  | .num x => (.num x.exp2, 0)

/-- `log2 a` (R158). -/
def xlog2 (a : XVal) : XVal × Flags :=
  match a with
  | .nan s => (.nan false, flagIf s Flags.nv)
  | .inf n => if n then (.nan false, Flags.nv) else (.inf false, 0)
  | .zero _ => (.inf true, Flags.dz)
  | .num x =>
    if x.neg then (.nan false, Flags.nv)
    else match x.lg with
      | some y => (.num y, 0)
      | none => (.zero false, 0)

end Sys2Proof.Machine
end

