-- ==== Sys2Proof/Machine/Elem.lean ====
section
/-! DEFINITION. Vector registers as elements: tags and lanes (R68, R99, R102, R148 to R152), block floating point (R100 to
R104), and the element computations of the vector group (R112 to R114, R156 to R172), without a machine. -/

namespace Sys2Proof.Machine

/-! ### Tags (R68, R151) -/

abbrev Tag := BitVec 4

namespace Tag

def isInt (t : Tag) : Bool := 1 ≤ t.toNat && t.toNat ≤ 4
def isFlt (t : Tag) : Bool := 5 ≤ t.toNat && t.toNat ≤ 8
def isNum (t : Tag) : Bool := 1 ≤ t.toNat && t.toNat ≤ 8
/-- raw and NUM -/
def isBit (t : Tag) : Bool := t.toNat ≤ 8
def isBfp (t : Tag) : Bool := 9 ≤ t.toNat

/-- Mantissa width of a BFP tag. -/
def mant (t : Tag) : Nat := t.toNat - 7

/-- Element width; a raw register has lanes of 32 bits (R152), and a BFP register its mantissas (R102). -/
def bits (t : Tag) : Nat :=
  match t.toNat with
  | 0 => 32 | 1 => 8 | 2 => 16 | 3 => 32 | 4 => 64 | 5 => 16 | 6 => 16 | 7 => 32 | 8 => 64
  | n => n - 7

/-- Elements, for a tag that is not BFP. -/
def count (t : Tag) : Nat := 2048 / t.bits

def fmt (t : Tag) : Fmt :=
  match t.toNat with
  | 5 => .f16 | 6 => .b16 | 8 => .f64 | _ => .f32

/-- The integer tag of the same element width (R160, R166). -/
def intTag (t : Tag) : Tag :=
  match t.bits with
  | 8 => 1 | 16 => 2 | 64 => 4 | _ => 3

/-- Whether instructions of this format take the F64, I64 column of R155. -/
def wide (t : Tag) : Bool := t.toNat == 4 || t.toNat == 8

end Tag

/-- The mask bit that guards element `i` of width `b` (R99). -/
def guardOf (b i : Nat) : Nat := if b < 32 then i / (32 / b) else i

/-- Whether element `i` of a tag that is not BFP is enabled. -/
def elemOn (t : Tag) (mask : Word) (i : Nat) : Bool := mask.getLsbD (guardOf t.bits i)

/-! ### Lanes -/

/-- Element `i` of width `b`. -/
def lane (b : Nat) (w : Wide) (i : Nat) : Nat := w.toNat / 2 ^ (b * i) % 2 ^ b

/-- The lowest `n` elements. -/
def lanes (b n : Nat) (w : Wide) : List Nat := (List.range n).map (lane b w)

/-- A register image from elements of width `b`. -/
def ofLanes (b : Nat) (l : List Nat) : Wide := BitVec.ofNat 2048 (l.foldr (fun x acc => x % 2 ^ b + 2 ^ b * acc) 0)

/-- A register with its enabled elements of width `b` computed and the others kept, and the flags of those computed. -/
def laneMap (b : Nat) (on : Nat → Bool) (old : Wide) (f : Nat → Nat × Flags) : Wide × Flags :=
  let rs := (List.range (2048 / b)).map fun i => if on i then f i else (lane b old i, 0)
  (ofLanes b (rs.map (·.1)), rs.foldl (fun acc r => acc ||| r.2) 0)

/-- Elements of a tag computed under the mask (R152). -/
def elemMap (t : Tag) (mask : Word) (old : Wide) (f : Nat → Nat × Flags) : Wide × Flags :=
  laneMap t.bits (elemOn t mask) old f

/-- Bits of a 2,048-bit image. -/
def wideBits (w : Wide) (i n : Nat) : Nat := w.toNat / 2 ^ i % 2 ^ n

/-- An image with `n` bits at `i` replaced. -/
def setBits (w : Wide) (i n v : Nat) : Wide :=
  BitVec.ofNat 2048 (w.toNat - wideBits w i n * 2 ^ i + v % 2 ^ n * 2 ^ i)

/-! ### Operands (R150) -/

/-- An operand that supplies elements: a vector value or one scalar. -/
inductive Src where
  | vec (w : Wide) (t : Tag)
  | scalar (w : Word)
  | number (i : Int)
  deriving DecidableEq, Repr

/-- Element `i` of an operand in a format. -/
def Src.elem (t : Tag) (s : Src) (i : Nat) : Nat :=
  match s with
  | .vec w _ => lane t.bits w i
  | .scalar w => w.toNat % 2 ^ t.bits
  | .number n => if t.isFlt then (ofInteger t.fmt .rne false n).1 else ofInt t.bits n

/-! ### Elementwise arithmetic (R156 to R158) -/

/-- An operation on numbers of both kinds: on floats, and on exact integers before fit. -/
structure NumOp where
  flt : RMode → XVal → XVal → XVal → XVal × Flags
  int : Int → Int → Int → Int

def opAdd : NumOp := ⟨fun m a b _ => xadd m a b, fun a b _ => a + b⟩
def opSub : NumOp := ⟨fun m a b _ => xsub m a b, fun a b _ => a - b⟩
def opMul : NumOp := ⟨fun _ a b _ => xmul a b, fun a b _ => a * b⟩
def opFma : NumOp := ⟨fun m a b d => xfma m a b d, fun a b d => a * b + d⟩

/-- One element of an arithmetic instruction. -/
def numElem (op : NumOp) (t : Tag) (mode : RMode) (sat : Bool) (a b d : Nat) : Nat × Flags :=
  if t.isFlt then writeF t.fmt mode sat (op.flt mode (t.fmt.decode a) (t.fmt.decode b) (t.fmt.decode d))
  else (fitInt sat false t.bits (op.int (toSigned t.bits a) (toSigned t.bits b) (toSigned t.bits d)), 0)

/-- Smaller or larger element (R157). -/
def minmaxElem (isMax : Bool) (t : Tag) (a b : Nat) : Nat × Flags :=
  if t.isFlt then fminmax isMax t.fmt a b
  else
    let x := toSigned t.bits a
    let y := toSigned t.bits b
    (if (decide (x < y)) != isMax then a else b, 0)

/-- `vabs` and `vneg` (R157). -/
def signElem (neg : Bool) (t : Tag) (sat : Bool) (a : Nat) : Nat × Flags :=
  if t.isFlt then
    let s := 2 ^ (t.bits - 1)
    (if neg then (if a < s then a + s else a - s) else a % s, 0)
  else
    let x := toSigned t.bits a
    (fitInt sat false t.bits (if neg then -x else (x.natAbs : Int)), 0)

/-- A one-operand float function, rounded (R158). -/
def fltElem1 (f : XVal → XVal × Flags) (t : Tag) (mode : RMode) (sat : Bool) (a : Nat) : Nat × Flags :=
  fop1 f t.fmt mode sat a

/-- Shifts of a `w`-bit value by an unsigned count (R121). -/
def shlN (w a c : Nat) : Nat := if c < w then a * 2 ^ c % 2 ^ w else 0
def shrN (w a c : Nat) : Nat := if c < w then a / 2 ^ c else 0
def sarN (w a c : Nat) : Nat := ofInt w (toSigned w a / 2 ^ (if c < w then c else w - 1))
def rotN (w a c : Nat) : Nat := let k := c % w; (a * 2 ^ k + a / 2 ^ (w - k)) % 2 ^ w

/-- A comparison of two elements (R160). -/
def cmpElem (c : Cond) (t : Tag) (a b : Nat) : Bool × Flags :=
  if t.isFlt then fcompare c (t.fmt.decode a) (t.fmt.decode b)
  else (Cond.holds c (some (compare (toSigned t.bits a) (toSigned t.bits b))), 0)

/-- The predicate a comparison writes: `r i` for element `i`, under the mask, over the old predicate (R160). -/
def cmpPred (t : Tag) (mask old : Word) (r : Nat → Bool) : Word :=
  let per := if t.bits < 32 then 32 / t.bits else 1
  let bit (j : Nat) : Bool :=
    if t.bits = 64 && 32 ≤ j then false
    else if mask.getLsbD j then (List.range per).all fun k => r (per * j + k)
    else old.getLsbD j
  BitVec.ofNat 64 ((List.range 64).foldr (fun j acc => (if bit j then 1 else 0) + 2 * acc) 0)

/-! ### Block floating point (R100 to R104) -/

/-- The exponent byte of block `b` in a register (R102). -/
def blockExp (w : Wide) (b : Nat) : Nat := wideBits w (2032 + 8 * b) 8

/-- Element `i` of a BFP block as a value (R100): M · 2^(E − 127 − (m − 2)). -/
def bfpVal (m e mant : Nat) : XVal :=
  if e = 255 then .nan false
  else match ofIntExp (toSigned m mant) ((e : Int) - 127 - ((m : Int) - 2)) with
    | none => .zero false
    | some x => .num x

/-- Values converted into one BFPm block: exponent, mantissas and flags (R103). -/
def toBfp (m : Nat) (mode : RMode) (xs : List XVal) : Nat × List Nat × Flags :=
  if xs.any XVal.isNan then (255, xs.map fun _ => 0, sigFlags xs)
  else
    let es := xs.filterMap fun x => match x with
      | .num y => some y.log2
      | _ => none
    let e : Int := match es with
      | [] => -127
      | y :: r => r.foldl max y
    let ex := (max 0 (min 254 (e + 127))).toNat
    let sc : Int := (ex : Int) - 127 - ((m : Int) - 2)
    let hi : Int := 2 ^ (m - 1) - 1
    let lo : Int := -(2 ^ (m - 1))
    let rs := xs.map fun x => match x with
      | .inf n => (ofInt m (if n then lo else hi), Flags.of ||| Flags.nx)
      | .num y =>
        let (j, fr) := y.scaled sc
        let jm := roundStep mode y.neg j fr
        let js : Int := if y.neg then -(jm : Int) else jm
        let jc := max lo (min hi js)
        (ofInt m jc, flagIf (jc != js) Flags.of ||| flagIf (jc != js || fr != Frac.exact) Flags.nx ||| flagIf (jc == 0) Flags.uf)
      | _ => (0, 0)
    (ex, rs.map (·.1), rs.foldl (fun acc r => acc ||| r.2) 0)

/-- A BFP register with block `b` written whole; bits between the mantissas and the exponents are written zero (R102). -/
def setBlock (m b : Nat) (w : Wide) (e : Nat) (mants : List Nat) : Wide :=
  let img := mants.foldr (fun x acc => x % 2 ^ m + 2 ^ m * acc) 0
  let w := setBits w (32 * m * b) (32 * m) img
  let w := setBits w (64 * m) (2032 - 64 * m) 0
  setBits w (2032 + 8 * b) 8 e

/-! ### Reductions, scans, dot products (R112 to R114, R170 to R172) -/

/-- The identity of an operation (R112). -/
def redIdent (op : RedOp) (t : Tag) : Nat :=
  let b := t.bits
  match op with
  | .add => if t.isFlt then t.fmt.zeroBits true else 0
  | .min => if t.isFlt then t.fmt.infBits false else 2 ^ (b - 1) - 1
  | .max => if t.isFlt then t.fmt.infBits true else 2 ^ (b - 1)
  | .and => 2 ^ b - 1
  | .or | .xor => 0

/-- One pairing of the tree, fitted (R112). -/
def redOp (op : RedOp) (t : Tag) (mode : RMode) (sat : Bool) (a b : Nat) : Nat × Flags :=
  match op with
  | .add => numElem opAdd t mode sat a b 0
  | .min => minmaxElem false t a b
  | .max => minmaxElem true t a b
  | .and => (a &&& b, 0)
  | .or => (a ||| b, 0)
  | .xor => (a ^^^ b, 0)

/-- The tree of R112, `fuel` levels. -/
def redTree (f : Nat → Nat → Nat × Flags) : Nat → List Nat → Flags → Nat × Flags
  | 0, l, fl => (l.headD 0, fl)
  | fuel + 1, l, fl =>
    if l.length ≤ 1 then (l.headD 0, fl)
    else
      let h := l.length / 2
      let rs := List.zipWith f (l.take h) (l.drop h)
      redTree f fuel (rs.map (·.1)) (rs.foldl (fun acc r => acc ||| r.2) fl)

/-- One level of a scan at distance `d` (R113). The flags are those of the enabled positions (R153). -/
def scanLevel (on : Nat → Bool) (f : Nat → Nat → Nat × Flags) (d : Nat) (l : List Nat) : List Nat × Flags :=
  let rs := List.zipWith f l (l.drop d)
  (l.take d ++ rs.map (·.1),
    (rs.zip (List.range rs.length)).foldl (fun acc r => if on (d + r.2) then acc ||| r.1.2 else acc) 0)

/-- The levels of a scan at distances `d`, `2 d`, … below the length. -/
def scanTree (on : Nat → Bool) (f : Nat → Nat → Nat × Flags) : Nat → Nat → List Nat → Flags → List Nat × Flags
  | 0, _, l, fl => (l, fl)
  | fuel + 1, d, l, fl =>
    if l.length ≤ d then (l, fl)
    else
      let (l', fl') := scanLevel on f d l
      scanTree on f fuel (2 * d) l' (fl ||| fl')

/-- Cuts a list into chunks of `n`. -/
def chunksOf {α : Type} (n : Nat) : Nat → List α → List (List α)
  | 0, _ => []
  | fuel + 1, l => if l.isEmpty then [] else l.take n :: chunksOf n fuel (l.drop n)

/-- An exact chunk sum of products with its special cases (R110). -/
def chunkSum (ps : List (XVal × XVal)) : XVal × Flags :=
  let qs := ps.map fun p => (xmul p.1 p.2).1
  let invalid := ps.any fun p => (xmul p.1 p.2).2 != 0
  let pos := qs.any fun q => match q with
    | .inf false => true
    | _ => false
  let neg := qs.any fun q => match q with
    | .inf true => true
    | _ => false
  if qs.any XVal.isNan || (pos && neg) then (.nan false, flagIf (invalid || (pos && neg)) Flags.nv)
  else if pos then (.inf false, flagIf invalid Flags.nv)
  else if neg then (.inf true, flagIf invalid Flags.nv)
  else
    let xs := qs.filterMap fun q => match q with
      | .num x => some x
      | _ => none
    let e := xs.foldl (fun acc x => min acc x.e) 0
    let s := xs.foldl (fun acc x => acc + x.toInt e) 0
    match ofIntExp s e with
    | some x => (.num x, 0)
    | none => (.zero (qs.all fun q => match q with
        | .zero n => n
        | _ => false), 0)

/-- A chunk added to an accumulator with one rounding (R110, R114). -/
def addChunk (f : Fmt) (mode : RMode) (sat : Bool) (acc : Nat) (c : XVal × Flags) : Nat × Flags :=
  let r := xadd mode (f.decode acc) c.1
  writeF f mode sat (r.1, r.2 ||| c.2)

/-- Chunks of products accumulated in order, in a float format. -/
def dotChunks (f src : Fmt) (mode : RMode) (sat : Bool) (acc : Nat) (ps : List (Nat × Nat)) : Nat × Flags :=
  (chunksOf 16 ps.length ps).foldl (fun (r : Nat × Flags) c =>
    let (v, fl) := addChunk f mode sat r.1 (chunkSum (c.map fun p => (src.decode p.1, src.decode p.2)))
    (v, r.2 ||| fl)) (acc, 0)

/-- Chunks of integer products accumulated in order in `n` bits. -/
def dotInts (b n : Nat) (sat : Bool) (acc : Nat) (ps : List (Nat × Nat)) : Nat :=
  (chunksOf 16 ps.length ps).foldl (fun r c =>
    fitInt sat false n (toSigned n r + c.foldl (fun s p => s + toSigned b p.1 * toSigned b p.2) 0)) acc

/-- A value of a tag as it is written: a BFP value has zeros between mantissas and exponents (R102). -/
def written (t : Tag) (w : Wide) : Wide := if t.isBfp then setBits w (64 * t.mant) (2032 - 64 * t.mant) 0 else w

end Sys2Proof.Machine
end

