-- ==== Sys2Proof/Machine/SMap.lean ====
section
/-! DEFINITION. Finite maps from numbers as plain data: lists of key and value pairs with strictly rising keys. -/

namespace Sys2Proof.Machine

/-- A finite map in canonical form: keys strictly rising. -/
abbrev SMap (α : Type) := List (Nat × α)

namespace SMap

variable {α : Type}

/-- The value at a key. -/
def get? : SMap α → Nat → Option α
  | [], _ => none
  | (k, v) :: r, n => if n = k then some v else get? r n

/-- The value at a key, `d` where none is listed. -/
def getD (m : SMap α) (n : Nat) (d : α) : α := (get? m n).getD d

/-- Whether a key is listed. -/
def has (m : SMap α) (n : Nat) : Bool := (get? m n).isSome

/-- The map with the value at a key replaced. -/
def set : SMap α → Nat → α → SMap α
  | [], n, v => [(n, v)]
  | (k, w) :: r, n, v =>
    if n = k then (n, v) :: r else if n < k then (n, v) :: (k, w) :: r else (k, w) :: set r n v

/-- The map without a key. -/
def erase : SMap α → Nat → SMap α
  | [], _ => []
  | (k, w) :: r, n => if n = k then erase r n else (k, w) :: erase r n

/-- The map with a value stored; storing the value `d` that an unlisted key reads as removes the entry. -/
def put [DecidableEq α] (m : SMap α) (d : α) (n : Nat) (v : α) : SMap α :=
  if v = d then erase m n else set m n v

/-- The map with the value at a key changed, `d` where none is listed. -/
def upd (m : SMap α) (n : Nat) (d : α) (f : α → α) : SMap α := set m n (f (getD m n d))

/-- The lowest key at or above `n` that is not listed and lies below `n + fuel`. -/
def freeKey (m : SMap α) : Nat → Nat → Option Nat
  | 0, _ => none
  | fuel + 1, n => if m.has n then freeKey m fuel (n + 1) else some n

/-- Keys are strictly rising, and above `lo` where one is given. -/
def sortedFrom : Option Nat → SMap α → Bool
  | _, [] => true
  | none, (k, _) :: r => sortedFrom (some k) r
  | some lo, (k, _) :: r => decide (lo < k) && sortedFrom (some k) r

/-- The canonical form. -/
def sorted (m : SMap α) : Bool := sortedFrom none m

end SMap

/-- Replaces the first entry that satisfies `p`. -/
def listUpd {α : Type} (p : α → Bool) (f : α → α) (l : List α) : List α :=
  l.takeWhile (!p ·) ++ ((l.dropWhile (!p ·)).take 1).map f ++ (l.dropWhile (!p ·)).drop 1

/-- Replaces entry `n`. -/
def listSet {α : Type} (l : List α) (n : Nat) (v : α) : List α := l.set n v

end Sys2Proof.Machine
end

