-- ==== Sys2Proof/Machine/State.lean ====
section
/-! DEFINITION. The machine's state as plain data, the reasons a step can stop, and the state after reset. -/

namespace Sys2Proof.Machine

/-- An event that is due (R247 and the events of the opcode table). -/
structure Pending where
  at_ : Nat
  ev : Instr
  /-- the numbers of its object -/
  args : List Nat
  deriving DecidableEq, Repr

/-- What is known to be ordered before a point, as the axioms order it (hb of R334): for a writing agent, the number of its
phases whose writes are known; and for a word, at `2 ^ 80` and its location divided by 8, the latest place in `State.past`
that is known to have been read of it. Agents are cores by number, and the units of a cluster by `2 ^ 14 + 32·cluster + unit`:
its job queues, and 8 and on its subscriptions. -/
abbrev Know := SMap Nat

/-! ### Registers and threads (R65 to R87) -/

/-- A vector or interval register: data and format tag (R68). -/
structure VReg where
  data : Wide
  tag : BitVec 4
  deriving DecidableEq, Repr

/-- Zero with tag 0 (R67). -/
def VReg.zero : VReg := ⟨0, 0⟩

/-- State of an occupied slot (R82). -/
inductive TState where
  | ready | blocked | waiting | parked | stopped
  deriving DecidableEq, Repr

/-- Why an enabled instruction did not issue (R210, R302). -/
inductive Cause where
  /-- a source queue is empty or a destination queue is full (R18, R219) -/
  | queue
  /-- a `qclr` waits for reserved entries (R234) -/
  | queueClear
  /-- a full-empty word is not ready (R140) -/
  | fullEmpty
  /-- a tile is not READY (R210, R253) -/
  | tile
  /-- a job queue is full (R258) -/
  | jobQueue
  /-- an accumulator is locked by another queue (R257) -/
  | accumulator
  /-- a job is not complete (R275) -/
  | job
  /-- a translation miss is being walked or waits for a miss entry (R320) -/
  | translation
  /-- the vector unit is occupied (R215) -/
  | vectorBusy
  /-- the vector unit is waking (R22) -/
  | vectorWake
  /-- no retention entry is free (R371), or an earlier `mcast` is not accepted (R381) -/
  | retention
  /-- the injection port is full (R240) -/
  | injection
  /-- a joined thread lives (R133) -/
  | join
  /-- a counter has not reached its value (R441) -/
  | counter
  /-- the deadline of `cyc` lies ahead (R245) -/
  | deadline
  /-- a correctable error is corrected on a read (R228) -/
  | correction
  /-- a result or publication is outstanding (R137, R146) -/
  | outstanding
  /-- an `idle` waits for its count in an empty queue (R18, R246) -/
  | idleCount
  /-- the thread has trapped, and its record is still to be written (R86) -/
  | record
  deriving DecidableEq, Repr

/-- Whether waiting for a cause is a stall in the sense of the timed hint (R302). -/
def Cause.isStall : Cause → Bool
  | .vectorBusy | .deadline | .record => false
  | .queue | .queueClear | .fullEmpty | .tile | .jobQueue | .accumulator | .job | .translation | .vectorWake
  | .retention | .injection | .join | .counter | .correction | .outstanding | .idleCount => true

/-- Whether a wait of a timed instruction freezes its span: an `idle`'s never does (R246, R302). -/
def Cause.freezes : Cause → Bool
  | .idleCount => false
  | c => c.isStall

/-- Where a parked thread's context is (R322). -/
inductive ParkPlace where
  | inPlace | frame
  deriving DecidableEq, Repr

/-- A register a deposit can name (R222). -/
inductive RegName where
  | g (n : Nat) | v (n : Nat) | k (n : Nat) | p (n : Nat) | m (n : Nat)
  deriving DecidableEq, Repr

/-- An open packet (R240). -/
structure OpenPacket where
  dest : Nat
  seq : Nat
  words : List Word
  deriving DecidableEq, Repr

/-- Class of a packet (R368). -/
inductive PktClass where
  | message | migration | fullEmpty | multicast
  deriving DecidableEq, Repr

/-- A full-empty operation (R140). -/
inductive FeOp where
  | ldfe | stfe | ldfp
  deriving DecidableEq, Repr

/-- What a whole packet carries (R368, R369). -/
structure PktBody where
  cls : PktClass
  dest : Nat
  src : Nat
  seq : Nat
  ctag : BitVec 16
  launch : Nat
  group : Nat
  words : List Word
  pc : BitVec 32
  /-- class 2: operation, location, device address and requesting slot (R380) -/
  fe : Option (FeOp × Nat × BitVec 56 × Nat)
  /-- what its sender knows when it leaves (R338) -/
  know : Know
  deriving DecidableEq, Repr

/-- A queue entry: reserved until the cycle its value is present in (R219). -/
structure QEntry where
  val : VReg
  /-- cycle in which the value is present; none while it is outstanding -/
  present : Option Nat
  /-- data with an uncorrectable error, by device address (R231) -/
  poison : Option Word
  /-- number of its push on this queue -/
  seq : Nat
  deriving DecidableEq, Repr

/-- A thread (R65). General, vector and interval registers lie in the core's files (R66). -/
structure Thread where
  pc : BitVec 32
  gBase : Nat
  gSize : Nat
  wBase : Nat
  nv : Nat
  nk : Nat
  /-- p0 to p7; entry 0 is all ones (R69) -/
  preds : Vector Word 8
  /-- m0 to m7 (R70) -/
  mregs : Vector (BitVec 128) 8
  segs : Vector Segment 8
  cseg : Segment
  status : BitVec 32
  npth : BitVec 5
  ferl : BitVec 16
  rank : Nat
  ctag : BitVec 16
  launch : Nat
  group : Nat
  /-- rotation code `x.wins` reports (R75, R77) -/
  rot : Nat
  st : TState
  cause : Option Cause
  /-- first cycle in which the next instruction may issue (R210) -/
  readyAt : Nat
  /-- identifier of an outstanding result or publication, which holds issue (R137) -/
  outstanding : Option Nat
  /-- registers that deposits reached while the result is outstanding (R224) -/
  deposited : List RegName
  /-- an `idle` in progress, with its last cycle; 0 for none (R246) -/
  idle : Option Nat
  /-- `LENDER`, borrowed base and size, valid while `BW` is 1 (R221) -/
  lender : Nat
  bBase : Nat
  bSize : Nat
  packet : Option OpenPacket
  /-- spawn handle, for a spawned thread (R132) -/
  handle : Option (BitVec 64)
  /-- device address whose page it waits for: a translation, or a future while parked (R320, R322) -/
  parkedOn : Option (BitVec 56)
  parkPlace : ParkPlace
  /-- an error that its next issue reports: detail [7:0] and second detail (R228, R239) -/
  machineErr : Option (Nat × Word)
  /-- remaining full-empty budget (R380) -/
  feBudget : Nat
  /-- value of `ERR` when a `cwait` was first tried (R441) -/
  errSeen : Option (BitVec 64)
  /-- a remote full-empty instruction that waits for its answer, with its last request and the queue entry reserved for its
  result (R18, R380) -/
  fe : Option (Instr × PktBody × Option (Nat × Nat × Nat))
  /-- the queue entry that an instruction whose answer is outstanding has popped, with its queue (R28) -/
  popped : Option (Nat × QEntry)
  /-- after a timed instruction: first cycle in which the next one could issue had its result met its nominal cycle (R302) -/
  nominal : Option Nat
  deriving DecidableEq, Repr

/-- A slot that holds no thread (R221, R247). -/
structure SlotSt where
  withheld : Bool
  /-- first cycle in which it may be allocated -/
  freeFrom : Nat
  /-- the borrowed window that a `bret` gives back in that cycle: base and size (R236) -/
  loan : Nat × Nat
  /-- lent to a migratory context, with the parked thread that owns the windows (R322) -/
  lent : Option Thread
  /-- while it is lent: what the fault frame holds of the owner's g0 to g7 -/
  frame : List Word
  deriving DecidableEq, Repr

def SlotSt.reset : SlotSt := ⟨false, 0, (0, 0), none, []⟩

/-! ### Core (R207) -/

/-- A queue register (R218): entries from `HEAD` onward. -/
structure Queue where
  head : BitVec 4
  ents : List QEntry
  pushed : Nat
  deriving DecidableEq, Repr

def Queue.reset : Queue := ⟨0, [], 0⟩

/-- A store-buffer entry (R138), with the page it was translated through (R326). -/
structure BufEntry where
  loc : Nat
  da : BitVec 56
  /-- its bytes, none where it writes none -/
  bytes : List (Option Byte)
  slot : Nat
  launch : Nat
  page : Option (BitVec 16 × Nat × Nat)
  /-- number of the core's phase it was issued in (R331) -/
  phase : Nat
  /-- cycle in which it enters the buffer (R174) -/
  enters : Nat
  deriving DecidableEq, Repr

/-- What an access to the own core store does when it is performed (R137, R216). -/
inductive OwnAct where
  /-- bytes of the access's request, from number `i` on, take those at a location -/
  | read (loc n i : Nat)
  /-- bytes stored, with the kind of their trace records -/
  | write (loc : Nat) (da : BitVec 56) (bytes : List Byte) (kind phase : Nat)
  /-- the request is performed at its home -/
  | home (loc n : Nat)
  deriving DecidableEq, Repr

/-- An access to the own core store that is issued and not yet performed. -/
structure OwnAcc where
  /-- its cycle -/
  at_ : Nat
  /-- its request, or the number of its store -/
  id : Nat
  key : Nat
  launch : Nat
  group : Nat
  /-- what its core knew when it issued (R334) -/
  after : Know
  act : OwnAct
  deriving DecidableEq, Repr

/-- Power state of a core (R227). -/
inductive Power where
  | active | gated | waking (since : Nat)
  deriving DecidableEq, Repr

/-- State of a duplicate-table entry (R372). -/
inductive DupState where
  | held | admitted
  deriving DecidableEq, Repr

structure DupEntry where
  src : Nat
  seq : Nat
  st : DupState
  /-- cycle of the head's arrival, and words read by its ADMIT -/
  headAt : Nat
  value : Word
  /-- the word read had an uncorrectable error (R228) -/
  bad : Bool
  /-- what the word read carries (R338) -/
  know : Know
  /-- arrived whole -/
  ended : Bool
  /-- the launch of its packet, whose halt holds its timer (R373) -/
  launch : Nat
  deriving DecidableEq, Repr

/-- State of a retained packet toward one destination (R371). -/
inductive RState where
  | sent | accepted | admitted
  deriving DecidableEq, Repr

/-- A retention entry for one destination: a multicast has one for each copy, under one `SEQ` (R371, R381). -/
structure Retained where
  body : PktBody
  rstate : RState
  tSend : Nat
  nSend : Nat
  nBounce : Nat
  deriving DecidableEq, Repr

/-- An operation parked or blocked on a full-empty word, in the order it found the word unready (R140, R380). -/
structure FeWaiter where
  loc : Nat
  op : FeOp
  /-- blocked local thread's slot with its instruction, and its request where it has issued; or the parked remote request -/
  slot : Option Nat
  instr : Option Instr
  req : Option Nat
  body : Option PktBody
  since : Nat
  deriving DecidableEq, Repr

/-- A place in the arrival queue or in the spill area (R376). -/
structure Arrival where
  body : PktBody
  /-- cycle of its end; none while it is partial -/
  ended : Option Nat
  /-- destination core of a migration that was given up and returned, and the cycle of that (R83, R374) -/
  lost : Option (Nat × Nat)
  deriving DecidableEq, Repr

/-- A core (R207). Register files, slots and core store stand in `State`. -/
structure CoreSt where
  /-- `ROT` code, and the cycle it is in force from (R208, R209) -/
  rot : Nat
  rotFrom : Nat
  /-- the last cycle in which it had a slot occupied or withheld, where it ever had (R209) -/
  busy : Option Nat
  /-- q0 to q15; unlisted queues are empty -/
  queues : SMap Queue
  qOwner : Option (BitVec 16)
  buffer : List BufEntry
  /-- entries of publications not yet performed (R332) -/
  inFlight : List (Nat × BufEntry)
  /-- accesses to its own store in issue order, not yet performed (R137, R216) -/
  own : List OwnAcc
  /-- snapshot: 8-byte words read since the last refresh, by location divided by 8, each with its place in `State.past` (R333) -/
  snap : SMap (Word × Nat)
  /-- the latest place in `State.past` that the core has read of a word, by location divided by 8 (R336) -/
  seen : SMap Nat
  /-- what is ordered before the core's next event, before its last publishing boundary, and before what its relaxed atomics
  read (R334, R338) -/
  know : Know
  sent : Know
  heard : Know
  /-- publishing boundaries issued (R331) -/
  phase : Nat
  /-- first cycle in which the vector unit is free, and the launch and group it serves until then (R215, R416) -/
  vecFree : Nat
  vecUser : Nat × Nat
  vecGated : Bool
  /-- cycle in which a gated unit that wakes is awake -/
  vecWakeAt : Option Nat
  /-- cycle in which a lane instruction last issued -/
  laneAt : Option Nat
  /-- cycle from which every occupied slot has its deep-idle state set (R22) -/
  deepSince : Option Nat
  /-- granted bank accesses: bank number and cycle; general banks 0 to 7, wide 8 to 15, core store 16 to 31 (R213, R216) -/
  banks : List (Nat × Nat)
  spawns : BitVec 16
  arrivals : List Arrival
  spill : List Arrival
  /-- cycles in which spilled entries reach the queue's tail (R376) -/
  spillMoves : List Nat
  dups : List DupEntry
  retained : List Retained
  seqCount : BitVec 16
  /-- whether the injection port is full, which is open, for the next word that is given to it (R240; entry 18) -/
  portFull : Bool
  feWait : List FeWaiter
  tags : List ResTag
  power : Power
  /-- cycle since which the core has been empty and quiet (R227) -/
  idleSince : Nat
  resetting : Bool
  /-- replies held while its core is reset (R373) -/
  heldReplies : List Pending
  /-- `DIRTY` regions, 0 to 31 (R405) -/
  dirty : List Nat
  /-- deposits dropped, by launch (R239) -/
  dropped : SMap Nat
  deriving DecidableEq, Repr

def CoreSt.reset : CoreSt where
  rot := 3
  rotFrom := 0
  busy := none
  queues := []
  qOwner := none
  buffer := []
  inFlight := []
  own := []
  snap := []
  seen := []
  know := []
  sent := []
  heard := []
  phase := 0
  vecFree := 0
  vecUser := (0, 0)
  vecGated := false
  vecWakeAt := none
  laneAt := none
  deepSince := none
  banks := []
  spawns := 0
  arrivals := []
  spill := []
  spillMoves := []
  dups := []
  retained := []
  seqCount := 0
  portFull := false
  feWait := []
  tags := []
  power := .gated
  idleSince := 0
  resetting := false
  heldReplies := []
  dirty := []
  dropped := []

/-! ### Cluster (R250) -/

/-- State of a tile (R251). -/
inductive TileState where
  | free | empty | filling | ready | draining
  deriving DecidableEq, Repr

/-- A tile table entry (R251). -/
structure Tile where
  st : TileState
  gv : Bool
  fmt : BitVec 4
  inv : Bool
  core : Nat
  base : Nat
  rows : Nat
  cols : Nat
  pitch : Nat
  expected : Nat
  arrived : Nat
  group : Nat
  launch : Nat
  src : Nat
  geom : Word
  /-- `SUB`; none for 0xFF -/
  sub : Option Nat
  job : BitVec 35
  semem : Bool
  /-- what the job that filled or drained it has performed and knew (R338) -/
  know : Know
  deriving DecidableEq, Repr

def Tile.reset : Tile := ⟨.free, false, 0, false, 0, 0, 0, 0, 0, 0, 0, 0, 0, 0, 0, none, 0, false, []⟩

/-- An accumulator (R256); elements are keyed by 64·i + j, and an unlisted one is zero. -/
structure Acc where
  data : SMap (BitVec 32)
  atag : BitVec 4
  lq : Nat
  lcnt : Nat
  poison : List Nat
  deriving DecidableEq, Repr

def Acc.reset : Acc := ⟨[], 0, 0, 0, []⟩

/-- A copy descriptor (R263). -/
structure CopyDesc where
  o0 : Nat
  seg : Nat
  stride : Nat
  erows : Nat
  ecols : Nat
  row0 : Int
  col0 : Int
  oe : Nat
  deriving DecidableEq, Repr

/-- What a job does (R259, R270 to R276). -/
inductive JobKind where
  | mma (keep sat : Bool) (acc ha hb : Nat)
  | mzero (acc : Nat) (atag : BitVec 4)
  | mrd (acc h : Nat) (sat : Bool)
  | mwr (acc h : Nat)
  | cpy (h : Nat) (out : Bool) (desc : CopyDesc) (seg : Segment)
  | fence (id : Nat)
  deriving DecidableEq, Repr

/-- Progress of a job. -/
inductive JobPhase where
  | queued | running | ended | complete
  deriving DecidableEq, Repr

/-- A job in a queue (R258), with the tile entries it read at issue. -/
structure Job where
  seq : BitVec 32
  kind : JobKind
  core : Nat
  slot : Nat
  ctag : BitVec 16
  launch : Nat
  group : Nat
  issuedAt : Nat
  /-- publication that must be performed first (R279) -/
  pub : Option Nat
  /-- what is ordered before it (R339) -/
  know : Know
  phase : JobPhase
  /-- report flags, `EMEM`, `EMACH`, `CANC` (R260) -/
  flags : BitVec 5
  emem : Bool
  emach : Bool
  canc : Bool
  /-- writes of a copy not yet performed -/
  pendingWrites : Nat
  /-- pages waited for, and pages the pager declined (R265) -/
  waits : List Nat
  declined : List Nat
  /-- engine cycles a matrix job advanced before a halt stopped it (R283) -/
  ran : Nat
  deriving DecidableEq, Repr

/-- A stored report (R260). -/
structure Report where
  seq : BitVec 32
  bits : BitVec 11
  ctag : BitVec 16
  /-- what its job has performed and knew (R338) -/
  know : Know
  deriving DecidableEq, Repr

/-- A job queue (R258). -/
structure JobQueue where
  issued : BitVec 32
  done : BitVec 32
  jobs : List Job
  reports : List Report
  /-- what a job that is entered now is ordered after in its queue (R339) -/
  know : Know
  deriving DecidableEq, Repr

def JobQueue.reset : JobQueue := ⟨0, 0, [], [], []⟩

/-- The job the matrix engine runs (R278): cycles still to advance, counted to `since`. -/
structure EngineRun where
  queue : Nat
  seq : BitVec 32
  left : Nat
  since : Nat
  total : Nat
  deriving DecidableEq, Repr

/-- A subscription (R266). -/
structure Sub where
  h0 : Nat
  n : Nat
  storer : Bool
  t : Nat
  drow : Int
  dcol : Int
  desc : CopyDesc
  seg : Segment
  next : List Nat
  group : Nat
  launch : Nat
  ctag : BitVec 16
  core : Nat
  slot : Nat
  /-- cycle of its `tsub` -/
  since : Nat
  /-- writes not yet performed of each slot's write-back whose last read is made -/
  writes : SMap Nat
  /-- pages waited for, and pages the pager declined (R265) -/
  waits : List Nat
  declined : List Nat
  deriving DecidableEq, Repr

/-- A kernel in a code buffer (R282). -/
structure CodeBuf where
  launch : Nat
  words : List InstrWord
  /-- 128 KiB ranges of code whose page had `XN` = 1 (R325) -/
  xn : List Nat
  loaded : Bool
  poisoned : Bool
  deriving DecidableEq, Repr

/-- A request joined to a walk (R320). -/
inductive Waiter where
  | thread (key : Nat)
  /-- a copy queue (4 to 7), or 8 and a tile's handle for a subscription -/
  | copy (unit : Nat)
  | prefetch
  deriving DecidableEq, Repr

/-- A miss entry in state WALK (R320). -/
structure Miss where
  ctag : BitVec 16
  page : Nat
  probe : Nat
  waiters : List Waiter
  deriving DecidableEq, Repr

/-- A trace record (R347). -/
structure TraceRec where
  da : BitVec 56
  size : Nat
  kind : Nat
  core : Nat
  slot : Nat
  cyc : BitVec 32
  deriving DecidableEq, Repr

/-- The trace ring of a cluster, whose records stand in its vault (R348): the place of the next record, and the saturating
count. -/
structure TraceHead where
  next : BitVec 12
  count : BitVec 32
  deriving DecidableEq, Repr

def TraceHead.reset : TraceHead := ⟨0, 0⟩

/-- The trace ring of a streamer (R348): records in order, the oldest overwritten, and the saturating count. -/
structure TraceRing where
  recs : List TraceRec
  count : Nat
  deriving DecidableEq, Repr

def TraceRing.reset : TraceRing := ⟨[], 0⟩

/-- An error record (R425). -/
structure ErrRec where
  ce : BitVec 32
  ue : BitVec 16
  src : BitVec 8
  core : BitVec 8
  deriving DecidableEq, Repr

def ErrRec.reset : ErrRec := ⟨0, 0, 0, 0⟩

/-- A change of a tile's state that is seen from the next cycle on (R254). -/
inductive TileChange where
  /-- `tdef` -/
  | define (h : Nat) (t : Tile)
  /-- `trel` -/
  | release (h : Nat)
  /-- slot `i` of a loader's subscription `n` -/
  | empty (h n i : Nat)
  /-- the job or streamer that held a tile has made its last read or its last byte has landed; with what it knows -/
  | ready (h : Nat) (job : BitVec 35) (know : Know)
  deriving DecidableEq, Repr

/-- A cluster (R250). -/
structure ClusterSt where
  tiles : SMap Tile
  accs : SMap Acc
  accOwner : Option (BitVec 16)
  /-- matrix queues 0 to 3, copy queues 4 to 7 -/
  queues : SMap JobQueue
  lastServed : Nat
  engine : Option EngineRun
  subs : SMap Sub
  code : List CodeBuf
  trace : TraceHead
  dirty : List Nat
  tcache : List PageEntry
  misses : SMap Miss
  /-- requests that found no free miss entry, oldest first: tag, page and requester (R320) -/
  retries : List (BitVec 16 × Nat × Waiter)
  err : ErrRec
  /-- activity of the current window, V(n − 1), and engine cycles advanced (R416) -/
  vact : Nat
  vprev : Nat
  eact : Nat
  /-- vault bank grants: bank and cycle (R280) -/
  banks : List (Nat × Nat)
  /-- the vault bank accesses granted to a core's instructions: core, bank and cycle (R303) -/
  granted : List (Nat × Nat × Nat)
  /-- a halted partition's larder is full (R403) -/
  larder : Option Nat
  /-- changes of tile states that take effect at the end of the cycle, in ascending core (R254) -/
  changes : List TileChange
  deriving DecidableEq, Repr

def ClusterSt.reset : ClusterSt where
  tiles := []
  accs := []
  accOwner := none
  queues := []
  lastServed := 3
  engine := none
  subs := []
  code := []
  trace := .reset
  dirty := []
  tcache := []
  misses := []
  retries := []
  err := .reset
  vact := 0
  vprev := 0
  eact := 0
  banks := []
  granted := []
  larder := none
  changes := []

/-! ### Groups, barriers, launches (R288 to R310, R387 to R406) -/

/-- `GSTATE` (R292). -/
inductive GState where
  | idle | run | done | fault
  deriving DecidableEq, Repr

/-- A marver entry with `EV` = 1 (R296). -/
structure MEntry where
  mask : BitVec 256
  seq : BitVec 32
  deriving DecidableEq, Repr

/-- Wait of a member: bound to an entry, named by its sequence number, or pending (R296). -/
inductive MWait where
  | bound (seq : Nat)
  | pending
  deriving DecidableEq, Repr

/-- Gaffer and marver of a group (R292, R296). -/
structure Barrier where
  gstate : GState
  gpc : BitVec 32
  rep : BitVec 16
  lstk : List (BitVec 32 × BitVec 16)
  /-- `GPC` was reached by a LOOP's target (R291) -/
  back : Bool
  /-- `PFB`: record index and bytes; no bytes for a read that failed -/
  pfb : List (Nat × List Byte)
  /-- reads outstanding -/
  reads : List Nat
  fkind : BitVec 8
  frec : BitVec 32
  nextSeq : BitVec 32
  entries : SMap MEntry
  mcount : Nat
  waits : SMap MWait
  exited : List Nat
  /-- `RLS`: fired entries by sequence number, their masks and release cycles -/
  rls : SMap (BitVec 256 × Nat)
  /-- what each member knew at its last `wait` (R338) -/
  know : SMap Know
  deriving DecidableEq, Repr

def Barrier.reset : Barrier := ⟨.idle, 0, 0, [], false, [], [], 0, 0, 0, [], 0, [], [], [], []⟩

/-- State of a group (R400). -/
inductive GroupState where
  | waiting | released | running | retiring | retired
  deriving DecidableEq, Repr

/-- A group of a launch in its window (R400) or running (R396). -/
structure Group where
  st : GroupState
  cancelled : Bool
  started : Bool
  lead : Nat
  places : List Place
  /-- cores that have held its threads -/
  held : List Nat
  /-- cores on which its first issue, with the refresh of its start, is still to come (R331) -/
  unissued : List Nat
  barrier : Barrier
  /-- `.store` region start by core, `.vault` region start by cluster (R217) -/
  store : SMap Nat
  vault : SMap Nat
  /-- freeze: stall cycle, stalled threads, and whether every one of them can issue in the current cycle (R303) -/
  freeze : Option (Nat × List Nat × Bool)
  deriving DecidableEq, Repr

/-- A kernel header (R392). -/
structure Header where
  threads : Nat
  regs : Nat
  nv : Nat
  nk : Nat
  members : Nat
  spanW : Nat
  spanH : Nat
  rot : Nat
  migratory : Bool
  timed : Bool
  store : Nat
  vault : Nat
  count : Nat
  codeIdx : Nat
  deriving DecidableEq, Repr

/-- Status of a launch or graph. -/
inductive LaunchState where
  | waiting | ready | complete
  deriving DecidableEq, Repr

/-- A launch (R391 to R401). -/
structure Launch where
  st : LaunchState
  queue : Nat
  index : Nat
  graph : Option (Nat × Nat)
  job : Nat
  pid : Nat
  ctag : BitVec 16
  header : Header
  headerAddr : BitVec 56
  grid : Nat × Nat × Nat
  dims : Nat
  priority : Nat
  scope : Nat
  /-- fence scope (R389) -/
  fence : Nat
  policy : BitVec 8
  barrierIdx : Option Nat
  deps : List (Int × Int × Int)
  sweep : Int × Int × Int
  segs : List (Option Nat)
  sigAddr : BitVec 56
  sigValue : Word
  ringAddr : BitVec 56
  ringLog : Nat
  coreImage : BitVec 56 × Nat
  vaultImage : BitVec 56 × Nat
  recAddr : BitVec 56
  privileged : Bool
  /-- groups in release order (R399), and `NEXT`, `HEAD`, `CNT` (R400) -/
  order : List Nat
  next : Nat
  head : Nat
  cnt : Nat
  retired : Nat
  cancelledGroups : Nat
  cancelled : Bool
  refusal : Nat
  trapsWritten : Nat
  trapsLost : Nat
  lostPackets : Nat
  effPriority : Nat
  readySince : Option Nat
  startedAt : Nat
  /-- a group has started, so its clusters' `DIRTY` bits have been cleared (R405) -/
  begun : Bool
  halted : Bool
  /-- a cancel that waits for a halt to take effect (R407) -/
  doomed : Bool
  deriving DecidableEq, Repr

/-- A graph (R393). -/
structure Graph where
  queue : Nat
  index : Nat
  members : List Nat
  edges : List (Nat × Nat)
  done : Bool
  cancelled : Bool
  /-- fence scope of its packet, and the cycle in which that started (R343, R389) -/
  fence : Nat
  startedAt : Nat
  deriving DecidableEq, Repr

/-- What a started packet still does (R393). -/
inductive PktState where
  | launch (l : Nat)
  | graph (g : Nat)
  | wait (da : BitVec 56) (value : Word)
  /-- the read that ends the wait has returned in the cycle before `at_` -/
  | waited (at_ : Nat)
  | signal (da : BitVec 56) (value : Word) (scope : Nat)
  /-- cancelled before the hub read it (R387) -/
  | cancelled
  | complete
  deriving DecidableEq, Repr

/-- A hardware queue (R388). -/
structure HQueue where
  qbase : BitVec 56
  qsize : BitVec 4
  qhost : Bool
  job : BitVec 10
  en : Bool
  qkick : BitVec 32
  qread : BitVec 32
  qdone : BitVec 32
  qign : BitVec 16
  /-- packets started and not below `QDONE`, by index -/
  started : SMap PktState
  /-- indices of packets the root monitor has marked as privileged (R50) -/
  marks : List Nat
  deriving DecidableEq, Repr

def HQueue.reset : HQueue := ⟨0, 0, false, 0, false, 0, 0, 0, 0, [], []⟩

/-! ### Contexts, partitions, windows (R225, R413, R436) -/

/-- What the root monitor keeps for a context tag. -/
structure Context where
  pid : Nat
  sdt : BitVec 56
  descs : SMap Segment
  sdtSize : Nat
  ptRoot : BitVec 56
  tagKey : Word
  windows : SMap WindowEntry
  deriving DecidableEq, Repr

/-- Counters of a window (R437). -/
structure Counters where
  lc : BitVec 64
  liss : BitVec 64
  rc : BitVec 64
  tc : SMap (BitVec 64)
  err : BitVec 64
  /-- what the increments of each counter are ordered after: kind 0 to 4, or 8 + t for the counter of tile t (R338, R441) -/
  know : SMap Know
  deriving DecidableEq, Repr

def Counters.reset : Counters := ⟨0, 0, 0, [], 0, []⟩

/-- A partition entry (R413), with the clusters that are assigned to it (R414). -/
structure Partition where
  shape : PartShape
  clusters : List Nat
  tags : List (BitVec 16)
  jobs : List Nat
  /-- frame ranges by tier: first and last physical byte -/
  frames : List (Nat × Nat × Nat)
  vfn : Nat
  priv : Bool
  pasid : BitVec 20
  deriving DecidableEq, Repr

/-- A future of a page fault (R321). -/
structure Future where
  ctag : BitVec 16
  page : Nat
  waiters : List Nat
  deriving DecidableEq, Repr

/-! ### Requests in flight -/

/-- What happens when a publication completes (R332). -/
inductive After where
  | resume (key : Nat) (refresh : Bool)
  | send (req : Nat)
  | waitArrive (l g member : Nat)
  | job (cluster queue : Nat) (seq : BitVec 32)
  | packet (core : Nat) (seq : Nat)
  | retire (l g : Nat)
  | fabric (op : Nat)
  | nothing
  deriving DecidableEq, Repr

/-- A publication that is not complete: the requests and stores to the own core store that it waits for (R332). -/
structure Pub where
  core : Nat
  waits : List Nat
  after : After
  deriving DecidableEq, Repr

/-- What a request does at its home. -/
inductive ReqKind where
  /-- plain read of parts: location and bytes -/
  | read (parts : List (Nat × Nat))
  /-- an instruction's atomic with operand values -/
  | atomic (loc n : Nat) (vals : List Word)
  /-- a full-empty operation on the own core store, with the value a store writes -/
  | fe (loc : Nat) (op : FeOp) (v : Word)
  | tagRead (loc : Nat)
  | tagWrite (loc : Nat) (v : BitVec 4)
  /-- a store of a publication, or of a job -/
  | write (loc : Nat) (bytes : List (Option Byte)) (pub : Option Nat) (job : Option (Nat × Nat × BitVec 32))
  deriving DecidableEq, Repr

/-- How the bytes of a wide load reach its register: for each byte read, the byte of the register it goes to, if it is
enabled; and what the register held (R173, R204). -/
structure WideDst where
  onto : List (Option Nat)
  old : Wide
  tag : BitVec 4
  deriving DecidableEq, Repr

/-- A piece of an access through a segment of nonzero colour, compared once more where it is read or written: its bytes, the
segment with its colour, the access code and the second detail of its trap (R142, R318). -/
structure ColourTest where
  loc : Nat
  da : Nat
  len : Nat
  seg : Nat
  colour : BitVec 4
  code : Nat
  second : Word
  deriving DecidableEq, Repr

/-- A request on its way to its home (R137). -/
structure Req where
  key : Nat
  instr : Option Instr
  kind : ReqKind
  /-- place in its core's issue order (R336) -/
  order : Nat
  /-- the phase of its core it was issued in, what its release side carries, and what it read carried (R331, R338) -/
  phase : Nat
  know : Know
  got : Know
  /-- what its core or its job knew when it set out, and so what it follows (R334) -/
  after : Know
  /-- bytes of a read that a write still under way decides: location and number (R336) -/
  gaps : List (Nat × Nat)
  /-- a wide load's destination -/
  dst : Option WideDst
  /-- the banks of its registers are granted for the cycle of its answer (R213) -/
  granted : Bool
  da : BitVec 56
  launch : Nat
  mask : Word
  /-- reply data, once performed -/
  data : List Byte
  performed : Bool
  /-- held by a tile at its home (R253) -/
  held : Bool
  /-- queue entry to fill, for `qld`: core, queue, push number -/
  qdest : Option (Nat × Nat × Nat)
  poison : Bool
  /-- colours to be met at its home, and the detail and second detail of the E_TAG where one was not (R142) -/
  tests : List ColourTest
  failed : Option (BitVec 32 × Word)
  deriving DecidableEq, Repr

/-- A deposit on its wires (R222). -/
structure Deposit where
  srcCore : Nat
  srcSlot : Nat
  core : Nat
  slot : Nat
  ctag : BitVec 16
  launch : Nat
  group : Nat
  reg : RegName
  val : Wide
  tag : BitVec 4
  lands : Nat
  lost : Bool
  deriving DecidableEq, Repr

/-- A write that has been performed: what it overwrote, and whose it was; none for a write that every core knows of (R346). No
core reads what lay before a write that every core knows of, and `old` may then be empty. -/
structure Past where
  loc : Nat
  len : Nat
  old : List Byte
  agent : Option Nat
  phase : Nat
  deriving DecidableEq, Repr

/-- A flit of a packet (R367): 64 bytes and the control field. -/
structure Flit where
  payload : List Byte
  fidx : BitVec 3
  head : Bool
  end_ : Bool
  abort : Bool
  vc : BitVec 2
  nw : BitVec 8
  crc : BitVec 16
  deriving DecidableEq, Repr

/-- A packet or reply in the network (R367). -/
structure NetPkt where
  body : PktBody
  /-- the flits injected, in order -/
  flits : List Flit
  /-- numbers of flits that were discarded on the way, or that the destination does not take (R370, R372) -/
  lost : List Nat
  /-- its closing flit is injected -/
  closed : Bool
  /-- the head flit has arrived and is taken -/
  headIn : Bool
  deriving DecidableEq, Repr

/-- A fabric operation of this module (R439). -/
structure FabOp where
  kind : FabricKind
  ctag : BitVec 16
  win : Nat
  off : Nat
  len : Nat
  /-- local bytes in pieces: location, device address and length -/
  locals_ : List (Nat × BitVec 56 × Nat)
  core : Nat
  slot : Nat
  issuedAt : Nat
  launch : Nat
  deriving DecidableEq, Repr

/-- A fence in progress (R276): its queue entries by queue and sequence number. -/
structure Fence where
  cluster : Nat
  parts : List (Nat × BitVec 32)
  deriving DecidableEq, Repr

/-! ### Halts, host, fabric -/

/-- A matrix job that a halt has stopped: its queue, number and accumulator, that accumulator with the chunks added so far, and what
its report then holds (R283, R284). -/
structure CutJob where
  queue : Nat
  seq : BitVec 32
  acc : Nat
  value : Acc
  flags : BitVec 5
  emach : Bool
  deriving DecidableEq, Repr

/-- What a cluster held when its part of a halted context moved to the save area (R403, R405), under its own numbers. -/
structure SavedCluster where
  cluster : Nat
  state : ClusterSt
  cores : SMap CoreSt
  threads : SMap Thread
  slots : SMap SlotSt
  gfile : SMap Word
  wfile : SMap VReg
  rels : SMap Know
  errs : List (ErrSite × Bool)
  /-- its dirty regions as coded records (R406) -/
  records : List (List Byte)
  /-- what the chunks that its halted matrix jobs have added come to (R283, R284) -/
  cuts : List CutJob
  deriving DecidableEq, Repr

/-- A halt request or a halted context (R403). -/
structure Halt where
  requestedAt : Nat
  /-- the launch to halt; none for the whole partition -/
  launch : Option Nat
  /-- cycle of the halt, once it took effect -/
  taken : Option Nat
  /-- cycle of an earlier halt of one launch that a halt of the partition takes over (R417) -/
  older : Option Nat
  /-- events held until issue resumes, each at its cycle before the halt moves it (R305) -/
  events : List Pending
  /-- clusters the context lies on -/
  clusters : List Nat
  /-- clusters whose context lies in the save area -/
  saved : List SavedCluster
  /-- cycle in which issue resumes -/
  resumeAt : Option Nat
  deriving DecidableEq, Repr

/-- Power and heat of a die (R415, R417). -/
structure DieSt where
  cap : BitVec 12
  ecap : BitVec 12
  /-- `CAP` as it stood when the window began (R416, R426) -/
  window : BitVec 12
  temp : BitVec 8
  hot : Bool
  deriving DecidableEq, Repr

def DieSt.reset : DieSt := ⟨2048, 2048, 2048, 0, false⟩

/-- A PCIe function (R430, R431, R433). -/
structure FuncSt where
  b2da : BitVec 56
  b2tag : BitVec 16
  herr : BitVec 32
  thalt : Bool
  sfatal : Bool
  bootf : Bool
  /-- MSI-X: the table's 8-byte words, its vectors whose mask bit is set, pending bits, and messages sent (R431) -/
  table : SMap Word
  masked : List Nat
  msiPending : List Nat
  msiSent : List Nat
  /-- DOE: last response written, requests written, and whether the last one is still to be answered (R433) -/
  doe : List Byte
  doeRequests : Nat
  doeBusy : Bool
  /-- last completion of a BAR2 read: data, or none for Completer Abort -/
  bar2 : Option (List Byte)
  /-- code of the size of BAR2: 2 ^ (30 + code) bytes (R432) -/
  bar2Code : BitVec 3
  /-- the last access to host memory sent for it: PASID, I/O virtual address, and whether it went translated (R428) -/
  hostSent : Option (BitVec 20 × Nat × Bool)
  /-- ATS cache: I/O virtual pages -/
  ats : List Nat
  deriving DecidableEq, Repr

def FuncSt.reset : FuncSt := ⟨0, 0, 0, false, false, false, [], List.range 32, [], [], [], 0, false, none, 0, none, []⟩

/-- An interrupt map entry (R431). -/
structure IntMap where
  vec : BitVec 5
  ien : Bool
  deriving DecidableEq, Repr

/-- A Claom Link port (R434). -/
structure LinkPort where
  sendSeq : BitVec 12
  expected : BitVec 12
  /-- replay buffer: flits sent and not acknowledged, with the network cycle each was sent in -/
  replay : List (LinkFlit × Nat)
  /-- flits that wait for room in it -/
  waiting : List LinkFlit
  out : List LinkFlit
  received : List LinkFlit
  deriving DecidableEq, Repr

def LinkPort.reset : LinkPort := ⟨0, 0, [], [], [], []⟩

/-- A write of the host that waits behind an earlier one (R432, R343). -/
inductive HostWrite where
  | memory (fnum offset : Nat) (bytes : List Byte)
  | register (fnum offset : Nat) (value : BitVec 64)
  | kick (queue : Nat) (value : BitVec 32)
  deriving DecidableEq, Repr

/-- What a take-over holds: the completion of a launch, or the signal packet at a queue's `QDONE` (R423). -/
inductive Due where
  | launch (l : Nat)
  | signal (q : Nat)
  deriving DecidableEq, Repr

/-- Scheduler cores (R422, R423). -/
structure Sched where
  /-- 0 none has failed, 1 the active core has and its standby is in charge, 2 both have, 3 the standby has -/
  failed : Nat
  /-- cycle a take-over ends -/
  takeover : Option Nat
  journal : List (Nat × Nat × Nat)
  kicks : List Nat
  /-- completion records and signals held during a take-over, in the order they fell due -/
  held : List Due
  stopped : Bool
  /-- cycle of the last placement (R396) -/
  lastPlace : Option Nat
  deriving DecidableEq, Repr

/-- Boot chain (R420): steps passed, the step that failed, and the measurement M. -/
structure BootSt where
  steps : Nat
  failed : Option Nat
  measure : List Byte
  versions : List Nat
  deriving DecidableEq, Repr

/-- The cause of a refusal that the root monitor returns (R419). -/
inductive Denied where
  /-- clusters outside the partition, or a form that R396 or R413 does not allow -/
  | shape
  /-- a tag that is not the partition's, or that is not resident -/
  | tags
  /-- a queue that is not bound to the partition -/
  | jobs
  /-- memory that is not the partition's -/
  | frames
  /-- slots, a larder, a cluster or a context in use -/
  | busy
  /-- a request that names nothing there is, or whose fields are out of range -/
  | form
  deriving DecidableEq, Repr

/-- Where inside a cycle the machine stands (model). -/
inductive CyclePhase where
  | early | issue | late | admission | close
  deriving DecidableEq, Repr

/-! ### The machine -/

/-- The state of a module. -/
structure State where
  /-- `x.cyc` (R79) -/
  cyc : Nat
  phase : CyclePhase
  /-- next core to issue in this cycle (model) -/
  turn : Nat
  /-- thread whose instruction is executed: 64·core + slot (model) -/
  cur : Nat
  /-- numbers of the event that is executed (model) -/
  args : List Nat
  pending : List Pending
  /-- number of the next free value (model) -/
  fresh : Nat
  /-- occupied slots, by 64·core + slot -/
  threads : SMap Thread
  /-- slots that are not plainly free -/
  slots : SMap SlotSt
  /-- general files, by 2048·core + entry; unlisted entries are zero -/
  gfile : SMap Word
  /-- wide files, by 256·core + entry -/
  wfile : SMap VReg
  cores : SMap CoreSt
  clusters : SMap ClusterSt
  /-- all memory, by location -/
  mem : List Host.Cell
  /-- writes performed, the newest first: what the locations held before (R333, R346) -/
  past : List Past
  /-- what an atomic that reads a location synchronises with, by location, and by granule for its tag (R337, R338) -/
  rels : SMap Know
  /-- what the groups that have retired knew and performed (R340) -/
  done : Know
  /-- full core-store words, by location / 8 (R140) -/
  full : List Nat
  /-- stored granule tags, by location / 64; unlisted are 0 (R318) -/
  gtags : SMap (BitVec 4)
  /-- marked errors: site, and whether it is uncorrectable (R228, R285) -/
  errs : List (ErrSite × Bool)
  contexts : SMap Context
  counters : SMap Counters
  partitions : SMap Partition
  /-- entries that the root monitor is to write when a cluster is assigned to their partition (R413) -/
  asked : SMap PartEntry
  /-- kick pages by their 128 KiB frame, each with its queue (R388) -/
  kickPages : SMap Nat
  futures : List Future
  /-- trap records of this cycle, and those that wait for a page of their ring or for a tile: slot, launch, group and bytes (R86,
  R253, R394) -/
  trapOut : List (Nat × Nat × Nat × List Byte)
  trapHeld : List (Nat × Nat × Nat × List Byte)
  /-- frames free in each partition's pool (R322) -/
  framePool : SMap Nat
  launches : SMap Launch
  groups : SMap Group
  graphs : SMap Graph
  hqueues : SMap HQueue
  pubs : SMap Pub
  reqs : SMap Req
  deposits : SMap Deposit
  packets : SMap NetPkt
  fabops : SMap FabOp
  fences : SMap Fence
  /-- identifier of the next request, publication, packet or operation (model) -/
  nextId : Nat
  halts : SMap Halt
  dies : SMap DieSt
  functions : SMap FuncSt
  /-- writes of the host that are not yet performed, the oldest first (R432) -/
  posted : List HostWrite
  intMap : SMap IntMap
  links : SMap LinkPort
  routes : SMap (BitVec 16)
  sched : Sched
  boot : BootSt
  /-- trace rings of HBM slices and cellar streamers (R348) -/
  traces : SMap TraceRing
  /-- the answer to the last request of the policy firmware or the host: the cause of its refusal, or none (R419) -/
  refused : Option Denied
  /-- answer to the last fabric get served for a peer (R439) -/
  served : List (Nat × List Byte)
  deriving DecidableEq, Repr

/-- The machine right after reset. -/
def State.reset : State where
  cyc := 0
  phase := .early
  turn := 0
  cur := 0
  args := []
  pending := [⟨256, .powerWindow, []⟩]
  fresh := 0
  threads := []
  slots := []
  gfile := []
  wfile := []
  cores := []
  clusters := []
  mem := []
  past := []
  rels := []
  done := []
  full := []
  gtags := []
  errs := []
  contexts := []
  counters := []
  partitions := []
  asked := []
  kickPages := []
  futures := []
  trapOut := []
  trapHeld := []
  framePool := []
  launches := []
  groups := []
  graphs := []
  hqueues := []
  pubs := []
  reqs := []
  deposits := []
  packets := []
  fabops := []
  fences := []
  nextId := 0
  halts := []
  dies := []
  functions := []
  posted := []
  intMap := []
  links := []
  routes := []
  sched := ⟨0, none, [], [], [], false, none⟩
  boot := ⟨0, none, List.replicate 64 0, []⟩
  traces := []
  refused := none
  served := []

/-! ### How a step stops -/

/-- Why the machine stops with a fault. -/
inductive Fault where
  /-- Raised by the meaning of a thread instruction where no thread issues (`State.cur` names a slot without one). Safe:
  the machine never executes a thread instruction but for a thread, so `step` never raises it. -/
  | noIssuingThread
  deriving DecidableEq, Repr

/-- Why the machine refuses an instruction. -/
inductive Refusal where
  /-- Raised by an arm of `exec` whose instruction has no meaning yet. Safe: nothing is claimed of it. -/
  | notModelled (mnemonic : String)
  deriving DecidableEq, Repr

end Sys2Proof.Machine
end

