-- ==== Sys2Proof/Machine/Flags.lean ====
section
/-! DEFINITION. `x.status`: its flags, the dynamic rounding mode, and what a write of it changes (R24, R78). -/

namespace Sys2Proof.Machine

/-- Flags ORed into `x.status`[8:0] (R78). -/
def orFlags (status : BitVec 32) (f : Flags) : BitVec 32 := status ||| f.setWidth 32

/-- The rounding mode an instruction uses (R23, R24). -/
def roundOf (status : BitVec 32) : Rnd → RMode
  | .dyn => RMode.ofCode (status.extractLsb' 9 3).toNat
  | .rne => .rne
  | .rtz => .rtz
  | .rdn => .rdn
  | .rup => .rup
  | .rna => .rna

/-- Whether a code may stand in `RM` (R24). -/
def rmLegal (n : BitVec 3) : Bool := 1 ≤ n.toNat && n.toNat ≤ 5

/-- `x.status` after an `xwr`: flags are replaced, `RM` keeps its code when the new one is refused, and the read-only
fields stand (R24, R78). -/
def statusWrite (old : BitVec 32) (v : Word) : BitVec 32 :=
  let rm := v.extractLsb' 9 3
  let keep : BitVec 32 := if rmLegal rm then 0xFFFFF000 else 0xFFFFFE00
  (old &&& keep) ||| (v.setWidth 32 &&& ~~~keep)

/-- The deep-idle bit after an instruction issues: set by the D hint, cleared by a lane instruction (R22). -/
def deepIdle (status : BitVec 32) (d lane : Bool) : BitVec 32 :=
  if d then status ||| 0x4000 else if lane then status &&& ~~~(0x4000 : BitVec 32) else status

end Sys2Proof.Machine
end

