-- ==== Sys2Proof/Config.lean ====
section
/-! DEFINITION. What one module fixes, and the values the spec leaves open. Nothing here can be evaluated: a claim that
holds, holds whatever these are. -/

namespace Sys2Proof.Config

/-- Cycles a trip or a service takes beyond the first, where the manual states no figure (R365, R396, R403); the
argument numbers the trips. -/
opaque latency : Nat → Nat

/-- A choice the manual leaves open, numbered (R333, R332). -/
opaque freeBit : Nat → Bool

/-- A value the manual leaves open, numbered. -/
opaque freeWord : Nat → Word

/-- SHAKE256 with a 64-byte output (R420). -/
opaque shake256 : List Byte → List Byte

/-- Falcon-1024 verification of a signature over a message under a public key (R420). -/
opaque falconVerify : List Byte → List Byte → List Byte → Bool

/-- The identity key's Falcon-1024 signature over a message (R421, R433). -/
opaque falconSign : List Byte → List Byte

/-- CRC-32 of a Claom Link flit (R434). -/
opaque crc32 : List Byte → BitVec 32

/-- The value the CRC-16 of a packet flit starts from (R367). -/
opaque crc16Start : BitVec 16

/-- This module's identifier (R421, R435). -/
opaque moduleId : BitVec 12

/-- Fuses: the vendor key's digest and the security version counters (R420). -/
opaque vendorKeyDigest : List Byte
opaque fusedVersion : Nat

/-- The response of the IDE_KM protocol, which the manual leaves to the PCI Express base specification (R433). -/
opaque ideKmResponse : List Byte → List Byte

/-- Which of a partition's context tags the launches of a job run under, which the manual leaves to the root monitor (R391). -/
opaque tagChoice : Nat → Nat

/-- Falungal's vendor identifier, and the number of IDE_KM's data object type, which the PCI Express base specification gives (R433;
entry 31). -/
opaque falungalVendor : BitVec 16
opaque ideKmType : BitVec 8

/-- The data object types of a mailbox, each with its vendor: discovery, IDE_KM and attestation (R433; entry 31). -/
def doeTypes : List (BitVec 16 × BitVec 8) := [(1, 0), (1, ideKmType), (falungalVendor, 0x80)]

/-- The 240-byte payloads of the flits of a fabric message, whose form the manual leaves open (R434): its kind and numbers, and
its bytes. -/
opaque fabricPayloads : List Nat → List Byte → List (List Byte)

/-- The hash of source module, window and tile that picks a port (R435). -/
opaque portHash : List Nat → Nat

end Sys2Proof.Config
end

