-- ==== Sys2Proof/Machine/Ops.lean ====
section
/-! DEFINITION. The named operations over the state that the meanings share: places in the package, time and scheduled
events, memory and its homes, translation, the store buffer and the snapshot, storage errors, tiles that hold writes,
threads and their windows, taking a trap, and freezing a timed span. -/

namespace Sys2Proof.Machine

/-! ### Places (R6, R312) -/

/-- Key of a slot. -/
def slotKey (core slot : Nat) : Nat := 64 * core + slot
def coreOf (key : Nat) : Nat := key / 64
def slotOf (key : Nat) : Nat := key % 64
def clusterOf (core : Nat) : Nat := core / 8
/-- Key of a group in `State.groups`. -/
def groupKey (l g : Nat) : Nat := 2 ^ 24 * l + g

def dieOf (cluster : Nat) : Nat := cluster / 256
def meshRow (cluster : Nat) : Nat := cluster / 16 % 16
def meshCol (cluster : Nat) : Nat := cluster % 16

/-- Location of a byte of a core store or of a vault: its device address (R312). -/
def coreLoc (core off : Nat) : Nat := 0xFF * 2 ^ 48 + core * 2 ^ 17 + off
def vaultLoc (cluster off : Nat) : Nat := 0xFE * 2 ^ 48 + cluster * 2 ^ 22 + off

/-- The place a location or a device address names. -/
inductive Home where
  | core (c off : Nat)
  | vault (cl off : Nat)
  | hbm (pa : Nat)
  | cellar (pa : Nat)
  | host (pid va : Nat)
  | other
  deriving DecidableEq, Repr

/-- The home of a location (R311): windows by device address, then HBM, cellar and host memory by address. -/
def homeOf (loc : Nat) : Home :=
  if loc < 2 ^ 56 then
    if loc / 2 ^ 48 = 0xFF then .core (loc / 2 ^ 17 % 2 ^ 14) (loc % 2 ^ 17)
    else if loc / 2 ^ 48 = 0xFE then .vault (loc / 2 ^ 22 % 2 ^ 11) (loc % 2 ^ 22)
    else .other
  else match loc / 2 ^ 64 with
    | 0 => .other
    | 1 => .hbm (loc % 2 ^ 64)
    | 2 => .cellar (loc % 2 ^ 64)
    | n + 3 => .host n (loc % 2 ^ 64)

/-- Hops of a route within a die (R365). -/
def hops (a b : Nat) : Nat :=
  let dx := max (meshCol a) (meshCol b) - min (meshCol a) (meshCol b)
  let dy := max (meshRow a) (meshRow b) - min (meshRow a) (meshRow b)
  dx / 4 + dx % 4 + dy

/-! ### Access to the parts of the state -/

namespace State

def core (s : State) (n : Nat) : CoreSt := s.cores.getD n .reset
def setCore (s : State) (n : Nat) (c : CoreSt) : State := { s with cores := s.cores.put .reset n c }
def updCore (s : State) (n : Nat) (f : CoreSt → CoreSt) : State := s.setCore n (f (s.core n))

def cluster (s : State) (n : Nat) : ClusterSt := s.clusters.getD n .reset
def setCluster (s : State) (n : Nat) (c : ClusterSt) : State := { s with clusters := s.clusters.put .reset n c }
def updCluster (s : State) (n : Nat) (f : ClusterSt → ClusterSt) : State := s.setCluster n (f (s.cluster n))

def thread? (s : State) (key : Nat) : Option Thread := s.threads.get? key
def setThread (s : State) (key : Nat) (t : Thread) : State := { s with threads := s.threads.set key t }
def updThread (s : State) (key : Nat) (f : Thread → Thread) : State :=
  match s.thread? key with
  | some t => s.setThread key (f t)
  | none => s

def slot (s : State) (key : Nat) : SlotSt := s.slots.getD key .reset
def setSlot (s : State) (key : Nat) (x : SlotSt) : State := { s with slots := s.slots.put .reset key x }

def launch? (s : State) (l : Nat) : Option Launch := s.launches.get? l
def updLaunch (s : State) (l : Nat) (f : Launch → Launch) : State :=
  match s.launch? l with
  | some x => { s with launches := s.launches.set l (f x) }
  | none => s

def group? (s : State) (l g : Nat) : Option Group := s.groups.get? (groupKey l g)
def setGroup (s : State) (l g : Nat) (x : Group) : State := { s with groups := s.groups.set (groupKey l g) x }
def updGroup (s : State) (l g : Nat) (f : Group → Group) : State :=
  match s.group? l g with
  | some x => s.setGroup l g (f x)
  | none => s

def queue (s : State) (c q : Nat) : Queue := (s.core c).queues.getD q .reset
def setQueue (s : State) (c q : Nat) (x : Queue) : State :=
  s.updCore c fun k => { k with queues := k.queues.put .reset q x }

def tile (s : State) (cl h : Nat) : Tile := (s.cluster cl).tiles.getD h .reset
def setTile (s : State) (cl h : Nat) (x : Tile) : State :=
  s.updCluster cl fun k => { k with tiles := k.tiles.put .reset h x }

def acc (s : State) (cl a : Nat) : Acc := (s.cluster cl).accs.getD a .reset
def setAcc (s : State) (cl a : Nat) (x : Acc) : State :=
  s.updCluster cl fun k => { k with accs := k.accs.put .reset a x }

def jobQueue (s : State) (cl q : Nat) : JobQueue := (s.cluster cl).queues.getD q .reset
def setJobQueue (s : State) (cl q : Nat) (x : JobQueue) : State :=
  s.updCluster cl fun k => { k with queues := k.queues.put .reset q x }

/-- The rotation length L of a core (R208). -/
def rotLen (s : State) (c : Nat) : Nat := 8 * 2 ^ ((s.core c).rot % 4)

/-- The partition of a context tag, and its number. -/
def pidOf (s : State) (ctag : BitVec 16) : Option Nat := (s.contexts.get? ctag.toNat).map (·.pid)
def partOf (s : State) (ctag : BitVec 16) : Option Partition := (s.pidOf ctag).bind s.partitions.get?

/-- Whether a cluster lies in the partition of a context tag (R313). -/
def inPart (s : State) (ctag : BitVec 16) (cl : Nat) : Bool :=
  match s.partOf ctag with
  | some p => p.clusters.contains cl
  | none => false

/-- Whether a kernel is timed (R301). -/
def timed (s : State) (l : Nat) : Bool :=
  match s.launch? l with
  | some x => x.header.timed
  | none => false

/-- Whether a launch is halted (R403). -/
def halted (s : State) (l : Nat) : Bool :=
  match s.launch? l with
  | some x => x.halted
  | none => false

/-- The stall cycle of a group's freeze, while one is in progress (R303). -/
def frozen (s : State) (l g : Nat) : Bool :=
  match s.group? l g with
  | some x => x.freeze.isSome
  | none => false

end State

/-- The clusters of a rectangle whose north-west corner is `lead` (R396). -/
def rectangle (lead w h : Nat) : List Nat := (List.range h).flatMap fun r => (List.range w).map fun c => lead + 16 * r + c

/-- The clusters of a group's span; `home` stands for a group that is not recorded. -/
def State.span (s : State) (l g home : Nat) : List Nat :=
  match s.launch? l, s.group? l g with
  | some x, some y => rectangle y.lead x.header.spanW x.header.spanH
  | _, _ => [home]

/-! ### Time and events (R247 and the events of the opcode table) -/

/-- An event `d` cycles ahead. -/
def later (d : Nat) (ev : Instr) (args : List Nat) (s : State) : State :=
  { s with pending := s.pending ++ [⟨s.cyc + d, ev, args⟩] }

/-- An event `d` cycles ahead, unless it is already due some time. -/
def arm (d : Nat) (ev : Instr) (args : List Nat) (s : State) : State :=
  if s.pending.any fun p => p.args == args && p.ev == ev then s else later d ev args s

/-- The next free number (entry 2). -/
def State.take (s : State) : Nat × State := (s.fresh, { s with fresh := s.fresh + 1 })

/-- Cycles of a trip whose length the manual leaves open (R365). -/
def State.tripLen (s : State) : Nat := 1 + Config.latency s.fresh

/-- An event at the end of a trip of open length. -/
def trip (ev : Instr) (args : List Nat) (s : State) : State := later s.tripLen ev args { s with fresh := s.fresh + 1 }

/-- A fresh identifier. -/
def State.newId (s : State) : Nat × State := (s.nextId, { s with nextId := s.nextId + 1 })

/-! ### Bytes and numbers (R3) -/

/-- Little-endian number of bytes. -/
def ofBytes (l : List Byte) : Nat := l.foldr (fun b acc => b.toNat + 256 * acc) 0

/-- The low `n` bytes of a number, lowest first. -/
def toBytes : Nat → Nat → List Byte
  | 0, _ => []
  | n + 1, w => BitVec.ofNat 8 (w % 256) :: toBytes n (w / 256)

/-- A number put into a rising list. -/
def insertNat (n : Nat) (l : List Nat) : List Nat := l.filter (· < n) ++ n :: l.filter (n < ·)

/-! ### Memory (R311, R312) -/

/-- What a byte that nothing has written reads as (R217, R414; entry 4). -/
def unwritten : Byte := 0

/-- The canonical form of memory: addresses rise, and no byte is listed that reads as an unlisted one. -/
abbrev Memory.wf (m : List Host.Cell) : Prop :=
  SMap.sorted m = true ∧ m.all (fun c => c.2 != unwritten) = true

/-- One byte. -/
def readByte (s : State) (loc : Nat) : Byte := SMap.getD s.mem loc unwritten

/-- A byte list with one byte written, in canonical form. -/
def memPut (m : List Host.Cell) (loc : Nat) (b : Byte) : List Host.Cell := SMap.put m unwritten loc b

/-- Consecutive bytes written. -/
def memPutAll (m : List Host.Cell) (loc : Nat) : List Byte → List Host.Cell
  | [] => m
  | b :: r => memPutAll (memPut m loc b) (loc + 1) r

/-- `n` bytes from `loc`. -/
def readBytes (s : State) (loc n : Nat) : List Byte := (List.range n).map fun i => readByte s (loc + i)

/-- A little-endian number of `n` bytes. -/
def readNum (s : State) (loc n : Nat) : Nat := ofBytes (readBytes s loc n)

/-- Bytes stored, and nothing else. -/
def writeBytes (s : State) (loc : Nat) (bs : List Byte) : State := { s with mem := memPutAll s.mem loc bs }

/-- Whether an 8-byte word is covered by `[loc, loc + n)`. -/
def coversWord (loc n w : Nat) : Bool := decide (loc ≤ 8 * w) && decide (8 * w + 8 ≤ loc + n)

/-- Who performs a write, and for which launch (R347). -/
structure Writer where
  launch : Option Nat
  core : Nat
  slot : Nat
  kind : Nat
  /-- the agent of `Know` whose write it is, and its phase; none for a write that every core knows of -/
  agent : Option Nat
  phase : Nat
  deriving DecidableEq, Repr

/-- The agent of `Know` that stands for a job queue, or for subscription `q` − 8. -/
def jobAgent (cl q : Nat) : Nat := 2 ^ 14 + 32 * cl + q

/-- The aligned 8-byte parts of an access (R329): start and length. -/
def parts8 : Nat → Nat → Nat → List (Nat × Nat)
  | 0, _, _ => []
  | fuel + 1, loc, n =>
    if n = 0 then []
    else
      let k := min n (8 - loc % 8)
      (loc, k) :: parts8 fuel (loc + k) (n - k)

/-- The size code of a trace record; a size R27 does not name takes the next larger code (entry 5). -/
def sizeCode (n : Nat) : Nat := if n ≤ 1 then 0 else if n ≤ 2 then 1 else if n ≤ 4 then 2 else if n ≤ 8 then 3 else 4

/-- A ring with a record added, the oldest overwritten (R348). -/
def TraceRing.add (cap : Nat) (t : TraceRing) (r : TraceRec) : TraceRing :=
  ⟨(if t.recs.length < cap then t.recs else t.recs.drop 1) ++ [r], min (t.count + 1) (2 ^ 32 - 1)⟩

/-- The 16 bytes of a trace record (R347). -/
def TraceRec.bytes (r : TraceRec) : List Byte :=
  toBytes 7 r.da.toNat ++ toBytes 1 (r.size % 8 + 8 * (r.kind % 4)) ++ toBytes 2 (r.core % 2 ^ 14) ++ toBytes 1 (r.slot % 64)
    ++ toBytes 1 0 ++ toBytes 4 r.cyc.toNat

/-- A record in a cluster's ring, which lies in its vault (R281, R348). -/
def traceCluster (s : State) (cl : Nat) (r : TraceRec) : State :=
  let h := (s.cluster cl).trace
  let off := 0x2F0000 + 16 * h.next.toNat
  (writeBytes s (vaultLoc cl off) r.bytes).updCluster cl fun k => { k with
    trace := ⟨h.next + 1, if h.count = BitVec.allOnes 32 then h.count else h.count + 1⟩
    dirty := if k.dirty.contains (off / 4096) then k.dirty else k.dirty ++ [off / 4096] }

/-- One record in the ring of a location's home (R347, R348). DESIGN CHOICE (entry 62): the cellar has one streamer, and so one
ring, for each 4 GiB of its addresses. -/
def traceOne (s : State) (loc : Nat) (r : TraceRec) : State :=
  let inCluster (cl : Nat) : State := traceCluster s cl r
  let streamer (key : Nat) : State :=
    { s with traces := s.traces.set key ((s.traces.getD key .reset).add 1024 r) }
  match homeOf loc with
  | .core c _ => inCluster (clusterOf c)
  | .vault cl _ => inCluster cl
  | .hbm pa => streamer (pa / 2 ^ 32)
  | .cellar pa => streamer (256 + pa / 2 ^ 32)
  | .host _ _ | .other => s

/-- Whether a launch's policy enables tracing (R391). -/
def tracing (s : State) (l : Option Nat) : Bool :=
  match l.bind s.launch? with
  | some x => x.policy.getLsbD 2
  | none => false

/-- The trace records of a write (R347). -/
def traceWrite (s : State) (w : Writer) (loc : Nat) (da : BitVec 56) (n : Nat) : State :=
  if tracing s w.launch then
    (parts8 n loc n).foldl (fun s p =>
      traceOne s p.1 ⟨da + BitVec.ofNat 56 (p.1 - loc), sizeCode p.2, w.kind, w.core, w.slot, BitVec.ofNat 32 s.cyc⟩) s
  else s

/-- The `DIRTY` bits of the regions a write reaches (R405). -/
def markDirty (s : State) (loc n : Nat) : State :=
  let add (l : List Nat) (off : Nat) : List Nat :=
    ((List.range (n / 4096 + 2)).map fun i => (off + min (4096 * i) (n - 1)) / 4096).foldl
      (fun l r => if l.contains r then l else l ++ [r]) l
  match homeOf loc with
  | .core c off => s.updCore c fun k => { k with dirty := add k.dirty off }
  | .vault cl off => s.updCluster cl fun k => { k with dirty := add k.dirty off }
  | _ => s

/-- The bytes of memory that a storage element belongs to: location and length (R228). -/
def siteBytes : ErrSite → Option (Nat × Nat)
  | .memWord w | .fullBit w => some (8 * w, 8)
  | .granTag g => some (64 * g, 64)
  | .gfile .. | .wfile .. | .queue .. | .pred .. | .acc .. | .tile .. | .code .. | .job .. | .deposit _ => none

/-- A full 8-byte store ends a word's poison (R228). -/
def clearPoison (s : State) (loc n : Nat) : State :=
  { s with errs := s.errs.filter fun e => match e.1 with
      | .memWord w | .fullBit w => !(coversWord loc n w)
      | .granTag g => !((List.range 8).any fun i => coversWord loc n (8 * g + i))
      | .gfile .. | .wfile .. | .queue .. | .pred .. | .acc .. | .tile .. | .code .. | .job .. | .deposit _ => true }

/-- Storage errors of bytes that are cleared, dropped. -/
def clearErrs (s : State) (mine : Nat → Bool) : State :=
  { s with errs := s.errs.filter fun e => match siteBytes e.1 with
      | some (a, _) => !mine a
      | none => true }

/-- What a write overwrites, kept for reads that may still return it (R333). -/
def keepPast (s : State) (w : Writer) (loc n : Nat) : State :=
  { s with past := ⟨loc, n, readBytes s loc n, w.agent, w.phase⟩ :: s.past }

/-- Bytes that were cleared: no core reads what they held. -/
def wipePast (s : State) (loc n : Nat) : State := { s with past := ⟨loc, n, [], none, 0⟩ :: s.past }

/-- The locations of an access, under which the release sequences of its bytes are kept (R337). -/
def relKeys (loc n : Nat) : List Nat := (List.range n).map (loc + ·)

/-- The place a granule's tag is kept under beside the locations of memory. -/
def tagRel (loc : Nat) : Nat := 2 ^ 80 + loc / 64

/-- A write that is no read-modify-write ends the release sequences of what it writes (R337). -/
def endSequences (s : State) (loc n : Nat) : State := { s with rels := (relKeys loc n).foldl SMap.erase s.rels }

/-- A write performed at its home: the bytes, the error marks, the dirty bits and the trace. -/
def performWrite (s : State) (w : Writer) (loc : Nat) (da : BitVec 56) (bs : List Byte) : State :=
  if bs.isEmpty then s
  else
    let s1 := endSequences (writeBytes (keepPast s w loc bs.length) loc bs) loc bs.length
    traceWrite (markDirty (clearPoison s1 loc bs.length) loc bs.length) w loc da bs.length

/-! ### Granule tags (R318) -/

/-- The key nibble of a context at a device address. -/
def tagKeyAt (s : State) (ctag : BitVec 16) (da : Nat) : BitVec 4 :=
  match s.contexts.get? ctag.toNat with
  | some c => BitVec.ofNat 4 (bitsAt c.tagKey.toNat (4 * (da / 64 % 16)) 4)
  | none => 0

/-- The colour of a granule as a context sees it; `ptag` for a page without tag storage. -/
def granuleColour (s : State) (ctag : BitVec 16) (loc da : Nat) (ptag : BitVec 4) : BitVec 4 :=
  match homeOf loc with
  | .host _ _ | .other => ptag
  | _ => s.gtags.getD (loc / 64) 0 ^^^ tagKeyAt s ctag da

/-- The stored tag of a granule set so that the context sees a colour. -/
def setColour (s : State) (ctag : BitVec 16) (loc da : Nat) (colour : BitVec 4) : State :=
  { s with gtags := s.gtags.put 0 (loc / 64) (colour ^^^ tagKeyAt s ctag da) }

/-! ### Page tables (R315 to R317) -/

/-- A page entry from its 32 bytes. -/
def pageOfNum (n : Nat) : PageEntry where
  v := bitsAt n 0 1 == 1
  r := bitsAt n 1 1 == 1
  w := bitsAt n 2 1 == 1
  xn := bitsAt n 3 1 == 1
  size := BitVec.ofNat 2 (bitsAt n 4 2)
  tier := BitVec.ofNat 2 (bitsAt n 6 2)
  mg := bitsAt n 8 1 == 1
  ptag := BitVec.ofNat 4 (bitsAt n 12 4)
  ctag := BitVec.ofNat 16 (bitsAt n 16 16)
  vpn := BitVec.ofNat 39 (bitsAt n 64 39)
  frame := BitVec.ofNat 47 (bitsAt n 128 47)
  module := BitVec.ofNat 12 (bitsAt n 175 12)

/-- The 32 bytes of a page entry as a number. -/
def numOfPage (e : PageEntry) : Nat :=
  e.v.toNat + 2 * e.r.toNat + 4 * e.w.toNat + 8 * e.xn.toNat + 16 * e.size.toNat + 64 * e.tier.toNat + 256 * e.mg.toNat
    + 2 ^ 12 * e.ptag.toNat + 2 ^ 16 * e.ctag.toNat + 2 ^ 64 * e.vpn.toNat + 2 ^ 128 * e.frame.toNat
    + 2 ^ 175 * e.module.toNat

/-- Page shift of a size code. -/
def pageShift (z : Nat) : Nat := 17 + 5 * z

/-- The bucket of an address at size code `z`: its location (R316); none where the context has no cluster. -/
def bucketLoc (s : State) (ctag : BitVec 16) (da z : Nat) : Option Nat :=
  match s.contexts.get? ctag.toNat, s.partOf ctag with
  | some c, some p =>
    let key := (da / 2 ^ pageShift z) ^^^ (ctag.toNat * 2 ^ 40) ^^^ (z * 2 ^ 56)
    let h := key * 0x9E3779B97F4A7C15 % 2 ^ 64 / 2 ^ 32
    let n := p.clusters.length
    match p.clusters[h % n]? with
    | some cl => some (vaultLoc cl (c.ptRoot.toNat % 2 ^ 22 + 256 * (h / n % 256)))
    | none => none
  | _, _ => none

/-- The entries of a bucket, with their locations. -/
def bucketEntries (s : State) (b : Nat) : List (Nat × PageEntry) :=
  (List.range 8).map fun i => (b + 32 * i, pageOfNum (readNum s (b + 32 * i) 32))

/-- Whether an entry is the page of an address at its size (R317). -/
def pageMatches (ctag : BitVec 16) (da : Nat) (z : Nat) (e : PageEntry) : Bool :=
  e.v && e.ctag == ctag && e.size.toNat == z
    && e.vpn.toNat == da / 2 ^ 17 / 2 ^ (5 * z) * 2 ^ (5 * z) % 2 ^ 39

/-- One probe of a walk (R317). -/
def probe (s : State) (ctag : BitVec 16) (da z : Nat) : Option PageEntry :=
  match bucketLoc s ctag da z with
  | some b => ((bucketEntries s b).find? fun x => pageMatches ctag da z x.2).map (·.2)
  | none => none

/-- A whole walk. -/
def walk (s : State) (ctag : BitVec 16) (da : Nat) : Option PageEntry :=
  match probe s ctag da 0 with
  | some e => some e
  | none => match probe s ctag da 1 with
    | some e => some e
    | none => probe s ctag da 2

/-- The location of a device address through a page (R314); none for a peer page. -/
def pageLoc (pid : Nat) (e : PageEntry) (da : Nat) : Option Nat :=
  let sz := 2 ^ pageShift e.size.toNat
  let pa := e.frame.toNat * 2 ^ 17 / sz * sz + da % sz
  match e.tier.toNat with
  | 0 => some (2 ^ 64 + pa)
  | 1 => some (2 * 2 ^ 64 + pa)
  | 2 => some ((3 + pid) * 2 ^ 64 + pa)
  | _ => none

def isWindow (da : Nat) : Bool := da / 2 ^ 48 == 0xFE || da / 2 ^ 48 == 0xFF

/-- The location a device address of a context names, for the hub and the engines, which walk the table themselves. -/
def daLoc (s : State) (ctag : BitVec 16) (da : Nat) : Option Nat :=
  if isWindow da then some da
  else (walk s ctag da).bind fun e => pageLoc ((s.pidOf ctag).getD 0) e da

/-- Whether the page of a device address is being moved, which holds writes (R327). -/
def pageMoves (s : State) (ctag : BitVec 16) (da : Nat) : Bool := !isWindow da && (walk s ctag da).any (·.mg)

/-- The pieces of `[da, da + n)` by 128 KiB page: location, none where the page is absent, with device address and length. -/
def daPieces (s : State) (ctag : BitVec 16) : Nat → Nat → Nat → List (Option Nat × Nat × Nat)
  | 0, _, _ => []
  | fuel + 1, da, n =>
    if n = 0 then []
    else
      let k := min n (2 ^ 17 - da % 2 ^ 17)
      (daLoc s ctag (da % 2 ^ 56), da, k) :: daPieces s ctag fuel (da + k) (n - k)

/-- The pieces of a range. -/
def daRange (s : State) (ctag : BitVec 16) (da n : Nat) : List (Option Nat × Nat × Nat) := daPieces s ctag (n / 2 ^ 17 + 2) da n

/-- Bytes at a device address as the hub reads them; none where a page is absent. -/
def daBytes (s : State) (ctag : BitVec 16) (da n : Nat) : Option (List Byte) :=
  (daRange s ctag da n).foldr (fun p acc => match p.1, acc with
    | some l, some r => some (readBytes s l p.2.2 ++ r)
    | _, _ => none) (some [])

/-- An access to host memory, for the function of its partition: it carries the PASID, and goes translated where the function's ATS
cache holds its 4 KiB page, which the cache of 1,024 does from then on (R427, R428). -/
def noteHost (s : State) (loc : Nat) : State :=
  match homeOf loc with
  | .host pid va => (match s.partitions.get? pid with
      | some p =>
        let f := s.functions.getD p.vfn .reset
        let hit := f.ats.contains (va / 4096)
        let keep := if hit then f.ats else (if f.ats.length < 1024 then f.ats else f.ats.drop 1) ++ [va / 4096]
        { s with functions := s.functions.put .reset p.vfn { f with ats := keep, hostSent := some (p.pasid, va, hit) } }
      | none => s)
  | .core .. | .vault .. | .hbm _ | .cellar _ | .other => s

/-- Bytes written by the hub at a device address; what lies on an absent page is not written. -/
def daWrite (s : State) (ctag : BitVec 16) (w : Writer) (da : Nat) (bs : List Byte) : State :=
  (daRange s ctag da bs.length).foldl (fun s p => match p.1 with
    | some l => performWrite (noteHost s l) w l (BitVec.ofNat 56 p.2.1) ((bs.drop (p.2.1 - da)).take p.2.2)
    | none => s) s

/-! ### Storage errors (R228, R425) -/

def errAt (s : State) (x : ErrSite) : Option Bool := (s.errs.find? fun e => e.1 == x).map (·.2)

def dropErr (s : State) (x : ErrSite) : State := { s with errs := s.errs.filter fun e => e.1 != x }

/-- A correctable error counted. -/
def countCe (s : State) (cl : Nat) : State :=
  s.updCluster cl fun k => { k with err := { k.err with ce := if k.err.ce = BitVec.allOnes 32 then k.err.ce else k.err.ce + 1 } }

/-- An uncorrectable error counted, with its source and core (R425). -/
def countUe (s : State) (cl src coreIn : Nat) : State :=
  s.updCluster cl fun k => { k with err := { k.err with
    ue := if k.err.ue = BitVec.allOnes 16 then k.err.ue else k.err.ue + 1
    src := BitVec.ofNat 8 src
    core := BitVec.ofNat 8 coreIn } }

/-- Whether one of the words of an access is poisoned: its first poisoned location. -/
def poisonedAt (s : State) (loc n : Nat) : Option Nat :=
  s.errs.findSome? fun e => match siteBytes e.1, e.2 with
    | some (a, k), true => if a < loc + n ∧ loc < a + k then some (max a (loc / 8 * 8)) else none
    | _, _ => none

/-! ### Tiles that hold writes (R253) -/

/-- Bytes of one row of a tile (R251). -/
def Tile.rowBytes (t : Tile) : Nat :=
  match t.fmt.toNat with
  | 0 => 0
  | 1 => t.cols
  | 2 | 5 | 6 => 2 * t.cols
  | 3 | 7 => 4 * t.cols
  | 4 | 8 => 8 * t.cols
  | n => t.cols * (n - 7) / 8

def Tile.isBfp (t : Tile) : Bool := 9 ≤ t.fmt.toNat

/-- Bytes of the exponents of one row. -/
def Tile.expBytes (t : Tile) : Nat := if t.isBfp then t.cols / 32 else 0

/-- Location of offset `off` in the memory of a tile. -/
def Tile.at_ (cl : Nat) (t : Tile) (off : Nat) : Nat :=
  if t.inv then vaultLoc cl (t.base + off) else coreLoc (8 * cl + t.core) (t.base + off)

/-- Whether an access meets a byte of a tile's elements or exponents. -/
def Tile.meets (cl : Nat) (t : Tile) (loc n : Nat) : Bool :=
  (List.range t.rows).any (fun r =>
    let a := t.at_ cl (r * t.pitch)
    decide (a < loc + n) && decide (loc < a + t.rowBytes))
  || (let a := t.at_ cl (t.rows * t.pitch)
      decide (a < loc + n) && decide (loc < a + t.rows * t.expBytes))

/-- The cluster whose tiles can lie at a location. -/
def tileCluster (loc : Nat) : Option Nat :=
  match homeOf loc with
  | .core c _ => some (clusterOf c)
  | .vault cl _ => some cl
  | _ => none

/-- The identifier of a job (R258). -/
def jobId (q : Nat) (seq : BitVec 32) : BitVec 35 := BitVec.ofNat 35 (seq.toNat + 2 ^ 32 * q)

/-- Whether a write must be held: it reaches a byte of a stored tile that is neither FREE nor READY. A tile that drains for the
job `own` does not hold it. -/
def tileHoldsBut (s : State) (own : Option (BitVec 35)) (loc n : Nat) : Bool :=
  match tileCluster loc with
  | some cl => (s.cluster cl).tiles.any fun e =>
      e.2.st != .free && e.2.st != .ready && !e.2.gv && !(e.2.st == .draining && own == some e.2.job) && e.2.meets cl loc n
  | none => false

/-- Whether a write must be held (R253). -/
def tileHolds (s : State) (loc n : Nat) : Bool := tileHoldsBut s none loc n

/-! ### Store buffer, publication and snapshot (R138, R331 to R333) -/

/-- An aligned 8-byte word of memory. -/
def memWord (m : List Host.Cell) (w : Nat) : Word :=
  BitVec.ofNat 64 (ofBytes ((List.range 8).map fun i => SMap.getD m (8 * w + i) unwritten))

/-- A byte of a word. -/
def byteOf (w : Word) (i : Nat) : Byte := BitVec.ofNat 8 (bitsAt w.toNat (8 * i) 8)

/-! #### What is known to be ordered before a point (R334 to R340) -/

/-- What either of two knows. -/
def Know.join (a b : Know) : Know := b.foldl (fun m e => m.set e.1 (max e.2 (m.getD e.1 0))) a

/-- Whether a phase of an agent is known. -/
def Know.has (k : Know) (agent phase : Nat) : Bool := decide (phase < k.getD agent 0)

/-- The key under which the place read of a word is known. -/
def readKey (w : Nat) : Nat := 2 ^ 80 + w

/-- Places read of words, by location divided by 8, added to what is known. -/
def Know.read (k : Know) (m : SMap Nat) : Know := m.foldl (fun k e => k.set (readKey e.1) (max e.2 (k.getD (readKey e.1) 0))) k

/-- Whether a core can read no further back than a write: it is the core's own, or it is ordered before the core's reads. -/
def Past.floor (c : Nat) (k : Know) (p : Past) : Bool :=
  match p.agent with
  | none => true
  | some a => a == c || Know.has k a p.phase

/-- A word as it was before a write. -/
def Past.undo (p : Past) (w : Nat) (v : Word) : Word :=
  BitVec.ofNat 64 (ofBytes ((List.range 8).map fun i =>
    if p.loc ≤ 8 * w + i ∧ 8 * w + i < p.loc + p.len then p.old.getD (8 * w + i - p.loc) 0 else byteOf v i))

/-- Earlier values of a word that the axioms of R336 leave to a core's read, the latest first, each with its place in the
order of writes; `n` is the place of the value `v`. -/
def olderWords (c : Nat) (know : Know) (w lo : Nat) : List Past → Nat → Word → List (Word × Nat)
  | [], _, _ => []
  | p :: r, n, v =>
    if n ≤ lo then []
    else if p.loc < 8 * w + 8 ∧ 8 * w < p.loc + p.len then
      if p.floor c know then []
      else
        let u := p.undo w v
        (u, n - 1) :: olderWords c know w lo r (n - 1) u
    else olderWords c know w lo r (n - 1) v

/-- A value and the ones before it: which of them a read returns is open. The result counts the choices made. -/
def choosePast {α : Type} : Nat → α → List α → α × Nat
  | f, v, [] => (v, f)
  | f, v, o :: r => if Config.freeBit f then choosePast (f + 1) o r else (v, f + 1)

/-- The word a core's snapshot holds. One not read since the last refresh comes from any write that the axioms allow (R333,
R336; entry 9). -/
def snapWord (s : State) (c w : Nat) : Word × State :=
  let k := s.core c
  match k.snap.get? w with
  | some v => (v.1, s)
  | none =>
    let now := memWord s.mem w
    let n := s.past.length
    let lo := max (k.seen.getD w 0) (k.know.getD (readKey w) 0)
    let (v, f) := choosePast s.fresh (now, n) (olderWords c k.know w lo s.past n now)
    (v.1, { s with fresh := f }.updCore c fun k => { k with snap := k.snap.set w v })

/-- The words `w`, `w + 1`, … of a snapshot. -/
def snapWords (s : State) (c : Nat) : Nat → Nat → List Byte × State
  | 0, _ => ([], s)
  | n + 1, w =>
    let (v, s1) := snapWord s c w
    let (r, s2) := snapWords s1 c n (w + 1)
    ((List.range 8).map (byteOf v) ++ r, s2)

/-- A byte as the newest entry that writes it has it. -/
def overlay (es : List BufEntry) (loc : Nat) (b : Byte) : Byte :=
  es.foldl (fun b e => if e.loc ≤ loc ∧ loc < e.loc + e.bytes.length then (e.bytes.getD (loc - e.loc) none).getD b else b) b

/-- What a plain read of core `c` returns (R333), decided at its issue. -/
def readVisible (s : State) (c loc n : Nat) : List Byte × State :=
  match homeOf loc with
  | .core c' _ =>
    if c' = c then (readBytes s loc n, s) else go
  | _ => go
where
  go : List Byte × State :=
    let w := loc / 8
    let (bs, s1) := snapWords s c ((loc + n + 7) / 8 - w) w
    let k := s1.core c
    let es := k.inFlight.map (·.2) ++ k.buffer
    ((List.range n).map fun i => overlay es (loc + i) (bs.getD (loc + i - 8 * w) 0), s1)

/-- The places a core has read of words: of those in its snapshot and of the others (R336). -/
def CoreSt.places (k : CoreSt) : SMap Nat := k.snap.foldl (fun (m : SMap Nat) e => m.set e.1 (max e.2.2 (m.getD e.1 0))) k.seen

/-- A refresh of a core that synchronises with what knows `know` (R331, R338): its snapshot is discarded, and no later read
returns less than an earlier one has returned. -/
def refreshCore (s : State) (c : Nat) (know : Know) : State := s.updCore c fun k => { k with
  seen := k.places
  snap := []
  know := Know.join (Know.join k.know k.heard) know
  heard := [] }

/-- Bytes of a word replaced by those memory holds in `[loc, loc + n)`. -/
def patchWord (m : List Host.Cell) (loc n w : Nat) (v : Word) : Word :=
  BitVec.ofNat 64 (ofBytes ((List.range 8).map fun i =>
    if loc ≤ 8 * w + i ∧ 8 * w + i < loc + n then SMap.getD m (8 * w + i) unwritten else byteOf v i))

/-- After a core's own plain write to `[loc, loc + n)` is performed, its later reads see that or what followed it. -/
def syncSnap (s : State) (c loc n : Nat) : State :=
  s.updCore c fun k => { k with snap := k.snap.map fun e => (e.1, patchWord s.mem loc n e.1 e.2.1, e.2.2) }

/-- The 8-byte words of `[loc, loc + n)`. -/
def wordsOf (loc n : Nat) : List Nat := (List.range ((loc + n + 7) / 8 - loc / 8)).map (loc / 8 + ·)

/-- A core has read words as they stand now: its later reads return no less (R336). -/
def noteRead (s : State) (c loc n : Nat) : State :=
  s.updCore c fun k => { k with seen := (wordsOf loc n).foldl (fun m w => m.set w s.past.length) k.seen }

/-- After an atomic of a core at `[loc, loc + n)` is performed, its later reads of those bytes see them as they then stood or
later; the other bytes of a word in its snapshot stay (R336; entry 9). -/
def atomSnap (s : State) (c loc n : Nat) : State := noteRead (syncSnap s c loc n) c loc n

/-- Bytes of a list from number `i` on replaced. -/
def putAt (l : List Byte) (i : Nat) (bs : List Byte) : List Byte := l.take i ++ bs ++ l.drop (i + bs.length)

/-- What is ordered before a publishing boundary that a core issues now: its stores and its reads (R331, R334). -/
def boundary (s : State) (c : Nat) : Know × State :=
  let k := s.core c
  let know := (k.know.read k.places).set c (k.phase + 1)
  (know, s.setCore c { k with phase := k.phase + 1, sent := know })

/-- A request that sets out. -/
def Req.new (key : Nat) (i : Option Instr) (kind : ReqKind) (da : BitVec 56) (launch : Nat) : Req where
  key := key
  instr := i
  kind := kind
  order := 0
  phase := 0
  know := []
  got := []
  after := []
  gaps := []
  dst := none
  granted := false
  da := da
  launch := launch
  mask := 0
  data := []
  performed := false
  held := false
  qdest := none
  poison := false
  tests := []
  failed := none

/-- A store-buffer entry sent to its home, with its number. -/
def sendEntry (s : State) (c pub : Nat) (e : BufEntry) : Nat × State :=
  let (id, s1) := s.newId
  let r := { Req.new (slotKey c e.slot) none (.write e.loc e.bytes (some pub) none) e.da e.launch with
    order := id, phase := e.phase, after := (s.core c).know }
  let s2 := { s1 with reqs := s1.reqs.set id r, fresh := s1.fresh + 1 }.updCore c fun k => { k with inFlight := k.inFlight ++ [(id, e)] }
  (id, later (e.enters - s.cyc + s1.tripLen) .arrivalAtHome [id] s2)

/-- Entries sent to their homes, in order; when they and `ws` are performed, `after` is done (R332). -/
def sendEntries (s : State) (c : Nat) (es : List BufEntry) (ws : List Nat) (after : After) : State :=
  let (pid, s1) := s.newId
  let (ids, s2) := es.foldl (fun (r : List Nat × State) e =>
    let (id, s) := sendEntry r.2 c pid e
    (r.1 ++ [id], s)) (ws, s1)
  { s2 with pubs := s2.pubs.set pid ⟨c, ids, after⟩ }

/-- A request or an own store performed: the publications that waited for it alone are complete (R332). -/
def settlePubs (s : State) (id : Nat) : State :=
  let hits := s.pubs.filter fun p => p.2.waits.contains id
  hits.foldl (fun s p =>
    let ws := p.2.waits.filter (· != id)
    let s1 := { s with pubs := s.pubs.set p.1 { p.2 with waits := ws } }
    if ws.isEmpty then later 0 .publicationComplete [p.1] s1 else s1) s

/-- Whether a request writes memory or a tag as an atomic does. -/
def Req.atomicWrite (r : Req) : Bool :=
  match r.kind with
  | .atomic .. | .tagWrite .. => true
  | .read _ | .tagRead _ | .fe .. | .write .. => false

/-- What a core has issued and not yet performed, and a boundary issued now carries: entries on their way, stores to the own
core store and atomics (R331, R338). -/
def underWay (s : State) (c : Nat) : List Nat :=
  let k := s.core c
  (k.inFlight.map (·.1) ++ (k.own.filterMap fun a => match a.act with
      | .read .. => none
      | .write .. | .home .. => some a.id)
    ++ s.reqs.filterMap fun r => if coreOf r.2.key = c ∧ r.2.atomicWrite ∧ !r.2.performed then some r.1 else none).eraseDups

/-- The entries on their way that lie at `[loc, loc + n)`. -/
def underWayAt (s : State) (c loc n : Nat) : List Nat :=
  (s.core c).inFlight.filterMap fun (e : Nat × BufEntry) =>
    if e.2.loc < loc + n ∧ loc < e.2.loc + e.2.bytes.length then some e.1 else none

/-- The runs of bytes that a masked write makes: location and bytes. -/
def runs (loc : Nat) : List (Option Byte) → List (Nat × List Byte)
  | [] => []
  | none :: r => runs (loc + 1) r
  | some b :: r => match runs (loc + 1) r with
    | (l, bs) :: q => if l = loc + 1 then (loc, b :: bs) :: q else (loc, [b]) :: (l, bs) :: q
    | [] => [(loc, [b])]

/-- A publication of the marked entries of a buffer, which waits for `ws` too. `now` says that nothing is awaited, so that what
waits for it can go on at once. -/
def publishMarked (l : List (BufEntry × Bool)) (ws : List Nat) (after : After) (s : State) (c : Nat) : Bool × State :=
  let es := (l.filter (·.2)).map (·.1)
  if es.isEmpty ∧ ws.isEmpty then (true, s)
  else (false, sendEntries (s.updCore c fun k => { k with buffer := (l.filter fun e => !e.2).map (·.1) }) c es ws after)

/-- A publication of the entries that satisfy `p`. -/
def publishIf (p : BufEntry → Bool) (ws : List Nat) (after : After) (s : State) (c : Nat) : Bool × State :=
  publishMarked ((s.core c).buffer.map fun e => (e, p e)) ws after s c

/-- Buffered entries, oldest first, each with whether an access to `[loc, loc + n)` must follow it: it meets those bytes, or a later
entry that does (R332, R333). -/
def meetEntries (loc n : Nat) : List BufEntry → List (BufEntry × Bool)
  | [] => []
  | e :: r =>
    let more := meetEntries loc n r
    let meets (a k : Nat) : Bool := decide (e.loc < a + k) && decide (a < e.loc + e.bytes.length)
    (e, meets loc n || more.any fun f => f.2 && meets f.1.loc f.1.bytes.length) :: more

/-- A publishing boundary: the whole buffer, and what of its core's other accesses `ws` names (R331, R332). -/
def publishBuffer (ws : List Nat) (after : After) (s : State) (c : Nat) : Bool × State :=
  publishIf (fun _ => true) ws after (boundary s c).2 c

/-- A publishing boundary that follows all that the core has under way (R331, R332). -/
def publish (after : After) (s : State) (c : Nat) : Bool × State := publishBuffer (underWay s c) after s c

/-! ### Windows, slots and threads (R66, R67, R82, R226) -/

/-- Threads of a core with their slots, the owners of lent slots among them. -/
def threadsOn (s : State) (c : Nat) : List (Nat × Thread) :=
  (s.threads.filterMap fun e => if coreOf e.1 = c then some (slotOf e.1, e.2) else none)
    ++ s.slots.filterMap fun e => if coreOf e.1 = c then e.2.lent.map fun t => (slotOf e.1, t) else none

/-- General-file entries in use: base and size; a borrowed window is, until its `bret` completes (R236). -/
def gTaken (s : State) (c : Nat) : List (Nat × Nat) :=
  ((threadsOn s c).flatMap fun t =>
    (t.2.gBase, t.2.gSize) :: (if t.2.status.getLsbD 13 then [(t.2.bBase, t.2.bSize)] else []))
    ++ s.slots.filterMap fun e => if coreOf e.1 = c ∧ s.cyc < e.2.freeFrom then some e.2.loan else none

def ceil8 (n : Nat) : Nat := (n + 7) / 8 * 8

/-- Wide-file entries in use. -/
def wTaken (s : State) (c : Nat) : List (Nat × Nat) :=
  (threadsOn s c).map fun t => (t.2.wBase, ceil8 t.2.nv + ceil8 t.2.nk)

/-- The lowest base, a multiple of 8, of `n` free consecutive entries below `limit`. -/
def freeBase (taken : List (Nat × Nat)) (n limit : Nat) : Option Nat :=
  if n = 0 then some 0
  else (List.range (limit / 8)).findSome? fun i =>
    let b := 8 * i
    if b + n ≤ limit ∧ taken.all (fun t => decide (b + n ≤ t.1) || decide (t.1 + t.2 ≤ b)) then some b else none

/-- Whether a slot may be allocated now (R247). -/
def slotFree (s : State) (key : Nat) : Bool :=
  (s.thread? key).isNone && !(s.slot key).withheld && decide ((s.slot key).freeFrom ≤ s.cyc)

/-- Whether a tag is resident on a core (R226). -/
def resident (s : State) (c : Nat) (ctag : BitVec 16) : Bool := (s.core c).tags.any fun t => t.ctag == ctag

/-- A core's timed span is held by another group than `l`, `g`, which keeps every core that has held its threads until it
retires (R301). -/
def spanForeign (s : State) (c l g : Nat) : Bool :=
  s.groups.any fun e => e.1 != groupKey l g && s.timed (e.1 / 2 ^ 24) && (e.2.st == .running || e.2.st == .retiring)
    && e.2.held.contains c

/-- The lowest free slot of a core that is below the rotation length and admissible. -/
def lowestSlot (s : State) (c : Nat) (ctag : BitVec 16) (l g : Nat) : Option Nat :=
  if !resident s c ctag || spanForeign s c l g then none
  else (List.range (s.rotLen c)).find? fun j => slotFree s (slotKey c j)

/-- Whether a core holds no occupied and no withheld slot. -/
def coreEmpty (s : State) (c : Nat) : Bool :=
  (threadsOn s c).isEmpty
    && !(s.slots.any fun e => coreOf e.1 == c && (e.2.withheld || (e.2.loan.2 != 0 && decide (s.cyc < e.2.freeFrom))))

/-- `x.status` at creation (R78). -/
def statusReset (mig : Bool) : BitVec 32 := if mig then 0x1200 else 0x200

/-- A thread as every creation leaves it before its event sets more (R67). -/
def blankThread (mig : Bool) (gB gS wB nv nk rot : Nat) : Thread where
  pc := 0
  gBase := gB
  gSize := gS
  wBase := wB
  nv := nv
  nk := nk
  preds := Vector.replicate 8 0
  mregs := Vector.replicate 8 0
  segs := Vector.replicate 8 .null
  cseg := .null
  status := statusReset mig
  npth := 0
  ferl := 64
  rank := 0
  ctag := 0
  launch := 0
  group := 0
  rot := rot
  st := .ready
  cause := none
  readyAt := 0
  outstanding := none
  deposited := []
  idle := none
  lender := 0
  bBase := 0
  bSize := 0
  packet := none
  handle := none
  parkedOn := none
  parkPlace := .inPlace
  machineErr := none
  feBudget := 0
  errSeen := none
  fe := none
  popped := none
  nominal := none

def gKey (c e : Nat) : Nat := 2048 * c + e
def wKey (c e : Nat) : Nat := 256 * c + e

/-- Register entries cleared. -/
def clearG (s : State) (c b n : Nat) : State :=
  { s with gfile := (List.range n).foldl (fun m i => m.erase (gKey c (b + i))) s.gfile
           errs := s.errs.filter fun e => match e.1 with
             | .gfile c' x => !(c' == c && decide (b ≤ x) && decide (x < b + n))
             | _ => true }
def clearW (s : State) (c b n : Nat) : State :=
  { s with wfile := (List.range n).foldl (fun m i => m.erase (wKey c (b + i))) s.wfile
           errs := s.errs.filter fun e => match e.1 with
             | .wfile c' x => !(c' == c && decide (b ≤ x) && decide (x < b + n))
             | _ => true }

/-- Queues and accumulators without an owner take the tag of a group that is placed or a packet that is admitted (R219,
R257). -/
def bindOwners (s : State) (c : Nat) (ctag : BitVec 16) : State :=
  let s1 := s.updCore c fun k => if k.qOwner.isNone then { k with qOwner := some ctag } else k
  s1.updCluster (clusterOf c) fun k => if k.accOwner.isNone then { k with accOwner := some ctag } else k

/-- A thread put into a slot: its windows are cleared. One without the deep-idle state ends the count of R22. -/
def createThread (s : State) (key : Nat) (t : Thread) : State :=
  let c := coreOf key
  let s1 := clearW (clearG s c t.gBase t.gSize) c t.wBase (ceil8 t.nv + ceil8 t.nk)
  let s2 := s1.updGroup t.launch t.group fun x => { x with held := if x.held.contains c then x.held else x.held ++ [c] }
  { (s2.setThread key t) with slots := s2.slots.put .reset key { (s2.slot key) with freeFrom := 0, loan := (0, 0) } }.updCore c
    fun k => if t.status.getLsbD 14 then k else { k with deepSince := none }

/-- Parked threads whose slots are lent, with their slots' keys (R322). -/
def owners (s : State) : List (Nat × Thread) := s.slots.filterMap fun e => e.2.lent.map fun t => (e.1, t)

/-- Whether a packet is admitted at its destination, though its source may not know (R372). -/
def admittedThere (s : State) (b : PktBody) : Bool :=
  (s.core b.dest).dups.any fun e => e.src == b.src && e.seq == b.seq && e.st == .admitted

/-- Contexts of a group in flight between cores, those that came back to their own core among them (R323, R374, R375). -/
def migrants (s : State) (l g : Nat) : List PktBody :=
  let mine (b : PktBody) : Bool := b.cls == .migration && b.launch == l && b.group == g
  s.cores.flatMap fun c =>
    ((c.2.retained.filter fun r => mine r.body && r.rstate != .admitted && !admittedThere s r.body).map (·.body))
      ++ (c.2.arrivals.filter fun a => mine a.body && a.body.src == c.1).map (·.body)

/-- Ranks of the live threads of a group: those in slots, parked owners of lent slots, and migrants in flight (R132, R375). -/
def liveRanks (s : State) (l g : Nat) : List Nat :=
  (((s.threads ++ owners s).filter fun e => e.2.launch == l && e.2.group == g).map (·.2.rank))
    ++ (migrants s l g).map fun b => bitsAt (b.words.getD 10 0).toNat 16 16

/-- Lowest rank from `lo` on that no live thread of the group holds (R132). -/
def freeRank (s : State) (l g lo : Nat) : Nat :=
  let used := liveRanks s l g
  ((List.range (used.length + 1)).find? fun i => !used.contains (lo + i)).getD 0 + lo

/-- Live threads of a group (R132). -/
def liveThreads (s : State) (l g : Nat) : Nat := (liveRanks s l g).length

/-- A member's exit seen by its barrier unit (R298). -/
def markExit (s : State) (t : Thread) : State :=
  s.updGroup t.launch t.group fun x => { x with barrier :=
    { x.barrier with exited := if t.rank < x.barrier.mcount ∧ t.handle.isNone ∧ !x.barrier.exited.contains t.rank
        then x.barrier.exited ++ [t.rank] else x.barrier.exited } }

/-- Words put into general entries from `b` on. -/
def putFrame (s : State) (c b : Nat) (ws : List Word) : State :=
  (ws.zip (List.range ws.length)).foldl (fun s p => { s with gfile := s.gfile.put 0 (gKey c (b + p.2)) p.1 }) s

/-- A slot freed, with its windows, from the next cycle on (R82, R247). A lent slot returns to its parked owner, whose
general registers come back from the fault frame (R322, R323). -/
def freeSlot (s : State) (key : Nat) : State :=
  let x := s.slot key
  match x.lent with
  | some t =>
    (putFrame { s with slots := s.slots.put .reset key { x with lent := none, frame := [] } } (coreOf key) t.gBase x.frame).setThread
      key t
  | none =>
    { s with threads := s.threads.erase key
             slots := s.slots.put .reset key { x with freeFrom := s.cyc + 1, loan := (0, 0) } }.updCore (coreOf key)
      fun k => { k with idleSince := s.cyc + 1 }

/-- The slot and the window that a thread of core `c` has borrowed given back `d` cycles later (R221, R236). -/
def giveBack (s : State) (c : Nat) (t : Thread) (d : Nat) : State :=
  if t.status.getLsbD 13 then
    let k := slotKey c t.lender
    { s with slots := s.slots.put .reset k { (s.slot k) with
        withheld := false, freeFrom := s.cyc + d, loan := (t.bBase, t.bSize) } }
  else s

/-- An outstanding borrow of a thread returned (R131, R221). -/
def returnBorrow (s : State) (key d : Nat) : State :=
  match s.thread? key with
  | some t => giveBack (s.setThread key { t with status := t.status &&& ~~~(0x2000 : BitVec 32) }) (coreOf key) t d
  | none => s

/-! ### Kicks (R388, R390) -/

def State.hq (s : State) (q : Nat) : HQueue := s.hqueues.getD q .reset
def State.setHq (s : State) (q : Nat) (x : HQueue) : State := { s with hqueues := s.hqueues.put .reset q x }
def State.updHq (s : State) (q : Nat) (f : HQueue → HQueue) : State := s.setHq q (f (s.hq q))

/-- log2 of a queue's slots. -/
def HQueue.log (h : HQueue) : Nat := h.qsize.toNat + 4

/-- A write of `QKICK`: taken, with the queue's bit in the pending-kick bitmap, or counted as ignored (R390, R422). -/
def writeKick (s : State) (queue : Nat) (value : BitVec 32) : State :=
  let h := s.hq queue
  let step := (value - h.qkick).toNat
  if h.en ∧ 0 < step ∧ step < 2 ^ 31 ∧ (value - h.qread).toNat ≤ 2 ^ h.log then
    let s1 := s.setHq queue { h with qkick := value }
    { s1 with sched := { s1.sched with
      kicks := if s1.sched.kicks.contains queue then s1.sched.kicks else s1.sched.kicks ++ [queue] } }
  else s.setHq queue { h with qign := if h.qign = BitVec.allOnes 16 then h.qign else h.qign + 1 }

/-! ### Packets given to the network (R366 to R371) -/

/-- Flits of a packet of `n` words (R369). -/
def flitCount (n : Nat) : Nat := if n ≤ 5 then 1 else 1 + (n - 6) / 8 + 1

/-- The code of a class (R368). -/
def PktClass.code : PktClass → Nat
  | .message => 0 | .migration => 1 | .fullEmpty => 2 | .multicast => 3

/-- The channel of a class; replies travel on channel 1 (R366). -/
def PktClass.channel : PktClass → BitVec 2
  | .message | .migration | .fullEmpty => 0
  | .multicast => 2

/-- One bit of a CRC of polynomial 0x1021, the highest bit first (R367; entry 50). -/
def crcBit (r : BitVec 16) (b : Bool) : BitVec 16 := if r.msb == b then r <<< 1 else (r <<< 1) ^^^ 0x1021

/-- The CRC-16 of bytes; the value it starts from is open (R367; entry 50). -/
def crc16 (bs : List Byte) : BitVec 16 :=
  bs.foldl (fun r b => (List.range 8).foldl (fun r i => crcBit r (b.getMsbD i)) r) Config.crc16Start

/-- The first 16 bytes of a head flit (R368). -/
def headerBytes (b : PktBody) : List Byte :=
  toBytes 2 (b.dest % 2 ^ 14 + 2 ^ 14 * b.cls.code) ++ toBytes 2 (b.src % 2 ^ 14) ++ toBytes 2 b.seq ++ toBytes 2 b.ctag.toNat
    ++ toBytes 4 b.launch ++ toBytes 4 b.group

/-- The trailer word (R369). -/
def trailerWord (b : PktBody) : Nat :=
  (if b.cls = .migration then 0 else b.pc.toNat) + 2 ^ 32 * (b.words.length % 64)

/-- A flit from its bytes and the fields of its control word, its `CRC` over both (R367). -/
def flitOf (payload : List Byte) (k : Nat) (last abort : Bool) (vc : BitVec 2) (nw : Nat) : Flit :=
  let ctl := k % 8 + 8 * (k == 0).toNat + 16 * last.toNat + 32 * abort.toNat + 64 * vc.toNat + 256 * (nw % 256)
  ⟨payload, BitVec.ofNat 3 k, k == 0, last, abort, vc, BitVec.ofNat 8 nw, crc16 (payload ++ toBytes 2 ctl)⟩

/-- Flit `k` of a packet: its words, after the header in a head flit, and the trailer word at the end of the closing one
(R369). -/
def packetFlit (b : PktBody) (k : Nat) (last abort : Bool) : Flit :=
  let ws := if k = 0 then b.words.take 6 else (b.words.drop (8 * k - 2)).take 8
  let bs := (if k = 0 then headerBytes b else []) ++ ws.flatMap fun w => toBytes 8 w.toNat
  let room := if last then 56 else 64
  let full := (bs ++ List.replicate (room - bs.length) 0) ++ if last then toBytes 8 (trailerWord b) else []
  flitOf full k last abort b.cls.channel ws.length

/-- Every flit of a whole packet (R369). -/
def packetFlits (b : PktBody) : List Flit :=
  let n := flitCount b.words.length
  (List.range n).map fun k => packetFlit b k (k + 1 == n) false

/-- The packet whose first flits left while it is still open. -/
def openNet (s : State) (src seq : Nat) : Option (Nat × NetPkt) :=
  s.packets.find? fun p => !p.2.closed && p.2.body.src == src && p.2.body.seq == seq

/-- What becomes of flit `n` of packet `id`: its arrival, with the event that brings about, or its discard where it would be in
the network for more than 1,024 cycles (R370). -/
def flitDue (s : State) (id n : Nat) (ev : Option (Instr × List Nat)) : List Pending :=
  let d := s.tripLen
  if 1024 < d then [⟨s.cyc + 1025, .flitAgeDiscard, [id, n]⟩]
  else ev.toList.map fun e => ⟨s.cyc + d, e.1, e.2⟩

/-- Flit `n` of packet `id` on its way. -/
def sendFlit (id n : Nat) (ev : Option (Instr × List Nat)) (s : State) : State :=
  { s with fresh := s.fresh + 1, pending := s.pending ++ flitDue s id n ev }

/-- What the arrival of a flit brings about: the head and the closing flit each make an event. -/
def flitEvent (id n : Nat) (f : Flit) : Option (Instr × List Nat) :=
  if f.abort then some (.abortFlitArrival, [id])
  else if n = 0 then some (.packetHeadArrival, [id])
  else if f.end_ then some (.packetEndArrival, [id])
  else none

/-- Flits added to a packet in the network, each sent; a flit of channel 3 is discarded by the first router (R366). -/
def addFlits (s : State) (id : Nat) (p : NetPkt) (fs : List Flit) : State :=
  let n := p.flits.length
  let s1 := { s with packets := s.packets.set id { p with flits := p.flits ++ fs, closed := p.closed || fs.any (·.end_) } }
  ((List.range fs.length).zip fs).foldl (fun s e =>
    if e.2.vc = 3 then later 1 .flitAgeDiscard [id, n + e.1] s else sendFlit id (n + e.1) (flitEvent id (n + e.1) e.2) s) s1

/-- Flits of a packet that is new in the network. -/
def injectFlits (s : State) (b : PktBody) (fs : List Flit) : State :=
  let (id, s1) := s.newId
  addFlits s1 id ⟨b, [], [], false, false⟩ fs

/-- A whole packet on its way. -/
def injectPacket (s : State) (b : PktBody) : State := injectFlits s b (packetFlits b)

/-- A flit of an open packet that its words have filled (R369). -/
def injectFull (s : State) (b : PktBody) (k : Nat) : State :=
  let f := packetFlit b k false false
  match openNet s b.src b.seq with
  | some (id, p) => addFlits s id { p with body := b } [f]
  | none => if k = 0 then injectFlits s b [f] else s

/-- The last flits of a packet, whose earlier ones have left (R240, R369). -/
def closePacket (s : State) (b : PktBody) : State :=
  match openNet s b.src b.seq with
  | some (id, p) => addFlits s id { p with body := b } ((packetFlits b).drop p.flits.length)
  | none => injectPacket s b

/-- A reply on its way: a single head flit on channel 1, with its kind in byte 16 and a data word in bytes 24 to 31 (R372;
entry 50 for the codes of the kinds). Its event has the number of the reply as its last number. -/
def sendReply (ev : Instr) (kind : Nat) (b : PktBody) (args : List Nat) (data : Word) (s : State) : State :=
  let (id, s1) := s.newId
  let r : PktBody := { b with cls := .message, dest := b.src, src := b.dest, words := [], pc := 0, fe := none, know := [] }
  let f := flitOf (headerBytes r ++ toBytes 8 kind ++ toBytes 8 data.toNat ++ List.replicate 32 0) 0 true false 1 0
  sendFlit id 0 (some (ev, args ++ [id])) { s1 with packets := s1.packets.set id ⟨r, [f], [], true, false⟩ }

/-- A reply taken out of the network; none where it was discarded on its way. -/
def takeReply (s : State) (id : Nat) : Option State :=
  if s.packets.has id then some { s with packets := s.packets.erase id } else none

/-- What a reply tells of the packet it answers. -/
def replyBody (src seq dest : Nat) : PktBody := ⟨.message, dest, src, seq, 0, 0, 0, [], 0, none, []⟩

/-- The timer that follows a send (R371). -/
def resendTimer (src seq dest : Nat) (s : State) : State := later 4096 .retentionResendTimeout [src, seq, dest, s.cyc] s

/-- A core's next sequence number (R371). -/
def nextSeq (s : State) (c : Nat) : Nat × State :=
  ((s.core c).seqCount.toNat, s.updCore c fun k => { k with seqCount := k.seqCount + 1 })

/-- A retention entry taken, sent now (R371). -/
def retain (s : State) (b : PktBody) : State :=
  s.updCore b.src fun k => { k with retained := k.retained ++ [⟨b, .sent, s.cyc, 1, 0⟩] }

/-- Retention entries of a core in use, by sequence number. -/
def retainedSeqs (s : State) (c : Nat) : List Nat := ((s.core c).retained.map fun r => r.body.seq).eraseDups

/-- Whether a retention entry is free (R371). -/
def retentionFree (s : State) (c : Nat) : Bool := decide ((retainedSeqs s c).length < 32)

/-- The closing flits of a retained packet, or of every copy of a multicast, sent (R240, R379, R381). -/
def launchPacket (s : State) (c seq : Nat) : State :=
  let rs := (s.core c).retained.filter fun r => r.body.seq == seq
  let s1 := s.updCore c fun k => { k with retained := k.retained.map fun r =>
    if r.body.seq == seq then { r with tSend := s.cyc } else r }
  rs.foldl (fun s r => resendTimer c seq r.body.dest (closePacket s r.body)) s1

/-- A retained packet sent once the store buffer is published; it carries what that boundary does (R331, R332, R338). -/
def publishThenSend (s : State) (c seq : Nat) : State :=
  let (now, s1) := publish (.packet c seq) s c
  let know := (s1.core c).sent
  let s2 := s1.updCore c fun k => { k with retained := k.retained.map fun r =>
    if r.body.seq == seq then { r with body := { r.body with know := know } } else r }
  if now then launchPacket s2 c seq else s2

/-- The open packet of a thread of core `c` aborted (R242, R369): the trailer flit leaves with `ABORT` set, and the packet is no
longer retained. -/
def abortOpen (s : State) (c : Nat) (t : Thread) : State :=
  match t.packet with
  | none => s
  | some p =>
    let s1 := s.updCore c fun k => { k with retained := k.retained.filter fun r => r.body.seq != p.seq }
    let b : PktBody := ⟨.message, p.dest, c, p.seq, t.ctag, t.launch, t.group, p.words, 0, none, []⟩
    let n := flitCount p.words.length
    let fs := (List.range n).map fun k => packetFlit b k (k + 1 == n) (k + 1 == n)
    match openNet s1 c p.seq with
    | some (id, q) => addFlits s1 id { q with body := b } (fs.drop q.flits.length)
    | none => injectFlits s1 b fs

/-- A thread's open packet aborted. -/
def abortPacket (s : State) (key : Nat) : State :=
  match s.thread? key with
  | some t => abortOpen (s.setThread key { t with packet := none }) (coreOf key) t
  | none => s

/-! ### Taking a trap (R82 to R86, R394) -/

/-- What a trap record tells apart from the thread's own state (R83). -/
structure Trap where
  cause : Nat
  detail : BitVec 32
  second : Word
  deriving DecidableEq, Repr

/-- Group coordinates of a linear index (R387). -/
def coords (grid : Nat × Nat × Nat) (g : Nat) : Nat × Nat × Nat :=
  (g % grid.1, g / grid.1 % grid.2.1, g / grid.1 / grid.2.1)

/-- The 64 bytes of a trap record, without its valid byte (R83). -/
def trapRecord (s : State) (key : Nat) (t : Thread) (x : Trap) : List Byte :=
  let l := s.launch? t.launch
  let job := match l with
    | some l => l.job
    | none => 0
  let (gx, gy, gz) := match l with
    | some l => coords l.grid t.group
    | none => (0, 0, 0)
  let pol := match l with
    | some l => l.policy
    | none => 0
  let c := coreOf key
  let bits := (t.status.getLsbD 12).toNat + 2 * (s.timed t.launch).toNat + 4 * (pol.getLsbD 0 || pol.getLsbD 1).toNat
  toBytes 4 job ++ toBytes 4 t.launch ++ toBytes 4 gx ++ toBytes 4 gy ++ toBytes 4 gz
    ++ toBytes 2 (clusterOf c) ++ toBytes 1 (c % 8) ++ toBytes 1 (slotOf key) ++ toBytes 4 t.pc.toNat
    ++ toBytes 2 x.cause ++ toBytes 2 bits ++ toBytes 4 x.detail.toNat ++ toBytes 8 x.second.toNat
    ++ toBytes 2 t.rank ++ toBytes 2 0 ++ toBytes 8 s.cyc ++ toBytes 7 0

/-- Lap parity value of an index (R388). -/
def lapParity (i log : Nat) : Byte := if i / 2 ^ log % 2 = 0 then 0xA5 else 0x5A

/-- The halt that holds a launch, where it has taken effect (R403). -/
def haltOf (s : State) (l : Nat) : Option Nat :=
  if s.halted l then (s.launch? l).map (·.pid) else none

/-- An event held until the issue of a halted launch resumes (R305). -/
def holdEvent (s : State) (pid : Nat) (p : Pending) : State :=
  match s.halts.get? pid with
  | some h => { s with halts := s.halts.set pid { h with events := h.events ++ [p] } }
  | none => s

/-- A launch cancelled (R387, R400): groups not running are dropped, running ones are cancelled. -/
def cancelLaunch (s : State) (l : Nat) : State :=
  let s1 := s.updLaunch l fun x => { x with cancelled := true, next := x.order.length }
  let gs := s1.groups.filter fun e => e.1 / 2 ^ 24 == l
  gs.foldl (fun s e => match e.2.st with
    | .running => arm 0 .groupCancel [l, e.1 % 2 ^ 24] s
    | .waiting | .released => s.setGroup l (e.1 % 2 ^ 24) { e.2 with st := .retired, cancelled := true }
    | .retiring | .retired => s) s1

/-- What the launch policy does after a thread trap (R394). -/
def trapPolicy (s : State) (l g : Nat) : State :=
  match s.launch? l with
  | some x =>
    if x.policy.getLsbD 1 then cancelLaunch s l
    else if x.policy.getLsbD 0 then arm 0 .groupCancel [l, g] s
    else s
  | none => s

/-- The hub's writes, which every core knows of. -/
def hubWriter : Writer := ⟨none, 0, 0, 2, none, 0⟩

/-- The host as an agent of `Know`; a phase of it is a cycle. What it writes is known where a packet's fence scope is 5 (R343). -/
def hostAgent : Nat := 2 ^ 20

/-- A fault posted: the future of its page, with the waiters that join it (R321). -/
def postFault (s : State) (ctag : BitVec 16) (page : Nat) (keys : List Nat) : State :=
  let mine (f : Future) : Bool := f.ctag == ctag && f.page == page
  let join (f : Future) : Future := { f with waiters := f.waiters ++ keys.filter fun k => !f.waiters.contains k }
  if s.futures.any mine then { s with futures := listUpd mine join s.futures }
  else { s with futures := s.futures ++ [⟨ctag, page, keys⟩] }

/-- Whether the hub can write bytes at a device address now: every page is there and stays, and no tile holds them (R253,
R327). -/
def hubReaches (s : State) (ctag : BitVec 16) (da n : Nat) : Bool :=
  (daRange s ctag da n).all fun p => match p.1 with
    | some l => !tileHolds s l p.2.2 && !pageMoves s ctag p.2.1
    | none => false

/-- Whether the local memory of a fabric operation is still to be accessed: the bytes of a get are to come, or those of a put wait for
the publication before it (R439). -/
def FabOp.toCome (s : State) (op : Nat) (f : FabOp) : Bool := f.kind == .get || s.pubs.any fun p => p.2.after == .fabric op

/-- The pages of `[da, da + n)` that are not there, posted to the pager (R321). -/
def postMissing (s : State) (ctag : BitVec 16) (da n : Nat) : State :=
  ((daRange s ctag da n).filter fun p => p.1.isNone).foldl (fun s p => postFault s ctag (p.2.1 / 2 ^ 17) []) s

/-- A record written into its launch's trap ring, or lost where it would overwrite one that its reader has not consumed; the
launch policy then decides the group. None while a page of the ring is absent or a tile holds the write. The count of records
consumed is bytes 0 to 3 of the control block; its other bytes are not looked at (R86, R253, R394; entry 47). -/
def writeTrapRecord (s : State) (l g : Nat) (bytes : List Byte) : Option State :=
  match s.launch? l with
  | none => some s
  | some x =>
    let k := x.trapsWritten
    let slot := x.ringAddr.toNat + 64 * (k % 2 ^ x.ringLog)
    match daBytes s x.ctag (x.ringAddr.toNat - 64) 4 with
    | none => none
    | some bs =>
      if 2 ^ x.ringLog ≤ (k - ofBytes bs) % 2 ^ 32 then
        some (trapPolicy (s.updLaunch l fun x => { x with trapsLost := x.trapsLost + 1 }) l g)
      else if hubReaches s x.ctag slot 64 then
        let s1 := daWrite s x.ctag hubWriter slot (bytes ++ [lapParity k x.ringLog])
        some (trapPolicy (s1.updLaunch l fun x => { x with trapsWritten := x.trapsWritten + 1 }) l g)
      else none

/-- A thread whose record is written, or lost, enters STOPPED: the one in the slot, or the parked owner of a lent one (R86). -/
def stopThread (s : State) (key l g : Nat) : State :=
  let stop (t : Thread) : Thread :=
    if t.launch = l ∧ t.group = g ∧ t.cause = some .record then { t with st := .stopped, cause := none } else t
  let s1 := s.updThread key stop
  match (s1.slot key).lent with
  | some t => s1.setSlot key { s1.slot key with lent := some (stop t) }
  | none => s1

/-- A record that is due, which waits behind an earlier one of its launch. -/
def offerRecord (r : State × List (Nat × Nat × Nat × List Byte)) (e : Nat × Nat × Nat × List Byte) :
    State × List (Nat × Nat × Nat × List Byte) :=
  let (s, held) := r
  if held.any fun h => h.2.1 == e.2.1 then (s, held ++ [e])
  else match writeTrapRecord s e.2.1 e.2.2.1 e.2.2.2 with
    | some s1 => (stopThread s1 e.1 e.2.1 e.2.2.1, held)
    | none =>
      let s1 := match s.launch? e.2.1 with
        | some x => postMissing (postMissing s x.ctag (x.ringAddr.toNat - 64) 4) x.ctag
            (x.ringAddr.toNat + 64 * (x.trapsWritten % 2 ^ x.ringLog)) 64
        | none => s
      (s1, held ++ [e])

/-- Records in ascending slot number. -/
def insertRecord (e : Nat × Nat × Nat × List Byte) : List (Nat × Nat × Nat × List Byte) → List (Nat × Nat × Nat × List Byte)
  | [] => [e]
  | f :: r => if e.1 < f.1 then e :: f :: r else f :: insertRecord e r

/-- The records of the cycle written in ascending core, then slot, after those that waited (R86). -/
def flushTraps (s : State) : State :=
  if s.trapOut.isEmpty && s.trapHeld.isEmpty then s
  else
    let fresh := s.trapOut.foldl (fun l e => insertRecord e l) []
    let (s1, held) := (s.trapHeld ++ fresh).foldl offerRecord ({ s with trapOut := [], trapHeld := [] }, [])
    { s1 with trapHeld := held }

/-- Taking a trap that was raised in cycle `at_`: an open packet is aborted, the record is due in this cycle, and the thread stays at
the instruction and issues no more; it is STOPPED once the record is written (R82, R83, R86, R242, R394). -/
def takeTrapAt (s : State) (key : Nat) (x : Trap) (at_ : Nat) : State :=
  match s.thread? key with
  | none => s
  | some t =>
    let s1 := abortPacket s key
    { s1 with trapOut := s1.trapOut ++ [(key, t.launch, t.group, trapRecord { s with cyc := at_ } key t x)] }.updThread key fun t => { t with
      st := .blocked, cause := some .record, outstanding := none, idle := none, machineErr := none, nominal := none }

/-- Taking a trap that is raised in this cycle. -/
def takeTrap (s : State) (key : Nat) (x : Trap) : State := takeTrapAt s key x s.cyc

/-- The detail of R85: register or segment, access, lane and cause. -/
def detail (low access lane cause : Nat) : BitVec 32 :=
  BitVec.ofNat 32 (low % 256 + 256 * (access % 256) + 65536 * (lane % 256) + 2 ^ 24 * (cause % 256))

/-- Cause codes (R84). -/
def eIllop (low field hi : Nat) : Trap := ⟨0x01, BitVec.ofNat 32 (low + 256 * field + 65536 * hi), 0⟩
def eWindow (low field idx : Nat) : Trap := ⟨0x02, BitVec.ofNat 32 (low + 256 * field + 65536 * idx), 0⟩
def eFormat (field tag : Nat) : Trap := ⟨0x03, BitVec.ofNat 32 (field + 256 * tag), 0⟩
def eBounds (d : BitVec 32) (second : Word) : Trap := ⟨0x04, d, second⟩
def eRights (d : BitVec 32) (second : Word) : Trap := ⟨0x05, d, second⟩
def eTag (d : BitVec 32) (second : Word) : Trap := ⟨0x06, d, second⟩
def ePage (why : Nat) (da : Nat) : Trap := ⟨0x07, BitVec.ofNat 32 why, BitVec.ofNat 64 da⟩
def eNotMember (rank reason : Nat) (second : Word) : Trap := ⟨0x08, BitVec.ofNat 32 (rank % 512 + 4096 * reason), second⟩
def eFeRetry (why : Nat) (da : Nat) : Trap := ⟨0x09, BitVec.ofNat 32 why, BitVec.ofNat 64 da⟩
def eLost (why : Nat) (dest : Nat) : Trap := ⟨0x0A, BitVec.ofNat 32 why, BitVec.ofNat 64 dest⟩
def ePart (why : Nat) (second : Word) : Trap := ⟨0x0B, BitVec.ofNat 32 why, second⟩
def eMachine (why : Nat) (second : Word) : Trap := ⟨0x0E, BitVec.ofNat 32 why, second⟩

/-! ### Waiting and freezing (R82, R302, R303) -/

/-- Threads of a group, with their keys. -/
def groupThreads (s : State) (l g : Nat) : List (Nat × Thread) := s.threads.filter fun e => e.2.launch == l && e.2.group == g

/-- The cores that hold a group's threads (R301). -/
def groupCores (s : State) (l g : Nat) : List Nat := ((groupThreads s l g).map fun e => coreOf e.1).eraseDups

/-- A time at or after `c`, moved by `d`. -/
def moved (c d t : Nat) : Nat := if c ≤ t then t + d else t

/-- Whether a location lies in a thread's own core store or own vault (R137). -/
def nearHome (key loc : Nat) : Bool :=
  match homeOf loc with
  | .core c _ => c == coreOf key
  | .vault cl _ => cl == clusterOf (coreOf key)
  | .hbm _ | .cellar _ | .host _ _ | .other => false

/-- The bytes of memory a request touches: location and length. -/
def Req.places (r : Req) : List (Nat × Nat) :=
  match r.kind with
  | .read ps => ps
  | .atomic loc n _ => [(loc, n)]
  | .fe loc _ _ => [(loc, 8)]
  | .tagRead loc | .tagWrite loc _ => [(loc, 8)]
  | .write loc bytes _ _ => [(loc, bytes.length)]

/-- The E_TAG of a request whose granules have another colour now, among those of `[loc, loc + n)`: a `stag` has reached their home
before it (R142). -/
def Req.tagTest (s : State) (ctag : BitVec 16) (r : Req) (loc n : Nat) : Option (BitVec 32 × Word) :=
  r.tests.findSome? fun t =>
    if t.loc < loc + n ∧ loc < t.loc + t.len then
      match homeOf t.loc with
      | .host .. | .other => none
      | .core .. | .vault .. | .hbm _ | .cellar _ =>
        ((List.range ((t.da + t.len - 1) / 64 - t.da / 64 + 1)).find? fun i =>
          granuleColour s ctag (t.loc + 64 * i) (t.da + 64 * i) 0 != t.colour).map fun i =>
          let seen := granuleColour s ctag (t.loc + 64 * i) (t.da + 64 * i) 0
          (detail t.seg t.code (seen.toNat + 16 * t.colour.toNat) 0, t.second)
    else none

/-! ### Writes that are still to come (R332 to R336) -/

/-- What of memory a request concerns: its bytes, or the tag of its granule. -/
def Req.spots (r : Req) : List (Nat × Nat) :=
  match r.kind with
  | .tagRead loc | .tagWrite loc _ => [(tagRel loc, 1)]
  | .read _ | .atomic .. | .fe .. | .write .. => r.places

/-- The agent of `Know` for which a request acts. -/
def Req.agent (r : Req) : Nat :=
  match r.kind with
  | .write _ _ _ (some (cl, q, _)) => jobAgent cl q
  | .write .. | .read _ | .atomic .. | .fe .. | .tagRead _ | .tagWrite .. => coreOf r.key

/-- Whether a request writes memory or a tag when it is performed. A full-empty store is left to the bit of its word. -/
def Req.willWrite (r : Req) : Bool :=
  match r.kind, r.instr with
  | .atomic .., some (.ald ..) => false
  | .atomic .., _ | .tagWrite .., _ | .write .., _ => true
  | .read _, _ | .fe .., _ | .tagRead _, _ => false

/-- A write that is issued and not yet performed: its agent and phase, its bytes, and whether a tile holds it. -/
structure Coming where
  agent : Nat
  phase : Nat
  spots : List (Nat × Nat)
  held : Bool
  deriving DecidableEq, Repr

/-- An own store or a full-empty store on its way to the own core store, as a write that comes. -/
def OwnAcc.coming? (s : State) (c : Nat) (a : OwnAcc) : Option Coming :=
  match a.act with
  | .write loc _ bs _ phase => some ⟨c, phase, [(loc, bs.length)], false⟩
  | .read .. => none
  | .home loc n => (s.reqs.get? a.id).bind fun r => match r.kind with
    | .fe _ .stfe _ => some ⟨c, r.phase, [(loc, n)], false⟩
    | .fe _ .ldfe _ | .fe _ .ldfp _ | .read _ | .atomic .. | .tagRead _ | .tagWrite .. | .write .. => none

/-- Every write that is still to come. -/
def coming (s : State) : List Coming :=
  (s.cores.flatMap fun e => e.2.own.filterMap (OwnAcc.coming? s e.1))
    ++ s.reqs.filterMap fun e => if e.2.willWrite && !e.2.performed then
      some ⟨e.2.agent, e.2.phase, e.2.spots, e.2.spots.any fun p => tileHolds s p.1 p.2⟩ else none

/-- Whether two lists of pieces share a byte. -/
def shares (ps qs : List (Nat × Nat)) : Bool :=
  ps.any fun p => qs.any fun q => decide (p.1 < q.1 + q.2) && decide (q.1 < p.1 + p.2)

/-- Whether an access of agent `a` that follows `know` must wait at some pieces: a write of another agent to them is ordered before
it, and has not been performed (R332, R336). -/
def owed (s : State) (a : Nat) (know : Know) (ps : List (Nat × Nat)) : Bool :=
  (coming s).any fun w => w.agent != a && know.has w.agent w.phase && shares w.spots ps

/-- Whether a job must wait for such a write anywhere; one that a tile holds comes when the tile is READY (R253, R338). -/
def owedAny (s : State) (a : Nat) (know : Know) : Bool :=
  (coming s).any fun w => w.agent != a && know.has w.agent w.phase && !w.held

/-- Whether a request takes its place in its core's order of writes to a location. -/
def Req.ordered (r : Req) : Bool :=
  match r.kind with
  | .atomic .. | .tagWrite .. => true
  | .write _ _ pub _ => pub.isSome
  | .read _ | .fe .. | .tagRead _ => false

/-- Whether a write or atomic that core `c` issued before `order`, to some pieces, is still to be performed (R332, R336). -/
def ownComing (s : State) (c order : Nat) (ps : List (Nat × Nat)) : Bool :=
  s.reqs.any fun e => e.2.ordered && !e.2.performed && coreOf e.2.key == c && decide (e.2.order < order) && shares e.2.spots ps

/-- Bytes of reads whose writes have all been performed take what memory holds, through the core's snapshot (R333, R336). -/
def fillGap (r : Req) (s : State) (g : Nat × Nat) : State :=
  let c := coreOf r.key
  let w := g.1 / 8
  if owed s c r.after [(8 * w, 8)] || ownComing s c r.order [(8 * w, 8)] then s
  else
    let k := s.core c
    let v := (k.snap.getD w (memWord s.mem w, s.past.length))
    let fill (r : Req) : Req := { r with
      data := putAt r.data g.2 [byteOf v.1 (g.1 % 8)], gaps := r.gaps.filter fun h => h != g }
    { s with reqs := listUpd (fun e : Nat × Req => e.2.key == r.key && e.2.order == r.order) (fun e => (e.1, fill e.2)) s.reqs }.setCore c
      { k with snap := k.snap.set w v }

/-- The reads that wait for writes, looked at after one has been performed. -/
def fillGaps (s : State) : State :=
  (s.reqs.filter fun e => !e.2.gaps.isEmpty).foldl (fun s e => e.2.gaps.foldl (fillGap e.2) s) s

/-- Whether an event belongs to a group's timed span: a release, or a deposit, an `idle`, or the result of an access of one of its
threads to its own core store or vault (R303). DESIGN CHOICE (entry 62): the arrival of a `wait` that issued before the freeze is
none of these, and happens inside the freeze. -/
def Pending.ofSpan (s : State) (l g : Nat) (p : Pending) : Bool :=
  let mine (key : Nat) : Bool := match s.thread? key with
    | some t => t.launch == l && t.group == g
    | none => false
  match p.ev, p.args with
  | .barrierRelease, [l', g', _] => l' == l && g' == g
  | .depositLanding, [_, _, id] => (match s.deposits.get? id with
      | some d => d.launch == l && d.group == g
      | none => false)
  | .idleExpiry, [c, j] => mine (slotKey c j)
  | .remoteAccessReply, id :: _ | .qldDataArrival, id :: _ => (match s.reqs.get? id with
      | some r => mine r.key && r.places.all fun q => nearHome r.key q.1
      | none => false)
  | _, _ => false

/-- What a freeze holds, from cycle `c` on, moved by `d` cycles: in-flight instructions of the span's threads, their bank
accesses, those in a vault among them, vector units and queue entries, deposits, `idle`s and releases (R303). -/
def shiftSpan (s : State) (l g c d : Nat) : State :=
  let cores := groupCores s l g
  let moveQ (q : Queue) : Queue := { q with ents := q.ents.map fun e => { e with present := e.present.map (moved c d) } }
  let moveC (k : CoreSt) : CoreSt := { k with
    queues := k.queues.map fun q => (q.1, moveQ q.2)
    vecFree := if c < k.vecFree then k.vecFree + d else k.vecFree
    banks := k.banks.map fun b => (b.1, moved c d b.2)
    own := k.own.map fun a => if a.launch = l ∧ a.group = g then { a with at_ := moved c d a.at_ } else a }
  let moveG (x : Nat × Nat × Nat) : Nat × Nat × Nat :=
    if cores.contains x.1 then (x.1, x.2.1, moved c d x.2.2) else x
  let moveK (k : ClusterSt) : ClusterSt := { k with
    banks := k.banks.map fun b => if k.granted.any fun x => cores.contains x.1 && x.2 == b then (b.1, moved c d b.2) else b
    granted := k.granted.map moveG }
  let moveT (t : Thread) : Thread :=
    if t.launch = l ∧ t.group = g then
      { t with readyAt := if c < t.readyAt then t.readyAt + d else t.readyAt
               nominal := t.nominal.map fun n => if c < n then n + d else n
               idle := t.idle.map fun n => if n = 0 then 0 else moved c d n }
    else t
  let moveD (x : Deposit) : Deposit := if x.launch = l ∧ x.group = g then { x with lands := moved c d x.lands } else x
  let moveP (p : Pending) : Pending := if Pending.ofSpan s l g p then { p with at_ := moved c d p.at_ } else p
  let moveR (r : BitVec 256 × Nat) : BitVec 256 × Nat := (r.1, moved c d r.2)
  let s1 := { s with
    pending := s.pending.map moveP
    threads := s.threads.map fun (k, t) => (k, moveT t)
    deposits := s.deposits.map fun (k, x) => (k, moveD x) }
  let s2 := cores.foldl (fun s n => s.updCore n moveC) s1
  let s2 := ((cores.map clusterOf).eraseDups).foldl (fun s cl => s.updCluster cl moveK) s2
  s2.updGroup l g fun x => { x with barrier := { x.barrier with rls := x.barrier.rls.map fun (k, r) => (k, moveR r) } }

/-- A stall in this cycle: the group's span freezes for one rotation, and is looked at again at its end (R303). Stalls of
one cycle share one freeze. -/
def freezeSpan (s : State) (l g key : Nat) : State :=
  match s.group? l g with
  | none => s
  | some x => match x.freeze with
    | some (c, ks, b) =>
      if c = s.cyc ∧ !ks.contains key then s.setGroup l g { x with freeze := some (c, ks ++ [key], b) } else s
    | none =>
      let n := s.rotLen (coreOf key)
      let s1 := (shiftSpan s l g s.cyc n).updGroup l g fun x => { x with freeze := some (s.cyc, [key], false) }
      later n .spanFreezeEnd [l, g] s1

/-- An instruction that does not issue: its thread is BLOCKED, or its timed span freezes (R82, R302). Unit occupancy and
deadlines leave the slot as it is (R210, R215). -/
def holdThread (s : State) (key : Nat) (t : Bool) (c : Cause) : State :=
  match s.thread? key with
  | none => s
  | some th =>
    if c.isStall then
      let s1 := s.setThread key { th with st := .blocked, cause := some c }
      if t && c.freezes && s.timed th.launch then freezeSpan s1 th.launch th.group key else s1
    else s.setThread key { th with st := .ready, cause := some c }

/-! ### Bank grants (R213, R214, R216) -/

/-- First cycle from `t` in which a bank is free. -/
def bankFrom (taken : List (Nat × Nat)) (b t : Nat) : Nat :=
  ((List.range (taken.length + 1)).find? fun i => !taken.contains (b, t + i)).getD 0 + t

/-- Accesses of one stage granted: those taken, and the delay they add. -/
def grantStage (taken : List (Nat × Nat)) (at_ : Nat) (bs : List Nat) : List (Nat × Nat) × Nat :=
  bs.foldl (fun (r : List (Nat × Nat) × Nat) b =>
    let t := bankFrom r.1 b at_
    (r.1 ++ [(b, t)], max r.2 (t - at_))) (taken, 0)

/-- Stages in order: offset from issue and banks. The result is the grants and the delay of the last stage. -/
def grantStages (cyc : Nat) : List (Nat × List Nat) → List (Nat × Nat) → Nat → List (Nat × Nat) × Nat
  | [], taken, d => (taken, d)
  | (off, bs) :: r, taken, d =>
    let (taken', more) := grantStage taken (cyc + off + d) bs
    grantStages cyc r taken' (d + more)

def gBank (e : Nat) : Nat := e % 8
def wBank (e : Nat) : Nat := 8 + e % 8
def csBank (off : Nat) : Nat := 16 + off / 8 % 16

/-- Banks for an instruction that issues now, written `lat` cycles after issue: the cycle of its last stage, and its grants
in the order of its stages (R214). -/
def reserveBanks (s : State) (c : Nat) (stages : List (Nat × List Nat)) (lat : Nat) : Nat × List (Nat × Nat) × State :=
  let k := s.core c
  let live := k.banks.filter fun b => decide (s.cyc < b.2)
  let (taken, d) := grantStages s.cyc stages live 0
  (s.cyc + lat + d, taken.drop live.length, s.setCore c { k with banks := taken })

end Sys2Proof.Machine
end

