-- ==== Sys2Proof/Machine/Operands.lean ====
section
/-! DEFINITION. Operands: reading and writing every operand form (R14 to R18, R116), queue accounting (R18, R219, R220), the
window and guard checks (R17, R19, R20), and how an instruction of a thread issues, completes, waits or traps (R28, R210). -/

namespace Sys2Proof.Machine

/-- A lane instruction: `OP` 0x60 to 0xAF (R19). -/
def Instr.lane : Instr → Bool
  | .vadd .. | .vsub .. | .vmul .. | .vfma .. | .vmin .. | .vmax .. | .vabs .. | .vneg .. | .vrcp .. | .vrsqrt ..
  | .vexp2 .. | .vlog2 .. | .vdiv .. | .vsqrt .. | .vand .. | .vor .. | .vxor .. | .vshl .. | .vshr .. | .vcmp ..
  | .vsel .. | .vcvt .. | .vbfp .. | .vunbfp .. | .vperm .. | .vbcast .. | .vext .. | .vins .. | .vred .. | .vscan ..
  | .vdot .. | .vld .. | .vst .. | .vldx .. | .vstx .. | .vtag .. | .vgtag .. | .vmov .. | .vclamp .. | .kaddF ..
  | .kaddB .. | .ksubF .. | .ksubB .. | .kmulF .. | .kmulB .. | .kdivF .. | .kdivB .. | .kfmaF .. | .kfmaB ..
  | .knegF .. | .knegB .. | .kabsF .. | .kabsB .. | .ksqrF .. | .ksqrB .. | .ksqrtF .. | .ksqrtB .. | .kexpF ..
  | .kexpB .. | .klogF .. | .klogB .. | .kreluF .. | .kreluB .. | .kmaxF .. | .kmaxB .. | .kminF .. | .kminB ..
  | .kscaleF .. | .kscaleB .. | .kmacF .. | .kmacB .. | .kcap .. | .khull .. | .kmk .. | .klo .. | .khi .. | .kmid ..
  | .kwid .. | .ksplit .. | .kcmpF .. | .kcmpB .. | .kin .. | .kstat .. | .kld .. | .kst .. | .kmov .. | .kset ..
  | .mlog .. => true
  | _ => false

/-- Why an instruction of a thread does not complete: a trap, with what it leaves changed of the state before it (R28, R228);
a wait, with the state in which it waits; or a request to another core, whose answer completes it (R380). -/
inductive Stop where
  | trap (x : Trap) (after : Option (State → State))
  | hold (c : Cause) (s : State)
  | sent (s : State)

/-- An instruction in its issue cycle. -/
structure Iss where
  s : State
  key : Nat
  /-- the issuing thread, as it is written back -/
  th : Thread
  i : Instr
  /-- hint T -/
  timed : Bool
  /-- lane mask (R19) -/
  mask : Word
  /-- target, of a control instruction -/
  npc : Option (BitVec 32)
  /-- result cycle, counted from issue, without conflicts (R118) -/
  lat : Nat
  /-- bank accesses by stage (R212) -/
  stages : List (Nat × List Nat)
  writes : List Nat
  /-- a result is written, or an access performed, in the last stage -/
  wrote : Bool
  pushes : List (Nat × VReg)
  /-- accesses to the own core store, with the turn in which a read reaches its bank (R216) -/
  own : List (Nat × OwnAcc)
  flags : Flags
  /-- cycles that corrected errors add (R228) -/
  extra : Nat
  /-- a result or publication is outstanding, under this number -/
  remote : Option Nat
  /-- the outstanding result is answered in the cycle of the last stage -/
  reply : Bool
  /-- the request whose queue entry is filled in that cycle (R231) -/
  fills : Option Nat
  /-- the thread has left its slot -/
  gone : Bool
  /-- the thread's state after the instruction (R82) -/
  st : TState

namespace Iss

def core (x : Iss) : Nat := coreOf x.key
def slot (x : Iss) : Nat := slotOf x.key
def cl (x : Iss) : Nat := clusterOf x.core

/-- Bank accesses added to a stage. -/
def addStage (off : Nat) (bs : List Nat) : List (Nat × List Nat) → List (Nat × List Nat)
  | [] => [(off, bs)]
  | (o, l) :: r =>
    if off = o then (o, l ++ bs) :: r
    else if off < o then (off, bs) :: (o, l) :: r
    else (o, l) :: addStage off bs r

def atStage (x : Iss) (off : Nat) (bs : List Nat) : Iss := { x with stages := addStage off bs x.stages }

/-- Flags raised by the instruction. -/
def raise (x : Iss) (f : Flags) : Iss := { x with flags := x.flags ||| f }

/-- The instruction's rounding mode. -/
def mode (x : Iss) (r : Rnd) : RMode := roundOf x.th.status r

/-! ### Storage errors met by a read (R228) -/

/-- A read of a storage element: a trap where it is poisoned, a correction where the error is correctable. -/
def check (x : Iss) (site : ErrSite) (why : Nat) : Except Stop Iss :=
  match errAt x.s site with
  | none => .ok x
  | some true => .error (.trap (eMachine why 0) (some fun s => countUe s x.cl why (x.core % 8)))
  | some false => .ok { x with s := countCe (dropErr x.s site) x.cl, extra := x.extra + 2 }

/-! ### Registers (R65 to R70, R213) -/

def gEntry (x : Iss) (n : Nat) : Nat := x.th.gBase + n
def vEntry (x : Iss) (n : Nat) : Nat := x.th.wBase + n
def kEntry (x : Iss) (n : Nat) : Nat := x.th.wBase + ceil8 x.th.nv + n

/-- A general-file entry read in a stage. -/
def readG (x : Iss) (stage e : Nat) : Except Stop (Word × Iss) := do
  let x ← (x.atStage stage [gBank e]).check (.gfile x.core e) 1
  pure (x.s.gfile.getD (gKey x.core e) 0, x)

/-- A wide-file entry read in a stage. -/
def readW (x : Iss) (stage e : Nat) : Except Stop (VReg × Iss) := do
  let x ← (x.atStage stage [wBank e]).check (.wfile x.core e) 2
  pure (x.s.wfile.getD (wKey x.core e) .zero, x)

/-- The tag of a wide-file entry, read without its data. -/
def tagW (x : Iss) (e : Nat) : BitVec 4 := (x.s.wfile.getD (wKey x.core e) .zero).tag

def putG (s : State) (c e : Nat) (v : Word) : State :=
  dropErr { s with gfile := s.gfile.put 0 (gKey c e) v } (.gfile c e)
def putW (s : State) (c e : Nat) (v : VReg) : State :=
  dropErr { s with wfile := s.wfile.put .zero (wKey c e) v } (.wfile c e)

/-- A general-file entry written as a result. -/
def writeG (x : Iss) (e : Nat) (v : Word) : Iss :=
  { x with s := putG x.s x.core e v, writes := x.writes ++ [gBank e], wrote := true }

/-- A wide-file entry written as a result; one written in part keeps its error (R228). -/
def writeW (x : Iss) (e : Nat) (v : VReg) : Iss :=
  let s := putW x.s x.core e v
  let kept := if x.mask = BitVec.allOnes 64 then s else { s with errs := x.s.errs }
  { x with s := kept, writes := x.writes ++ [wBank e], wrote := true }

/-- A predicate; p0 reads as all ones (R69). -/
def predOf (t : Thread) (n : Fin 8) : Word := if n = 0 then BitVec.allOnes 64 else t.preds[n]

/-- A predicate written; a write to p0 is discarded (R69). -/
def setPred (t : Thread) (n : Fin 8) (v : Word) : Thread := if n = 0 then t else { t with preds := t.preds.set n v }

def writeP (x : Iss) (n : Fin 8) (v : Word) : Iss := { x with th := setPred x.th n v, wrote := true }
def writeM (x : Iss) (n : Fin 8) (v : BitVec 128) : Iss := { x with th := { x.th with mregs := x.th.mregs.set n v }, wrote := true }

/-! ### Queues (R18, R219, R220) -/

def queueDepth (q : Nat) : Nat := if q < 12 then 16 else 4

/-- Entries from the head onward, without gap, that a pop in this cycle counts (R219). -/
def presentNow (cyc : Nat) : List QEntry → Nat
  | [] => 0
  | e :: r => match e.present with
    | some w => if w < cyc then presentNow cyc r + 1 else 0
    | none => 0

/-- `FILLED` (R218). -/
def filled (s : State) (q : Queue) : Nat := presentNow s.cyc q.ents

def queuesOf (os : List Opnd) : List Nat := os.filterMap fun o => match o with
  | .q n => some n.val
  | _ => none

/-- The ownership check of R220 on every queue named: all have one owner, and the trap reports the first of `qs`. Its second detail
is 0 (entry 20). Entries give their sources before D, but `qcnt` and `qclr` D before A (entry 58). -/
def owns (x : Iss) (qs : List Nat) : Except Stop Unit :=
  match qs with
  | [] => .ok ()
  | q :: _ => if (x.s.core x.core).qOwner = some x.th.ctag then .ok ()
    else .error (.trap (eRights (detail (0x10 + q) 6 0 3) 0) none)

/-- R18: the source queues hold what is popped, and the destination has room after the pops. -/
def queueReady (x : Iss) (srcs dsts : List Nat) : Except Stop Unit :=
  let popsOf (q : Nat) : Nat := (srcs.filter fun p => p == q).length
  if srcs.all (fun q => decide (popsOf q ≤ filled x.s (x.s.queue x.core q)))
    && dsts.all (fun q => decide ((x.s.queue x.core q).ents.length - popsOf q < queueDepth q)) then .ok ()
  else .error (.hold .queue x.s)

/-- Ownership and availability of an instruction's queue operands. -/
def queues (x : Iss) (srcs dsts : List Opnd) : Except Stop Unit := do
  let a := queuesOf srcs
  let b := queuesOf dsts
  x.owns (a ++ b)
  x.queueReady a b

/-- A queue without the entry of a push, which is discarded with its error (R228). -/
def dropEntry (s : State) (c q seq : Nat) : State :=
  let qu := s.queue c q
  dropErr (s.setQueue c q { qu with
    head := BitVec.ofNat 4 ((qu.head.toNat + 1) % queueDepth q), ents := qu.ents.filter fun e => e.seq != seq }) (.queue c q seq)

/-- A queue's oldest entry popped; a poisoned one traps and is discarded, and no other entry moves (R28, R228, R231). `stored`
says that a store pops it (R232). -/
def pop (x : Iss) (q : Nat) (stored : Bool) : Except Stop (VReg × Iss) :=
  let qu := x.s.queue x.core q
  match qu.ents with
  | [] => .error (.hold .queue x.s)
  | e :: r =>
    let s := x.s.setQueue x.core q { qu with head := BitVec.ofNat 4 ((qu.head.toNat + 1) % queueDepth q), ents := r }
    let site := ErrSite.queue x.core q e.seq
    match e.poison, errAt x.s site with
    | some da, _ => .error (.trap (if stored then eMachine 3 0 else eMachine 5 da)
        (some fun s => countUe (dropEntry s x.core q e.seq) x.cl 5 (x.core % 8)))
    | none, some true => .error (.trap (eMachine 3 0) (some fun s => countUe (dropEntry s x.core q e.seq) x.cl 3 (x.core % 8)))
    | none, some false => .ok (e.val, { x with s := countCe (dropErr s site) x.cl, extra := x.extra + 2 })
    | none, none => .ok (e.val, { x with s := s })

/-- The entry that an instruction which may still trap at its answer has popped from D, kept for its return (R28): `x` before the pop,
`y` after it. -/
def keep (x : Iss) (d : Opnd) (y : Iss) : Iss :=
  match d with
  | .q n => { y with th := { y.th with popped := (x.s.queue x.core n.val).ents.head?.map fun e => (n.val, e) } }
  | _ => y

/-- A result pushed: its entry is reserved now and present when the result is written (R219). -/
def push (x : Iss) (q : Nat) (v : VReg) : Iss := { x with pushes := x.pushes ++ [(q, v)], wrote := true }

/-! ### Operand forms -/

/-- A 64-bit source: a general register, a queue, an immediate, a predicate or a borrowed register. -/
def int (x : Iss) (stage : Nat) (o : Opnd) : Except Stop (Word × Iss) :=
  match o with
  | .g n => x.readG stage (x.gEntry n.val)
  | .bg n => x.readG stage (x.th.bBase + n.val)
  | .q n => do
    let (v, x) ← x.pop n.val false
    pure (v.data.setWidth 64, x)
  | .imm v => .ok (v.signExtend 64, x)
  | .wide v => .ok (v.signExtend 64, x)
  | .p n => .ok (predOf x.th n, x)
  | .none | .v _ | .k _ | .m _ | .s _ | .x _ | .acc _ => .ok (0, x)

/-- A 64-bit result written. -/
def setInt (x : Iss) (o : Opnd) (v : Word) : Iss :=
  match o with
  | .g n => x.writeG (x.gEntry n.val) v
  | .bg n => x.writeG (x.th.bBase + n.val) v
  | .q n => x.push n.val ⟨v.setWidth 2048, 0⟩
  | .p n => x.writeP n v
  | .none | .v _ | .k _ | .m _ | .s _ | .x _ | .acc _ | .imm _ | .wide _ => x

/-- A wide source: a vector or interval register, or a queue. -/
def vec (x : Iss) (stage : Nat) (o : Opnd) : Except Stop (VReg × Iss) :=
  match o with
  | .v n => x.readW stage (x.vEntry n.val)
  | .k n => x.readW stage (x.kEntry n.val)
  | .q n => x.pop n.val false
  | .none | .g _ | .p _ | .m _ | .s _ | .x _ | .acc _ | .bg _ | .imm _ | .wide _ => .ok (.zero, x)

/-- A wide result written. -/
def setVec (x : Iss) (o : Opnd) (v : VReg) : Iss :=
  match o with
  | .v n => x.writeW (x.vEntry n.val) v
  | .k n => x.writeW (x.kEntry n.val) v
  | .q n => x.push n.val v
  | .none | .g _ | .p _ | .m _ | .s _ | .x _ | .acc _ | .bg _ | .imm _ | .wide _ => x

/-- The tag a wide operand carries: of a register, or of the entry a pop would take (`skip` earlier pops of that queue). -/
def tagOf (x : Iss) (skip : Nat) (o : Opnd) : BitVec 4 :=
  match o with
  | .v n => x.tagW (x.vEntry n.val)
  | .k n => x.tagW (x.kEntry n.val)
  | .q n => match ((x.s.queue x.core n.val).ents.drop skip).head? with
    | some e => e.val.tag
    | none => 0
  | _ => 0

/-! ### Format checks (R151, R187, R220) -/

/-- A wide operand an entry reads: its field, the earlier pops of its queue, and the tags it accepts. -/
structure TagUse where
  field : Nat
  o : Opnd
  skip : Nat
  ok : BitVec 4 → Bool

/-- Whether an operand is wide. -/
def isWide (o : Opnd) : Bool :=
  match o with
  | .v _ | .k _ => true
  | .q n => decide (12 ≤ n.val)
  | _ => false

/-- The tag of a wide operand; of a queue only once its entry is known to be there. -/
def seenTag (x : Iss) (all : Bool) (u : TagUse) : Option (BitVec 4) :=
  match u.o with
  | .v _ | .k _ => some (x.tagOf u.skip u.o)
  | .q _ => if all then some (x.tagOf u.skip u.o) else none
  | _ => none

/-- The first pass of R151: each operand against its set. -/
def setPass (x : Iss) (all : Bool) : List TagUse → Except Stop Unit
  | [] => .ok ()
  | u :: r => match x.seenTag all u with
    | some t => if u.ok t then setPass x all r else .error (.trap (eFormat u.field t.toNat) none)
    | none => setPass x all r

/-- The second pass of R151: agreement with the format. -/
def agreePass (x : Iss) (all : Bool) (fmt : BitVec 4) : List TagUse → Except Stop Unit
  | [] => .ok ()
  | u :: r => match x.seenTag all u with
    | some t => if t = fmt then agreePass x all fmt r else .error (.trap (eFormat u.field t.toNat) none)
    | none => agreePass x all fmt r

/-- How often a source queue is popped before an operand is. -/
def popsBefore (os : List Opnd) (o : Opnd) : Nat :=
  match o with
  | .q _ => (os.filter fun p => p == o).length
  | _ => 0

/-- The wide operands an entry reads, in the order D, A, B (R151); they pop in the order A, B, D. -/
def tagUses (d a b : Opnd) (readsD : Bool) (okD okA okB : BitVec 4 → Bool) : List TagUse :=
  (if readsD && isWide d then [⟨0, d, popsBefore [a, b] d, okD⟩] else [])
    ++ (if isWide a then [⟨1, a, 0, okA⟩] else [])
    ++ (if isWide b then [⟨2, b, popsBefore [a] b, okB⟩] else [])

/-- One run of the checks: the sets, the agreement of `agree` with the format operand, and what the entry adds. -/
def formatRun (x : Iss) (all : Bool) (uses : List TagUse) (fmt : Option TagUse) (agree : List TagUse)
    (more : BitVec 4 → Except Stop Unit) : Except Stop Unit := do
  setPass x all uses
  match fmt.bind (x.seenTag all) with
  | none => pure ()
  | some t => do
    agreePass x all t agree
    more t

/-- Whether the thread may read the entries its source queues pop, and all of them are there. -/
def entriesSeen (x : Iss) (srcs : List Opnd) : Bool :=
  let qs := queuesOf srcs
  (x.s.core x.core).qOwner == some x.th.ctag
    && qs.all fun q => decide ((qs.filter fun p => p == q).length ≤ filled x.s (x.s.queue x.core q))

/-- E_FORMAT on every operand whose tag can be read, then queue ownership and availability (R18, R28, R151, R220). The result
is the format. -/
def formats (x : Iss) (srcs dsts : List Opnd) (uses : List TagUse) (fmt : Option TagUse) (agree : List TagUse)
    (more : BitVec 4 → Except Stop Unit) : Except Stop (BitVec 4) := do
  x.formatRun (x.entriesSeen srcs) uses fmt agree more
  x.queues srcs dsts
  pure ((fmt.bind (x.seenTag true)).getD 0)

end Iss

/-! ### Windows (R17) -/

/-- A register a field names: kind 1 general, 2 vector, 3 interval, 4 borrowed (R30). -/
structure Named where
  kind : Nat
  field : Nat
  index : Nat
  deriving DecidableEq, Repr

def namedOf (field : Nat) : Opnd → List Named
  | .g n => [⟨1, field, n.val⟩]
  | .v n => [⟨2, field, n.val⟩]
  | .k n => [⟨3, field, n.val⟩]
  | .bg n => [⟨4, field, n.val⟩]
  | _ => []

/-- The register after the one a field names, which the entry uses too. -/
def nextNamed (by_ field : Nat) (o : Opnd) : List Named := (namedOf field o).map fun n => { n with index := n.index + by_ }

/-- The registers an instruction names, in the order D, A, B (R17, R139, R144, R176, R190, R238, R267, R438). -/
def Instr.named (i : Instr) : List Named :=
  match i.operands with
  | none => []
  | some (d, a, b) =>
    let base := namedOf 0 d ++ namedOf 1 a ++ namedOf 2 b
    match i with
    | .sendr .. => namedOf 1 a ++ namedOf 2 b
    | .ld _ .s16 .. | .st _ .s16 .. | .acas .. | .vstx .. | .kfmaF .. | .kfmaB .. =>
      namedOf 0 d ++ nextNamed 1 0 d ++ namedOf 1 a ++ namedOf 2 b
    | .cpy .. | .tsub .. => base ++ nextNamed 3 2 b
    | .put .. | .puts .. | .get .. => base ++ nextNamed 2 1 a
    | _ => base

/-- Whether a register lies outside the thread's windows (R17). -/
def outside (t : Thread) (n : Named) : Bool :=
  match n.kind with
  | 1 => decide (t.gSize ≤ n.index)
  | 2 => decide (t.nv ≤ n.index)
  | 3 => decide (t.nk ≤ n.index)
  | _ => !t.status.getLsbD 13 || decide (t.bSize ≤ n.index)

/-- The first register outside, as its trap (R28, R30). -/
def windowTrap (t : Thread) (i : Instr) : Option Trap :=
  ((Instr.named i).find? (outside t)).map fun n => eWindow n.kind n.field n.index

/-! ### Issue (R19 to R22, R28, R210) -/

/-- The guard as a lane mask; a scalar instruction is enabled everywhere or nowhere (R19). -/
def guardMask (t : Thread) (c : Ctl) (lane : Bool) : Word :=
  let p := if c.gn then ~~~(Iss.predOf t c.gp) else Iss.predOf t c.gp
  if lane then p else if p.getLsbD 0 then BitVec.allOnes 64 else 0

/-- The thread after an instruction, its state and hints (R22, R78, R82). -/
def Thread.stepped (t : Thread) (pc : BitVec 32) (d lane : Bool) (f : Flags) (ready : Nat) (nominal : Option Nat) : Thread :=
  { t with pc := pc, status := deepIdle (orFlags t.status f) d lane, st := .ready, cause := none, readyAt := ready,
           parkedOn := none, nominal := nominal }

/-- Entries pushed by an instruction whose result is written in cycle `w`. -/
def pushAll (s : State) (c w : Nat) (l : List (Nat × VReg)) : State :=
  l.foldl (fun s p =>
    let q := s.queue c p.1
    s.setQueue c p.1 { q with ents := q.ents ++ [⟨p.2, some w, none, q.pushed⟩], pushed := q.pushed + 1 }) s

/-- The cycle of a core's last lane instruction (R22). -/
def noteLane (s : State) (c : Nat) (i : Instr) : State :=
  if Instr.lane i then s.updCore c fun k => { k with laneAt := some s.cyc } else s

/-- The cycle of an access to the own core store: of its bank, for a read, which is one of `grants`; of the last stage, for
the others (R137, R174, R216). -/
def OwnAcc.timed (grants : List (Nat × Nat)) (last : Nat) (a : Nat × OwnAcc) : OwnAcc :=
  match a.2.act with
  | .read loc _ _ =>
    let g := (grants.filter fun b => b.1 == csBank (loc % 2 ^ 17)).map (·.2)
    { a.2 with at_ := g.getD a.1 last }
  | .write .. | .home .. => { a.2 with at_ := last }

/-- Completion of an issue: bank grants, pushes, flags, PC and the cycle of the next issue (R210, R212, R214). A timed instruction
whose entry states no time has the nominal cycle issue + 7; `pub` and `phase`, which write no result, take it too (R302; entry 58). -/
def Iss.finish (x : Iss) (c : Ctl) : State :=
  let lat := x.lat + x.extra
  let (last, grants, s0) := reserveBanks x.s x.core (Iss.addStage lat x.writes x.stages) lat
  let s1 := if x.own.isEmpty then s0
    else s0.updCore x.core fun k => { k with own := k.own ++ x.own.map (OwnAcc.timed grants last) }
  let s1 := match x.fills with
    | some id => later (last - s1.cyc) .qldDataArrival [id] s1
    | none => s1
  let s2 := noteLane (pushAll s1 x.core last x.pushes) x.core x.i
  if x.gone then s2
  else
    let ready := if x.wrote then last + 1 else s2.cyc + 1
    let nominal := if x.timed && (x.wrote || x.remote.isSome) then some (last - x.extra + 1) else none
    let t := x.th.stepped (x.npc.getD (x.th.pc + 1)) c.d (Instr.lane x.i) x.flags ready nominal
    let s3 := s2.setThread x.key { t with
      st := x.st, outstanding := x.remote, deposited := [], popped := if x.remote.isSome then x.th.popped else none }
    match x.reply, x.remote with
    | true, some id => later (last - s3.cyc) .remoteAccessReply [id] s3
    | _, _ => s3

/-- An instruction of the thread `State.cur` names: window checks, guard, and its body (R28). -/
def issue (i : Instr) (s : State) (body : Iss → Except Stop Iss) : Host.Outcome State Fault Refusal :=
  match i.ctl, s.thread? s.cur with
  | some c, some t =>
    match windowTrap t i with
    | some x => .next (takeTrap s s.cur x)
    | none =>
      let mask := guardMask t c (Instr.lane i)
      if mask = 0 then
        .next (noteLane (s.setThread s.cur (t.stepped (t.pc + 1) c.d (Instr.lane i) 0 (s.cyc + 1) none)) (coreOf s.cur) i)
      else
        match body ⟨s, s.cur, t, i, c.t, mask, none, 7, [], [], false, [], [], 0, 0, none, false, none, false, .ready⟩ with
        | .ok x => .next (x.finish c)
        | .error (.trap x none) => .next (takeTrap s s.cur x)
        | .error (.trap x (some f)) => .next (takeTrap (f s) s.cur x)
        | .error (.hold cause s') => .next (holdThread s' s.cur c.t cause)
        | .error (.sent s') => .next s'
  | _, _ => .fault .noIssuingThread

/-! ### The vector unit (R22, R215, R416) -/

/-- An instruction that uses the vector unit finds it awake, or waits while it wakes (R22, R155, R210). -/
def Iss.awake (x : Iss) : Except Stop Unit :=
  let cs := x.s.core x.core
  if cs.vecGated then
    .error (.hold .vectorWake (if cs.vecWakeAt.isNone then
        later 8 .vectorUnitWake [x.core] (x.s.setCore x.core { cs with vecWakeAt := some (x.s.cyc + 8) })
      else x.s))
  else .ok ()

/-- The unit claimed for `k` cycles: an instruction waits while the unit wakes or serves another. -/
def Iss.claim (x : Iss) (k : Nat) : Except Stop Iss := do
  x.awake
  let cs := x.s.core x.core
  if x.s.cyc < cs.vecFree then .error (.hold .vectorBusy x.s)
  else
    let s1 := x.s.setCore x.core { cs with vecFree := x.s.cyc + k, vecUser := (x.th.launch, x.th.group) }
    .ok { x with s := s1, lat := 6 + k }

end Sys2Proof.Machine
end

