-- ==== Sys2Proof/Machine/Path.lean ====
section
/-! DEFINITION. The path of a thread's memory access: segment checks, reach, alignment, window checks, translation, tiers,
colour and page rights (R72, R73, R135, R136, R313 to R325), and then its bytes: reads, stores and requests that travel
(R137, R138, R174, R253, R280). -/

namespace Sys2Proof.Machine

/-- Kinds of access, with the codes of R85. -/
inductive Access where
  | load | store | fetch | atomic | tagset
  deriving DecidableEq, Repr

def Access.code : Access → Nat
  | .load => 0 | .store => 1 | .fetch => 2 | .atomic => 3 | .tagset => 4

/-- Whether a segment or a page with rights `r`, `w`, `x`, `t` allows an access (R73). -/
def Access.allowed (k : Access) (r w x t : Bool) : Bool :=
  match k with
  | .load => r | .store => w | .atomic => r && w | .tagset => t | .fetch => x

/-- Rows of the reach tables (R135, R173, R231, R378, R439). -/
inductive Reach where
  | plain | fullEmpty | vector | everywhere
  deriving DecidableEq, Repr

/-- Where a device address lies, seen from a core. -/
inductive Where where
  | ownCore | otherCore | ownVault | otherVault | paged
  deriving DecidableEq, Repr

def whereOf (core da : Nat) : Where :=
  if da / 2 ^ 48 = 0xFF then (if da / 2 ^ 17 % 2 ^ 14 = core then .ownCore else .otherCore)
  else if da / 2 ^ 48 = 0xFE then (if da / 2 ^ 22 % 2 ^ 11 = clusterOf core then .ownVault else .otherVault)
  else .paged

def Reach.ok : Reach → Where → Bool
  | .plain, .ownCore | .plain, .otherCore | .plain, .ownVault => true
  | .plain, .otherVault | .plain, .paged => false
  | .fullEmpty, .ownCore | .fullEmpty, .otherCore => true
  | .fullEmpty, .ownVault | .fullEmpty, .otherVault | .fullEmpty, .paged => false
  | .vector, .ownCore | .vector, .ownVault => true
  | .vector, .otherCore | .vector, .otherVault | .vector, .paged => false
  | .everywhere, _ => true

/-- The device address of an offset (R72). -/
def segDa (g : Segment) (core : Nat) (o : Nat) : Nat :=
  match g.kind with
  | .core => 0xFF * 2 ^ 48 + core * 2 ^ 17 + (g.base.toNat + o) % 2 ^ 17
  | .vault => 0xFE * 2 ^ 48 + clusterOf core * 2 ^ 22 + (g.base.toNat + o) % 2 ^ 22
  | _ => (g.base.toNat + o) % 2 ^ 56

/-- One piece of an access, within one 128 KiB page. -/
structure Part where
  loc : Nat
  da : Nat
  len : Nat
  page : Option PageEntry
  deriving DecidableEq, Repr

/-- An access as its instruction makes it. -/
structure Want where
  seg : Nat
  o : Int
  n : Nat
  kind : Access
  reach : Reach
  align : Nat
  lane : Nat
  /-- whether the colour test is made (R142) -/
  colour : Bool
  /-- refusals by tier: access code and cause (R314) -/
  tier : Nat → Option (Nat × Nat)

/-- Refusals by tier of an ordinary access: peer pages, and host pages for atomics (R135, R325). -/
def tierOf (k : Access) (t : Nat) : Option (Nat × Nat) :=
  if t = 3 then some (k.code, 18) else if t = 2 ∧ k = .atomic then some (3, 2) else none

/-- The detail of a failed check. -/
def Want.detail (w : Want) (cause : Nat) : BitVec 32 := Machine.detail w.seg w.kind.code w.lane cause

def Want.second (w : Want) : Word := BitVec.ofInt 64 w.o

/-- Checks of R73 that need no address. -/
def segCheck (g : Segment) (w : Want) : Except Stop Unit :=
  if g.kind = .null ∨ w.o < 0 ∨ w.o + w.n > g.limit.toNat then .error (.trap (eBounds (w.detail 0) w.second) none)
  else if g.kind = .barrier ∨ (g.kind = .code ∧ w.kind ≠ .fetch) then
    .error (.trap (eRights (w.detail 0) w.second) none)
  else if w.kind.allowed g.r g.w g.x g.t then .ok ()
  else .error (.trap (eRights (w.detail 0) w.second) none)

/-- The pieces of an access: device address and length. -/
def pieces (g : Segment) (core : Nat) : Nat → Nat → Nat → List (Nat × Nat)
  | 0, _, _ => []
  | fuel + 1, o, n =>
    if n = 0 then []
    else
      let da := segDa g core o
      let k := min n (2 ^ 17 - da % 2 ^ 17)
      (da, k) :: pieces g core fuel (o + k) (n - k)

/-- The checks of a window address (R313). -/
def windowCheck (s : State) (ctag : BitVec 16) (w : Want) (da : Nat) : Except Stop Unit :=
  let isCore := da / 2 ^ 48 == 0xFF
  let cl := if isCore then da / 2 ^ 17 % 2 ^ 14 / 8 else da / 2 ^ 22 % 2 ^ 11
  let zeros := if isCore then bitsAt da 31 17 else bitsAt da 33 15
  let off := da % 2 ^ 22
  if zeros ≠ 0 then .error (.trap (eBounds (w.detail 12) w.second) none)
  else if !s.inPart ctag cl then .error (.trap (eRights (w.detail 13) w.second) none)
  else if !isCore && (decide (0x270000 ≤ off ∧ off < 0x300000) || decide (3145728 ≤ off)) then
    .error (.trap (eRights (w.detail 14) w.second) none)
  else .ok ()

/-- A translation held by a cluster (R319). -/
def cached (s : State) (cl : Nat) (ctag : BitVec 16) (da : Nat) : Option PageEntry :=
  (s.cluster cl).tcache.find? fun e => pageMatches ctag da e.size.toNat e

/-- A request joined to the walk of its page, or a walk started in the lowest free miss entry; none where there is no entry for it
(R320). -/
def takeMiss (s : State) (cl : Nat) (ctag : BitVec 16) (page : Nat) (w : Waiter) : Option State :=
  let k := s.cluster cl
  match k.misses.find? fun m => m.2.ctag == ctag && m.2.page == page with
  | some m => some (if m.2.waiters.contains w then s
      else s.setCluster cl { k with misses := k.misses.set m.1 { m.2 with waiters := m.2.waiters ++ [w] } })
  | none => (k.misses.freeKey 64 0).map fun n =>
      trip .walkProbe [cl, n] (s.setCluster cl { k with misses := k.misses.set n ⟨ctag, page, 0, [w]⟩ })

/-- A request that misses in the cache joins a walk, or retries in each later cycle; a prefetch is dropped (R147, R320). -/
def joinMiss (s : State) (cl : Nat) (ctag : BitVec 16) (da : Nat) (w : Waiter) : State :=
  let page := da / 2 ^ 17
  match takeMiss s cl ctag page w with
  | some s1 => s1
  | none =>
    if w = .prefetch ∨ (s.cluster cl).retries.contains (ctag, page, w) then s
    else s.updCluster cl fun k => { k with retries := k.retries ++ [(ctag, page, w)] }

/-- The requests of a cluster that retry, oldest first: one whose page is cached meanwhile has no more to ask, nor has one that no
longer waits (R320). -/
def retryMisses (s : State) (cl : Nat) : State :=
  let l := (s.cluster cl).retries
  if l.isEmpty then s
  else
    let waits (r : BitVec 16 × Nat × Waiter) : Bool := (cached s cl r.1 (r.2.1 * 2 ^ 17)).isNone && (match r.2.2 with
      | .thread key => (s.thread? key).any fun t => t.st == .blocked && t.cause == some .translation
      | .copy _ | .prefetch => true)
    let r := (l.filter waits).foldl (fun (a : State × List (BitVec 16 × Nat × Waiter)) e => match takeMiss a.1 cl e.1 e.2.1 e.2.2 with
      | some s1 => (s1, a.2)
      | none => (a.1, a.2 ++ [e])) (s, [])
    r.1.updCluster cl fun k => { k with retries := r.2 }

/-- A page translated for a thread, or its wait (R314, R319, R320, R327). -/
def translate (x : Iss) (k : Access) (da : Nat) : Except Stop PageEntry :=
  match cached x.s x.cl x.th.ctag da with
  | some e => if e.mg && k != .load && k != .fetch then .error (.hold .translation x.s) else .ok e
  | none =>
    let s1 := joinMiss x.s x.cl x.th.ctag da (.thread x.key)
    .error (.hold .translation (s1.updThread x.key fun t => { t with parkedOn := some (BitVec.ofNat 56 da) }))

/-- Windows checked and pages translated (R313, R314). -/
def locate (x : Iss) (w : Want) : List (Nat × Nat) → Except Stop (List Part)
  | [] => .ok []
  | (da, n) :: r => do
    let p ← if isWindow da then do
        windowCheck x.s x.th.ctag w da
        pure (⟨da, da, n, none⟩ : Part)
      else do
        let e ← translate x w.kind da
        pure ⟨(pageLoc ((x.s.pidOf x.th.ctag).getD 0) e da).getD 0, da, n, some e⟩
    let ps ← locate x w r
    pure (p :: ps)

/-- The refusal of the first page whose tier an access does not reach (R314). -/
def tierTrap (w : Want) (ps : List Part) : Option Trap :=
  ps.findSome? fun p => (p.page.bind fun e => w.tier e.tier.toNat).map fun t =>
    eRights (Machine.detail w.seg t.1 w.lane t.2) w.second

/-- Windows checked and pages translated, and then the refusals by tier (R314). -/
def resolve (x : Iss) (w : Want) (l : List (Nat × Nat)) : Except Stop (List Part) := do
  let ps ← locate x w l
  match tierTrap w ps with
  | some t => .error (.trap t none)
  | none => pure ps

/-- Granules of a piece: location and device address. -/
def granules (p : Part) : List (Nat × Nat) :=
  let a := p.da / 64
  (List.range ((p.da + p.len - 1) / 64 - a + 1)).map fun i => (p.loc / 64 * 64 + 64 * i, 64 * (a + i))

/-- The colour of a granule of a piece as its context sees it (R318). -/
def colourAt (s : State) (ctag : BitVec 16) (p : Part) (g : Nat × Nat) : BitVec 4 :=
  granuleColour s ctag g.1 g.2 (match p.page with
    | some e => e.ptag
    | none => 0)

/-- The first granule of another colour than the segment's. -/
def badColour (s : State) (ctag : BitVec 16) (colour : BitVec 4) (ps : List Part) : Option (BitVec 4) :=
  ps.findSome? fun p => (granules p).findSome? fun g =>
    let t := colourAt s ctag p g
    if t = colour then none else some t

/-- The first page right that is missing, as its cause (R315, R325). -/
def badPage (k : Access) (ps : List Part) : Option Nat :=
  ps.findSome? fun p => match p.page with
    | none => none
    | some e =>
      if (k = .load ∨ k = .atomic) ∧ !e.r then some 15
      else if (k = .store ∨ k = .atomic) ∧ !e.w then some 16
      else if k = .fetch ∧ e.xn then some 17
      else none

/-- Whether an access reaches a kick page other than as a kick: a 4-byte `ast` to its first word (R388). -/
def badKick (x : Iss) (w : Want) (ps : List Part) : Bool :=
  let kick : Bool := match x.i with
    | .ast .. => w.n == 4
    | _ => false
  ps.any fun p => p.page.isSome && x.s.kickPages.has (p.loc / 2 ^ 17) && !(kick && p.loc % 2 ^ 17 == 0)

/-- The whole path of an access through a segment, in the order of R139 and R314. -/
def path (x : Iss) (g : Segment) (w : Want) : Except Stop (List Part) := do
  segCheck g w
  let ds := pieces g x.core (w.n / 2 ^ 17 + 2) w.o.toNat w.n
  let da := segDa g x.core w.o.toNat
  if !(ds.all fun d => w.reach.ok (whereOf x.core d.1)) then .error (.trap (eRights (w.detail 2) w.second) none)
  else if da % w.align ≠ 0 then .error (.trap (eBounds (w.detail 1) w.second) none)
  else
    let ps ← resolve x w ds
    match (if w.colour && g.colour != 0 && w.kind != .tagset then badColour x.s x.th.ctag g.colour ps else none) with
    | some t =>
      let second := if Instr.lane x.i then BitVec.ofNat 64 (w.o.toNat % 2 ^ 48 + w.lane * 2 ^ 56) else w.second
      .error (.trap (eTag (Machine.detail w.seg w.kind.code (t.toNat + 16 * g.colour.toNat) 0) second) none)
    | none => match badPage w.kind ps with
      | some c => .error (.trap (eRights (w.detail c) w.second) none)
      | none =>
        if badKick x w ps then
          .error (.trap (eRights (Machine.detail w.seg Access.store.code w.lane 16) w.second) none)
        else .ok ps

/-- A scalar access of an instruction through one of s0 to s7. -/
def Want.scalar (seg : Fin 8) (o : Int) (n : Nat) (k : Access) (r : Reach) (align : Nat) : Want :=
  ⟨seg.val, o, n, k, r, align, 0, true, tierOf k⟩

namespace Iss

/-- The offset of a memory operand: the 64-bit sum of base and offset (R38). -/
def offset (x : Iss) (r : MemRef) : Except Stop (Int × Iss) := do
  let (b, x) ← x.int 1 r.base
  let (o, x) ← x.int 2 r.off
  pure ((b + o).toInt, x)

/-- The path of a scalar access. -/
def access (x : Iss) (r : MemRef) (o : Int) (n : Nat) (k : Access) (rc : Reach) (align : Nat) : Except Stop (List Part) :=
  path x x.th.segs[r.seg] (.scalar r.seg o n k rc align)

/-- Where an access lies: in the own core store or the own vault with every byte, or elsewhere. -/
def place (x : Iss) (ps : List Part) : Where :=
  if ps.all fun p => whereOf x.core p.da == .ownCore then .ownCore
  else if ps.all fun p => whereOf x.core p.da == .ownVault then .ownVault
  else match ps.find? fun p => whereOf x.core p.da != .ownCore && whereOf x.core p.da != .ownVault with
    | some p => whereOf x.core p.da
    | none => .otherCore

/-- Whether an access meets a tile that is not READY in the own core store, which holds the store (R253). -/
def tileHold (x : Iss) (ps : List Part) : Except Stop Unit :=
  if ps.any fun p => whereOf x.core p.da == .ownCore && tileHolds x.s p.loc p.len then .error (.hold .tile x.s) else .ok ()

/-! ### Times (R137, R174, R216, R280) -/

/-- The distinct 8-byte words of some pieces, in rising order (R173). -/
def words (ps : List (Nat × Nat)) : List Nat :=
  (ps.flatMap fun p => (List.range ((p.1 + p.2 - 1) / 8 - p.1 / 8 + 1)).map (p.1 / 8 + ·)).foldl (fun l w => insertNat w l) []

/-- Words in turns, one word of a bank in each: turn and bank. -/
def turns (bank : Nat → Nat) (ws : List Nat) : List (Nat × Nat) :=
  ws.foldl (fun acc w => acc ++ [((acc.filter fun t => t.2 == bank w).length, bank w)]) []

/-- The turn of a word among words of the own core store. -/
def turnOf (ws : List Nat) (w : Nat) : Nat := ((ws.takeWhile (· != w)).filter fun v => csBank (8 * v) == csBank (8 * w)).length

/-- Turns needed. -/
def turnCount (ts : List (Nat × Nat)) : Nat := ts.foldl (fun m t => max m (t.1 + 1)) 0

/-- Grants of a vault, and the delay they meet (R137, R280). -/
def vaultGrant (x : Iss) (cl : Nat) (ts : List (Nat × Nat)) : Nat × Iss :=
  let k := x.s.cluster cl
  let live := k.banks.filter fun b => decide (x.s.cyc ≤ b.2)
  let (taken, b) := ts.foldl (fun (r : List (Nat × Nat) × Nat) t =>
    let c := bankFrom r.1 t.2 (x.s.cyc + t.1)
    (r.1 ++ [(t.2, c)], max r.2 (c - (x.s.cyc + t.1)))) (live, 0)
  let mine := (taken.drop live.length).map fun g => (x.core, g)
  (b, { x with s := x.s.setCluster cl { k with
    banks := taken, granted := k.granted.filter (fun g => decide (x.s.cyc ≤ g.2.2)) ++ mine } })

/-- The time of an access to the own core store or the own vault; a scalar access takes one turn (R137, R174). -/
def timed_ (x : Iss) (scalar : Bool) (ps : List (Nat × Nat)) (vault : Bool) : Iss :=
  if vault then
    let ts := turns (fun w => w / 8 % 64) (words ps)
    let ts := if scalar then ts.filter fun t => t.1 == 0 else ts
    let (b, x) := x.vaultGrant x.cl ts
    { x with lat := (if scalar then 11 else 10 + turnCount ts) + b }
  else
    let ts := turns (fun w => csBank (8 * w)) (words ps)
    let x := ts.foldl (fun x t => x.atStage (5 + t.1) [t.2]) x
    { x with lat := 6 + max 1 (turnCount ts) }

/-! ### Reading (R228, R333) -/

/-- Cluster, source code and core of a memory location for the error record (R425). -/
def errOwner (loc : Nat) : Option (Nat × Nat × Nat) :=
  match homeOf loc with
  | .core c _ => some (clusterOf c, 5, c % 8)
  | .vault cl _ => some (cl, 9, 0xFF)
  | _ => none

/-- Errors met by a read of memory: the state with what was counted, whether a correction was made, and the poisoned
location, if any. -/
def memErrors (s : State) (loc n : Nat) : State × Bool × Option Nat :=
  match poisonedAt s loc n with
  | some w =>
    (match errOwner loc with
      | some (cl, src, c) => countUe s cl src c
      | none => s, false, some w)
  | none =>
    let soft := s.errs.filter fun e => match siteBytes e.1 with
      | some (a, k) => decide (a < loc + n) && decide (loc < a + k)
      | none => false
    if soft.isEmpty then (s, false, none)
    else
      let s1 := soft.foldl (fun s e => dropErr s e.1) s
      (match errOwner loc with
        | some (cl, _, _) => countCe s1 cl
        | none => s1, true, none)

/-- Errors met by a read of a granule's tag: the state with what was counted, whether a correction was made, and whether the tag is
poisoned (R228). -/
def tagErrors (s : State) (loc : Nat) : State × Bool × Bool :=
  let home (f : Nat → Nat → Nat → State) : State := match errOwner loc with
    | some (cl, src, c) => f cl src c
    | none => s
  match errAt s (.granTag (loc / 64)) with
  | some true => (home fun cl src c => countUe s cl src c, false, true)
  | some false =>
    let s1 := dropErr s (.granTag (loc / 64))
    (home fun cl _ _ => countCe s1 cl, true, false)
  | none => (s, false, false)

/-- An access to be read: its bytes so far, those that wait for a write under way, and those that the own core store's banks
give. -/
structure Loaded where
  data : List Byte
  gaps : List (Nat × Nat)
  own : List (Nat × OwnAct)
  /-- address of the first poisoned word, and cycles that corrections add -/
  bad : Option Nat
  extra : Nat

/-- Whether a byte is decided by an entry of the core's store buffer (R333). -/
def bufferHolds (k : CoreSt) (a : Nat) : Bool :=
  k.buffer.any fun e => decide (e.loc ≤ a) && (e.bytes.getD (a - e.loc) none).isSome

/-- The order of the latest of some requests of core `c`, not yet performed, that write a byte, counted from 1: 0 for none. -/
def lastComing (s : State) (c a : Nat) (p : Req → Bool) : Nat :=
  s.reqs.foldl (fun m e => if e.2.ordered && !e.2.performed && coreOf e.2.key == c && p e.2 && shares e.2.spots [(a, 1)]
    then max m (e.2.order + 1) else m) 0

/-- Whether a request is an atomic. -/
def isAtomic (r : Req) : Bool :=
  match r.kind with
  | .atomic .. => true
  | .read _ | .fe .. | .tagRead _ | .tagWrite .. | .write .. => false

/-- Whether a byte that core `c` reads now waits for a write still under way: one of another agent to its word that is ordered before
the read, or an atomic of the core to the byte that no later store of the core follows. A word that is not in the snapshot waits as
a whole (R333, R336, R345). -/
def waitsByte (s : State) (c a : Nat) : Bool :=
  let k := s.core c
  let w := a / 8
  if bufferHolds k a then false
  else if k.snap.has w then decide (lastComing s c a (!isAtomic ·) < lastComing s c a isAtomic)
  else
    owed s c k.know [(8 * w, 8)]
      || decide (lastComing s c a (!isAtomic ·) < lastComing s c a isAtomic)
      || (lastComing s c a (fun _ => true) == 0 && (List.range 8).any fun i => lastComing s c (8 * w + i) isAtomic != 0)

/-- The bytes of a piece outside the own core store, as its core sees them at issue; those that wait are filled later (R333). -/
def loadFar (x : Iss) (p : Part) (l : Loaded) : Loaded × Iss :=
  let (s1, soft, bad) := memErrors x.s p.loc p.len
  let i := l.data.length
  let gs := ((List.range p.len).filter fun j => waitsByte s1 x.core (p.loc + j)).map fun j => (p.loc + j, i + j)
  let open_ := (gs.map fun g => g.1 / 8).eraseDups.filter fun w => !(s1.core x.core).snap.has w
  let (bs, s2) := readVisible s1 x.core p.loc p.len
  let s3 := s2.updCore x.core fun k => { k with snap := open_.foldl SMap.erase k.snap }
  ({ l with
      data := l.data ++ bs
      gaps := l.gaps ++ gs
      bad := l.bad.orElse fun _ => bad.map fun w => p.da + w - p.loc
      extra := if soft then l.extra + 2 else l.extra }, { x with s := s3 })

/-- The bytes of a piece in the own core store: each aligned part is read in its bank's cycle (R173, R216). -/
def loadOwn (ws : List Nat) (p : Part) (l : Loaded) : Loaded :=
  let i := l.data.length
  { l with
    data := l.data ++ List.replicate p.len 0
    own := l.own ++ (parts8 p.len p.loc p.len).map fun q => (turnOf ws (q.1 / 8), .read q.1 q.2 (i + (q.1 - p.loc))) }

/-- The pieces of an access read in order. -/
def loadParts (x : Iss) (ws : List Nat) : List Part → Loaded → Loaded × Iss
  | [], l => (l, x)
  | p :: r, l =>
    if whereOf x.core p.da = .ownCore then loadParts x ws r (loadOwn ws p l)
    else
      let (l, x) := x.loadFar p l
      loadParts x ws r l

/-- The pieces of an access that lie in the own core store. -/
def ownSpans (x : Iss) (ps : List Part) : List (Nat × Nat) :=
  (ps.filter fun p => whereOf x.core p.da == .ownCore).map fun p => (p.loc, p.len)

/-! ### Writing (R138, R174, R253) -/

/-- The writer of an instruction's plain stores. -/
def writer (x : Iss) (kind : Nat) : Writer :=
  ⟨some x.th.launch, x.core, x.slot, kind, some x.core, (x.s.core x.core).phase⟩

/-- An access to the own core store by this instruction. -/
def ownAcc (x : Iss) (id : Nat) (act : OwnAct) : OwnAcc :=
  ⟨0, id, x.key, x.th.launch, x.th.group, (x.s.core x.core).know, act⟩

/-- Stores to the own core store, performed in the last stage in ascending aligned parts (R137, R138, R173). -/
def writeOwn (x : Iss) (ws : List (Nat × Nat × List Byte)) : Iss :=
  if ws.isEmpty then x
  else
    let (id, s1) := x.s.newId
    let parts := ws.flatMap fun w => (parts8 w.2.2.length w.1 w.2.2.length).map fun q =>
      (q.1, w.2.1 + (q.1 - w.1), (w.2.2.drop (q.1 - w.1)).take q.2)
    let acts := parts.map fun q => (0, x.ownAcc id (.write q.1 (BitVec.ofNat 56 q.2.1) q.2.2 0 (s1.core x.core).phase))
    { x with s := s1, own := x.own ++ acts, wrote := true }

/-- Store-buffer entries of one piece: one for each aligned 16-byte part. -/
def entriesOf (x : Iss) (p : Part) : Nat → Nat → List (Option Byte) → List BufEntry
  | 0, _, _ => []
  | fuel + 1, off, bs =>
    if bs.isEmpty then []
    else
      let k := min bs.length (16 - (p.loc + off) % 16)
      let more := entriesOf x p fuel (off + k) (bs.drop k)
      if (bs.take k).all Option.isNone then more
      else ⟨p.loc + off, BitVec.ofNat 56 (p.da + off), bs.take k, x.slot, x.th.launch,
        p.page.map fun e => (e.ctag, e.vpn.toNat, e.size.toNat), (x.s.core x.core).phase, x.s.cyc⟩ :: more

/-- Entries of all pieces. -/
def entries (x : Iss) : List Part → List (Option Byte) → List BufEntry
  | [], _ => []
  | p :: r, bs => x.entriesOf p (p.len + 1) 0 (bs.take p.len) ++ entries x r (bs.drop p.len)

/-- Entries taken into the store buffer. A buffer that lacks room is published first, and the thread then issues no more
until that publication is complete (R138, R174). -/
def buffer (x : Iss) (es : List BufEntry) : Iss :=
  if (x.s.core x.core).buffer.length + es.length > 64 then
    let id := x.s.nextId
    let (now, s1) := publish (.resume x.key false) x.s x.core
    let es := es.map fun e => { e with phase := (s1.core x.core).phase }
    { x with s := s1.updCore x.core fun k => { k with buffer := k.buffer ++ es }, remote := if now then none else some id }
  else { x with s := x.s.updCore x.core fun k => { k with buffer := k.buffer ++ es } }

/-- A plain store of bytes: its parts in the own core store are performed there in the last stage, the others are buffered
(R136, R138). -/
def storeParts (x : Iss) (ps : List Part) (bs : List Byte) : Iss :=
  let at_ (i : Nat) : List Byte := bs.drop ((ps.take i).map (·.len)).sum
  let each := ps.zip (List.range ps.length)
  let own := each.filter fun e => whereOf x.core e.1.da == .ownCore
  let far := each.filter fun e => whereOf x.core e.1.da != .ownCore
  let x := x.writeOwn (own.map fun e => (e.1.loc, e.1.da, (at_ e.2).take e.1.len))
  let es := x.entries (far.map (·.1)) (far.flatMap fun e => ((at_ e.2).take e.1.len).map some)
  if es.isEmpty then x else x.buffer es

/-! ### Requests that travel, or that the own core store and vault answer in time (R137, R224) -/

/-- An entry of a queue reserved for a value that comes later. -/
def reserve (x : Iss) (q : Nat) (present : Option Nat) (v : VReg) (poison : Option Word) : (Nat × Nat × Nat) × Iss :=
  let qu := x.s.queue x.core q
  ((x.core, q, qu.pushed), { x with s := x.s.setQueue x.core q { qu with
    ents := qu.ents ++ [⟨v, present, poison, qu.pushed⟩], pushed := qu.pushed + 1 } })

/-- A request whose answer the thread waits for. -/
def ask (x : Iss) (kind : ReqKind) (da : Nat) (data : List Byte) (d : Opnd) : Nat × Iss :=
  let (qd, x) := match d with
    | .q n =>
      let (k, x) := x.reserve n.val none .zero none
      (some k, x)
    | _ => (none, x)
  let (id, s1) := x.s.newId
  let k := s1.core x.core
  let r := { Req.new x.key (some x.i) kind (BitVec.ofNat 56 da) x.th.launch with
    data := data, qdest := qd, order := id, phase := k.phase, know := k.sent, after := k.know }
  (id, { x with s := { s1 with reqs := s1.reqs.set id r }, remote := some id })

/-- A request of this instruction changed. -/
def tune (x : Iss) (id : Nat) (f : Req → Req) : Iss :=
  { x with s := { x.s with reqs := x.s.reqs.map fun e => (e.1, if e.1 = id then f e.2 else e.2) } }

/-- The colours of this instruction's request to be met again at its home (R142): pieces with their lanes. -/
def tested (x : Iss) (seg : Fin 8) (o : Int) (k : Access) (ps : List (Part × Nat)) : Iss :=
  let g := x.th.segs[seg]
  let second (lane : Nat) : Word := if Instr.lane x.i then BitVec.ofNat 64 (o.toNat % 2 ^ 48 + lane * 2 ^ 56) else BitVec.ofInt 64 o
  match x.remote with
  | some id => if g.colour = 0 then x
    else x.tune id fun r => { r with
      tests := ps.map fun p => ⟨p.1.loc, p.1.da, p.1.len, seg.val, g.colour, k.code, second p.2⟩ }
  | none => x

/-- A request sent to its home. -/
def sendReq (x : Iss) (kind : ReqKind) (da : Nat) (data : List Byte) (d : Opnd) : Iss :=
  let (id, x) := x.ask kind da data d
  { x with s := trip .arrivalAtHome [id] x.s }

/-- The register banks a result of `n` words in D is written through (R213). -/
def destBanks (x : Iss) (n : Nat) (d : Opnd) : List Nat :=
  match d with
  | .g m => (List.range n).map fun i => gBank (x.gEntry (m.val + i))
  | .bg m => [gBank (x.th.bBase + m.val)]
  | .v m => [wBank (x.vEntry m.val)]
  | .k m => [wBank (x.kEntry m.val)]
  | _ => []

/-- A request of this instruction that its own core store or vault performs in the last stage and answers then (R137). -/
def atHome (x : Iss) (id loc n nd : Nat) (d : Opnd) : Iss :=
  { (x.tune id fun r => { r with granted := true }) with
    own := x.own ++ [(0, x.ownAcc id (.home loc n))], reply := true, writes := x.writes ++ x.destBanks nd d }

/-- The time of a load by where it lies; one that goes elsewhere sets out, and reads what it has of the own core store on
the way. -/
def timeLoad (x : Iss) (scalar : Bool) (id : Nat) (ps : List Part) : Iss :=
  let all := ps.map fun p => (p.loc, p.len)
  match x.place ps with
  | .ownCore => { (x.timed_ scalar all false) with reply := true }
  | .ownVault => { (x.timed_ scalar all true) with reply := true }
  | .otherCore | .otherVault | .paged =>
    let own := x.ownSpans ps
    let x := if own.isEmpty then x else x.timed_ scalar own false
    { x with s := trip .arrivalAtHome [id] x.s }

/-- The reads of a load: its request with the bytes known at issue, and what its banks are still to give (R137, R173,
R216). -/
def startLoad (x : Iss) (ps : List Part) (d : Opnd) (dst : Option WideDst) : Nat × Iss :=
  let (l, x) := x.loadParts (words (x.ownSpans ps)) ps ⟨[], [], [], none, 0⟩
  let da := (ps.head?.map (·.da)).getD 0
  let (id, x) := x.ask (.read (ps.map fun p => (p.loc, p.len))) (l.bad.getD da) l.data d
  let x := x.tune id fun r => { r with gaps := l.gaps, dst := dst, poison := l.bad.isSome }
  (id, { x with own := x.own ++ l.own.map fun a => (a.1, x.ownAcc id a.2), extra := x.extra + l.extra })

/-- A load of bytes into D: `nd` registers, or a wide one. -/
def load (x : Iss) (scalar : Bool) (ps : List Part) (d : Opnd) (nd : Nat) (dst : Option WideDst) : Iss :=
  let (id, x) := x.startLoad ps d dst
  let x := x.timeLoad scalar id ps
  if x.reply then { (x.tune id fun r => { r with granted := true }) with writes := x.writes ++ x.destBanks nd d } else x

end Iss

end Sys2Proof.Machine
end

