-- ==== Sys2Proof/Machine/Scalar.lean ====
section
/-! DEFINITION. Scalar integer instructions (R116 to R125). -/

namespace Sys2Proof.Machine

/-- Bits of a width (R27). -/
def wbits : Width → Nat
  | .i64 => 64 | .i32 => 32 | .i16 => 16 | .i8 => 8

/-- A `w`-bit result widened to 64 bits (R117). -/
def widen (u : Bool) (w : Width) (n : Nat) : Word :=
  if u then BitVec.ofNat 64 (n % 2 ^ wbits w) else BitVec.ofInt 64 (toSigned (wbits w) n)

/-- The `w`-bit value of a source. -/
def srcInt (u : Bool) (w : Width) (v : Word) : Int := readInt u (wbits w) v.toNat

/-- An exact result fitted and widened (R88, R117). -/
def fitW (sat u : Bool) (w : Width) (x : Int) : Word := widen u w (fitInt sat u (wbits w) x)

/-- A two-operand scalar instruction that writes D, `d` cycles later than issue + 7 (R118). -/
def alu2 (i : Instr) (d a b : Opnd) (dly : Nat) (s : State) (f : Word → Word → Word) : Host.Outcome State Fault Refusal :=
  issue i s fun x => do
    x.queues [a, b] [d]
    let (va, x) ← x.int 1 a
    let (vb, x) ← x.int 2 b
    pure { x.setInt d (f va vb) with lat := 7 + dly }

/-- A one-operand scalar instruction that writes D. -/
def alu1 (i : Instr) (d a : Opnd) (s : State) (f : Word → Word) : Host.Outcome State Fault Refusal :=
  issue i s fun x => do
    x.queues [a] [d]
    let (va, x) ← x.int 1 a
    pure (x.setInt d (f va))

/-- `nop` (R119). -/
def execNop (c : Ctl) (s : State) : Host.Outcome State Fault Refusal := issue (.nop c) s pure

/-- `mov` (R119). -/
def execMov (c : Ctl) (w : Width) (u : Bool) (d a : Opnd) (s : State) : Host.Outcome State Fault Refusal :=
  alu1 (.mov c w u d a) d a s fun v => widen u w v.toNat

/-- `movi` (R119): the immediate is operand B. -/
def execMovi (c : Ctl) (w : Width) (u : Bool) (d b : Opnd) (s : State) : Host.Outcome State Fault Refusal :=
  issue (.movi c w u d b) s fun x => do
    x.queues [] [d]
    let (v, x) ← x.int 2 b
    pure (x.setInt d (widen u w v.toNat))

/-- `add` (R119). -/
def execAdd (c : Ctl) (w : Width) (u st : Bool) (d a b : Opnd) (s : State) : Host.Outcome State Fault Refusal :=
  alu2 (.add c w u st d a b) d a b 0 s fun x y => fitW st u w (srcInt u w x + srcInt u w y)

/-- `sub` (R119). -/
def execSub (c : Ctl) (w : Width) (u st : Bool) (d a b : Opnd) (s : State) : Host.Outcome State Fault Refusal :=
  alu2 (.sub c w u st d a b) d a b 0 s fun x y => fitW st u w (srcInt u w x - srcInt u w y)

/-- `mul` (R119). -/
def execMul (c : Ctl) (w : Width) (u st : Bool) (d a b : Opnd) (s : State) : Host.Outcome State Fault Refusal :=
  alu2 (.mul c w u st d a b) d a b 0 s fun x y => fitW st u w (srcInt u w x * srcInt u w y)

/-- `mulh` (R119): the high half of the exact product. -/
def execMulh (c : Ctl) (w : Width) (u : Bool) (d a b : Opnd) (s : State) : Host.Outcome State Fault Refusal :=
  alu2 (.mulh c w u d a b) d a b 0 s fun x y => fitW false u w (srcInt u w x * srcInt u w y / 2 ^ wbits w)

/-- Quotient and remainder (R120). -/
def divRem (u : Bool) (w : Width) (a b : Int) : Int × Int :=
  if b = 0 then (-1, a)
  else if !u ∧ a = -(2 ^ (wbits w - 1)) ∧ b = -1 then (a, 0)
  else let q := truncDiv a b; (q, a - q * b)

/-- Extra cycles of a scalar division (R118). -/
def divDelay : Width → Nat
  | .i64 => 16 | .i32 => 8 | .i16 => 0 | .i8 => 0

/-- `div` (R120). -/
def execDiv (c : Ctl) (w : Width) (u : Bool) (d a b : Opnd) (s : State) : Host.Outcome State Fault Refusal :=
  alu2 (.div c w u d a b) d a b (divDelay w) s fun x y => fitW false u w (divRem u w (srcInt u w x) (srcInt u w y)).1

/-- `rem` (R120). -/
def execRem (c : Ctl) (w : Width) (u : Bool) (d a b : Opnd) (s : State) : Host.Outcome State Fault Refusal :=
  alu2 (.rem c w u d a b) d a b (divDelay w) s fun x y => fitW false u w (divRem u w (srcInt u w x) (srcInt u w y)).2

/-- `min` (R119). -/
def execMin (c : Ctl) (w : Width) (u : Bool) (d a b : Opnd) (s : State) : Host.Outcome State Fault Refusal :=
  alu2 (.min c w u d a b) d a b 0 s fun x y => fitW false u w (min (srcInt u w x) (srcInt u w y))

/-- `max` (R119). -/
def execMax (c : Ctl) (w : Width) (u : Bool) (d a b : Opnd) (s : State) : Host.Outcome State Fault Refusal :=
  alu2 (.max c w u d a b) d a b 0 s fun x y => fitW false u w (max (srcInt u w x) (srcInt u w y))

/-- `abs` (R119). -/
def execAbs (c : Ctl) (w : Width) (st : Bool) (d a : Opnd) (s : State) : Host.Outcome State Fault Refusal :=
  alu1 (.abs c w st d a) d a s fun x => fitW st false w ((srcInt false w x).natAbs : Int)

/-- `and` (R119). -/
def execAnd (c : Ctl) (d a b : Opnd) (s : State) : Host.Outcome State Fault Refusal :=
  alu2 (.and c d a b) d a b 0 s fun x y => x &&& y

/-- `or` (R119). -/
def execOr (c : Ctl) (d a b : Opnd) (s : State) : Host.Outcome State Fault Refusal :=
  alu2 (.or c d a b) d a b 0 s fun x y => x ||| y

/-- `xor` (R119). -/
def execXor (c : Ctl) (d a b : Opnd) (s : State) : Host.Outcome State Fault Refusal :=
  alu2 (.xor c d a b) d a b 0 s fun x y => x ^^^ y

/-- `andn` (R119). -/
def execAndn (c : Ctl) (d a b : Opnd) (s : State) : Host.Outcome State Fault Refusal :=
  alu2 (.andn c d a b) d a b 0 s fun x y => x &&& ~~~y

/-- A shift (R121): the count is all of B; the result is widened as the instruction says. -/
def shiftW (f : Nat → Nat → Nat → Nat) (u : Bool) (w : Width) (x y : Word) : Word :=
  widen u w (f (wbits w) (x.toNat % 2 ^ wbits w) y.toNat)

/-- `shl` (R121). -/
def execShl (c : Ctl) (w : Width) (d a b : Opnd) (s : State) : Host.Outcome State Fault Refusal :=
  alu2 (.shl c w d a b) d a b 0 s (shiftW shlN true w)

/-- `shr` (R121). -/
def execShr (c : Ctl) (w : Width) (d a b : Opnd) (s : State) : Host.Outcome State Fault Refusal :=
  alu2 (.shr c w d a b) d a b 0 s (shiftW shrN true w)

/-- `sar` (R121). -/
def execSar (c : Ctl) (w : Width) (d a b : Opnd) (s : State) : Host.Outcome State Fault Refusal :=
  alu2 (.sar c w d a b) d a b 0 s (shiftW sarN false w)

/-- `rot` (R121). -/
def execRot (c : Ctl) (w : Width) (d a b : Opnd) (s : State) : Host.Outcome State Fault Refusal :=
  alu2 (.rot c w d a b) d a b 0 s (shiftW rotN true w)

/-- Leading zeros of an `n`-bit value. -/
def clzN (n v : Nat) : Nat := if v = 0 then n else n - 1 - Nat.log2 v

/-- Trailing zeros of an `n`-bit value. -/
def ctzN (n v : Nat) : Nat := ((List.range n).find? fun i => v.testBit i).getD n

/-- Ones of an `n`-bit value. -/
def popcN (n v : Nat) : Nat := ((List.range n).filter fun i => v.testBit i).length

/-- `clz` (R119). -/
def execClz (c : Ctl) (w : Width) (d a : Opnd) (s : State) : Host.Outcome State Fault Refusal :=
  alu1 (.clz c w d a) d a s fun x => BitVec.ofNat 64 (clzN (wbits w) (x.toNat % 2 ^ wbits w))

/-- `ctz` (R119). -/
def execCtz (c : Ctl) (w : Width) (d a : Opnd) (s : State) : Host.Outcome State Fault Refusal :=
  alu1 (.ctz c w d a) d a s fun x => BitVec.ofNat 64 (ctzN (wbits w) (x.toNat % 2 ^ wbits w))

/-- `popc` (R119). -/
def execPopc (c : Ctl) (w : Width) (d a : Opnd) (s : State) : Host.Outcome State Fault Refusal :=
  alu1 (.popc c w d a) d a s fun x => BitVec.ofNat 64 (popcN (wbits w) (x.toNat % 2 ^ wbits w))

/-- Position and length of a bit field (R122). -/
def fieldOf (b : Word) : Nat × Nat := (bitsAt b.toNat 0 6, min (bitsAt b.toNat 8 7) 64)

/-- `bext` (R122). -/
def execBext (c : Ctl) (d a b : Opnd) (s : State) : Host.Outcome State Fault Refusal :=
  alu2 (.bext c d a b) d a b 0 s fun x y =>
    let (pos, len) := fieldOf y
    BitVec.ofNat 64 (bitsAt x.toNat pos len)

/-- `bins` on values (R122). -/
def binsW (d a b : Word) : Word :=
  let (pos, len) := fieldOf b
  let mk : Word := BitVec.ofNat 64 ((2 ^ len - 1) * 2 ^ pos)
  (d &&& ~~~mk) ||| ((a <<< pos) &&& mk)

/-- `bins` (R122): it reads D. -/
def execBins (c : Ctl) (d a b : Opnd) (s : State) : Host.Outcome State Fault Refusal :=
  issue (.bins c d a b) s fun x => do
    x.queues [a, b, d] [d]
    let (va, x) ← x.int 1 a
    let (vb, x) ← x.int 2 b
    let (vd, x) ← x.int 3 d
    pure (x.setInt d (binsW vd va vb))

/-- `ext` (R119). -/
def execExt (c : Ctl) (w : Width) (u : Bool) (d a b : Opnd) (s : State) : Host.Outcome State Fault Refusal :=
  alu2 (.ext c w u d a b) d a b 0 s fun x y => widen u w (bitsAt x.toNat (wbits w * (y.toNat % (64 / wbits w))) (wbits w))

/-- `sel` (R123): both sources are read. -/
def execSel (c : Ctl) (n : BitVec 3) (d a b : Opnd) (s : State) : Host.Outcome State Fault Refusal :=
  issue (.sel c n d a b) s fun x => do
    x.queues [a, b] [d]
    let (va, x) ← x.int 1 a
    let (vb, x) ← x.int 2 b
    pure (x.setInt d (if (Iss.predOf x.th n.toFin).getLsbD 0 then va else vb))

/-- What a comparison writes: all ones or zero into a predicate, 1 or 0 elsewhere (R124). -/
def truth (d : Opnd) (b : Bool) : Word := if b then (if d.isPred then BitVec.allOnes 64 else 1) else 0

/-- `cmp` (R124). -/
def execCmp (c : Ctl) (w : Width) (u : Bool) (cond : Cond) (d a b : Opnd) (s : State) : Host.Outcome State Fault Refusal :=
  alu2 (.cmp c w u cond d a b) d a b 0 s fun x y =>
    truth d (Cond.holds cond (some (compare (srcInt u w x) (srcInt u w y))))

/-- A bitwise function by its truth table (R125). -/
def plogW (t : BitVec 4) (a b : Word) : Word :=
  (if t.getLsbD 0 then ~~~a &&& ~~~b else 0) ||| (if t.getLsbD 1 then ~~~a &&& b else 0)
    ||| (if t.getLsbD 2 then a &&& ~~~b else 0) ||| (if t.getLsbD 3 then a &&& b else 0)

/-- `plog` (R125). -/
def execPlog (c : Ctl) (tt : BitVec 4) (d a b : Opnd) (s : State) : Host.Outcome State Fault Refusal :=
  alu2 (.plog c tt d a b) d a b 0 s (plogW tt)

/-- `pmov` (R125). -/
def execPmov (c : Ctl) (d a : Opnd) (s : State) : Host.Outcome State Fault Refusal := alu1 (.pmov c d a) d a s id

/-- `lea` (R119). -/
def execLea (c : Ctl) (n : BitVec 3) (d a b : Opnd) (s : State) : Host.Outcome State Fault Refusal :=
  alu2 (.lea c n d a b) d a b 0 s fun x y => x + (y <<< n.toNat)

end Sys2Proof.Machine
end

