-- ==== Sys2Proof/Machine/Memory.lean ====
section
/-! DEFINITION. Scalar memory instructions (R139 to R147): loads and stores, full-empty operations, segments, tags, atomics, phase
instructions and prefetch; and the work of a request at its home and at its answer (R137, R145, R224). -/

namespace Sys2Proof.Machine

/-! ### Values -/

/-- The values a load of `n` bytes gives (R139). -/
def loadWords (size : Size) (u : Bool) (bs : List Byte) : List Word :=
  let n := ofBytes bs
  match size with
  | .s16 => [BitVec.ofNat 64 (n % 2 ^ 64), BitVec.ofNat 64 (n / 2 ^ 64)]
  | .s8 => [BitVec.ofNat 64 n]
  | .s1 | .s2 | .s4 => [if u then BitVec.ofNat 64 n else BitVec.ofInt 64 (toSigned (8 * size.bytes) n)]

/-- What an atomic leaves in memory, from the old value and its operands; none where it writes nothing (R144). -/
def atomNew (i : Instr) (n : Nat) (old : Nat) (vals : List Word) : Option Nat :=
  let b := 8 * n
  let v := (vals.headD 0).toNat % 2 ^ b
  match i with
  | .aop _ op .. => some (match op with
      | .add => (old + v) % 2 ^ b
      | .swp => v
      | .and => old &&& v
      | .or => old ||| v
      | .xor => old ^^^ v
      | .min => if toSigned b old ≤ toSigned b v then old else v
      | .max => if toSigned b v ≤ toSigned b old then old else v
      | .umax => max old v)
  | .acas .. => if old = v then some (((vals.drop 1).headD 0).toNat % 2 ^ b) else none
  | .ast .. => some v
  | _ => none

/-- The old value as it is returned (R144). -/
def atomOld (i : Instr) (n old : Nat) : Word :=
  match i with
  | .aop _ .umax .. => BitVec.ofNat 64 old
  | _ => if n = 8 then BitVec.ofNat 64 old else BitVec.ofInt 64 (toSigned 32 old)

/-- The results a request's answer writes into its destination and the register after it. `Req.mask` of a `chk` holds its
other bits, and its segment's colour from bit 8 on. -/
def reqResults (r : Req) : List Word :=
  let n := ofBytes r.data
  match r.instr with
  | some (.ld _ size u ..) => loadWords size u r.data
  | some (.ltag ..) => [BitVec.ofNat 64 n]
  | some (.chk ..) => [r.mask % 256 ||| (if n = r.mask.toNat / 256 then 8 else 0)]
  | some (.ast ..) | some (.stag ..) | some (.stfe ..) => []
  | some (.ldfe ..) | some (.ldfp ..) => [BitVec.ofNat 64 n]
  | some i => [atomOld i r.data.length n]
  | none => []

/-- What a wide load leaves in its register: the enabled bytes read, and the others as they were (R102, R173, R204). -/
def wideResult (data : List Byte) (d : WideDst) : VReg :=
  let m : SMap Byte := (d.onto.zip data).foldl (fun m e => match e.1 with
    | some k => SMap.set m k e.2
    | none => m) []
  let w := ofLanes 8 ((List.range 256).map fun k => match m.get? k with
    | some b => b.toNat
    | none => lane 8 d.old k)
  ⟨if m.isEmpty then d.old else written d.tag w, d.tag⟩

/-! ### At the home (R137, R144, R253, R330) -/

/-- The context tag a request acts for. -/
def reqCtag (s : State) (r : Req) : BitVec 16 :=
  match s.thread? r.key with
  | some t => t.ctag
  | none => match s.launch? r.launch with
    | some l => l.ctag
    | none => 0

/-- One trace record of a tag write (R347; entry 5). -/
def traceTag (s : State) (r : Req) (loc : Nat) : State :=
  if tracing s (some r.launch) then traceOne s loc ⟨r.da, 0, 3, coreOf r.key, slotOf r.key, BitVec.ofNat 32 s.cyc⟩ else s

/-- Whether an operation proceeds on a full word. -/
def FeOp.wants : FeOp → Bool
  | .ldfe | .ldfp => true
  | .stfe => false

def isFull (s : State) (loc : Nat) : Bool := s.full.contains (loc / 8)

def setFull (s : State) (loc : Nat) (b : Bool) : State :=
  { s with full := if b then insertNat (loc / 8) s.full else s.full.filter fun w => w != loc / 8 }

/-- The job that waits for a publication of a request. The publication precedes the job's reads, so that the tiles the job
drains do not hold its stores (R253, R279). -/
def pubJob (s : State) (id : Nat) : Option (BitVec 35) :=
  s.pubs.findSome? fun p => if p.2.waits.contains id then (match p.2.after with
    | .job _ q seq => some (jobId q seq)
    | .resume .. | .send _ | .waitArrive .. | .packet .. | .retire .. | .fabric _ | .nothing => none) else none

/-- The writer of a request. -/
def Req.writer (r : Req) : Writer :=
  match r.kind with
  | .write _ _ _ (some (cl, q, _)) => ⟨some r.launch, coreOf r.key, slotOf r.key, 2, some (jobAgent cl q), r.phase⟩
  | .write .. => ⟨some r.launch, coreOf r.key, slotOf r.key, 0, some (coreOf r.key), r.phase⟩
  | .read _ | .atomic .. | .fe .. | .tagRead _ | .tagWrite .. =>
    ⟨some r.launch, coreOf r.key, slotOf r.key, 1, some (coreOf r.key), r.phase⟩

/-- What the release sequences of `[loc, loc + n)` carry (R337). -/
def relsAt (s : State) (loc n : Nat) : Know := (relKeys loc n).foldl (fun k i => Know.join k (s.rels.getD i [])) []

/-- An atomic write begins a release sequence, or continues it where it is a read-modify-write (R337, R338). -/
def setRels (s : State) (loc n : Nat) (k : Know) : State :=
  { s with rels := (relKeys loc n).foldl (fun m i => SMap.put m [] i k) s.rels }

/-- A full-empty operation performed at a word's core: the value read, and the state (R140, R337). -/
def doFe (s : State) (op : FeOp) (loc : Nat) (da : BitVec 56) (w : Writer) (know : Know) (v : Word) : Word × State :=
  let old := BitVec.ofNat 64 (readNum s loc 8)
  match op with
  | .ldfp => (old, s)
  | .ldfe => (old, markDirty (setFull s loc false) loc 8)
  | .stfe => (old, setRels (setFull (performWrite s w loc da (toBytes 8 v.toNat)) loc true) loc 8 know)

/-- An answer that comes `d` cycles later. -/
def delayReply (s : State) (id d : Nat) : State :=
  { s with pending := s.pending.map fun p => if p.ev == .remoteAccessReply && p.args == [id] then { p with at_ := p.at_ + d } else p }

/-- A full-empty operation of the own core performed: the word's bit has allowed it (R140). A corrected error delays its answer by 2
cycles (R228). -/
def performOwnFe (s : State) (id : Nat) (r : Req) (loc : Nat) (op : FeOp) (v : Word) : State :=
  let (s1, soft, bad) := if op = .stfe then (s, false, none) else Iss.memErrors s loc 8
  if bad.isSome then { s1 with reqs := s1.reqs.set id { r with performed := true, poison := true } }
  else
    let got := relsAt s1 loc 8
    let (old, s2) := doFe s1 op loc r.da r.writer r.know v
    let s3 := { s2 with reqs := s2.reqs.set id { r with performed := true, got := got, data := toBytes 8 old.toNat } }
    if soft then delayReply s3 id 2 else s3

/-- A request performed at its home. A write that a tile holds leaves the request held. -/
def performReq (s : State) (id : Nat) (r : Req) : State :=
  let put (s : State) (r : Req) : State := { s with reqs := s.reqs.set id { r with performed := true, held := false } }
  let hold (s : State) : State := { s with reqs := s.reqs.set id { r with held := true } }
  match r.kind with
  | .read ps => put s { r with failed := ps.findSome? fun p => r.tagTest s (reqCtag s r) p.1 p.2 }
  | .fe loc op v => performOwnFe s id r loc op v
  | .tagRead loc =>
    let (s1, soft, bad) := Iss.tagErrors s loc
    let s2 := put s1 { r with
      poison := bad
      got := s.rels.getD (tagRel loc) []
      data := [BitVec.ofNat 8 (granuleColour s (reqCtag s r) loc r.da.toNat 0).toNat] }
    if soft then delayReply s2 id 2 else s2
  | .tagWrite loc v =>
    let s1 := markDirty (traceTag (setColour s (reqCtag s r) loc r.da.toNat v) r loc) loc 1
    put (settlePubs { s1 with rels := s1.rels.put [] (tagRel loc) r.know } id) r
  | .atomic loc n vals =>
    let i := r.instr.getD (.nop ⟨false, 0, false, false⟩)
    let c := coreOf r.key
    match s.kickPages.get? (loc / 2 ^ 17) with
    | some q => put (settlePubs (writeKick s q ((vals.headD 0).setWidth 32)) id) r
    | none =>
    let (s0, soft, bad) := Iss.memErrors s loc n
    let s1 := if soft then delayReply s0 id 2 else s0
    let old := readNum s1 loc n
    let got := relsAt s1 loc n
    let after (s : State) : State := settlePubs (atomSnap s c loc n) id
    match r.tagTest s (reqCtag s r) loc n with
    | some f => put (settlePubs s id) { r with failed := some f }
    | none =>
    match bad, atomNew i n old vals with
    | some w, _ => put (after s1) { r with poison := true, da := r.da + BitVec.ofNat 56 (w - loc), data := toBytes n old }
    | none, none => put (after s1) { r with got := got, data := toBytes n old }
    | none, some v =>
      if tileHoldsBut s1 (pubJob s1 id) loc n then hold s
      else
        let s2 := performWrite s1 r.writer loc r.da (toBytes n v)
        let know := match i with
          | .ast .. => r.know
          | _ => Know.join got r.know
        put (after (setRels s2 loc n know)) { r with got := got, data := toBytes n old }
  | .write loc bytes _ _ =>
    if (runs loc bytes).any fun q => tileHoldsBut s (pubJob s id) q.1 q.2.length then hold s
    else
      let w := r.writer
      put ((runs loc bytes).foldl (fun s q => performWrite s w q.1 (r.da + BitVec.ofNat 56 (q.1 - loc)) q.2) s) r

/-- Whether a tile holds a request's write at its home (R253). -/
def Req.heldNow (s : State) (id : Nat) (r : Req) : Bool :=
  match r.kind with
  | .atomic loc n vals =>
    let i := r.instr.getD (.nop ⟨false, 0, false, false⟩)
    (atomNew i n (readNum s loc n) vals).isSome && tileHoldsBut s (pubJob s id) loc n
  | .write loc bytes _ _ => (runs loc bytes).any fun q => tileHoldsBut s (pubJob s id) q.1 q.2.length
  | .read _ | .fe .. | .tagRead _ | .tagWrite .. => false

/-! ### At the answer (R137, R219, R224) -/

/-- A result written into a register of a thread, unless a deposit reached that register meanwhile (R224). -/
def writeLate (s : State) (key : Nat) (d : Opnd) (i : Nat) (v : Word) : State :=
  match s.thread? key, d with
  | some t, .g n =>
    if t.deposited.contains (.g (n.val + i)) then s else Iss.putG s (coreOf key) (t.gBase + n.val + i) v
  | some t, .bg n => Iss.putG s (coreOf key) (t.bBase + n.val + i) v
  | _, _ => s

/-- A wide result written likewise. -/
def writeWideLate (s : State) (key : Nat) (d : Opnd) (v : VReg) : State :=
  match s.thread? key, d with
  | some t, .v n =>
    if t.deposited.contains (.v n.val) then s else Iss.putW s (coreOf key) (t.wBase + n.val) v
  | some t, .k n =>
    if t.deposited.contains (.k n.val) then s else Iss.putW s (coreOf key) (t.wBase + ceil8 t.nv + n.val) v
  | _, _ => s

/-- A reserved queue entry that receives its value (R219). -/
def fillEntry (s : State) (q : Nat × Nat × Nat) (v : VReg) (poison : Option Word) : State :=
  let x := s.queue q.1 q.2.1
  let l := listUpd (fun e : QEntry => e.seq == q.2.2)
    (fun e => { e with val := v, present := some s.cyc, poison := poison }) x.ents
  s.setQueue q.1 q.2.1 { x with ents := l }

/-- A reserved queue entry given back: its instruction has trapped (R28). -/
def dropReserved (s : State) (q : Nat × Nat × Nat) : State :=
  let x := s.queue q.1 q.2.1
  s.setQueue q.1 q.2.1 { x with ents := x.ents.filter fun e => e.seq != q.2.2 }

/-- The queue entry that a thread's instruction has popped, put back at the head of its queue: the instruction has trapped (R28; entry
58). -/
def unpop (s : State) (c : Nat) (t : Thread) : State :=
  match t.popped with
  | some (q, e) =>
    let x := s.queue c q
    s.setQueue c q { x with
      head := BitVec.ofNat 4 ((x.head.toNat + Iss.queueDepth q - 1) % Iss.queueDepth q), ents := e :: x.ents }
  | none => s

/-- The destination of a request. -/
def Req.dest (r : Req) : Opnd :=
  match r.instr with
  | some i => ((Instr.operands i).map (·.1)).getD .none
  | none => .none

/-- The results of a request written. -/
def writeResults (s : State) (r : Req) : State :=
  match r.qdest, r.dst with
  | some q, some w => fillEntry s q (wideResult r.data w) none
  | some q, none => fillEntry s q ⟨((reqResults r).headD 0).setWidth 2048, 0⟩ none
  | none, some w => writeWideLate s r.key r.dest (wideResult r.data w)
  | none, none => (((reqResults r).zip (List.range 2)).foldl (fun s p => writeLate s r.key r.dest p.2 p.1) s)

/-- The register banks that an answer which has none granted needs (R213). -/
def Req.banks (s : State) (r : Req) : List Nat :=
  if r.granted ∨ r.qdest.isSome then []
  else match s.thread? r.key, r.dest with
    | some t, .g n => (List.range (reqResults r).length).map fun i => gBank (t.gBase + n.val + i)
    | some t, .bg n => [gBank (t.bBase + n.val)]
    | some t, .v n => [wBank (t.wBase + n.val)]
    | some t, .k n => [wBank (t.wBase + ceil8 t.nv + n.val)]
    | _, _ => []

/-- Banks taken in this cycle; none where one of them serves another access (R213, R216). -/
def takeBanks (s : State) (c : Nat) (bs : List Nat) : Option State :=
  let k := s.core c
  if bs.any fun b => k.banks.contains (b, s.cyc) then none
  else if bs.isEmpty then some s
  else some (s.setCore c { k with banks := k.banks.filter (fun b => decide (s.cyc ≤ b.2)) ++ bs.map fun b => (b, s.cyc) })

/-- What a range needs of banks, in turns of one access to a bank each: home, bank and turn. A core store's key is its core, whose
banks serve words; a vault's is 2^20 and its cluster, whose banks serve granules of 64 bytes. -/
def homeTurns (ps : List (Nat × Nat)) : List (Nat × Nat × Nat) :=
  ps.flatMap fun p =>
    if p.2 = 0 then []
    else match homeOf p.1 with
      | .core c _ => (Iss.turns (fun w => csBank (8 * w)) (Iss.words [p])).map fun t => (c, t.2, t.1)
      | .vault cl _ => (Iss.turns (· % 64) ((Iss.words [p]).map (· / 8)).eraseDups).map fun t => (2 ^ 20 + cl, t.2, t.1)
      | .hbm _ | .cellar _ | .host .. | .other => []

/-- The grants of a home's banks. -/
def homeGrants (s : State) (k : Nat) : List (Nat × Nat) :=
  if k < 2 ^ 20 then (s.core k).banks else (s.cluster (k - 2 ^ 20)).banks

/-- Turns of an access of a lower class, which takes one in each cycle at most. -/
def turnTotal (ps : List (Nat × Nat)) : Nat := (homeTurns ps).foldl (fun m t => max m (t.2.2 + 1)) 1

/-- Banks of homes, each by home and number, taken in this cycle by an access that yields to what is granted; none where one of them is
not free (R216, R280). -/
def takeNow (s : State) (ts : List (Nat × Nat)) : Option State :=
  if ts.any fun t => (homeGrants s t.1).contains (t.2, s.cyc) then none
  else
    some (ts.foldl (fun s t =>
      let g := (t.2, s.cyc)
      if t.1 < 2 ^ 20 then s.updCore t.1 fun k => { k with banks := k.banks.filter (fun b => decide (s.cyc ≤ b.2)) ++ [g] }
      else s.updCluster (t.1 - 2 ^ 20) fun k => { k with banks := k.banks.filter (fun b => decide (s.cyc ≤ b.2)) ++ [g] }) s)

/-- The banks of one turn taken. -/
def takeTurn (s : State) (ps : List (Nat × Nat)) (k : Nat) : Option State :=
  takeNow s (((homeTurns ps).filter fun t => t.2.2 == k).map fun t => (t.1, t.2.1))

/-- An access of a lower class in its turn `k`: it is done in this cycle, it goes on with turn `k` in the next, or it has all the
turns but the last and goes on from there. -/
inductive Turned where
  | done (s : State)
  | next (s : State) (k : Nat)

def takeTurns (s : State) (ps : List (Nat × Nat)) (k : Nat) : Turned :=
  match takeTurn s ps k with
  | none => .next s k
  | some s1 => if k + 1 < turnTotal ps then .next s1 (k + 1) else .done s1

/-- A thread whose outstanding result has come issues again from the next cycle on. -/
def resume (s : State) (key id : Nat) : State :=
  s.updThread key fun t =>
    if t.outstanding = some id then
      { t with outstanding := none, deposited := [], popped := none, readyAt := max t.readyAt (s.cyc + 1) }
    else t

/-- Whether an instruction refreshes its core when its result is written (R145). -/
def refreshesLate : Instr → Bool
  | .aop _ _ _ o .. | .acas _ _ o .. | .ald _ _ o .. => o == .acq || o == .ar
  | _ => false

/-- The trap that the answer of a request brings: an uncorrectable word, or a granule of another colour (R142, R228). -/
def Req.trap? (r : Req) : Option Trap :=
  match r.failed with
  | some f => some (eTag f.1 f.2)
  | none => if r.poison then some (eMachine 5 (r.da.setWidth 64)) else none

/-- A request's answer: its result is written, its core refreshed where its order says so, and its thread goes on. What an
atomic read carries is known from the core's next refresh on (R338). An access that failed at its home traps with the PC at the
instruction (R28, R228). -/
def answer (s : State) (id : Nat) (r : Req) : State :=
  let s0 := { s with reqs := s.reqs.erase id }
  match s.thread? r.key with
  | none => s0
  | some t =>
    if t.outstanding ≠ some id then s0
    else match r.trap? with
    | some x =>
      let s1 := match r.qdest with
        | some q => dropReserved s0 q
        | none => s0
      takeTrap ((unpop s1 (coreOf r.key) t).setThread r.key { t with pc := t.pc - 1, popped := none }) r.key x
    | none =>
      let c := coreOf r.key
      let s1 := resume (writeResults s0 r) r.key id
      if (r.instr.map refreshesLate).getD false then refreshCore s1 c r.got
      else s1.updCore c fun k => { k with heard := Know.join k.heard r.got }

/-! ### Loads and stores (R139) -/

/-- Location and length of pieces. -/
def spans (ps : List Part) : List (Nat × Nat) := ps.map fun p => (p.loc, p.len)

/-- `ld` (R139). -/
def execLd (c : Ctl) (size : Size) (u : Bool) (d : Opnd) (r : MemRef) (s : State) : Host.Outcome State Fault Refusal :=
  issue (.ld c size u d r) s fun x => do
    x.queues [] [d]
    let (o, x) ← x.offset r
    let ps ← x.access r o size.bytes .load .plain 1
    pure ((x.load true ps d (if size = .s16 then 2 else 1) none).tested r.seg o .load (ps.map fun p => (p, 0)))

/-- D as the value a store writes: the register after it too, for 16 bytes. -/
def Iss.storeValue (x : Iss) (size : Size) (d : Opnd) : Except Stop (List Byte × Iss) :=
  match size, d with
  | .s16, .g n => do
    let (lo, x) ← x.readG 3 (x.gEntry n.val)
    let (hi, x) ← x.readG 3 (x.gEntry (n.val + 1))
    pure (toBytes 8 lo.toNat ++ toBytes 8 hi.toNat, x)
  | _, _ => do
    let (v, x) ← x.int 3 d
    pure (toBytes size.bytes v.toNat, x)

/-- Bank accesses of a store to the own core store. -/
def Iss.storeTime (x : Iss) (scalar : Bool) (ps : List Part) : Iss :=
  let own := x.ownSpans ps
  if own.isEmpty then x else x.timed_ scalar own false

/-- `st` (R139). -/
def execSt (c : Ctl) (size : Size) (d : Opnd) (r : MemRef) (s : State) : Host.Outcome State Fault Refusal :=
  issue (.st c size d r) s fun x => do
    x.queues [d] []
    let (o, x) ← x.offset r
    let ps ← x.access r o size.bytes .store .plain 1
    x.tileHold ps
    let (bs, x) ← x.storeValue size d
    pure ((x.storeTime true ps).storeParts ps bs)

/-! ### Full-empty operations (R140, R380) -/

/-- Whether a waiter still waits: a parked request, an operation that has issued, or a thread that is blocked on its word. -/
def FeWaiter.live (s : State) (c : Nat) (w : FeWaiter) : Bool :=
  match w.slot, w.req with
  | none, _ => true
  | some _, some id => s.reqs.has id
  | some j, none => match s.thread? (slotKey c j) with
    | some t => t.cause == some .fullEmpty && t.outstanding.isNone
    | none => false

/-- An ADMIT, with its data word, on its way to the source (R372); `bad` says that the word read was poisoned. -/
def sendAdmit (s : State) (src seq dest : Nat) (value : Word) (bad : Bool) : State :=
  sendReply .replyAdmit 1 (replyBody src seq dest) [src, seq, dest, value.toNat, bad.toNat] value s

/-- A duplicate-table entry marked ADMITTED, with what its answer carries, and its ADMIT sent and timed (R338, R372). -/
def markAdmitted (s : State) (c src seq : Nat) (value : Word) (bad : Bool) (know : Know) : State :=
  let f (l : List DupEntry) : List DupEntry := listUpd (fun e : DupEntry => e.src == src && e.seq == seq)
    (fun e => { e with st := .admitted, value := value, bad := bad, know := know }) l
  let s1 := s.updCore c fun k => { k with dups := f k.dups }
  later 4096 .admitResend [c, src, seq] (sendAdmit s1 src seq c value bad)

/-- A remote full-empty operation performed at core `c` and answered; none while a tile holds its store (R253). What it reads
carries reaches its source (R338). -/
def performFe (s : State) (c : Nat) (b : PktBody) : Option State :=
  match b.fe with
  | none => some s
  | some (op, loc, da, j) =>
    let w : Writer := ⟨some b.launch, b.src, j, 1, some b.src, b.know.getD b.src 0⟩
    let (s0, _, bad) := if op = .stfe then (s, false, none) else Iss.memErrors s loc 8
    if op = .stfe ∧ tileHolds s loc 8 then none
    else if bad.isSome then some (markAdmitted s0 c b.src b.seq 0 true [])
    else
      let got := if op = .stfe then [] else relsAt s0 loc 8
      let (v, s1) := doFe s0 op loc da w b.know (b.words.headD 0)
      some (markAdmitted (atomSnap s1 b.src loc 8) c b.src b.seq v false got)

/-- Whether a group is held: its launch is halted or its span is frozen (R303, R403). -/
def groupHeld (s : State) (l g : Nat) : Bool := s.halted l || s.frozen l g

/-- A blocked full-empty instruction of core `c` that proceeds as its word's bit has changed: it is performed, and its result
is written, in this cycle (R140; entry 48). None for a timed one, which issues in its slot's turn (R303), and for one that must
still wait. -/
def serveLocal (s : State) (c j : Nat) (i : Instr) (loc : Nat) (op : FeOp) (d : Opnd) (da : BitVec 56) : Option State :=
  let key := slotKey c j
  match i.ctl, s.thread? key with
  | some k, some t =>
    if (k.t && s.timed t.launch) || groupHeld s t.launch t.group then none
    else
      let x : Iss := ⟨s, key, t, i, k.t, BitVec.allOnes 64, none, 7, [], [], false, [], [], 0, 0, none, false, none, false, .ready⟩
      let taken : Except Stop (Word × Iss) := if op = .stfe then do
          x.queues [d] []
          if tileHolds s loc 8 then .error (.hold .tile s) else x.int 3 d
        else do
          x.queues [] [d]
          pure (0, x)
      match taken.toOption.bind fun (e : Word × Iss) =>
          (takeBanks e.2.s c (csBank (loc % 2 ^ 17) :: (e.2.stages.flatMap (·.2)))).map fun s1 => (e.1, { e.2 with s := s1 }) with
      | none => none
      | some (v, x) =>
        let (id, x) := x.ask (.fe loc op v) da.toNat [] (if op = .stfe then .none else d)
        match x.s.reqs.get? id with
        | none => none
        | some r =>
          let s1 := performOwnFe x.s id r loc op v
          some (later 0 .remoteAccessReply [id] (s1.setThread key
            { t.stepped (t.pc + 1) k.d false 0 (s.cyc + 1) none with outstanding := some id, deposited := [] }))
  | _, _ => none

/-- The operands of a full-empty instruction: its operation and D. -/
def feOf : Instr → Option (FeOp × Opnd)
  | .ldfe _ d _ => some (.ldfe, d)
  | .stfe _ d _ => some (.stfe, d)
  | .ldfp _ d _ => some (.ldfp, d)
  | _ => none

/-- Whether an operation that wants the same bit has issued on the own core and not reached its word: nothing that waits was there
before it. -/
def feIssued (s : State) (c loc : Nat) (full : Bool) : Bool :=
  (s.core c).own.any fun a => (s.reqs.get? a.id).any fun r => !r.performed && (match r.kind with
    | .fe l op _ => l / 8 == loc / 8 && op.wants == full
    | .read _ | .atomic .. | .tagRead _ | .tagWrite .. | .write .. => false)

/-- Operations that wait on a word proceed while the first of them that fits its bit can, and the word's bank is free (R140, R216,
R380). -/
def serveParked : Nat → State → Nat → Nat → State
  | 0, s, _, _ => s
  | fuel + 1, s, c, loc =>
    let k := s.core c
    match k.feWait.find? fun w =>
      w.loc == loc && w.op.wants == isFull s loc && FeWaiter.live s c w && (w.req.isSome || !feIssued s c loc w.op.wants) with
    | none => s
    | some w =>
      let s0 := s.setCore c { k with feWait := k.feWait.filter fun x => x != w }
      let served : Option State := match w.body, w.slot, w.req with
        | some b, _, _ => (takeTurn s0 [(loc, 8)] 0).bind fun s1 => performFe s1 c b
        | none, _, some id => (s.reqs.get? id).bind fun r => (takeBanks s0 c [csBank (loc % 2 ^ 17)]).map fun s1 =>
            later 0 .remoteAccessReply [id] (performReq s1 id { r with granted := false })
        | none, some j, none => (w.instr.bind feOf).bind fun f =>
            serveLocal s0 c j (w.instr.getD (.nop ⟨false, 0, false, false⟩)) loc f.1 f.2 (BitVec.ofNat 56 loc)
        | none, none, none => none
      match served with
      | some s1 => serveParked fuel s1 c loc
      | none => s

/-- After an operation on a word, the operations that wait on it. -/
def afterFe (s : State) (c loc : Nat) : State := serveParked ((s.core c).feWait.length + 1) s c loc

/-- The bit of a word once the operations of its core that have issued are performed. -/
def comingFull (s : State) (c loc : Nat) : Bool :=
  (s.core c).own.foldl (fun b a => match s.reqs.get? a.id with
    | some r => (match r.kind with
        | .fe l op _ => if l / 8 = loc / 8 then (match op with
            | .ldfe => false
            | .stfe => true
            | .ldfp => b) else b
        | .read _ | .atomic .. | .tagRead _ | .tagWrite .. | .write .. => b)
    | none => b) (isFull s loc)

/-- A full-empty operation on the own core store: it issues, or waits in the order of its word (R140). -/
def Iss.feTurn (x : Iss) (op : FeOp) (loc : Nat) : Except Stop Iss :=
  let k := x.s.core x.core
  let mine (w : FeWaiter) : Bool := w.slot == some x.slot && w.loc == loc
  let ahead := (k.feWait.takeWhile fun w => !mine w).filter fun w =>
    w.loc == loc && w.op.wants == op.wants && FeWaiter.live x.s x.core w
  if comingFull x.s x.core loc == op.wants && ahead.isEmpty then
    .ok { x with s := x.s.setCore x.core { k with feWait := k.feWait.filter fun w => !mine w } }
  else
    let others := k.feWait.filter fun w => w.slot != some x.slot || w.loc == loc
    let l := if others.any mine then others else others ++ [⟨loc, op, some x.slot, some x.i, none, none, x.s.cyc⟩]
    .error (.hold .fullEmpty (x.s.setCore x.core { k with feWait := l }))

/-- An issued operation on the own core store that reaches its word: it is performed, or waits there behind those that issued before
it (R140). -/
def reachFe (s : State) (c id : Nat) (r : Req) (loc : Nat) (op : FeOp) : State :=
  let k := s.core c
  let ahead := k.feWait.any fun w => w.loc == loc && w.op.wants == op.wants && w.req.isSome && FeWaiter.live s c w
  if isFull s loc == op.wants && !ahead then afterFe (performReq s id r) c loc
  else s.setCore c { k with feWait := k.feWait ++ [⟨loc, op, some (slotOf r.key), r.instr, some id, none, s.cyc⟩] }

/-- The words of a class 2 packet: the value stored, the device address, and the operation (0 `ldfe`, 1 `stfe`, 2 `ldfp`) with the
requesting slot from bit 8 on (R380; entry 50). -/
def feWords (op : FeOp) (da slot : Nat) (v : Word) : List Word :=
  let code := match op with
    | .ldfe => 0
    | .stfe => 1
    | .ldfp => 2
  [v, BitVec.ofNat 64 da, BitVec.ofNat 64 (code + 256 * slot)]

/-- A remote full-empty request sent, with the thread blocked until its answer (R380). As a relaxed atomic it follows the
core's own stores to its word (R145, R330). -/
def sendFe (s : State) (key : Nat) (t : Thread) (i : Instr) (op : FeOp) (loc da : Nat) (v : Word)
    (q : Option (Nat × Nat × Nat)) : State :=
  let c := coreOf key
  let dest := match homeOf loc with
    | .core d _ => d
    | _ => c
  let (seq, s1) := nextSeq s c
  let b : PktBody := ⟨.fullEmpty, dest, c, seq, t.ctag, t.launch, t.group, feWords op da (slotOf key) v, 0,
    some (op, loc, BitVec.ofNat 56 da, slotOf key), (s.core c).sent⟩
  let s0 := retain s1 b
  let (now, s2) := publishMarked (meetEntries loc 8 (s0.core c).buffer) (underWayAt s c loc 8) (.packet c seq) s0 c
  let s3 := if now then resendTimer c seq dest (injectPacket s2 b) else s2
  let (id, s4) := s3.newId
  s4.updThread key fun t => { t with outstanding := some id, deposited := [], fe := some (i, b, q) }

/-- The state in which a remote full-empty instruction waits for its answer: its registers are read through their banks, its hints act
in its issue cycle, and the nominal cycle of a timed one is issue + 7 (R22, R212, R302). -/
def Iss.sendOff (x : Iss) (deep : Bool) : State :=
  let (_, _, s1) := reserveBanks x.s x.core x.stages 7
  let th := x.th
  s1.setThread x.key { th with
    st := .blocked
    cause := some .fullEmpty
    status := deepIdle th.status deep false
    feBudget := th.ferl.toNat
    nominal := if x.timed then some (x.s.cyc + 8) else none }

/-- A full-empty instruction: `v` gives the value stored, and `d` is written by a load. -/
def feInstr (i : Instr) (op : FeOp) (d : Opnd) (r : MemRef) (s : State) : Host.Outcome State Fault Refusal :=
  issue i s fun x => do
    let st := op == .stfe
    if st then x.queues [d] [] else x.queues [] [d]
    let (o, x) ← x.offset r
    let ps ← x.access r o 8 (if st then .store else .load) .fullEmpty 8
    let loc := (spans ps).headD (0, 0) |>.1
    let da := segDa x.th.segs[r.seg] x.core o.toNat
    match x.place ps with
    | .ownCore => do
      if st then x.tileHold ps
      let x ← x.feTurn op loc
      let (v, x) ← if st then x.int 3 d else pure (0, x)
      let (id, x) := x.ask (.fe loc op v) da [] (if st then .none else d)
      pure ((x.timed_ true [(loc, 8)] false).atHome id loc 8 1 (if st then .none else d))
    | .otherCore | .ownVault | .otherVault | .paged =>
      if retentionFree x.s x.core then do
        let (v, y) ← if st then x.int 3 d else pure (0, x)
        let x := if st then x.keep d y else y
        let (q, x) := match st, d with
          | false, .q n =>
            let (q, x) := x.reserve n.val none .zero none
            (some q, x)
          | _, _ => (none, x)
        .error (.sent (sendFe (x.sendOff ((i.ctl.map (·.d)).getD false)) x.key x.th x.i op loc da v q))
      else .error (.hold .retention x.s)

/-- `ldfe` (R140). -/
def execLdfe (c : Ctl) (d : Opnd) (r : MemRef) (s : State) : Host.Outcome State Fault Refusal :=
  feInstr (.ldfe c d r) .ldfe d r s

/-- `stfe` (R140). -/
def execStfe (c : Ctl) (d : Opnd) (r : MemRef) (s : State) : Host.Outcome State Fault Refusal :=
  feInstr (.stfe c d r) .stfe d r s

/-- `ldfp` (R140). -/
def execLdfp (c : Ctl) (d : Opnd) (r : MemRef) (s : State) : Host.Outcome State Fault Refusal :=
  feInstr (.ldfp c d r) .ldfp d r s

/-! ### The own core store (R137, R216, R280) -/

/-- Bytes as earlier stores of the core that are still under way leave them (R333, R336). -/
def ownOverlay (earlier : List OwnAcc) (loc : Nat) (bs : List Byte) : List Byte :=
  earlier.foldl (fun bs a => match a.act with
    | .write l _ ws _ _ => (List.range bs.length).map fun i =>
        if l ≤ loc + i ∧ loc + i < l + ws.length then ws.getD (loc + i - l) 0 else bs.getD i 0
    | .read .. | .home .. => bs) bs

/-- An access to the own core store or vault performed; `earlier` are those of the core that are not. A part of a vector or interval
load reads what the stores of other slots have left by then (R177). -/
def performOwn (s : State) (c : Nat) (a : OwnAcc) (earlier : List OwnAcc) : State :=
  match a.act with
  | .read loc n i => match s.reqs.get? a.id with
    | none => s
    | some r =>
      let (s1, soft, bad) := Iss.memErrors s loc n
      let r := match bad with
        | some w => if r.poison then r else { r with poison := true, da := BitVec.ofNat 56 (coreLoc c (w % 2 ^ 17)) }
        | none => r
      let failed := r.failed.orElse fun _ => r.tagTest s (reqCtag s r) loc n
      let earlier := if r.dst.isSome then earlier.filter fun e => slotOf e.key == slotOf a.key else earlier
      let r := { r with data := putAt r.data i (ownOverlay earlier loc (readBytes s1 loc n)), failed := failed }
      let s2 := noteRead { s1 with reqs := s1.reqs.set a.id r } c loc n
      if soft then delayReply s2 a.id 2 else s2
  | .write loc da bs kind phase =>
    performWrite s ⟨some a.launch, c, slotOf a.key, kind, some c, phase⟩ loc da bs
  | .home _ _ => match s.reqs.get? a.id with
    | none => s
    | some r => match r.kind with
      | .fe loc op _ => reachFe s c a.id r loc op
      | .read _ | .atomic .. | .tagRead _ | .tagWrite .. | .write .. => performReq s a.id r

/-- The bytes an access to the own core store touches. -/
def OwnAcc.place (a : OwnAcc) : Nat × Nat :=
  match a.act with
  | .read loc n _ => (loc, n)
  | .write loc _ bs _ _ => (loc, bs.length)
  | .home loc n => (loc, n)

/-- The bank of an access to the own core store. -/
def OwnAcc.banks (c : Nat) (a : OwnAcc) : List Nat :=
  match homeOf a.place.1 with
  | .core d off => if d = c then [csBank off] else []
  | .vault .. | .hbm _ | .cellar _ | .host .. | .other => []

/-- Whether an earlier access must be performed before a later one (R336). A read sees an earlier store that is under way, and a
store of another slot falls between the parts of a vector load, which `wide` says the earlier one belongs to (R177). -/
def OwnAcc.before (e a : OwnAcc) (wide : Bool) : Bool :=
  shares [e.place] [a.place] && (match e.act, a.act with
    | .read .., .read .. | .write .., .read .. => false
    | .read .., .write .. | .read .., .home .. => !wide
    | .write .., .write .. | .write .., .home .. | .home .., _ => true)

/-- Whether an access must still wait: for its cycle, for an earlier access, for the publication its atomic follows, for a write
that is ordered before it, or for a tile (R253, R332, R336). -/
def OwnAcc.waits (s : State) (c : Nat) (kept : List OwnAcc) (a : OwnAcc) : Bool :=
  let r := s.reqs.get? a.id
  decide (s.cyc < a.at_) || (kept.any fun e => e.before a ((s.reqs.get? e.id).any fun q => q.dst.isSome))
    || (s.pubs.any fun p => p.2.after == .send a.id)
    || (match a.act, r with
      | .home .., some q => owed s c a.after q.spots || q.heldNow s a.id
      | _, _ => owed s c a.after [a.place])

/-- The accesses of a core that are due, in issue order; those that must wait stay. One that is late needs its bank in the cycle it
is performed in (R216). -/
def runOwn (c : Nat) : List OwnAcc → List OwnAcc → State → State × List OwnAcc
  | [], kept, s => (s, kept)
  | a :: r, kept, s =>
    if a.waits s c kept then runOwn c r (kept ++ [a]) s
    else match takeBanks s c (if a.at_ < s.cyc then a.banks c else []) with
      | none => runOwn c r (kept ++ [a]) s
      | some s0 =>
        let s1 := performOwn s0 c a kept
        runOwn c r kept (if (r ++ kept).any fun e => e.id == a.id then s1 else settlePubs s1 a.id)

/-- A core's accesses to its own store that are due in this cycle performed. -/
def ownCycle (s : State) (c : Nat) : State :=
  let l := (s.core c).own
  if l.all fun a => decide (s.cyc < a.at_) then s
  else
    let (s1, kept) := runOwn c l [] s
    fillGaps (s1.updCore c fun k => { k with own := kept })

/-! ### Segments and tags (R141 to R143) -/

/-- Whether a launch is privileged. -/
def privileged (s : State) (l : Nat) : Bool := ((s.launch? l).map (·.privileged)).getD false

/-- The descriptor `lseg` loads, or its trap (R141). -/
def descriptor (s : State) (t : Thread) (d : Nat) (i : Word) : Except Trap Segment :=
  match s.contexts.get? t.ctag.toNat with
  | none => .error (eBounds (detail d 5 0 0) i)
  | some x =>
    if x.sdtSize ≤ i.toNat then .error (eBounds (detail d 5 0 0) i)
    else
      let e := x.descs.getD i.toNat .null
      if e.kind = .res6 ∨ e.kind = .res7 then .error (eRights (detail d 5 0 1) i)
      else if e.colour = 0 ∧ !privileged s t.launch then .error (eRights (detail d 5 0 0) i)
      else .ok { e with index := BitVec.ofNat 12 i.toNat }

/-- `lseg` (R141). -/
def execLseg (c : Ctl) (d a : Opnd) (s : State) : Host.Outcome State Fault Refusal :=
  issue (.lseg c d a) s fun x => do
    x.queues [a] []
    let (i, x) ← x.int 1 a
    match d with
    | .s n => match descriptor x.s x.th n.val i with
      | .ok e => pure { x with th := { x.th with segs := x.th.segs.set n e }, wrote := true }
      | .error t => .error (.trap t none)
    | _ => pure x

/-- The colour of the granule of a piece. -/
def Iss.colourOf (x : Iss) (p : Part) : BitVec 4 := colourAt x.s x.th.ctag p (p.loc / 64 * 64, p.da / 64 * 64)

/-- `stag` (R142). -/
def execStag (c : Ctl) (d : Opnd) (r : MemRef) (s : State) : Host.Outcome State Fault Refusal :=
  issue (.stag c d r) s fun x => do
    x.queues [d] []
    let (o, x) ← x.offset r
    let ps ← x.access r o 64 .tagset .plain 64
    let g := x.th.segs[r.seg]
    let p : Part := ps.headD ⟨0, 0, 0, none⟩
    let (v, x) ← x.int 3 d
    let fail (cause : Nat) : Except Stop Iss :=
      .error (.trap (eTag (detail r.seg.val 4 ((x.colourOf p).toNat + 16 * g.colour.toNat) cause) (BitVec.ofInt 64 o)) none)
    if v.toNat / 16 ≠ 0 then fail 1
    else if g.colour ≠ 0 ∧ v.setWidth 4 ≠ g.colour then fail 2
    else match x.place ps with
      | .ownCore | .ownVault =>
        let (id, y) := x.ask (.tagWrite p.loc (v.setWidth 4)) p.da [] .none
        pure ((y.timed_ true [(p.loc, 8)] (x.place ps == .ownVault)).atHome id p.loc 64 0 .none)
      | .otherCore | .otherVault | .paged => pure (x.sendReq (.tagWrite p.loc (v.setWidth 4)) p.da [] .none)

/-- `ltag` (R142): the colour is not compared. -/
def execLtag (c : Ctl) (d : Opnd) (r : MemRef) (s : State) : Host.Outcome State Fault Refusal :=
  issue (.ltag c d r) s fun x => do
    x.queues [] [d]
    let (o, x) ← x.offset r
    let ps ← path x x.th.segs[r.seg] { Want.scalar r.seg o 64 .load .plain 64 with colour := false }
    let p : Part := ps.headD ⟨0, 0, 0, none⟩
    match x.place ps with
    | .ownCore | .ownVault =>
      let (id, y) := x.ask (.tagRead p.loc) p.da [] d
      pure ((y.timed_ true [(p.loc, 8)] (x.place ps == .ownVault)).atHome id p.loc 64 1 d)
    | .otherCore | .otherVault | .paged => pure (x.sendReq (.tagRead p.loc) p.da [] d)

/-- The bits of `chk` that need no tag: the limit, the rights and the reach (R143). -/
def chkBits (s : State) (ctag : BitVec 16) (core : Nat) (g : Segment) (o : Int) : Nat :=
  if o < 0 ∨ o ≥ g.limit.toNat ∨ !(g.kind == .memory || g.kind == .core || g.kind == .vault) then 0
  else
    let da := segDa g core o.toNat
    let w : Want := ⟨0, o, 1, .load, .plain, 1, 0, false, fun _ => none⟩
    let seen := isWindow da && (match windowCheck s ctag w da with
      | .ok _ => true
      | .error _ => false)
    1 + 2 * g.r.toNat + 4 * g.w.toNat + 16 * (seen && Reach.plain.ok (whereOf core da)).toNat

/-- `chk` (R143). -/
def execChk (c : Ctl) (d : Opnd) (r : MemRef) (s : State) : Host.Outcome State Fault Refusal :=
  issue (.chk c d r) s fun x => do
    let (o, x) ← x.offset r
    let g := x.th.segs[r.seg]
    let da := segDa g x.core o.toNat
    let bits := chkBits x.s x.th.ctag x.core g o
    let w : Want := ⟨0, o, 1, .load, .plain, 1, 0, false, fun _ => none⟩
    let seen := bits != 0 && isWindow da && (match windowCheck x.s x.th.ctag w da with
      | .ok _ => true
      | .error _ => false)
    let done (tag : Bool) : Iss := x.setInt d (BitVec.ofNat 64 (bits + 8 * tag.toNat))
    if bits = 0 then pure (done false)
    else if !seen then pure (done (g.colour == 0))
    else
      let at_ := da / 64 * 64
      let (id, y) := x.ask (.tagRead at_) at_ [] d
      let mask : Word := if g.colour = 0 then BitVec.ofNat 64 (bits + 8 + 0xF00) else BitVec.ofNat 64 (bits + 256 * g.colour.toNat)
      let y := y.tune id fun q => { q with mask := mask }
      match whereOf x.core da with
      | .ownCore => pure ((y.timed_ true [(at_, 8)] false).atHome id at_ 64 1 d)
      | .ownVault => pure (y.atHome id at_ 64 1 d)
      | .otherCore | .otherVault | .paged => pure { y with s := trip .arrivalAtHome [id] y.s }

/-! ### Atomics (R144, R145) -/

/-- Whether an order publishes the whole buffer first. -/
def Order.publishes : Order → Bool
  | .rel | .ar => true
  | .rlx | .acq => false

/-- An atomic on its way: the publication of R145 first, then the access at its home. It follows its core's buffered stores to its
place; a release that travels follows all that its core has under way (R332, R336). In the own core store and vault it keeps its
place among its core's accesses and its time, and is performed then, or once that publication is complete (R137). -/
def Iss.atomic (x : Iss) (n : Nat) (ord : Order) (ps : List Part) (vals : List Word) (d : Opnd) : Iss :=
  let p : Part := ps.headD ⟨0, 0, n, none⟩
  let (s0, know) := if Order.publishes ord then (fun (b : Know × State) => (b.2, b.1)) (boundary x.s x.core)
    else (x.s, (x.s.core x.core).sent)
  let own := x.place ps == .ownCore || x.place ps == .ownVault
  let ws := if Order.publishes ord && !own then underWay s0 x.core else underWayAt s0 x.core p.loc n
  let (id, x) := { x with s := s0 }.ask (.atomic p.loc n vals) p.da [] d
  let buffer := (x.s.core x.core).buffer
  let marks := if Order.publishes ord then buffer.map fun e => (e, true) else meetEntries p.loc n buffer
  let (now, s1) := publishMarked marks ws (.send id) x.s x.core
  let (order, s2) := s1.newId
  let x := { x with s := s2 }.tune id fun r => { r with order := order, know := know }
  if own then (x.timed_ true [(p.loc, n)] (x.place ps == .ownVault)).atHome id p.loc n 1 d
  else if now then { x with s := trip .arrivalAtHome [id] x.s }
  else x

/-- The checks of an atomic, before its operands are taken. -/
def Iss.atomPath (x : Iss) (n : Nat) (r : MemRef) (writes : Bool) : Except Stop (List Part × Iss) := do
  let (o, x) ← x.offset r
  let ps ← x.access r o n .atomic .everywhere n
  if writes then x.tileHold ps
  pure (ps, x)

/-- The colours an atomic meets again at its home. -/
def Iss.atomTest (x : Iss) (r : MemRef) (ps : List Part) : Iss :=
  match x.offset r with
  | .ok (o, _) => x.tested r.seg o .atomic (ps.map fun p => (p, 0))
  | .error _ => x

/-- Bytes of an atomic. -/
def atomBytes (wide : Bool) : Nat := if wide then 8 else 4

/-- `aop` (R144). -/
def execAop (c : Ctl) (op : AtomOp) (wide : Bool) (ord : Order) (d : Opnd) (r : MemRef) (s : State) :
    Host.Outcome State Fault Refusal :=
  issue (.aop c op wide ord d r) s fun x => do
    x.queues [d] [d]
    let (ps, x) ← x.atomPath (atomBytes wide) r true
    let (v, y) ← x.int 3 d
    pure (((x.keep d y).atomic (atomBytes wide) ord ps [v] d).atomTest r ps)

/-- `acas` (R144). -/
def execAcas (c : Ctl) (wide : Bool) (ord : Order) (d : Opnd) (r : MemRef) (s : State) :
    Host.Outcome State Fault Refusal :=
  issue (.acas c wide ord d r) s fun x => do
    let (ps, x) ← x.atomPath (atomBytes wide) r true
    match d with
    | .g n => do
      let (v, x) ← x.readG 3 (x.gEntry n.val)
      let (w, x) ← x.readG 3 (x.gEntry (n.val + 1))
      pure ((x.atomic (atomBytes wide) ord ps [v, w] d).atomTest r ps)
    | _ => pure x

/-- `ald` (R144). -/
def execAld (c : Ctl) (wide : Bool) (ord : Order) (d : Opnd) (r : MemRef) (s : State) :
    Host.Outcome State Fault Refusal :=
  issue (.ald c wide ord d r) s fun x => do
    x.queues [] [d]
    let (ps, x) ← x.atomPath (atomBytes wide) r false
    pure ((x.atomic (atomBytes wide) ord ps [] d).atomTest r ps)

/-- `ast` (R144). -/
def execAst (c : Ctl) (wide : Bool) (ord : Order) (d : Opnd) (r : MemRef) (s : State) :
    Host.Outcome State Fault Refusal :=
  issue (.ast c wide ord d r) s fun x => do
    x.queues [d] []
    let (ps, x) ← x.atomPath (atomBytes wide) r true
    let (v, y) ← x.int 3 d
    pure (((x.keep d y).atomic (atomBytes wide) ord ps [v] .none).atomTest r ps)

/-! ### Phase instructions and prefetch (R146, R147) -/

/-- `pub` (R146). -/
def execPub (c : Ctl) (s : State) : Host.Outcome State Fault Refusal :=
  issue (.pub c) s fun x =>
    let (now, s1) := publish (.resume x.key false) x.s x.core
    .ok { x with s := s1, remote := if now then none else some x.s.nextId }

/-- `refresh` (R146). -/
def execRefresh (c : Ctl) (s : State) : Host.Outcome State Fault Refusal :=
  issue (.refresh c) s fun x => .ok { x with s := refreshCore x.s x.core [], wrote := true }

/-- `phase` (R146): the refresh follows the publication. -/
def execPhase (c : Ctl) (s : State) : Host.Outcome State Fault Refusal :=
  issue (.phase c) s fun x =>
    let (now, s1) := publish (.resume x.key true) x.s x.core
    .ok { x with s := if now then refreshCore s1 x.core [] else s1, remote := if now then none else some x.s.nextId }

/-- `pref` (R147). -/
def execPref (c : Ctl) (r : MemRef) (s : State) : Host.Outcome State Fault Refusal :=
  issue (.pref c r) s fun x => do
    let (o, x) ← x.offset r
    let g := x.th.segs[r.seg]
    let da := segDa g x.core o.toNat
    match segCheck g (.scalar r.seg o 1 .load .everywhere 1) with
    | .error _ => pure x
    | .ok _ =>
      if g.kind = .memory ∧ !isWindow da ∧ (cached x.s x.cl x.th.ctag da).isNone then
        pure { x with s := joinMiss x.s x.cl x.th.ctag da .prefetch }
      else pure x

end Sys2Proof.Machine
end

