-- ==== Sys2Proof/Machine/Barrier.lean ====
section
/-! DEFINITION. Barriers (R288 to R300): `wait`, the gaffer, the marver and releases; and the end of a freeze (R303). -/

namespace Sys2Proof.Machine

def updBarrier (s : State) (l g : Nat) (f : Barrier → Barrier) : State :=
  s.updGroup l g fun x => { x with barrier := f x.barrier }

/-! ### Members (R289) -/

/-- The thread of a group that has a rank. -/
def memberThread (s : State) (l g i : Nat) : Option (Nat × Thread) := (groupThreads s l g).find? fun e => e.2.rank == i

/-- The members a mask names. -/
def maskMembers (m : BitVec 256) : List Nat := (List.range 256).filter fun i => m.getLsbD i

/-- A member whose wait cannot be bound traps, with the PC at its `wait` (R289, R300). -/
def trapMember (s : State) (l g i reason : Nat) (second : Word) : State :=
  let s1 := updBarrier s l g fun b => { b with waits := b.waits.erase i }
  match memberThread s1 l g i with
  | some (k, t) => takeTrap (s1.setThread k { t with pc := t.pc - 1 }) k (eNotMember t.rank reason second)
  | none => s1

/-! ### `wait` (R300) -/

/-- `wait` (R300): it waits for the stores in the buffer. What else its core has under way is ordered before its release, and the
accesses that follow that release wait for it (R297, R336). -/
def execWait (c : Ctl) (s : State) : Host.Outcome State Fault Refusal :=
  issue (.wait c) s fun x =>
    let n := match x.s.group? x.th.launch x.th.group with
      | some g => g.barrier.mcount
      | none => 0
    if x.th.status.getLsbD 12 then .error (.trap (eNotMember x.th.rank 3 0) none)
    else if n ≤ x.th.rank ∨ x.th.handle.isSome then .error (.trap (eNotMember x.th.rank 0 0) none)
    else
      let (now, s1) := publishBuffer [] (.waitArrive x.th.launch x.th.group x.th.rank) x.s x.core
      let s2 := updBarrier s1 x.th.launch x.th.group fun b => { b with know := b.know.set x.th.rank (s1.core x.core).sent }
      .ok { x with s := if now then later 1 .waitArrival [x.th.launch, x.th.group, x.th.rank] s2 else s2, st := .waiting }

/-! ### The marver (R296, R297) -/

/-- How long ago an entry was inserted; sequence numbers wrap (R296). -/
def Barrier.age (b : Barrier) (e : MEntry) : Nat := (b.nextSeq - e.seq).toNat

/-- The oldest unfired entry that contains a member. -/
def Barrier.oldest (b : Barrier) (i : Nat) : Option (Nat × MEntry) :=
  (b.entries.filter fun e => e.2.mask.getLsbD i).foldl (fun r e => match r with
    | some q => if b.age q.2 < b.age e.2 then some e else r
    | none => some e) none

/-- Whether every member of an entry is bound to it or has exited. -/
def Barrier.complete (b : Barrier) (e : MEntry) : Bool :=
  (maskMembers e.mask).all fun i => b.exited.contains i || b.waits.get? i == some (.bound e.seq.toNat)

/-- Step 3 of R297 for one member. -/
def bindMember (l g : Nat) (s : State) (i : Nat) : State :=
  match s.group? l g with
  | none => s
  | some x =>
    let b := x.barrier
    match b.oldest i with
    | some e => updBarrier s l g fun b => { b with waits := b.waits.set i (.bound e.2.seq.toNat) }
    | none => match b.gstate with
      | .fault => trapMember s l g i 1 (BitVec.ofNat 64 (b.frec.toNat + 2 ^ 32 * b.fkind.toNat))
      | .done => trapMember s l g i 2 (b.gpc.setWidth 64)
      | .idle | .run => updBarrier s l g fun b => { b with waits := b.waits.set i .pending }

/-- Every pending wait bound, or trapped (R297, R294). -/
def bindPending (s : State) (l g : Nat) : State :=
  match s.group? l g with
  | none => s
  | some x => (x.barrier.waits.filter fun w => w.2 == .pending).foldl (fun s w => bindMember l g s w.1) s

/-- `WAIT_ARRIVAL` (R297): one that comes during a halt arrives in the cycle after issue resumes (R306). -/
def execWaitArrival (s : State) : Host.Outcome State Fault Refusal :=
  match s.args with
  | [l, g, i] => match haltOf s l with
    | some pid => .next (match s.halts.get? pid with
        | some h => holdEvent s pid ⟨(h.taken.getD (h.older.getD s.cyc)) + 1, .waitArrival, [l, g, i]⟩
        | none => s)
    | none => .next (bindMember l g s i)
  | _ => .next s

/-- Cycles by which the release of an entry that fires now is held, for a group whose span is frozen (R303). -/
def releaseHold (s : State) (l g : Nat) : Nat :=
  match s.group? l g with
  | some x => match x.freeze, groupCores s l g with
    | some (c, _, _), n :: _ => ((s.cyc - c) / s.rotLen n + 1) * s.rotLen n
    | _, _ => 0
  | none => 0

/-- `MARVER_FIRE` (R297): step 1 for one entry. The release of one that fires in the cycle of a halt is held with its offset (R305). -/
def execMarverFire (s : State) : Host.Outcome State Fault Refusal :=
  match s.args with
  | [l, g, n] => match s.group? l g with
    | some x => match x.barrier.entries.get? n with
      | some e =>
        if x.barrier.complete e then
          let d := 1 + releaseHold s l g
          let s1 := updBarrier s l g fun b => { b with
            entries := b.entries.erase n, rls := b.rls.set e.seq.toNat (e.mask, s.cyc + d) }
          let ev : Pending := ⟨s.cyc + d, .barrierRelease, [l, g, e.seq.toNat]⟩
          .next (match haltOf s l with
            | some pid => holdEvent s1 pid ev
            | none => { s1 with pending := s1.pending ++ [ev] })
        else .next s
      | none => .next s
    | none => .next s
  | _ => .next s

/-- What the members that wait at a mask knew when they waited (R299, R338). -/
def Barrier.joined (b : Barrier) (m : BitVec 256) : Know :=
  (maskMembers m).foldl (fun k i => if b.waits.has i then Know.join k (b.know.getD i []) else k) []

/-- A member released: READY from now on, its deep-idle state ended, its core refreshed with what every member knew (R297, R299,
R300). -/
def releaseMember (l g : Nat) (know : Know) (s : State) (i : Nat) : State :=
  match s.group? l g with
  | none => s
  | some x =>
    if x.barrier.exited.contains i then s
    else
      let s1 := updBarrier s l g fun b => { b with waits := b.waits.erase i }
      match memberThread s1 l g i with
      | some (k, t) =>
        if t.st = .waiting then
          let t1 := { t with
            st := .ready, cause := none, readyAt := max t.readyAt s.cyc, status := t.status &&& ~~~(0x4000 : BitVec 32) }
          refreshCore (s1.setThread k t1) (coreOf k) know
        else s1
      | none => s1

/-- `BARRIER_RELEASE` (R297). -/
def execBarrierRelease (s : State) : Host.Outcome State Fault Refusal :=
  match s.args with
  | [l, g, n] => match s.group? l g with
    | some x => match x.barrier.rls.get? n with
      | some (m, _) =>
        let s1 := updBarrier s l g fun b => { b with rls := b.rls.erase n }
        .next ((maskMembers m).foldl (releaseMember l g (x.barrier.joined m)) s1)
      | none => .next s
    | none => .next s
  | _ => .next s

/-! ### The gaffer (R290 to R295) -/

/-- A barrier record's fields (R291). -/
structure Rec where
  op : Nat
  flags : Nat
  count : Nat
  target : Nat
  mask : Nat
  rest : Nat
  deriving DecidableEq, Repr

def recOf (bs : List Byte) : Rec :=
  let f (i n : Nat) : Nat := ofBytes ((bs.drop i).take n)
  ⟨f 0 1, f 1 1, f 2 2, f 4 4, f 8 32, f 40 24⟩

/-- The fault kind of a record at an index, 0 where it passes (R291). -/
def Rec.check (r : Rec) (idx n : Nat) : Nat :=
  if r.op < 1 ∨ 3 < r.op then 1
  else if r.flags ≠ 0 then 2
  else if (r.op = 3) ≠ (r.count = 0) then 3
  else if (if r.op = 2 then decide (idx ≤ r.target) else r.target != 0) then 7
  else if r.op = 1 ∧ r.mask = 0 then 4
  else if r.op = 1 ∧ r.mask / 2 ^ n ≠ 0 then 5
  else if (r.op ≠ 1 ∧ r.mask ≠ 0) ∨ r.rest ≠ 0 then 6
  else 0

/-- The gaffer in FAULT (R294). -/
def Barrier.fail (b : Barrier) (kind : Nat) : Barrier :=
  { b with gstate := .fault, fkind := BitVec.ofNat 8 kind, frec := b.gpc, pfb := [], reads := [] }

/-- `GPC` moved, its record consumed. -/
def Barrier.goto (b : Barrier) (pc : BitVec 32) (back : Bool) : Barrier :=
  { b with gpc := pc, back := back, pfb := b.pfb.filter fun p => p.1 != b.gpc.toNat }

/-- One step of the record at `GPC` (R293). -/
def Barrier.step (b : Barrier) (bs : List Byte) : Barrier :=
  let r := recOf bs
  let kind := if bs.isEmpty then 9 else r.check b.gpc.toNat b.mcount
  if kind ≠ 0 then b.fail kind
  else if b.back ∧ r.op ≠ 1 then b.fail 7
  else if r.op = 1 then
    let rep := if b.rep = 0 then BitVec.ofNat 16 r.count else b.rep
    match b.entries.freeKey 32 0 with
    | none => { b with rep := rep }
    | some e =>
      let b1 := { b with
        entries := b.entries.set e ⟨BitVec.ofNat 256 r.mask, b.nextSeq⟩, nextSeq := b.nextSeq + 1, rep := rep - 1 }
      if rep = 1 then b1.goto (b.gpc + 1) false else b1
  else if r.op = 2 then
    let tgt := BitVec.ofNat 32 r.target
    match b.lstk with
    | (i, left) :: rest =>
      if i = b.gpc then
        if left = 1 then { b with lstk := rest }.goto (b.gpc + 1) false
        else { b with lstk := (i, left - 1) :: rest }.goto tgt true
      else if r.count = 1 then b.goto (b.gpc + 1) false
      else if 4 ≤ b.lstk.length then b.fail 8
      else { b with lstk := (b.gpc, BitVec.ofNat 16 (r.count - 1)) :: b.lstk }.goto tgt true
    | [] =>
      if r.count = 1 then b.goto (b.gpc + 1) false
      else { b with lstk := [(b.gpc, BitVec.ofNat 16 (r.count - 1))] }.goto tgt true
  else { b with gstate := .done, pfb := [], reads := [] }

/-- Whether the gaffer takes a step in a cycle: it runs, and the record is in `PFB`. Whether a MASK record finds a free entry is
seen after the firings of the cycle (R293, R297). -/
def Barrier.canStep (b : Barrier) : Bool := b.gstate == .run && b.pfb.any fun p => p.1 == b.gpc.toNat

/-- `GAFFER_STEP` (R293): step 2 of R297, and then the pending waits of step 3. -/
def execGafferStep (s : State) : Host.Outcome State Fault Refusal :=
  match s.args with
  | [l, g] => match s.group? l g with
    | some x => match x.barrier.pfb.find? fun p => p.1 == x.barrier.gpc.toNat with
      | some (_, bs) =>
        if x.barrier.gstate = .run then .next (bindPending (updBarrier s l g fun b => b.step bs) l g) else .next s
      | none => .next s
    | none => .next s
  | _ => .next s

/-- The record a gaffer reads next: the first one, along the records `PFB` holds from `GPC` on, that it lacks (R293, R295). After
a record whose read is outstanding the next one is known only where that record is a LOOP's target, and so a MASK record; `tgt`
says so. -/
def Barrier.nextRead (b : Barrier) : Nat → Bool → Nat → List (BitVec 32 × BitVec 16) → Option Nat
  | 0, _, _, _ => none
  | fuel + 1, tgt, i, stk =>
    match b.pfb.find? fun p => p.1 == i with
    | none => if !b.reads.contains i then some i else if tgt then b.nextRead fuel false (i + 1) stk else none
    | some (_, bs) =>
      let r := recOf bs
      if r.op = 1 then b.nextRead fuel false (i + 1) stk
      else if r.op = 2 then
        match stk with
        | (j, left) :: rest =>
          if j.toNat = i then (if left = 1 then b.nextRead fuel false (i + 1) rest else b.nextRead fuel true r.target ((j, left - 1) :: rest))
          else if r.count = 1 then b.nextRead fuel false (i + 1) stk
          else b.nextRead fuel true r.target ((BitVec.ofNat 32 i, BitVec.ofNat 16 (r.count - 1)) :: stk)
        | [] =>
          if r.count = 1 then b.nextRead fuel false (i + 1) []
          else b.nextRead fuel true r.target [(BitVec.ofNat 32 i, BitVec.ofNat 16 (r.count - 1))]
      else none

/-- A prefetch read sent, where `PFB` has room and the next record is known (R295). -/
def gafferPrefetch (s : State) (l g : Nat) : State :=
  match s.group? l g with
  | none => s
  | some x =>
    let b := x.barrier
    if b.gstate = .run ∧ b.pfb.length + b.reads.length < 8 then
      match b.nextRead 9 b.back b.gpc.toNat b.lstk with
      | some i => trip .gafferRecordRead [l, g, i] (updBarrier s l g fun b => { b with reads := b.reads ++ [i] })
      | none => s
    else s

/-- The barrier segment of a launch (R290, R391). -/
def barrierSegment (s : State) (l : Nat) : Option Segment :=
  (s.launch? l).bind fun x => x.barrierIdx.bind fun i => (s.contexts.get? x.ctag.toNat).map fun c => c.descs.getD i .null

/-- A location the lead cluster's memory port reads for a context: none while its page is not resident (R290, R319). -/
def portLoc (s : State) (cl : Nat) (ctag : BitVec 16) (da : Nat) : Option Nat :=
  if isWindow da then some da
  else (cached s cl ctag da).bind fun e => pageLoc ((s.pidOf ctag).getD 0) e da

/-- `GAFFER_RECORD_READ` (R290, R295): a record that is not resident is waited for. -/
def execGafferRecordRead (s : State) : Host.Outcome State Fault Refusal :=
  match s.args with
  | [l, g, i] => match s.group? l g, s.launch? l, barrierSegment s l with
    | some x, some la, some sg =>
      let put (s : State) (bs : List Byte) : State := updBarrier s l g fun b => { b with
        pfb := b.pfb ++ [(i, bs)], reads := b.reads.filter fun r => r != i }
      let da := (sg.base.toNat + 64 * i) % 2 ^ 56
      if !x.barrier.reads.contains i then .next s
      else if sg.limit.toNat < 64 * i + 64 then .next (put s [])
      else match portLoc s x.lead la.ctag da with
        | none => .next (later 1 .gafferRecordRead [l, g, i] (joinMiss s x.lead la.ctag da .prefetch))
        | some loc => match Iss.memErrors s loc 64 with
          | (s1, _, some _) => .next (put s1 [])
          | (s1, _, none) => .next (put s1 (readBytes s1 loc 64))
    | _, _, _ => .next s
  | _ => .next s

/-! ### The end of a freeze (R303) -/

/-- `SPAN_FREEZE_END` (R303): the span takes up issue, or stays frozen for another rotation while a stalled instruction
cannot issue. -/
def execSpanFreezeEnd (s : State) : Host.Outcome State Fault Refusal :=
  match s.args with
  | [l, g] => match s.group? l g with
    | some x => match x.freeze, groupCores s l g with
      | some (_, ks, clear), n :: _ =>
        let s1 := s.setGroup l g { x with freeze := none }
        if clear ∨ ks.isEmpty then .next s1
        else
          let s2 := shiftSpan s l g s.cyc (s.rotLen n)
          .next (later (s.rotLen n) .spanFreezeEnd [l, g] s2)
      | some _, [] => .next (s.setGroup l g { x with freeze := none })
      | none, _ => .next s
    | none => .next s
  | _ => .next s

end Sys2Proof.Machine
end

