-- ==== Sys2Proof/Machine/Engine.lean ====
section
/-! DEFINITION. The cluster's shared machinery: tiles (R251 to R255), gather views (R261, R262), accumulators (R256, R257), job
queues and reports (R258 to R260), what matrix jobs compute (R109, R110, R270 to R272), and streamers (R263 to R266). -/

namespace Sys2Proof.Machine

/-! ### Tiles (R251 to R255) -/

/-- The stored tile a handle acts on: its source, for a gather view (R261). -/
def baseHandle (s : State) (cl h : Nat) : Nat := if (s.tile cl h).gv then (s.tile cl h).src else h

/-- The entry that holds a handle's state. -/
def baseTile (s : State) (cl h : Nat) : Tile := s.tile cl (baseHandle s cl h)

def updTile (s : State) (cl h : Nat) (f : Tile → Tile) : State := s.setTile cl h (f (s.tile cl h))

/-- Width of an element of a tile. -/
def Tile.width (t : Tile) : Nat := Tag.bits t.fmt

/-- Bytes of a tile's elements, exponents included. -/
def Tile.total (t : Tile) : Nat := t.rows * (t.rowBytes + t.expBytes)

/-- A change of a tile that takes effect at the end of the cycle (R254). -/
def changeTile (s : State) (cl : Nat) (c : TileChange) : State := s.updCluster cl fun k => { k with changes := k.changes ++ [c] }

/-- A tile that its job or streamer returns to READY at the end of the cycle, with what that knows (R254, R338). -/
def tileReady (s : State) (cl h : Nat) (know : Know) : State := changeTile s cl (.ready h (s.tile cl h).job know)

/-- An entry made FREE, with the gather views whose source it is (R252). -/
def freeTile (s : State) (cl h : Nat) : State :=
  let s1 := s.setTile cl h .reset
  s1.updCluster cl fun k => { k with tiles := k.tiles.filter fun e => !(e.2.gv && e.2.src == h) }

/-- A code of a state (R251). -/
def TileState.code : TileState → Nat
  | .free => 0 | .empty => 1 | .filling => 2 | .ready => 3 | .draining => 4

/-- Whether a write of a tile's own job or streamer meets another tile that is not READY (R253). -/
def otherHolds (s : State) (cl h loc n : Nat) : Bool :=
  (s.cluster cl).tiles.any fun e =>
    e.1 != h && e.2.st != .free && e.2.st != .ready && !e.2.gv && e.2.meets cl loc n

/-- Entries that a `tdef` of this cycle takes at its end (R254). -/
def ClusterSt.defines (k : ClusterSt) : List Nat := k.changes.filterMap fun c => match c with
  | .define h _ => some h
  | .release _ | .empty .. | .ready .. => none

/-- The lowest FREE entry that no `tdef` of this cycle takes (R268, R287). -/
def freeHandle (s : State) (cl : Nat) : Option Nat :=
  let k := s.cluster cl
  (List.range 256).find? fun h => !k.tiles.has h && !k.defines.contains h

/-! ### Reading tiles (R251, R262, R285) -/

/-- Bytes an engine or a streamer reads: a poisoned word reads as zero. The flag says that one was met. -/
def engineBytes (s : State) (loc n : Nat) : List Byte × Bool × State :=
  match Iss.memErrors s loc n with
  | (s1, _, none) => (readBytes s1 loc n, false, s1)
  | (s1, _, some _) =>
    ((List.range n).map fun i => if (poisonedAt s (loc + i) 1).isSome then 0 else readByte s1 (loc + i), true, s1)

/-- Elements of width `b` of a byte string. -/
def elementsOf (b n : Nat) (bs : List Byte) : List Nat :=
  let w := ofBytes bs
  (List.range n).map fun i => w / 2 ^ (b * i) % 2 ^ b

/-- A row of a tile: elements and exponents. -/
structure Row where
  elems : List Nat
  exps : List Nat
  bad : Bool

/-- A row of a stored tile. -/
def storedRow (s : State) (cl : Nat) (t : Tile) (r : Nat) : Row × State :=
  let (bs, p, s1) := engineBytes s (t.at_ cl (r * t.pitch)) t.rowBytes
  if t.isBfp then
    let (es, p', s2) := engineBytes s1 (t.at_ cl (t.rows * t.pitch + r * t.expBytes)) t.expBytes
    (⟨elementsOf t.width t.cols bs, es.map BitVec.toNat, p || p'⟩, s2)
  else (⟨elementsOf t.width t.cols bs, [], p⟩, s1)

/-- The geometry of a gather view (R261). -/
structure Geom where
  pad : Nat
  w : Nat
  kh : Nat
  kw : Nat
  str : Nat
  dil : Nat
  p0 : Nat
  m : Nat
  deriving DecidableEq, Repr

def geomOf (g : Word) : Geom :=
  let f (i n : Nat) : Nat := bitsAt g.toNat i n
  ⟨f 5 3, f 8 10, f 18 3 + 1, f 21 3 + 1, f 24 2 + 1, f 26 2 + 1, f 28 13, f 41 7⟩

/-- Output positions along one side of the image. -/
def Geom.out (g : Geom) (size k : Nat) : Int :=
  ((size : Int) + 2 * g.pad - g.dil * (k - 1) - 1) / (g.str : Int) + 1

/-- The source element of element (i, k) of a view over `h` rows of pixels and `c` channels (R262). -/
def Geom.source (g : Geom) (h c i k : Nat) : Option (Nat × Nat) :=
  let p := g.p0 + i
  let ow := (g.out g.w g.kw).toNat
  let oh := (g.out h g.kh).toNat
  let oy := p / ow
  let ox := p % ow
  let t := k / c
  let iy : Int := (oy * g.str : Nat) - (g.pad : Int) + (t / g.kw * g.dil : Nat)
  let ix : Int := (ox * g.str : Nat) - (g.pad : Int) + (t % g.kw * g.dil : Nat)
  if oh * ow ≤ p ∨ iy < 0 ∨ (h : Int) ≤ iy ∨ ix < 0 ∨ (g.w : Int) ≤ ix then none
  else some (iy.toNat * g.w + ix.toNat, k % c)

/-- Elements `k`, `k + 1`, … of row `i` of a view. -/
def viewElems (s : State) (cl : Nat) (src : Tile) (g : Geom) (i : Nat) : Nat → Nat → List Nat × Bool × State
  | 0, _ => ([], false, s)
  | n + 1, k =>
    let e := src.width / 8
    let (v, p, s1) := match g.source (src.rows / g.w) src.cols i k with
      | none => (0, false, s)
      | some (r, c) =>
        let (bs, p, s1) := engineBytes s (src.at_ cl (r * src.pitch + c * e)) e
        (ofBytes bs, p, s1)
    let (vs, q, s2) := viewElems s1 cl src g i n (k + 1)
    (v :: vs, p || q, s2)

/-- A row of a tile or of a view. -/
def tileRow (s : State) (cl h r : Nat) : Row × State :=
  let t := s.tile cl h
  if t.gv then
    let (es, p, s1) := viewElems s cl (s.tile cl t.src) (geomOf t.geom) r t.cols 0
    (⟨es, [], p⟩, s1)
  else storedRow s cl t r

/-- The first `n` rows of a tile. -/
def tileRows (s : State) (cl h : Nat) : Nat → List Row × State
  | 0 => ([], s)
  | n + 1 =>
    let (rs, s1) := tileRows s cl h n
    let (r, s2) := tileRow s1 cl h n
    (rs ++ [r], s2)

/-! ### Accumulators (R256, R257, R285) -/

/-- An accumulator element read by a job; an uncorrectable error sets its `POISON` bit. -/
def accRead (s : State) (cl a e : Nat) : Nat × State :=
  match errAt s (.acc cl a e) with
  | none => (((s.acc cl a).data.getD e 0).toNat, s)
  | some false => (((s.acc cl a).data.getD e 0).toNat, countCe (dropErr s (.acc cl a e)) cl)
  | some true =>
    let x := s.acc cl a
    let s1 := countUe (dropErr s (.acc cl a e)) cl 8 0xFF
    ((x.data.getD e 0).toNat, s1.setAcc cl a { x with poison := if x.poison.contains e then x.poison else x.poison ++ [e] })

def accPoisoned (s : State) (cl a e : Nat) : Bool := (s.acc cl a).poison.contains e

/-- An element written; `clear` ends its poison. -/
def accWrite (s : State) (cl a e v : Nat) (clear : Bool) : State :=
  let x := s.acc cl a
  let s1 := if clear then dropErr s (.acc cl a e) else s
  s1.setAcc cl a { x with
    data := x.data.put 0 e (BitVec.ofNat 32 v)
    poison := if clear then x.poison.filter fun p => p != e else x.poison }

/-! ### Sums of products (R109, R110, R115) -/

/-- A contribution of one block pair (R109). -/
def blockSum (ma mb ea eb : Nat) (ps : List (Nat × Nat)) : XVal :=
  if ea = 255 ∨ eb = 255 then .nan false
  else
    let sum := ps.foldl (fun (t : Int) p => t + toSigned ma p.1 * toSigned mb p.2) 0
    match ofIntExp sum ((ea : Int) + eb - 254 - ((ma : Int) - 2) - ((mb : Int) - 2)) with
    | none => .zero false
    | some x => .num x

/-- A block pair added to an accumulator element: a NaN contribution gives the canonical NaN and no flag. -/
def addBlock (sat : Bool) (acc : Nat) (c : XVal) : Nat × Flags :=
  match c with
  | .nan _ => (Fmt.f32.nanBits, 0)
  | _ => addChunk .f32 .rne sat acc (c, 0)

/-- Elements in one chunk of a format. -/
def chunkLen (fmt : Tag) : Nat := if fmt.isBfp then 32 else 16

/-- An accumulator element after the first `n` chunks of a row pair (R270). -/
def mmaElem (fa fb : Tag) (sat : Bool) (n acc : Nat) (a b : Row) : Nat × Flags :=
  let ps := (a.elems.zip b.elems).take (n * chunkLen fa)
  if fa.isBfp then
    ((chunksOf 32 ps.length ps).zip (a.exps.zip b.exps)).foldl (fun (r : Nat × Flags) c =>
      let (v, f) := addBlock sat r.1 (blockSum fa.mant fb.mant c.2.1 c.2.2 c.1)
      (v, r.2 ||| f)) (acc, 0)
  else if fa.isInt then (dotInts 8 32 sat acc ps, 0)
  else dotChunks .f32 fa.fmt .rne sat acc ps

/-! ### Conversions of R272 -/

/-- Values of an accumulator row as a tile row: elements, exponents and flags. `sat` as in the job. Every format is a conversion, F32
too, so that a NaN comes out canonical (R92, R272; entry 56). -/
def rowOfAcc (atag fmt : Tag) (sat : Bool) (vs : List Nat) : List Nat × List Nat × Flags :=
  if fmt.isBfp then
    let bs := (chunksOf 32 vs.length vs).map fun c => toBfp fmt.mant .rne (c.map Fmt.f32.decode)
    (bs.flatMap (·.2.1), bs.map (·.1), bs.foldl (fun f b => f ||| b.2.2) 0)
  else if atag.isInt then
    (vs.map fun v => fitInt (sat && decide (fmt.bits < 32)) false fmt.bits (toSigned 32 v), [], 0)
  else
    let rs := vs.map fun v => toFloat fmt.fmt .rne sat (Fmt.f32.decode v)
    (rs.map (·.1), [], rs.foldl (fun f r => f ||| r.2) 0)

/-- One element of a tile as an accumulator element, with flags; `e` is its block's exponent (R92, R272; entry 56). -/
def accOfElem (fmt : Tag) (e v : Nat) : Nat × Flags :=
  if fmt.isBfp then writeF .f32 .rne false (bfpVal fmt.mant e v, 0)
  else if fmt.isInt then (ofInt 32 (toSigned fmt.bits v), 0)
  else toFloat .f32 .rne false (fmt.fmt.decode v)

/-- The bytes of a row. -/
def rowBytesOf (b n : Nat) (vs : List Nat) : List Byte := toBytes n (vs.foldr (fun x acc => x % 2 ^ b + 2 ^ b * acc) 0)

/-- Formats `mrd` may write from an accumulator of a tag, and the tag `mwr` sets (R272). -/
def mrdOk (atag fmt : Tag) : Bool :=
  if atag.toNat = 3 then fmt.isInt else fmt.isFlt || fmt.isBfp

def mwrTag (fmt : Tag) : Option Tag :=
  match fmt.toNat with
  | 1 | 2 | 3 => some 3
  | 5 | 6 | 7 => some 7
  | 0 | 4 | 8 => none
  | _ => some 7

/-- The accumulator format of a pair of operand formats; none for a pair outside R271's table. -/
def mmaTag (fa fb : Tag) : Option Tag :=
  if fa.isBfp && fb.isBfp then some 7
  else if fa = fb ∧ (fa = 5 ∨ fa = 6) then some 7
  else if fa = fb ∧ fa = 1 then some 3
  else none

/-! ### Job queues and reports (R258 to R260) -/

def updJob (s : State) (cl q : Nat) (seq : BitVec 32) (f : Job → Job) : State :=
  let x := s.jobQueue cl q
  s.setJobQueue cl q { x with jobs := listUpd (fun j : Job => j.seq == seq) f x.jobs }

def findJob (s : State) (cl q : Nat) (seq : BitVec 32) : Option Job := (s.jobQueue cl q).jobs.find? fun j => j.seq == seq

/-- The report of a job as it is stored: [18:8] of R260. -/
def reportBits (j : Job) : BitVec 11 :=
  BitVec.ofNat 11 (j.flags.toNat + 256 * j.emem.toNat + 512 * j.emach.toNat + 1024 * j.canc.toNat)

/-- Accumulators a job names. -/
def JobKind.acc? : JobKind → Option Nat
  | .mma _ _ a _ _ | .mzero a _ | .mrd a _ _ | .mwr a _ => some a
  | .cpy .. | .fence .. => none

/-- Tiles a job holds: handles it reads, and the one it writes. -/
def JobKind.reads : JobKind → List Nat
  | .mma _ _ _ a b => [a, b]
  | .mwr _ h => [h]
  | .cpy h out _ _ => if out then [h] else []
  | .mzero .. | .mrd .. | .fence .. => []

def JobKind.writes? : JobKind → Option Nat
  | .mrd _ h _ => some h
  | .cpy h out _ _ => if out then none else some h
  | .mma .. | .mwr .. | .mzero .. | .fence .. => none

/-- Whether a group still runs on its cluster, and is not cancelled. -/
def groupRuns (s : State) (l g : Nat) : Bool :=
  match s.group? l g with
  | some x => x.st == .running && !x.cancelled
  | none => false

/-- The tiles of a job whose group is gone become FREE when the job completes, the source of a gather view that it read among them
(R252). -/
def freeDoomed (s : State) (cl : Nat) (j : Job) : State :=
  if groupRuns s j.launch j.group then s
  else
    (j.kind.reads.map (baseHandle s cl) ++ j.kind.reads ++ j.kind.writes?.toList).foldl (fun s h =>
      let t := s.tile cl h
      if t.launch = j.launch ∧ t.group = j.group ∧ t.st ≠ .free then freeTile s cl h else s) s

/-- Completion of the job at a queue's head: `DONE`, the report, the accumulator's lock. -/
def retireJob (s : State) (cl q : Nat) (j : Job) : State :=
  let x := s.jobQueue cl q
  let keep := x.reports.filter fun r => r.seq.toNat % 16 != j.seq.toNat % 16
  let s1 := s.setJobQueue cl q { x with
    done := j.seq, jobs := x.jobs.drop 1, reports := keep ++ [⟨j.seq, reportBits j, j.ctag, j.know⟩] }
  let s2 := match j.kind.acc? with
    | some a => s1.setAcc cl a { (s1.acc cl a) with lcnt := (s1.acc cl a).lcnt - 1 }
    | none => s1
  freeDoomed s2 cl j

/-- Jobs that are complete leave their queue in entry order (R259). -/
def advanceQueue : Nat → State → Nat → Nat → State
  | 0, s, _, _ => s
  | fuel + 1, s, cl, q => match (s.jobQueue cl q).jobs with
    | j :: _ => if j.phase = .complete then advanceQueue fuel (retireJob s cl q j) cl q else s
    | [] => s

def completeJob (s : State) (cl q : Nat) (seq : BitVec 32) : State :=
  let s1 := updJob s cl q seq fun j => { j with phase := .complete }
  advanceQueue ((s1.jobQueue cl q).jobs.length) s1 cl q

/-- The next job of a queue that may start: nothing before it is unfinished, no publication holds it, every write that is ordered
before it is performed, and a matrix job waits until issue + 8 (R259, R279, R336). -/
def startable (s : State) (cl q : Nat) : Option Job :=
  match (s.jobQueue cl q).jobs.find? fun j => j.phase == .queued || j.phase == .running with
  | some j =>
    let fence := match j.kind with
      | .fence .. => true
      | _ => false
    let first := q < 4 || (s.jobQueue cl q).jobs.head? == some j
    if j.phase = .queued ∧ !fence ∧ j.pub.isNone ∧ first ∧ !s.halted j.launch ∧ j.issuedAt + (if q < 4 then 8 else 1) ≤ s.cyc
        ∧ !owedAny s (jobAgent cl q) j.know then some j
    else none
  | none => none

/-- The matrix queue the engine serves next (R259). -/
def nextMatrix (s : State) (cl : Nat) : Option (Nat × Job) :=
  ([1, 2, 3, 4].map fun k => ((s.cluster cl).lastServed + k) % 4).findSome? fun q =>
    (startable s cl q).map fun j => (q, j)

/-- Errors of the entry of a job that starts are counted; an uncorrectable one is reported with the job, since R285 gives it no other
place (R285, R425; entry 61). -/
def jobErr (s : State) (cl q : Nat) (seq : BitVec 32) : State :=
  let site := ErrSite.job cl q seq.toNat
  match errAt s site with
  | none => s
  | some false => countCe (dropErr s site) cl
  | some true => updJob (countUe (dropErr s site) cl 3 0xFF) cl q seq fun j => { j with emach := true }

/-- Whether a fence's entries stand at the heads of all its queues (R276). -/
def fenceReady (s : State) (f : Fence) : Bool :=
  f.parts.all fun p => match (s.jobQueue f.cluster p.1).jobs with
    | j :: _ => j.seq == p.2
    | [] => false

/-! ### Matrix jobs (R270, R272, R278) -/

/-- Cycles of a matrix job, and cycles of one of its chunks. -/
def jobTime (s : State) (cl : Nat) (k : JobKind) : Nat × Nat :=
  match k with
  | .mma _ _ _ ha hb =>
    let a := s.tile cl ha
    let b := s.tile cl hb
    if a.isBfp then
      let m := max (Tag.mant a.fmt) (Tag.mant b.fmt)
      ((a.cols * m + 15) / 16, 2 * m)
    else if Tag.isInt a.fmt then ((a.cols + 1) / 2, 8)
    else (a.cols, 16)
  | .mrd _ h _ | .mwr _ h => ((s.tile cl h).rows, 1)
  | .mzero .. | .cpy .. | .fence .. => (1, 1)

/-- Elements of a row pair of an accumulator computed. -/
def mmaCells (fa fb : Tag) (keep sat : Bool) (cl a n i : Nat) (ra : Row) : List (Nat × Row) → State × Flags × Bool →
    State × Flags × Bool
  | [], r => r
  | (j, rb) :: more, (s, f, bad) =>
    let e := 64 * i + j
    let (old, s1) := if keep then accRead s cl a e else (0, s)
    let p := keep && accPoisoned s1 cl a e
    let (v, fl) := mmaElem fa fb sat n old ra rb
    mmaCells fa fb keep sat cl a n i ra more (accWrite s1 cl a e v (!keep), f ||| fl, bad || p || ra.bad || rb.bad)

/-- `mma` and `mmac` after `n` chunks. -/
def runMma (s : State) (cl : Nat) (keep sat : Bool) (a ha hb n : Nat) : State × Flags × Bool :=
  let ta := s.tile cl ha
  let tb := s.tile cl hb
  let (ra, s1) := tileRows s cl ha ta.rows
  let (rb, s2) := tileRows s1 cl hb tb.rows
  let cols := (List.range rb.length).zip rb
  ((List.range ra.length).zip ra).foldl (fun acc r => mmaCells ta.fmt tb.fmt keep sat cl a n r.1 r.2 cols acc) (s2, 0, false)

/-- `mwr` of the first `n` rows. -/
def runMwr (s : State) (cl a h n : Nat) : State × Flags × Bool :=
  let t := s.tile cl h
  let (rs, s1) := tileRows s cl h (min n t.rows)
  ((List.range rs.length).zip rs).foldl (fun (acc : State × Flags × Bool) r =>
    ((List.range t.cols).zip r.2.elems).foldl (fun (acc : State × Flags × Bool) c =>
      let (v, f) := accOfElem t.fmt (r.2.exps.getD (c.1 / 32) 0) c.2
      (accWrite acc.1 cl a (64 * r.1 + c.1) v true, acc.2.1 ||| f, acc.2.2 || r.2.bad)) acc) (s1, 0, false)

/-- The elements 0 to `n` − 1 of row `r` of an accumulator as `mrd` reads them: a poisoned one reads as the canonical NaN,
or as 0 (R285). -/
def accRow (s : State) (cl a r : Nat) : Nat → List Nat × Bool × State
  | 0 => ([], false, s)
  | n + 1 =>
    let (vs, p, s1) := accRow s cl a r n
    let (v, s2) := accRead s1 cl a (64 * r + n)
    if accPoisoned s2 cl a (64 * r + n) then
      (vs ++ [if (s2.acc cl a).atag = 3 then 0 else Fmt.f32.nanBits], true, s2)
    else (vs ++ [v], p, s2)

/-- `mzero`: the elements and their poison. -/
def runMzero (s : State) (cl a : Nat) : State :=
  { (s.setAcc cl a { (s.acc cl a) with data := [], poison := [] }) with
    errs := s.errs.filter fun e => match e.1 with
      | .acc c' a' _ => !(c' == cl && a' == a)
      | _ => true }

/-! ### Bytes landing in a tile (R252, R264) -/

/-- Bytes of a row landed: written at their homes and counted, and the tile READY from the next cycle on once all are there, with
`know`. -/
def landRow (s : State) (cl h r : Nat) (w : Writer) (know : Know) (data exps : List Byte) : State :=
  let t := s.tile cl h
  let put (s : State) (loc : Nat) (bs : List Byte) : State := performWrite s w loc (BitVec.ofNat 56 loc) bs
  let s1 := put (put s (t.at_ cl (r * t.pitch)) data) (t.at_ cl (t.rows * t.pitch + r * t.expBytes)) exps
  let arrived := t.arrived + data.length + exps.length
  let s2 := updTile s1 cl h fun t => { t with arrived := arrived }
  if arrived = t.expected then tileReady s2 cl h know else s2

/-- Whether a row's bytes meet another tile that holds writes. -/
def rowHeld (s : State) (cl h r : Nat) : Bool :=
  let t := s.tile cl h
  otherHolds s cl h (t.at_ cl (r * t.pitch)) t.rowBytes
    || (t.isBfp && otherHolds s cl h (t.at_ cl (t.rows * t.pitch + r * t.expBytes)) t.expBytes)

/-- The pieces of memory of a tile's row: elements and exponents. -/
def Tile.rowPieces (t : Tile) (cl r : Nat) : List (Nat × Nat) :=
  [(t.at_ cl (r * t.pitch), t.rowBytes), (t.at_ cl (t.rows * t.pitch + r * t.expBytes), t.expBytes)]

/-- A row's bytes, and the pieces they come from, in turn `k` at their banks: they wait while another tile holds them or a bank serves
an earlier class (R216, R253, R280). -/
def takeRow (s : State) (cl h r k : Nat) (from_ : List (Nat × Nat)) : Turned :=
  if rowHeld s cl h r then .next s k else takeTurns s (from_ ++ (s.tile cl h).rowPieces cl r) k

/-- The banks of a row that the engine writes in this cycle, all of them together: a row of `mrd` takes one cycle (R278). None while
another tile holds it or a higher class has one of them. -/
def takeEngineRow (s : State) (cl h r : Nat) : Option State :=
  if rowHeld s cl h r then none
  else takeNow s (((homeTurns ((s.tile cl h).rowPieces cl r)).map fun t => (t.1, t.2.1)).eraseDups)

/-! ### Streamers (R263 to R266) -/

/-- A descriptor from four words (R263), with its segment register. -/
def descOf (a b c d : Word) : CopyDesc where
  o0 := bitsAt a.toNat 0 48
  seg := bitsAt a.toNat 48 3
  stride := bitsAt b.toNat 0 32
  erows := bitsAt b.toNat 32 16
  ecols := bitsAt b.toNat 48 16
  row0 := toSigned 32 c.toNat
  col0 := toSigned 32 (c.toNat / 2 ^ 32)
  oe := bitsAt d.toNat 0 48

/-- Whether bits that must be zero are, and the fields lie in their ranges (R263). -/
def descLegal (t : Tile) (a d : Word) (x : CopyDesc) : Bool :=
  bitsAt a.toNat 51 13 == 0 && bitsAt d.toNat 48 16 == 0 && 1 ≤ x.erows && 1 ≤ x.ecols
    && (if t.isBfp then decide (x.col0 % 32 = 0) && x.ecols % 32 == 0 else x.oe == 0)

/-- The descriptor of tile `n` of a stream (R266). -/
def CopyDesc.step (x : CopyDesc) (drow dcol : Int) (n : Nat) : CopyDesc :=
  { x with row0 := x.row0 + n * drow, col0 := x.col0 + n * dcol }

/-- Tile rows whose tensor row is in range, and tile columns in range: first and end (R264). -/
def CopyDesc.rowsIn (x : CopyDesc) (t : Tile) : Nat × Nat :=
  ((max 0 (-x.row0)).toNat, (min (t.rows : Int) (x.erows - x.row0)).toNat)
def CopyDesc.colsIn (x : CopyDesc) (t : Tile) : Nat × Nat :=
  ((max 0 (-x.col0)).toNat, (min (t.cols : Int) (x.ecols - x.col0)).toNat)

/-- Offset of a tensor element's bits, in bits, and of the exponent of a block. -/
def CopyDesc.bitOff (x : CopyDesc) (t : Tile) (r c : Nat) : Nat :=
  8 * (x.o0 + (x.row0 + r).toNat * x.stride) + (x.col0 + c).toNat * t.width
def CopyDesc.expOff (x : CopyDesc) (r c : Nat) : Nat :=
  x.oe + (x.row0 + r).toNat * (x.ecols / 32) + (x.col0 + c).toNat / 32

/-- Segment offsets a window of tile row `r` spans: elements, and exponents of a BFP tile. -/
def CopyDesc.rowSpans (x : CopyDesc) (t : Tile) (r : Nat) : List (Nat × Nat) :=
  let (r0, r1) := x.rowsIn t
  let (c0, c1) := x.colsIn t
  if r < r0 ∨ r1 ≤ r ∨ c1 ≤ c0 then []
  else
    let lo := x.bitOff t r c0 / 8
    let hi := (x.bitOff t r (c1 - 1) + t.width + 7) / 8
    (lo, hi - lo) :: (if t.isBfp then [(x.expOff r c0, (c1 - 1 - c0) / 32 + 1)] else [])

/-- All segment offsets a window spans. -/
def CopyDesc.spans (x : CopyDesc) (t : Tile) : List (Nat × Nat) := (List.range t.rows).flatMap (x.rowSpans t)

/-- What a streamer finds at a byte of tensor memory (R265). -/
inductive Found where
  | at_ (loc : Nat)
  | refused
  | wait (page : Nat)
  deriving DecidableEq, Repr

/-- A byte of tensor memory: window or page, right and colour. A kick page is reached by no copy (R388). -/
def findByte (s : State) (cl core : Nat) (ctag : BitVec 16) (g : Segment) (store : Bool) (declined : List Nat) (off : Nat) :
    Found :=
  let da := segDa g core off
  let colourOk (loc : Nat) (ptag : BitVec 4) : Bool :=
    g.colour == 0 || granuleColour s ctag (loc / 64 * 64) (da / 64 * 64) ptag == g.colour
  let kick (loc : Nat) : Bool := s.kickPages.has (loc / 2 ^ 17)
  if isWindow da then (if colourOk da 0 then .at_ da else .refused)
  else match cached s cl ctag da with
    | none => if declined.contains (da / 2 ^ 17) then .refused else .wait (da / 2 ^ 17)
    | some e =>
      if e.mg && store then .wait (da / 2 ^ 17)
      else if !(if store then e.w else e.r) then .refused
      else match pageLoc ((s.pidOf ctag).getD 0) e da with
        | none => .refused
        | some loc => if colourOk loc e.ptag && !kick loc then .at_ loc else .refused

/-- Who works for a tile: what a streamer needs to know. `unit` and `phase` are its place in `Know`. -/
structure StreamJob where
  desc : CopyDesc
  seg : Segment
  core : Nat
  slot : Nat
  launch : Nat
  ctag : BitVec 16
  declined : List Nat
  unit : Nat
  phase : Nat
  know : Know

/-- The writer that a streamer on a cluster is. -/
def StreamJob.writer (j : StreamJob) (cl : Nat) : Writer := ⟨some j.launch, j.core, j.slot, 2, some (jobAgent cl j.unit), j.phase⟩

/-- Pages a window's row still waits for. -/
def StreamJob.missing (j : StreamJob) (s : State) (cl : Nat) (store : Bool) (t : Tile) (r : Nat) : List Nat :=
  ((j.desc.rowSpans t r).flatMap fun p => (List.range p.2).filterMap fun i =>
    match findByte s cl j.core j.ctag j.seg store j.declined (p.1 + i) with
    | .wait page => some page
    | _ => none).eraseDups

/-- Where a row of a window lies in core stores and vaults, whose banks it takes. -/
def StreamJob.banked (j : StreamJob) (t : Tile) (r : Nat) : List (Nat × Nat) :=
  (j.desc.rowSpans t r).filterMap fun p =>
    let da := segDa j.seg j.core p.1
    if isWindow da then some (da, p.2) else none

/-- Bits of tensor memory at a bit offset, or none where a byte is refused; the flag says that poison was met. -/
def StreamJob.bits (j : StreamJob) (s : State) (cl : Nat) (off n : Nat) : Option Nat × Bool × State :=
  let lo := off / 8
  let k := (off % 8 + n + 7) / 8
  let found := (List.range k).map fun i => findByte s cl j.core j.ctag j.seg false j.declined (lo + i)
  let r := found.foldl (fun (acc : Option (List Byte) × Bool × State) f => match acc.1, f with
    | some bs, .at_ loc =>
      let (b, p, s1) := engineBytes (noteHost acc.2.2 loc) loc 1
      (some (bs ++ b), acc.2.1 || p, s1)
    | _, _ => (none, acc.2.1, acc.2.2)) (some [], false, s)
  (r.1.map fun bs => ofBytes bs / 2 ^ (off % 8) % 2 ^ n, r.2.1, r.2.2)

/-- What a row of a direction 0 window brings. -/
structure Brought where
  elems : List Nat
  exps : List Nat
  refused : Bool
  bad : Bool
  s : State

/-- One element, or one BFP block's exponent, added to a row. -/
def Brought.take (b : Brought) (isExp : Bool) (r : Option Nat × Bool × State) : Brought :=
  let v := r.1.getD 0
  { b with
    elems := if isExp then b.elems else b.elems ++ [v]
    exps := if isExp then b.exps ++ [v] else b.exps
    refused := b.refused || r.1.isNone
    bad := b.bad || r.2.1
    s := r.2.2 }

/-- A row of a direction 0 window (R264, R265): what is out of range or refused is zero. -/
def StreamJob.fetch (j : StreamJob) (s : State) (cl : Nat) (t : Tile) (r : Nat) : Brought :=
  let (r0, r1) := j.desc.rowsIn t
  let (c0, c1) := j.desc.colsIn t
  let inside (c : Nat) : Bool := r0 ≤ r && decide (r < r1) && c0 ≤ c && decide (c < c1)
  let b0 : Brought := ⟨[], [], false, false, s⟩
  let b1 := (List.range t.cols).foldl (fun b c =>
    b.take false (if inside c then j.bits b.s cl (j.desc.bitOff t r c) t.width else (some 0, false, b.s))) b0
  (List.range t.expBytes).foldl (fun b k =>
    b.take true (if inside (32 * k) then j.bits b.s cl (8 * j.desc.expOff r (32 * k)) 8 else (some 0, false, b.s))) b1

/-- The bytes of a row that lands: elements and exponents. -/
def rowImage (t : Tile) (b : Brought) : List Byte × List Byte :=
  (rowBytesOf t.width t.rowBytes b.elems, b.exps.map (BitVec.ofNat 8))

/-- The bytes of one element as a direction 1 window writes them: segment offsets and bytes, `bit` being its bit offset. Where an
element of a BFP block shares a byte with another, `rest` gives that one's bits. -/
def cellBytes (bit width : Nat) (rest : SMap Byte) (v : Nat) : List (Nat × Byte) :=
  (List.range ((bit % 8 + width + 7) / 8)).map fun i =>
    let off := bit / 8 + i
    let old := (rest.getD off 0).toNat
    let own : Nat := (List.range 8).foldl (fun acc k =>
      let p := 8 * off + k
      acc + 2 ^ k * (if bit ≤ p ∧ p < bit + width then bitsAt v (p - bit) 1 else bitsAt old k 1)) 0
    (off, BitVec.ofNat 8 own)

/-- One element, or the exponent of one block, added to what a row writes. An element of which a byte is refused is not written
at all (R265). -/
def StreamJob.putCell (j : StreamJob) (s : State) (cl : Nat) (acc : SMap (Nat × Byte) × Bool) (bit width v : Nat) :
    SMap (Nat × Byte) × Bool :=
  let lo := bit / 8
  let found := (List.range ((bit % 8 + width + 7) / 8)).map fun i =>
    (lo + i, findByte s cl j.core j.ctag j.seg true j.declined (lo + i))
  let locs := found.filterMap fun f => match f.2 with
    | .at_ loc => some (f.1, loc)
    | .refused | .wait _ => none
  if locs.length < found.length then (acc.1, true)
  else
    let rest : SMap Byte := locs.foldl (fun m p => SMap.set m p.1 ((acc.1.get? p.1).elim (readByte s p.2) (·.2))) []
    ((locs.zip (cellBytes bit width rest v)).foldl (fun m e => SMap.set m e.1.1 (e.1.2, e.2.2)) acc.1, acc.2)

/-- What a row of a direction 1 window writes, in the order of its segment offsets: location, device address and byte; and whether
an element was refused (R264, R265). -/
def StreamJob.stores (j : StreamJob) (s : State) (cl : Nat) (t : Tile) (r : Nat) (row : Row) :
    List (Nat × Nat × Byte) × Bool :=
  let (c0, c1) := j.desc.colsIn t
  if (j.desc.rowSpans t r).isEmpty then ([], false)
  else
    let r1 := (List.range (c1 - c0)).foldl (fun acc i =>
      j.putCell s cl acc (j.desc.bitOff t r (c0 + i)) t.width (row.elems.getD (c0 + i) 0)) ([], false)
    let blocks := if t.isBfp then (c1 + 31) / 32 - c0 / 32 else 0
    let r2 := (List.range blocks).foldl (fun acc i =>
      j.putCell s cl acc (8 * (j.desc.expOff r c0 + i)) 8 (row.exps.getD (c0 / 32 + i) 0)) r1
    (r2.1.map fun e => (e.2.1, segDa j.seg j.core e.1, e.2.2), r2.2)

/-- Neighbouring bytes joined into one write. -/
def joinWrites : List (Nat × Nat × Byte) → List (Nat × Nat × List Byte)
  | [] => []
  | (l, d, b) :: r => match joinWrites r with
    | (l', d', bs) :: q => if l' = l + 1 ∧ d' = d + 1 then (l, d, b :: bs) :: q else (l, d, [b]) :: (l', d', bs) :: q
    | [] => [(l, d, [b])]

/-- Writes of a row sent to their homes for unit `u` (R264). -/
def sendWrites (s : State) (cl u : Nat) (seq : BitVec 32) (j : StreamJob) (ws : List (Nat × Nat × List Byte)) : State :=
  ws.foldl (fun s w =>
    let (id, s1) := s.newId
    let r := Req.new (slotKey j.core j.slot) none (.write w.1 (w.2.2.map some) none (some (cl, u, seq))) (BitVec.ofNat 56 w.2.1)
      j.launch
    trip .arrivalAtHome [id] { s1 with reqs := s1.reqs.set id { r with phase := j.phase, after := j.know } }) s

end Sys2Proof.Machine
end

