-- ==== Sys2Proof/Machine/Cluster.lean ====
section
/-! DEFINITION. Cluster instructions (R267 to R277): matrix jobs, tiles, copies, subscriptions, job reports and fences. -/

namespace Sys2Proof.Machine

/-! ### Checks of R255, R257, R258, R277 -/

/-- A trap of the cluster's chapter: its detail names a handle, an accumulator or a segment (R277). Which of them [7:0] carries where
several could be meant, and the second detail of 0, are choices (entry 20). -/
def engineTrap {α : Type} (e : BitVec 32 → Word → Trap) (low cause : Nat) : Except Stop α :=
  .error (.trap (e (detail low 9 0 cause) 0) none)

namespace Iss

/-- A handle position: read through a port of its own, without a bank access (R255). -/
def handleSrc (x : Iss) (o : Opnd) : Except Stop (Word × Iss) :=
  match o with
  | .g n => do
    let x ← x.check (.gfile x.core (x.gEntry n.val)) 1
    pure (x.s.gfile.getD (gKey x.core (x.gEntry n.val)) 0, x)
  | _ => x.int 1 o

/-- A handle checked: its entry is in use, and its group is the thread's (R255). -/
def handle (x : Iss) (h : Nat) : Except Stop Unit :=
  if 255 < h ∨ (x.s.tile x.cl h).st = .free then engineTrap eBounds h 4
  else
    let t := x.s.tile x.cl h
    if t.group ≠ x.th.group ∨ t.launch ≠ x.th.launch then engineTrap eRights h 3 else .ok ()

/-- Errors of a tile table entry met by its read are counted (R285, R425). -/
def tileErr (x : Iss) (h : Nat) : Iss :=
  match errAt x.s (.tile x.cl h) with
  | none => x
  | some false => { x with s := countCe (dropErr x.s (.tile x.cl h)) x.cl }
  | some true => { x with s := countUe (dropErr x.s (.tile x.cl h)) x.cl 10 0xFF }

/-- A stored tile is needed (R277, cause 9). -/
def stored (x : Iss) (h : Nat) : Except Stop Unit := if (x.s.tile x.cl h).gv then engineTrap eRights h 9 else .ok ()

/-- A tile named in a data position must be READY (R210, R255). `orig` is the state in which the instruction waits. -/
def tileReady (x : Iss) (orig : State) (h : Nat) : Except Stop Unit :=
  if (baseTile x.s x.cl h).st = .ready then .ok () else .error (.hold .tile orig)

/-- Room in a job queue (R258). -/
def queueRoom (x : Iss) (orig : State) (q : Nat) : Except Stop Unit :=
  if (x.s.jobQueue x.cl q).jobs.length < 16 then .ok () else .error (.hold .jobQueue orig)

/-- The accumulator an operand names, with the checks of R257. -/
def accumulator (x : Iss) (o : Opnd) : Except Stop Nat :=
  match o with
  | .acc n =>
    if x.th.status.getLsbD 12 then engineTrap eRights n.val 5
    else if (x.s.cluster x.cl).accOwner ≠ some x.th.ctag then engineTrap eRights n.val 3
    else .ok n.val
  | _ => .ok 0

/-- The lock of an accumulator (R257). -/
def accLock (x : Iss) (orig : State) (a q : Nat) : Except Stop Unit :=
  let c := x.s.acc x.cl a
  if c.lcnt = 0 ∨ c.lq = q then .ok () else .error (.hold .accumulator orig)

/-- A tile taken by a job that reads it, or that writes it (R252). -/
def drain (id : BitVec 35) (s : State) (cl h : Nat) : State :=
  updTile s cl (baseHandle s cl h) fun t => { t with st := .draining, job := id }
def fill (id : BitVec 35) (s : State) (cl h : Nat) : State :=
  updTile s cl h fun t => { t with st := .filling, arrived := 0, job := id }

/-- What a job of queue `q` is ordered after: earlier jobs of its queue, and what is ordered before its issue, which a
publishing issue extends by the stores it carries (R279, R339). -/
def jobKnow (s : State) (core cl q : Nat) (seq : BitVec 32) (publishes : Bool) : Know :=
  let k := s.core core
  let issued := if publishes then k.sent else Know.join k.know k.sent
  (Know.join (s.jobQueue cl q).know issued).set (jobAgent cl q) (seq.toNat + 1)

/-- A job entered into its queue: its sequence number, its tiles and its accumulator's lock are taken, and its identifier
is written into D (R252, R257, R258). `pub` says that the store buffer is published first (R279). -/
def enterJob (x : Iss) (d : Opnd) (q : Nat) (kind : JobKind) (atag : Option Tag) (pub : Bool) : Iss :=
  let cl := x.cl
  let jq := x.s.jobQueue cl q
  let seq := jq.issued + 1
  let id := jobId q seq
  let (now, s0) := if pub then publish (.job cl q seq) x.s x.core else (true, x.s)
  let know := jobKnow s0 x.core cl q seq pub
  let j : Job := {
    seq := seq, kind := kind, core := x.core, slot := x.slot, ctag := x.th.ctag, launch := x.th.launch
    group := x.th.group, issuedAt := x.s.cyc, pub := if now then none else some x.s.nextId, know := know, phase := .queued, flags := 0
    emem := false, emach := false, canc := false, pendingWrites := 0, waits := [], declined := [], ran := 0 }
  let s1 := s0.setJobQueue cl q { jq with issued := seq, jobs := jq.jobs ++ [j], know := know }
  let s2 := kind.reads.foldl (fun s h => drain id s cl h) s1
  let s3 := match kind.writes? with
    | some h => fill id s2 cl h
    | none => s2
  let s4 := match kind.acc? with
    | some a =>
      let c := s3.acc cl a
      s3.setAcc cl a { c with lq := q, lcnt := c.lcnt + 1, atag := atag.getD c.atag }
    | none => s3
  { x with s := s4 }.setInt d (id.setWidth 64)

end Iss

/-! ### Matrix jobs (R270 to R272) -/

/-- `mma` and `mmac`. -/
def multiply (i : Instr) (keep sat : Bool) (mq : BitVec 2) (d a b : Opnd) (s : State) : Host.Outcome State Fault Refusal :=
  issue i s fun x0 => do
    let acc ← x0.accumulator a
    x0.queues [b] [d]
    let (w, x) ← x0.handleSrc b
    let ha := bitsAt w.toNat 0 8
    let hb := bitsAt w.toNat 8 8
    x.handle ha
    x.handle hb
    let x := (x.tileErr ha).tileErr hb
    let ta := x.s.tile x.cl ha
    let tb := x.s.tile x.cl hb
    match mmaTag ta.fmt tb.fmt with
    | none =>
      let known := Tag.isBfp ta.fmt || ta.fmt == 5 || ta.fmt == 6 || ta.fmt == 1
      .error (.trap (eFormat 2 (if known then tb.fmt else ta.fmt).toNat) none)
    | some tag =>
      let c := x.s.acc x.cl acc
      if keep ∧ c.atag ≠ tag then .error (.trap (eFormat 1 c.atag.toNat) none)
      else if 64 < ta.rows ∨ 64 < tb.rows ∨ ta.cols ≠ tb.cols then engineTrap eBounds acc 2
      else do
        x.tileReady x0.s ha
        x.tileReady x0.s hb
        x.queueRoom x0.s mq.toNat
        x.accLock x0.s acc mq.toNat
        pure (x.enterJob d mq.toNat (.mma keep sat acc ha hb) (some tag) true)

/-- `mma` (R270). -/
def execMma (c : Ctl) (sat : Bool) (mq : BitVec 2) (d a b : Opnd) (s : State) : Host.Outcome State Fault Refusal :=
  multiply (.mma c sat mq d a b) false sat mq d a b s

/-- `mmac` (R270). -/
def execMmac (c : Ctl) (sat : Bool) (mq : BitVec 2) (d a b : Opnd) (s : State) : Host.Outcome State Fault Refusal :=
  multiply (.mmac c sat mq d a b) true sat mq d a b s

/-- `mzero` (R270). -/
def execMzero (c : Ctl) (mq : BitVec 2) (d a b : Opnd) (s : State) : Host.Outcome State Fault Refusal :=
  issue (.mzero c mq d a b) s fun x0 => do
    let acc ← x0.accumulator a
    x0.queues [] [d]
    let (v, x) ← x0.int 2 b
    x.queueRoom x0.s mq.toNat
    x.accLock x0.s acc mq.toNat
    pure (x.enterJob d mq.toNat (.mzero acc (v.setWidth 4)) (some (v.setWidth 4)) false)

/-- `mrd` (R272). -/
def execMrd (c : Ctl) (sat : Bool) (mq : BitVec 2) (d a b : Opnd) (s : State) : Host.Outcome State Fault Refusal :=
  issue (.mrd c sat mq d a b) s fun x0 => do
    let acc ← x0.accumulator a
    let ac := x0.s.acc x0.cl acc
    if ac.atag = 0 then .error (.trap (eFormat 1 0) none)
    else do
      x0.queues [b] [d]
      let (h, x) ← x0.handleSrc b
      x.handle h.toNat
      x.stored h.toNat
      let x := x.tileErr h.toNat
      let t := x.s.tile x.cl h.toNat
      if !mrdOk ac.atag t.fmt then .error (.trap (eFormat 2 t.fmt.toNat) none)
      else if 64 < t.rows ∨ 64 < t.cols then engineTrap eBounds acc 2
      else do
        x.tileReady x0.s h.toNat
        x.queueRoom x0.s mq.toNat
        x.accLock x0.s acc mq.toNat
        pure (x.enterJob d mq.toNat (.mrd acc h.toNat sat) none false)

/-- `mwr` (R272): it publishes nothing. -/
def execMwr (c : Ctl) (mq : BitVec 2) (d a b : Opnd) (s : State) : Host.Outcome State Fault Refusal :=
  issue (.mwr c mq d a b) s fun x0 => do
    let acc ← x0.accumulator a
    x0.queues [b] [d]
    let (h, x) ← x0.handleSrc b
    x.handle h.toNat
    let x := x.tileErr h.toNat
    let t := x.s.tile x.cl h.toNat
    match mwrTag t.fmt with
    | none => .error (.trap (eFormat 2 t.fmt.toNat) none)
    | some tag =>
      if 64 < t.rows ∨ 64 < t.cols then engineTrap eBounds acc 2
      else do
        x.tileReady x0.s h.toNat
        x.queueRoom x0.s mq.toNat
        x.accLock x0.s acc mq.toNat
        pure (x.enterJob d mq.toNat (.mwr acc h.toNat) (some tag) false)

/-! ### Tiles (R268, R269) -/

/-- A trap of `tdef`'s check of the extent: access 9 and cause 0 (R277). -/
def retrap {α : Type} (r : Except Stop α) : Except Stop α :=
  match r with
  | .error (.trap t none) => .error (.trap { t with detail := (t.detail &&& 0x00FF00FF) ||| 0x900 } none)
  | r => r

/-- A stored tile's shape word (R268): the entry it asks for, apart from its place and owner; none where out of range. -/
def shapeTile (w : Word) : Option Tile :=
  let n := w.toNat
  let t : Tile := { Tile.reset with
    st := .ready, fmt := BitVec.ofNat 4 (bitsAt n 0 4), rows := bitsAt n 8 13, cols := bitsAt n 21 13, pitch := bitsAt n 34 20 }
  if t.fmt = 0 ∨ bitsAt n 5 3 ≠ 0 ∨ bitsAt n 54 10 ≠ 0 ∨ t.rows < 1 ∨ 4096 < t.rows ∨ t.cols < 1 ∨ 4096 < t.cols
      ∨ (t.isBfp ∧ t.cols % 32 ≠ 0) ∨ t.pitch % 8 ≠ 0 ∨ t.pitch < t.rowBytes then none
  else some { t with expected := t.total, arrived := t.total }

/-- Bytes a stored tile extends over (R268). -/
def Tile.extent (t : Tile) : Nat :=
  if t.isBfp then t.rows * t.pitch + t.rows * t.expBytes else (t.rows - 1) * t.pitch + t.rowBytes

/-- A gather view's entry over a source (R261); none where its geometry is out of range. -/
def viewTile (w : Word) (h : Nat) (src : Tile) : Option Tile :=
  let g := geomOf w
  if bitsAt w.toNat 0 4 ≠ 0 ∨ bitsAt w.toNat 48 16 ≠ 0 ∨ g.w < 1 ∨ src.rows % g.w ≠ 0 ∨ g.m < 1 ∨ 64 < g.m
      ∨ g.out g.w g.kw < 1 ∨ g.out (src.rows / g.w) g.kh < 1 ∨ 4096 < g.kh * g.kw * src.cols then none
  else some { Tile.reset with
    st := .ready, gv := true, fmt := src.fmt, rows := g.m, cols := g.kh * g.kw * src.cols, src := h, geom := w }

/-- An entry defined for the thread's group at the end of the cycle, and its handle written; −1 where no entry is FREE (R254,
R268). -/
def Iss.define (x : Iss) (d : Opnd) (t : Tile) : Iss :=
  match freeHandle x.s x.cl with
  | none => x.setInt d (BitVec.allOnes 64)
  | some h =>
    { x with s := changeTile x.s x.cl (.define h { t with group := x.th.group, launch := x.th.launch }) }.setInt d
      (BitVec.ofNat 64 h)

/-- `tdef` (R268). A view over a source of a format that has none traps with E_FORMAT, field 1 (R261; entry 19). -/
def execTdef (c : Ctl) (n : BitVec 3) (d a b : Opnd) (s : State) : Host.Outcome State Fault Refusal :=
  issue (.tdef c n d a b) s fun x => do
    x.queues [a, b] [d]
    let (va, x) ← x.int 1 a
    let (w, x) ← x.int 2 b
    if w.getLsbD 4 then do
      x.handle va.toNat
      x.stored va.toNat
      let src := x.s.tile x.cl va.toNat
      if !(src.fmt = 1 ∨ src.fmt = 5 ∨ src.fmt = 6) then .error (.trap (eFormat 1 src.fmt.toNat) none)
      else match viewTile w va.toNat src with
        | some t => if n ≠ 0 then engineTrap eBounds va.toNat 1 else pure (x.define d t)
        | none => engineTrap eBounds va.toNat 1
    else match shapeTile w with
      | none => engineTrap eBounds n.toNat 1
      | some t =>
        let g := x.th.segs[n.toNat]
        if va.toNat % 8 ≠ 0 then engineTrap eBounds n.toNat 1
        else if g.kind ≠ .core ∧ g.kind ≠ .vault then engineTrap eRights n.toNat 7
        else do
          let o := va.toInt
          let _ ← retrap (path x g { Want.scalar ⟨n.toNat, n.isLt⟩ o t.extent .store .plain 1 with tier := fun _ => none })
          let da := segDa g x.core o.toNat
          let inv := g.kind == .vault
          pure (x.define d { t with
            inv := inv, core := x.core % 8, base := if inv then da % 2 ^ 22 else da % 2 ^ 17 })

/-- What `trel` does at the end of its cycle (R254, R266, R269). -/
def releaseTile (s : State) (cl h : Nat) : State :=
  let t := s.tile cl h
  if t.gv then s.setTile cl h .reset
  else if t.st ≠ .ready then s
  else match t.sub.bind fun n => ((s.cluster cl).subs.get? n).map fun x => (n, x) with
    | none => freeTile s cl h
    | some (n, x) =>
      let i := h - x.h0
      let next := x.next.getD i 0
      let putSub (s : State) (x : Sub) : State := s.updCluster cl fun k => { k with subs := k.subs.set n x }
      if !x.storer ∧ next + x.n < x.t then
        let s1 := putSub s { x with next := listSet x.next i (next + x.n) }
        trip .subscriptionTileStart [cl, n, i] (updTile s1 cl h fun t => { t with st := .empty, job := 0, know := [] })
      else if x.storer ∧ next < x.t then
        trip .copyLastTileRead [cl, 8 + h, next] (updTile s cl h fun t => { t with st := .draining, job := 0 })
      else
        let s1 := updTile s cl h fun t => { t with sub := none }
        if (s1.cluster cl).tiles.any fun e => e.2.sub == some n then s1
        else s1.updCluster cl fun k => { k with subs := k.subs.erase n }

/-- Whether a change of a tile must wait: a job that was issued in the same cycle has taken it (R254; entry 49). -/
def TileChange.waits (s : State) (cl : Nat) : TileChange → Bool
  | .define .. | .ready .. => false
  | .release h | .empty h _ _ =>
    let st := (baseTile s cl h).st
    st == .filling || st == .draining

/-- A change of a tile at the end of its cycle. A view of a source that has become FREE in it is FREE too (R252). -/
def TileChange.apply (s : State) (cl : Nat) : TileChange → State
  | .define h t => if t.gv ∧ (s.tile cl t.src).st = .free then s else s.setTile cl h t
  | .ready h job know =>
    let t := s.tile cl h
    if (t.st = .filling ∨ t.st = .draining) ∧ t.job = job then s.setTile cl h { t with st := .ready, job := 0, know := know } else s
  | .release h => releaseTile s cl h
  | .empty h n i => match (s.cluster cl).subs.get? n with
    | some x =>
      if (s.tile cl h).sub = some n ∧ (s.tile cl h).st = .ready then
        let s1 := updTile s cl h fun t => { t with st := .empty, know := [] }
        if i < x.t then trip .subscriptionTileStart [cl, n, i] s1 else s1
      else s
    | none => s

/-- The changes of a cluster's tiles that take effect at the end of a cycle (R254). -/
def applyChanges (s : State) (cl : Nat) : State :=
  let cs := (s.cluster cl).changes
  if cs.isEmpty then s
  else
    let s1 := s.updCluster cl fun k => { k with changes := cs.filter (TileChange.waits s cl) }
    (cs.filter fun c => !TileChange.waits s cl c).foldl (fun s c => c.apply s cl) s1

/-- `trel` (R269); a view has no state of its own and becomes FREE. -/
def execTrel (c : Ctl) (a : Opnd) (s : State) : Host.Outcome State Fault Refusal :=
  issue (.trel c a) s fun x0 => do
    x0.queues [a] []
    let (h, x) ← x0.handleSrc a
    x.handle h.toNat
    let x := x.tileErr h.toNat
    x.tileReady x0.s h.toNat
    pure { x with s := changeTile x.s x.cl (.release h.toNat) }

/-- What `tstat` reports (R269). -/
def tileStatus (s : State) (cl h : Nat) : Word :=
  let t := s.tile cl h
  let b := baseTile s cl h
  BitVec.ofNat 64 (b.st.code + 8 * t.gv.toNat + 16 * t.fmt.toNat + 2 ^ 8 * (t.sub.getD 0xFF) + 2 ^ 16 * b.arrived
    + 2 ^ 40 * b.expected + 2 ^ 63 * (!t.gv && t.semem).toNat)

/-- `tstat` (R269): it never waits, and clears `SEMEM`. -/
def execTstat (c : Ctl) (d a : Opnd) (s : State) : Host.Outcome State Fault Refusal :=
  issue (.tstat c d a) s fun x => do
    x.queues [a] [d]
    let (h, x) ← x.handleSrc a
    x.handle h.toNat
    let x := x.tileErr h.toNat
    let v := tileStatus x.s x.cl h.toNat
    pure ({ x with s := updTile x.s x.cl h.toNat fun t => { t with semem := false } }.setInt d v)

/-- `twait` (R269): a refresh of its core. -/
def execTwait (c : Ctl) (a : Opnd) (s : State) : Host.Outcome State Fault Refusal :=
  issue (.twait c a) s fun x0 => do
    x0.queues [a] []
    let (h, x) ← x0.handleSrc a
    x.handle h.toNat
    let x := x.tileErr h.toNat
    x.tileReady x0.s h.toNat
    pure { x with s := refreshCore x.s x.core (baseTile x.s x.cl h.toNat).know, wrote := true }

/-! ### Copies and subscriptions (R273, R274) -/

/-- The four words of a descriptor (R263, R267). -/
def Iss.descriptorWords (x : Iss) (b : Opnd) : Except Stop (Word × Word × Word × Word × Iss) :=
  match b with
  | .g n => do
    let (w0, x) ← x.readG 2 (x.gEntry n.val)
    let (w1, x) ← x.readG 3 (x.gEntry (n.val + 1))
    let (w2, x) ← x.readG 4 (x.gEntry (n.val + 2))
    let (w3, x) ← x.readG 5 (x.gEntry (n.val + 3))
    pure (w0, w1, w2, w3, x)
  | _ => .ok (0, 0, 0, 0, x)

/-- Whether a byte range of a segment can be reached by a copy: windows lie in the partition, outside the system region, and no
page that is mapped is a peer's (R273; entry 23 for pages that are not mapped yet). -/
def copyReaches (s : State) (ctag : BitVec 16) (core : Nat) (g : Segment) (p : Nat × Nat) : Bool :=
  (pieces g core (p.2 / 2 ^ 17 + 2) p.1 p.2).all fun d =>
    if !isWindow d.1 then (walk s ctag d.1).all fun e => e.tier != 3
    else (match windowCheck s ctag ⟨0, 0, d.2, .load, .everywhere, 1, 0, false, fun _ => none⟩ d.1,
        windowCheck s ctag ⟨0, 0, d.2, .load, .everywhere, 1, 0, false, fun _ => none⟩ (d.1 + d.2 - 1) with
      | .ok _, .ok _ => true
      | _, _ => false)

/-- Checks 4 to 6 of R273 for a window, after check 3. -/
def Iss.windowOk (x : Iss) (t : Tile) (out : Bool) (ds : List CopyDesc) : Except Stop Unit :=
  match ds with
  | [] => .ok ()
  | d :: _ =>
    let g := x.th.segs.toList.getD d.seg .null
    let spans := ds.flatMap fun d => d.spans t
    if g.kind = .null then engineTrap eBounds d.seg 0
    else if !(g.kind = .memory ∨ g.kind = .core ∨ g.kind = .vault) ∨ !(if out then g.w else g.r) then engineTrap eRights d.seg 0
    else if spans.any fun p => decide (g.limit.toNat < p.1 + p.2) then engineTrap eBounds d.seg 6
    else if !(spans.all (copyReaches x.s x.th.ctag x.core g)) then engineTrap eRights d.seg 11
    else .ok ()

/-- `cpy` (R273). -/
def execCpy (c : Ctl) (mq : BitVec 2) (d a b : Opnd) (s : State) : Host.Outcome State Fault Refusal :=
  issue (.cpy c mq d a b) s fun x0 => do
    x0.queues [a] [d]
    let (w, x) ← x0.handleSrc a
    let (w0, w1, w2, w3, x) ← x.descriptorWords b
    let h := bitsAt w.toNat 0 8
    let out := w.getLsbD 8
    let ds := descOf w0 w1 w2 w3
    x.handle h
    x.stored h
    let x := x.tileErr h
    let t := x.s.tile x.cl h
    if !descLegal t w0 w3 ds then engineTrap eBounds h 8
    else do
      x.windowOk t out [ds]
      x.tileReady x0.s h
      x.queueRoom x0.s (4 + mq.toNat)
      pure (x.enterJob d (4 + mq.toNat) (.cpy h out ds (x.th.segs.toList.getD ds.seg .null)) none true)

/-- The slots of a ring (R274). -/
def ringSlots (h0 n : Nat) : List Nat := (List.range n).map (h0 + ·)

/-- The checks of a ring's slots (R255, R274). -/
def Iss.ring (x : Iss) (h0 : Nat) : List Nat → Except Stop Unit
  | [] => .ok ()
  | h :: r => do
    x.handle h
    x.stored h
    let t := x.s.tile x.cl h
    let f := x.s.tile x.cl h0
    if t.st ≠ .ready ∨ t.sub.isSome then engineTrap eBounds h 1
    else if t.fmt ≠ f.fmt ∨ t.rows ≠ f.rows ∨ t.cols ≠ f.cols then engineTrap eBounds h 1
    else ring x h0 r

/-- `tsub` (R274). -/
def execTsub (c : Ctl) (d a b : Opnd) (s : State) : Host.Outcome State Fault Refusal :=
  issue (.tsub c d a b) s fun x => do
    x.queues [a] [d]
    let (w, x) ← x.handleSrc a
    let (w0, w1, w2, w3, x) ← x.descriptorWords b
    let h0 := bitsAt w.toNat 0 8
    let n := bitsAt w.toNat 8 5
    let out := w.getLsbD 13
    let t := bitsAt w.toNat 16 16
    let drow := toSigned 16 (w.toNat / 2 ^ 32)
    let dcol := toSigned 16 (w.toNat / 2 ^ 48)
    let ds := descOf w0 w1 w2 w3
    if n < 2 ∨ 16 < n ∨ bitsAt w.toNat 14 2 ≠ 0 ∨ t < 1 then engineTrap eBounds h0 8
    else do
      x.ring h0 (ringSlots h0 n)
      let tile := x.s.tile x.cl h0
      if !descLegal tile w0 w3 ds ∨ (tile.isBfp ∧ 1 < t ∧ dcol % 32 ≠ 0) then engineTrap eBounds h0 8
      else do
        x.windowOk tile out [ds, ds.step drow dcol (t - 1)]
        match (x.s.cluster x.cl).subs.freeKey 16 0 with
        | none => pure (x.setInt d (BitVec.allOnes 64))
        | some k =>
          let sub : Sub := {
            h0 := h0, n := n, storer := out, t := t, drow := drow, dcol := dcol, desc := ds
            seg := x.th.segs.toList.getD ds.seg .null, next := List.range n, group := x.th.group
            launch := x.th.launch, ctag := x.th.ctag, core := x.core, slot := x.slot, since := x.s.cyc
            writes := [], waits := [], declined := [] }
          let s1 := x.s.updCluster x.cl fun c => { c with subs := c.subs.set k sub }
          let s2 := (List.range n).foldl (fun s i =>
            let s := updTile s x.cl (h0 + i) fun q => { q with sub := some k }
            if out then s else changeTile s x.cl (.empty (h0 + i) k i)) s1
          pure ({ x with s := s2 }.setInt d (BitVec.ofNat 64 k))

/-! ### Job reports and fences (R275, R276) -/

/-- Whether a job is complete (R275). -/
def jobDone (q : JobQueue) (seq : BitVec 32) : Bool := decide ((q.done - seq).toNat < 2 ^ 31)

/-- What the return of a job's report carries (R338): none once the report has been replaced. -/
def reportKnow (q : JobQueue) (seq : BitVec 32) : Know := ((q.reports.find? fun r => r.seq == seq).map (·.know)).getD []

/-- The report `jpoll` and `jwait` return (R260). -/
def reportWord (q : JobQueue) (seq : BitVec 32) : Word :=
  if jobDone q seq then match q.reports.find? fun r => r.seq == seq with
    | some r => BitVec.ofNat 64 (3 + 256 * r.bits.toNat)
    | none => 1
  else 0

/-- The checks of a job identifier (R275). -/
def Iss.jobIdent (x : Iss) (id : Word) : Except Stop (Nat × BitVec 32) :=
  let q := bitsAt id.toNat 32 3
  let seq : BitVec 32 := id.setWidth 32
  let jq := x.s.jobQueue x.cl q
  if bitsAt id.toNat 35 29 ≠ 0 ∨ 2 ^ 31 ≤ (jq.issued - seq).toNat then engineTrap eBounds (id.toNat % 256) 10
  else if jq.reports.any fun r => r.seq == seq && r.ctag != x.th.ctag then engineTrap eRights (id.toNat % 256) 3
  else .ok (q, seq)

/-- `jpoll` (R275): it never waits. -/
def execJpoll (c : Ctl) (d a : Opnd) (s : State) : Host.Outcome State Fault Refusal :=
  issue (.jpoll c d a) s fun x => do
    x.queues [a] [d]
    let (id, x) ← x.handleSrc a
    let (q, seq) ← x.jobIdent id
    let jq := x.s.jobQueue x.cl q
    let x := if jobDone jq seq then { x with s := refreshCore x.s x.core (reportKnow jq seq) } else x
    pure (x.setInt d (reportWord jq seq))

/-- `jwait` (R275). -/
def execJwait (c : Ctl) (d a : Opnd) (s : State) : Host.Outcome State Fault Refusal :=
  issue (.jwait c d a) s fun x0 => do
    x0.queues [a] [d]
    let (id, x) ← x0.handleSrc a
    let (q, seq) ← x.jobIdent id
    let jq := x.s.jobQueue x.cl q
    if jobDone jq seq then pure ({ x with s := refreshCore x.s x.core (reportKnow jq seq) }.setInt d (reportWord jq seq))
    else .error (.hold .job x0.s)

/-- A fence entry pushed on each named queue, which joins what their jobs know: the identifier of the first (R276, R339). -/
def Iss.enterFence (x : Iss) (d : Opnd) (qs : List Nat) : Iss :=
  let (id, s1) := x.s.newId
  let parts := qs.map fun q => (q, (s1.jobQueue x.cl q).issued + 1)
  let know := qs.foldl (fun k q => Know.join k (s1.jobQueue x.cl q).know) []
  let s2 := parts.foldl (fun s p =>
    let jq := s.jobQueue x.cl p.1
    let j : Job := {
      seq := p.2, kind := .fence id, core := x.core, slot := x.slot, ctag := x.th.ctag, launch := x.th.launch
      group := x.th.group, issuedAt := x.s.cyc, pub := none, know := know, phase := .queued, flags := 0
      emem := false, emach := false, canc := false, pendingWrites := 0, waits := [], declined := [], ran := 0 }
    s.setJobQueue x.cl p.1 { jq with issued := p.2, jobs := jq.jobs ++ [j], know := know }) s1
  let v : Word := match parts with
    | p :: _ => (jobId p.1 p.2).setWidth 64
    | [] => BitVec.allOnes 64
  { x with s := { s2 with fences := s2.fences.set id ⟨x.cl, parts⟩ } }.setInt d v

/-- `qfence` (R276). -/
def execQfence (c : Ctl) (d a : Opnd) (s : State) : Host.Outcome State Fault Refusal :=
  issue (.qfence c d a) s fun x0 => do
    x0.queues [a] [d]
    let (m, x) ← x0.handleSrc a
    let qs := (List.range 8).filter fun q => m.getLsbD q
    if qs.isEmpty then pure (x.setInt d (BitVec.allOnes 64))
    else if qs.all fun q => (x.s.jobQueue x.cl q).jobs.length < 16 then pure (x.enterFence d qs)
    else .error (.hold .jobQueue x0.s)

end Sys2Proof.Machine
end

