-- ==== Sys2Proof/Machine/Control.lean ====
section
/-! DEFINITION. Control instructions (R130 to R134): branches, calls, loops, the end of a thread, and threads that threads
create. -/

namespace Sys2Proof.Machine

/-- A control transfer to a target, which must lie in the range of a PC (R130). -/
def Iss.jump (x : Iss) (target : Int) : Except Stop Iss :=
  if target < 0 ∨ 2 ^ 32 ≤ target then .error (.trap (eBounds (detail 8 2 0 0) (BitVec.ofInt 64 target)) none)
  else .ok { x with npc := some (BitVec.ofInt 32 target) }

/-- A relative target. -/
def Iss.relative (x : Iss) (off : Word) : Except Stop Iss := x.jump (x.th.pc.toNat + off.toInt)

/-- `br` (R130). -/
def execBr (c : Ctl) (b : Opnd) (s : State) : Host.Outcome State Fault Refusal :=
  issue (.br c b) s fun x => do
    let (off, x) ← x.int 2 b
    x.relative off

/-- `brr` (R130). -/
def execBrr (c : Ctl) (a : Opnd) (s : State) : Host.Outcome State Fault Refusal :=
  issue (.brr c a) s fun x => do
    x.queues [a] []
    let (off, x) ← x.int 1 a
    x.relative off

/-- `call` (R130). -/
def execCall (c : Ctl) (d b : Opnd) (s : State) : Host.Outcome State Fault Refusal :=
  issue (.call c d b) s fun x => do
    let (off, x) ← x.int 2 b
    let x ← x.relative off
    pure (x.setInt d ((x.th.pc + 1).setWidth 64))

/-- `ret` (R130): the target is absolute. -/
def execRet (c : Ctl) (a : Opnd) (s : State) : Host.Outcome State Fault Refusal :=
  issue (.ret c a) s fun x => do
    x.queues [a] []
    let (t, x) ← x.int 1 a
    x.jump t.toInt

/-- `loop` (R130). -/
def execLoop (c : Ctl) (d b : Opnd) (s : State) : Host.Outcome State Fault Refusal :=
  issue (.loop c d b) s fun x => do
    let (off, x) ← x.int 2 b
    let (n, x) ← x.int 3 d
    let x ← if n - 1 = 0 then pure x else x.relative off
    pure (x.setInt d (n - 1))

/-- `exit` (R131): a borrow is returned, an open packet is aborted, and the slot becomes free. DESIGN CHOICE (entry 62): a returned
loan is free 8 cycles after the issue, as after `bret`, and the thread's own slot in the next cycle. -/
def execExit (c : Ctl) (s : State) : Host.Outcome State Fault Refusal :=
  issue (.exit c) s fun x =>
    .ok { x with s := freeSlot (markExit (abortPacket (returnBorrow x.s x.key 8) x.key) x.th) x.key, gone := true }

/-- A start PC; a value of 2^32 or more stands as the last index, which no kernel reaches (R132). -/
def startPc (a : Word) : BitVec 32 := if 2 ^ 32 ≤ a.toNat then BitVec.allOnes 32 else a.setWidth 32

/-- The window sizes of a kernel, or of a migratory thread (R80, R132). -/
def windowSizes (s : State) (l : Nat) (mig : Bool) : Nat × Nat × Nat :=
  match s.launch? l with
  | some x => if mig then (8, 0, 0) else (x.header.regs, x.header.nv, x.header.nk)
  | none => (8, 0, 0)

/-- Free windows of given sizes on a core (R66). -/
def findWindows (s : State) (c g nv nk : Nat) : Option (Nat × Nat) :=
  match freeBase (gTaken s c) g 2048, freeBase (wTaken s c) (ceil8 nv + ceil8 nk) 256 with
  | some a, some b => some (a, b)
  | _, _ => none

/-- The declared thread count of a launch's kernel. -/
def declared (s : State) (l : Nat) : Nat := ((s.launch? l).map (·.header.threads)).getD 0

/-- The thread a `spawn` creates, and its handle; none where it finds no room (R132). -/
def spawned (s : State) (key : Nat) (t : Thread) (mig : Bool) (pc g0 : Word) : Option (State × Word) :=
  let c := coreOf key
  if 512 ≤ liveThreads s t.launch t.group then none
  else
    let (gn, nv, nk) := windowSizes s t.launch mig
    match lowestSlot s c t.ctag t.launch t.group, findWindows s c gn nv nk with
    | some j, some (gb, wb) =>
      let seq := (s.core c).spawns + 1
      let h : Word := BitVec.ofNat 64 (seq.toNat * 64 + j)
      let keep : Vector Segment 8 := Vector.ofFn fun i => if mig && decide (2 ≤ i.val) then .null else t.segs[i]
      let n : Thread := { blankThread mig gb gn wb nv nk (s.core c).rot with
        pc := startPc pc, segs := keep, cseg := t.cseg, rank := freeRank s t.launch t.group (declared s t.launch),
        ctag := t.ctag, launch := t.launch, group := t.group, readyAt := s.cyc + 8, handle := some h }
      let s1 := createThread s (slotKey c j) n
      some (Iss.putG (s1.updCore c fun k => { k with spawns := seq }) c gb g0, h)
    | _, _ => none

/-- `spawn` (R132). -/
def execSpawn (c : Ctl) (mig : Bool) (d a b : Opnd) (s : State) : Host.Outcome State Fault Refusal :=
  issue (.spawn c mig d a b) s fun x => do
    x.queues [a, b] [d]
    let (pc, x) ← x.int 1 a
    let (arg, x) ← x.int 2 b
    match spawned x.s x.key x.th mig pc arg with
    | some (s', h) => pure ({ x with s := s' }.setInt d h)
    | none => pure (x.setInt d (BitVec.allOnes 64))

/-- Whether a handle names a live thread that the group spawned on a core (R133). -/
def spawnLives (s : State) (c : Nat) (t : Thread) (h : Word) : Bool :=
  let key := slotKey c (h.toNat % 64)
  ((s.thread? key).toList ++ (s.slot key).lent.toList).any fun o =>
    o.handle == some h && o.launch == t.launch && o.group == t.group

/-- `join` (R133). -/
def execJoin (c : Ctl) (a : Opnd) (s : State) : Host.Outcome State Fault Refusal :=
  issue (.join c a) s fun x => do
    x.queues [a] []
    let (h, y) ← x.int 1 a
    if spawnLives x.s x.core x.th h then .error (.hold .join x.s) else pure y

/-- The map of slots that a thread of a group could be given (R134). -/
def slotMap (s : State) (c : Nat) (t : Thread) : Word :=
  if resident s c t.ctag && !spanForeign s c t.launch t.group then
    BitVec.ofNat 64 ((List.range (s.rotLen c)).foldr (fun j acc =>
      acc + if slotFree s (slotKey c j) then 2 ^ j else 0) 0)
  else 0

/-- `slot` (R134). -/
def execSlot (c : Ctl) (d : Opnd) (s : State) : Host.Outcome State Fault Refusal :=
  issue (.slot c d) s fun x => do
    x.queues [] [d]
    pure (x.setInt d (slotMap x.s x.core x.th))

end Sys2Proof.Machine
end

