-- ==== Sys2Proof/Machine/CoreInstr.lean ====
section
/-! DEFINITION. Core instructions (R229 to R246): queues, borrowed windows, deposits, packets and system. -/

namespace Sys2Proof.Machine

/-! ### Queues (R231 to R234) -/

/-- The queue an operand names. -/
def queueIndex (o : Opnd) : Nat :=
  match o with
  | .q n => n.val
  | _ => 0

/-- Bytes and alignment of a queue's memory accesses (R231). -/
def queueBytes (q : Nat) : Nat := if q < 12 then 8 else 256
def queueAlign (q : Nat) : Nat := if q < 12 then 8 else 64

/-- An entry from its bytes; a wide one is raw (R231). -/
def entryOf (bs : List Byte) : VReg := ⟨BitVec.ofNat 2048 (ofBytes bs), 0⟩

/-- `qld` (R231): the thread does not wait for the data. -/
def execQld (c : Ctl) (d : Opnd) (r : MemRef) (s : State) : Host.Outcome State Fault Refusal :=
  issue (.qld c d r) s fun x => do
    let q := queueIndex d
    x.queues [] [d]
    let (o, x) ← x.offset r
    let ps ← x.access r o (queueBytes q) .load .everywhere (queueAlign q)
    let (id, x) := x.startLoad ps d none
    let x := { x with remote := none }
    match x.place ps with
    | .ownCore => pure { (x.timed_ true (spans ps) false) with lat := 7, fills := some id }
    | .ownVault => pure { (x.timed_ true (spans ps) true) with fills := some id }
    | .otherCore | .otherVault | .paged => pure { x with s := trip .arrivalAtHome [id] x.s }

/-- `qst` (R232). -/
def execQst (c : Ctl) (d : Opnd) (r : MemRef) (s : State) : Host.Outcome State Fault Refusal :=
  issue (.qst c d r) s fun x => do
    let q := queueIndex d
    x.queues [d] []
    let (o, x) ← x.offset r
    let ps ← x.access r o (queueBytes q) .store .everywhere (queueAlign q)
    x.tileHold ps
    let (v, x) ← x.pop q true
    pure { ((x.storeTime false ps).storeParts ps (toBytes (queueBytes q) v.data.toNat)) with lat := 7 }

/-- `qcnt` (R233): A is neither popped nor pushed. -/
def execQcnt (c : Ctl) (d a : Opnd) (s : State) : Host.Outcome State Fault Refusal :=
  issue (.qcnt c d a) s fun x => do
    x.owns (Iss.queuesOf [d, a])
    x.queues [] [d]
    let q := x.s.queue x.core (queueIndex a)
    pure (x.setInt d (BitVec.ofNat 64 (Iss.filled x.s q + 256 * q.ents.length)))

/-- `qclr` (R234). -/
def execQclr (c : Ctl) (d a : Opnd) (s : State) : Host.Outcome State Fault Refusal :=
  issue (.qclr c d a) s fun x => do
    x.owns (Iss.queuesOf [d, a])
    x.queues [] [d]
    let n := queueIndex a
    let q := x.s.queue x.core n
    let held := q.ents.length
    if Iss.filled x.s q ≠ held then .error (.hold .queueClear x.s)
    else
      let s1 := x.s.setQueue x.core n { q with
        head := BitVec.ofNat 4 ((q.head.toNat + held) % Iss.queueDepth n), ents := [] }
      let s2 := q.ents.foldl (fun s e => dropErr s (.queue x.core n e.seq)) s1
      pure ({ x with s := s2 }.setInt d (BitVec.ofNat 64 held))

/-! ### Borrowed windows (R235 to R237) -/

/-- The lowest slot that can be lent (R235). -/
def lendableSlot (s : State) (c : Nat) : Option Nat := (List.range (s.rotLen c)).find? fun j => slotFree s (slotKey c j)

/-- `borrow` (R235). The traps of its own have 0 in detail [7:0], and the E_RIGHTS a second detail of 0 (entry 20). -/
def execBorrow (c : Ctl) (d a : Opnd) (s : State) : Host.Outcome State Fault Refusal :=
  issue (.borrow c d a) s fun x => do
    x.queues [a] [d]
    let (n, x) ← x.int 1 a
    if x.th.status.getLsbD 12 then .error (.trap (eRights (detail 0 7 0 5) 0) none)
    else if x.th.status.getLsbD 13 then .error (.trap (eRights (detail 0 7 0 6) 0) none)
    else if n.toNat < 8 ∨ 128 < n.toNat ∨ n.toNat % 8 ≠ 0 then .error (.trap (eBounds (detail 0 7 0 1) n) none)
    else match lendableSlot x.s x.core, freeBase (gTaken x.s x.core) n.toNat 2048 with
      | some j, some e =>
        let k := slotKey x.core j
        let s1 := clearG x.s x.core e n.toNat
        let s2 := s1.setSlot k { (s1.slot k) with withheld := true, loan := (0, 0) }
        let th := { x.th with status := x.th.status ||| 0x2000, lender := j, bBase := e, bSize := n.toNat }
        pure ({ x with s := s2, th := th }.setInt d (BitVec.ofNat 64 j))
      | _, _ => pure (x.setInt d (BitVec.allOnes 64))

/-- `bret` (R236): the slot and the borrowed entries are free from the cycle after its last stage on. -/
def execBret (c : Ctl) (s : State) : Host.Outcome State Fault Refusal :=
  issue (.bret c) s fun x =>
    if x.th.status.getLsbD 13 then
      .ok { x with
            s := giveBack x.s x.core x.th 8
            th := { x.th with status := x.th.status &&& ~~~(0x2000 : BitVec 32) }
            wrote := true }
    else .ok x

/-- `xmov` (R237). -/
def execXmov (c : Ctl) (d a : Opnd) (s : State) : Host.Outcome State Fault Refusal :=
  issue (.xmov c d a) s fun x => do
    x.queues [a] [d]
    let (v, x) ← x.int 1 a
    pure (x.setInt d v)

/-! ### Deposits (R222, R238) -/

/-- The register a deposit names. -/
def depositReg (d : Opnd) : RegName :=
  match d with
  | .v n => .v n.val
  | .k n => .k n.val
  | .p n => .p n.val
  | .m n => .m n.val
  | .g n => .g n.val
  | _ => .g 0

/-- The value a deposit carries, with its tag. -/
def Iss.depositValue (x : Iss) (d a : Opnd) : Except Stop (VReg × Iss) :=
  match d, a with
  | .v _, _ | .k _, _ => x.vec 1 a
  | .m _, .m n => .ok (⟨x.th.mregs[n].setWidth 2048, 0⟩, x)
  | _, _ => do
    let (v, x) ← x.int 1 a
    pure (⟨v.setWidth 2048, 0⟩, x)

/-- Cycles a deposit travels (R222). -/
def depositDelay (from_ dest : Nat) : Nat := if from_ = dest then 4 else 4 + 2 * hops from_ dest

/-- `sendr` (R238). -/
def execSendr (c : Ctl) (d a b : Opnd) (s : State) : Host.Outcome State Fault Refusal :=
  issue (.sendr c d a b) s fun x => do
    x.queues [a, b] []
    let (v, x) ← x.depositValue d a
    let (t, x) ← x.int 2 b
    let core := bitsAt t.toNat 0 14
    let cl := clusterOf core
    if !(x.s.span x.th.launch x.th.group x.cl).contains cl then .error (.trap (ePart 1 (BitVec.ofNat 64 cl)) none)
    else
      let (id, s1) := x.s.newId
      let w := depositDelay x.cl cl
      let dep : Deposit := ⟨x.core, x.slot, core, bitsAt t.toNat 16 6, x.th.ctag, x.th.launch, x.th.group, depositReg d,
        v.data, v.tag, x.s.cyc + w, false⟩
      pure { x with s := later w .depositLanding [x.core, x.slot, id] { s1 with deposits := s1.deposits.set id dep } }

/-! ### Packets (R240 to R242) -/

/-- A trap of `sendw` and `send` (R249); detail [7:0] and the second detail are 0 (entry 20). -/
def packetBounds (cause : Nat) : Except Stop Unit := .error (.trap (eBounds (detail 0 8 0 cause) 0) none)

/-- The checks of a destination, against the open packet (R240). -/
def Iss.packetDest (x : Iss) (b : Word) : Except Stop Unit :=
  if 16383 < b.toNat then packetBounds 3
  else if !x.s.inPart x.th.ctag (clusterOf b.toNat) then
    .error (.trap (ePart 2 (BitVec.ofNat 64 (clusterOf b.toNat))) none)
  else match x.th.packet with
    | some p => if p.dest ≠ b.toNat then packetBounds 2 else .ok ()
    | none => .ok ()

/-- The packet of a thread as it is sent. -/
def packetBody (x : Iss) (p : OpenPacket) (pc : BitVec 32) : PktBody :=
  ⟨.message, p.dest, x.core, p.seq, x.th.ctag, x.th.launch, x.th.group, p.words, pc, none, (x.s.core x.core).know⟩

/-- The open packet, or one opened now with a retention entry (R240, R371). -/
def Iss.openPacket (x : Iss) (dest : Nat) (orig : State) : Except Stop (OpenPacket × Iss) :=
  match x.th.packet with
  | some p => .ok (p, x)
  | none =>
    if !retentionFree x.s x.core then .error (.hold .retention orig)
    else
      let (seq, s1) := nextSeq x.s x.core
      let p : OpenPacket := ⟨dest, seq, []⟩
      .ok (p, { x with s := retain s1 (packetBody x p 0) })

/-- Whether a further word does not fit in the flit that `n` words have filled, which leaves with it (R369). -/
def fillsFlit (n : Nat) : Bool := decide (6 ≤ n) && n % 8 == 6

/-- A core's injection port after a word was given to it: whether it takes the next one is open (R240; entry 18). -/
def drawPort (s : State) (c : Nat) : State :=
  { s with fresh := s.fresh + 1 }.updCore c fun k => { k with portFull := Config.freeBit s.fresh }

/-- `sendw` (R240). -/
def execSendw (c : Ctl) (a b : Opnd) (s : State) : Host.Outcome State Fault Refusal :=
  issue (.sendw c a b) s fun x0 => do
    x0.queues [a, b] []
    let (v, x) ← x0.int 1 a
    let (t, x) ← x.int 2 b
    x.packetDest t
    let (p, x) ← x.openPacket t.toNat x0.s
    if 32 ≤ p.words.length then do
      packetBounds 1
      pure x
    else if (x.s.core x.core).portFull then .error (.hold .injection (drawPort x0.s x0.core))
    else
      let s1 := drawPort x.s x.core
      let s2 := if fillsFlit p.words.length then injectFull s1 (packetBody x p 0) ((p.words.length + 2) / 8 - 1) else s1
      pure { x with s := s2, th := { x.th with packet := some { p with words := p.words ++ [v] } } }

/-- `send` (R241): the store buffer is published before the closing flit leaves. The handler's PC is the low 32 bits of A (entry 16). -/
def execSend (c : Ctl) (a b : Opnd) (s : State) : Host.Outcome State Fault Refusal :=
  issue (.send c a b) s fun x0 => do
    x0.queues [a, b] []
    let (pc, x) ← x0.int 1 a
    let (t, x) ← x.int 2 b
    x.packetDest t
    let (p, x) ← x.openPacket t.toNat x0.s
    let body := packetBody x p (pc.setWidth 32)
    let s1 := x.s.updCore x.core fun k => { k with
      retained := k.retained.map fun r => if r.body.seq == p.seq then { r with body := body } else r }
    pure { x with s := publishThenSend s1 x.core p.seq, th := { x.th with packet := none } }

/-! ### System (R243 to R246) -/

/-- `trap` (R243). -/
def execTrap (c : Ctl) (a : Opnd) (s : State) : Host.Outcome State Fault Refusal :=
  issue (.trap c a) s fun x => do
    x.queues [a] []
    let (v, _) ← x.int 1 a
    .error (.trap ⟨0x0C, v.setWidth 32, v⟩ none)

/-- `brk` (R243). -/
def execBrk (c : Ctl) (s : State) : Host.Outcome State Fault Refusal :=
  issue (.brk c) s fun _ => .error (.trap ⟨0x0D, 0, 0⟩ none)

/-- The code of a segment kind (R72). -/
def kindCode : SegKind → Nat
  | .null => 0 | .memory => 1 | .core => 2 | .vault => 3 | .barrier => 4 | .code => 5 | .res6 => 6 | .res7 => 7

/-- Extent and coordinate of a thread's group in a dimension (R75). -/
def gridOf (s : State) (t : Thread) (dim : Nat) : Nat × Nat :=
  match s.launch? t.launch with
  | some l =>
    let (x, y, z) := coords l.grid t.group
    match dim with
    | 0 => (l.grid.1, x)
    | 1 => (l.grid.2.1, y)
    | _ => (l.grid.2.2, z)
  | none => (1, 0)

/-- The value of a special register (R75). -/
def specialValue (s : State) (key : Nat) (t : Thread) (r : XReg) : Word :=
  match r with
  | .status => t.status.setWidth 64
  | .npth => t.npth.setWidth 64
  | .ferl => t.ferl.setWidth 64
  | .cyc => BitVec.ofNat 64 s.cyc
  | .rank => BitVec.ofNat 64 t.rank
  | .core => BitVec.ofNat 64 (coreOf key)
  | .slot => BitVec.ofNat 64 (slotOf key)
  | .wins => BitVec.ofNat 64 (t.gSize + 2 ^ 8 * t.nv + 2 ^ 16 * t.nk + 2 ^ 24 * t.rot)
  | .group => BitVec.ofNat 64 (gridOf s t 0).2
  | .group1 => BitVec.ofNat 64 (gridOf s t 1).2
  | .group2 => BitVec.ofNat 64 (gridOf s t 2).2
  | .grid => BitVec.ofNat 64 (gridOf s t 0).1
  | .grid1 => BitVec.ofNat 64 (gridOf s t 1).1
  | .grid2 => BitVec.ofNat 64 (gridOf s t 2).1
  | .ctag => t.ctag.setWidth 64
  | .cseg => BitVec.ofNat 64 (t.cseg.index.toNat + 2 ^ 12 * kindCode t.cseg.kind + 2 ^ 16 * t.cseg.limit.toNat)

/-- `xrd` (R244). -/
def execXrd (c : Ctl) (d a : Opnd) (s : State) : Host.Outcome State Fault Refusal :=
  issue (.xrd c d a) s fun x => do
    x.queues [] [d]
    match a with
    | .x r => pure (x.setInt d (specialValue x.s x.key x.th r))
    | _ => pure x

/-- A special register written (R24, R75, R78); the others are read-only. -/
def setSpecial (t : Thread) (r : XReg) (v : Word) : Thread :=
  match r with
  | .status => { t with status := statusWrite t.status v }
  | .npth => { t with npth := v.setWidth 5 }
  | .ferl => { t with ferl := v.setWidth 16 }
  | .cyc | .rank | .core | .slot | .wins | .group | .group1 | .group2 | .grid | .grid1 | .grid2 | .ctag | .cseg => t

/-- `xwr` (R244). -/
def execXwr (c : Ctl) (d a : Opnd) (s : State) : Host.Outcome State Fault Refusal :=
  issue (.xwr c d a) s fun x => do
    x.queues [a] []
    let (v, x) ← x.int 1 a
    match d with
    | .x r => pure { x with th := setSpecial x.th r v, wrote := true }
    | _ => pure x

/-- `cyc` (R245). -/
def execCyc (c : Ctl) (d : Opnd) (s : State) : Host.Outcome State Fault Refusal :=
  issue (.cyc c d) s fun x => do
    x.queues [] [d]
    pure (x.setInt d (BitVec.ofNat 64 x.s.cyc))

/-- `cyc` with a deadline (R245). -/
def execCycDeadline (c : Ctl) (d a : Opnd) (s : State) : Host.Outcome State Fault Refusal :=
  issue (.cycDeadline c d a) s fun x0 => do
    x0.queues [a] [d]
    let (t, x) ← x0.int 1 a
    if x.s.cyc < t.toNat then .error (.hold .deadline x0.s) else pure (x.setInt d (BitVec.ofNat 64 x.s.cyc))

/-- `idle` (R246): a count of 0 waits for a deposit alone. One that waits for its count in a queue freezes no span. -/
def execIdle (c : Ctl) (a : Opnd) (s : State) : Host.Outcome State Fault Refusal :=
  issue (.idle c a) s fun x => do
    x.owns (Iss.queuesOf [a])
    if (x.queues [a] []).toOption.isNone then .error (.hold .idleCount x.s)
    let (v, x) ← x.int 1 a
    let n := bitsAt v.toNat 0 32
    let th := { x.th with idle := some (if n = 0 then 0 else x.s.cyc + n) }
    let s1 := if n = 0 then x.s else later n .idleExpiry [x.core, x.slot] x.s
    pure { x with s := s1, th := th, st := .blocked }

end Sys2Proof.Machine
end

