-- ==== Sys2Proof/Machine/EngineEvents.lean ====
section
/-! DEFINITION. Events of the cluster's engines: matrix jobs (R259, R278), copies (R264), fences (R276) and subscriptions
(R266). -/

namespace Sys2Proof.Machine

/-! ### Matrix jobs (R259, R278) -/

/-- The engine's job: its queue and its entry. -/
def runningJob (s : State) (cl : Nat) : Option (EngineRun × Job) :=
  (s.cluster cl).engine.bind fun r => (findJob s cl r.queue r.seq).map fun j => (r, j)

/-- `MATRIX_JOB_START` (R259). -/
def execMatrixJobStart (s : State) : Host.Outcome State Fault Refusal :=
  match s.args with
  | [cl] => match (s.cluster cl).engine, nextMatrix s cl with
    | none, some (q, j) =>
      let d := (jobTime s cl j.kind).1
      let s1 := jobErr (updJob s cl q j.seq fun j => { j with phase := .running }) cl q j.seq
      .next (s1.updCluster cl fun k => { k with lastServed := q, engine := some ⟨q, j.seq, d - j.ran, s.cyc, d⟩ })
    | _, _ => .next s
  | _ => .next s

/-- Chunks of a running job within the cycles it has been given: all of them, unless a cancellation cut it (R284). -/
def chunksRun (s : State) (cl : Nat) (r : EngineRun) (j : Job) : Nat :=
  let (d, c) := jobTime s cl j.kind
  if r.total = d then (d + c - 1) / c else r.total / c

/-- What a matrix job that ends has done: the accumulator or its elements, the flags, and whether an error was met. -/
def matrixWork (s : State) (cl : Nat) (j : Job) (n : Nat) : State × Flags × Bool :=
  match j.kind with
  | .mma keep sat a ha hb => if n = 0 then (s, 0, false) else runMma s cl keep sat a ha hb n
  | .mzero a _ => if n = 0 then (s, 0, false) else (runMzero s cl a, 0, false)
  | .mwr a h => runMwr s cl a h n
  | .mrd .. | .cpy .. | .fence .. => (s, 0, false)

/-- The tiles a job read become READY, where that job still holds them. -/
def releaseReads (s : State) (cl q : Nat) (j : Job) : State :=
  j.kind.reads.foldl (fun s h =>
    let b := baseHandle s cl h
    let t := s.tile cl b
    if t.st = .draining ∧ t.job = jobId q j.seq then tileReady s cl b j.know else s) s

/-- `MATRIX_JOB_END` (R278). -/
def execMatrixJobEnd (s : State) : Host.Outcome State Fault Refusal :=
  match s.args with
  | [cl] => match runningJob s cl with
    | some (r, j) =>
      if r.left ≠ 0 then .next s
      else
        let (s1, f, bad) := matrixWork s cl j (chunksRun s cl r j)
        let s2 := updJob (releaseReads s1 cl r.queue j) cl r.queue r.seq fun j => { j with
          phase := .ended, flags := j.flags ||| f.setWidth 5, emach := j.emach || bad }
        .next (later 8 .matrixJobComplete [cl, r.queue, r.seq.toNat] (s2.updCluster cl fun k => { k with engine := none }))
    | none => .next s
  | _ => .next s

/-- Whether a job still fills its tile. -/
def stillFills (s : State) (cl q : Nat) (j : Job) : Bool :=
  match j.kind.writes? with
  | some h => (s.tile cl h).st == .filling && (s.tile cl h).job == jobId q j.seq
  | none => false

/-- `MATRIX_JOB_COMPLETE` (R278): not before every byte of an `mrd` has landed (R279). -/
def execMatrixJobComplete (s : State) : Host.Outcome State Fault Refusal :=
  match s.args with
  | [cl, q, n] => match findJob s cl q (BitVec.ofNat 32 n) with
    | some j =>
      if j.phase ≠ .ended then .next s
      else if !j.canc && stillFills s cl q j then .next (later 1 .matrixJobComplete [cl, q, n] s)
      else .next (completeJob s cl q j.seq)
    | none => .next s
  | _ => .next s

/-! ### Copies (R264, R265) -/

/-- What a streamer needs to know of a copy job of queue `q`. -/
def copyStream (q : Nat) (j : Job) (desc : CopyDesc) (seg : Segment) : StreamJob :=
  ⟨desc, seg, j.core, j.slot, j.launch, j.ctag, j.declined, q, j.seq.toNat, j.know⟩

/-- What a streamer needs to know of tile `n` of subscription `k` of a cluster; its own accesses are what it knows (R338). -/
def subStream (cl k : Nat) (x : Sub) (n : Nat) : StreamJob :=
  ⟨x.desc.step x.drow x.dcol n, x.seg, x.core, x.slot, x.launch, x.ctag, x.declined, 8 + k, x.since, SMap.set [] (jobAgent cl (8 + k)) (x.since + 1)⟩

/-- Pages waited for joined to their walks (R265, R319). -/
def joinPages (s : State) (cl : Nat) (ctag : BitVec 16) (unit : Nat) (pages : List Nat) : State :=
  pages.foldl (fun s p => joinMiss s cl ctag (p * 2 ^ 17) (.copy unit)) s

/-- Pages added to those a unit waits for. -/
def addWaits (l pages : List Nat) : List Nat := l ++ pages.filter fun p => !l.contains p

/-- `COPY_JOB_START` (R259). -/
def execCopyJobStart (s : State) : Host.Outcome State Fault Refusal :=
  match s.args with
  | [cl, q] => match startable s cl q with
    | some j =>
      let s1 := jobErr (updJob s cl q j.seq fun j => { j with phase := .running }) cl q j.seq
      match j.kind with
      | .cpy h false _ _ =>
        .next ((List.range (s.tile cl h).rows).foldl (fun s r => trip .bytesLand [cl, q, r, j.seq.toNat] s) s1)
      | .cpy _ true _ _ => .next (trip .copyLastTileRead [cl, q, j.seq.toNat] s1)
      | .mma .. | .mzero .. | .mrd .. | .mwr .. | .fence .. => .next s
    | none => .next s
  | _ => .next s

/-- A row of a streamer's tile landed, or its wait: `note` records pages waited for. The event's fifth number is the row's turn at its
banks. -/
def streamRow (s : State) (cl h unit r seq : Nat) (j : StreamJob) (note : State → List Nat → State) :
    State × Option Brought :=
  let t := s.tile cl h
  let pages := j.missing s cl false t r
  let k := s.args.getD 4 0
  if !pages.isEmpty then (later 1 .bytesLand [cl, unit, r, seq, k] (joinPages (note s pages) cl j.ctag unit pages), none)
  else match takeRow s cl h r k (j.banked t r) with
    | .next s1 k => (later 1 .bytesLand [cl, unit, r, seq, k] s1, none)
    | .done s1 =>
      let b := j.fetch s1 cl t r
      let (data, exps) := rowImage t b
      (landRow b.s cl h r (j.writer cl) j.know data exps, some b)

/-- Bytes of a copy job (R252, R264). -/
def landCopy (s : State) (cl q r seq : Nat) : State :=
  match findJob s cl q (BitVec.ofNat 32 seq) with
  | none => s
  | some j => match j.kind with
    | .cpy h false desc seg =>
      if j.canc ∨ !stillFills s cl q j then s
      else
        let note (s : State) (ps : List Nat) : State := updJob s cl q j.seq fun j => { j with waits := addWaits j.waits ps }
        match streamRow s cl h q r seq (copyStream q j desc seg) note with
        | (s1, none) => s1
        | (s1, some b) =>
          let full := (s1.tile cl h).arrived == (s1.tile cl h).expected
          let s2 := updJob s1 cl q j.seq fun j => { j with
            emem := j.emem || b.refused, emach := j.emach || b.bad, phase := if full then .ended else j.phase }
          if full then later 1 .copyJobComplete [cl, q] s2 else s2
    | .cpy .. | .mma .. | .mzero .. | .mrd .. | .mwr .. | .fence .. => s

/-- Bytes of an `mrd` (R272); a fifth number of 1 says that the engine had the row's banks in the cycle before (R278). -/
def landRead (s : State) (cl q r seq : Nat) : State :=
  match findJob s cl q (BitVec.ofNat 32 seq) with
  | none => s
  | some j => match j.kind with
    | .mrd a h sat =>
      if j.canc ∨ !stillFills s cl q j then s
      else match (if s.args.getD 4 0 = 1 then some s else takeEngineRow s cl h r) with
        | none => later 1 .bytesLand [cl, q, r, seq] s
        | some s0 =>
          let t := s.tile cl h
          let (vs, bad, s1) := accRow s0 cl a r t.cols
          let (es, xs, f) := rowOfAcc (s1.acc cl a).atag t.fmt sat vs
          let w : Writer := ⟨some j.launch, j.core, j.slot, 2, some (jobAgent cl q), j.seq.toNat⟩
          let s2 := landRow s1 cl h r w j.know (rowBytesOf t.width t.rowBytes es) (xs.map (BitVec.ofNat 8))
          updJob s2 cl q j.seq fun j => { j with flags := j.flags ||| f.setWidth 5, emach := j.emach || bad }
    | .cpy .. | .mma .. | .mzero .. | .mwr .. | .fence .. => s

def updSub (s : State) (cl n : Nat) (f : Sub → Sub) : State :=
  s.updCluster cl fun k => { k with subs := k.subs.map fun e => (e.1, if e.1 = n then f e.2 else e.2) }

/-- The subscription of a tile, its number and the tile's slot in it. -/
def subOf (s : State) (cl h : Nat) : Option (Nat × Sub × Nat) :=
  (s.tile cl h).sub.bind fun n => ((s.cluster cl).subs.get? n).map fun x => (n, x, h - x.h0)

/-- Bytes of a loader subscription (R266). -/
def landSub (s : State) (cl h r seq : Nat) : State :=
  match subOf s cl h with
  | none => s
  | some (n, x, i) =>
    if x.storer ∨ x.next.getD i 0 ≠ seq ∨ (s.tile cl h).st ≠ .filling then s
    else
      let note (s : State) (ps : List Nat) : State := updSub s cl n fun x => { x with waits := addWaits x.waits ps }
      match streamRow s cl h (8 + h) r seq (subStream cl n x seq) note with
      | (s1, none) => s1
      | (s1, some b) => if b.refused then updTile s1 cl h fun t => { t with semem := true } else s1

/-- `BYTES_LAND` (R252): bytes that come after their tile was freed or their job cancelled are discarded (R284, R287). -/
def execBytesLand (s : State) : Host.Outcome State Fault Refusal :=
  match s.args with
  | cl :: unit :: r :: seq :: _ =>
    if unit < 4 then .next (landRead s cl unit r seq)
    else if unit < 8 then .next (landCopy s cl unit r seq)
    else .next (landSub s cl (unit - 8) r seq)
  | _ => .next s

/-- The rows of a tile that a streamer reads, in turn `k` at their banks (R216, R280). -/
def takeRows (s : State) (cl h k : Nat) : Turned :=
  let t := s.tile cl h
  takeTurns s ((List.range t.rows).flatMap (t.rowPieces cl)) k

/-- All writes of a direction 1 window: the writes, whether an element was refused and an error met, and the state. -/
def drainWrites (s : State) (cl h : Nat) (j : StreamJob) : List (Nat × Nat × List Byte) × Bool × Bool × State :=
  let t := s.tile cl h
  (List.range t.rows).foldl (fun acc r =>
    let (ws, refused, bad, s) := acc
    let (row, s1) := storedRow s cl t r
    let (w, no) := j.stores s1 cl t r row
    (ws ++ joinWrites w, refused || no, bad || row.bad, s1)) ([], false, false, s)

/-- Pages a direction 1 window still waits for. -/
def drainMissing (s : State) (cl h : Nat) (j : StreamJob) : List Nat :=
  let t := s.tile cl h
  ((List.range t.rows).flatMap fun r => j.missing s cl true t r).eraseDups

/-- The last read of a direction 1 copy (R264). -/
def drainCopy (s : State) (cl q seq : Nat) : State :=
  match findJob s cl q (BitVec.ofNat 32 seq) with
  | none => s
  | some j => match j.kind with
    | .cpy h true desc seg =>
      if j.canc ∨ j.phase ≠ .running then s
      else
        let x := copyStream q j desc seg
        let pages := drainMissing s cl h x
        if !pages.isEmpty then
          let s1 := updJob s cl q j.seq fun j => { j with waits := addWaits j.waits pages }
          later 1 .copyLastTileRead [cl, q, seq] (joinPages s1 cl j.ctag q pages)
        else match takeRows s cl h (s.args.getD 3 0) with
        | .next s1 k => later 1 .copyLastTileRead [cl, q, seq, k] s1
        | .done s0 =>
          let (ws, refused, bad, s1) := drainWrites s0 cl h x
          let s2 := sendWrites (releaseReads s1 cl q j) cl q j.seq x ws
          updJob s2 cl q j.seq fun j => { j with
            phase := .ended, pendingWrites := ws.length, emem := j.emem || refused, emach := j.emach || bad }
    | .cpy .. | .mma .. | .mzero .. | .mrd .. | .mwr .. | .fence .. => s

/-- The last read of a storer's write-back (R266). -/
def drainSub (s : State) (cl h seq : Nat) : State :=
  match subOf s cl h with
  | none => s
  | some (n, x, i) =>
    if !x.storer ∨ x.next.getD i 0 ≠ seq ∨ (s.tile cl h).st ≠ .draining ∨ x.writes.has i then s
    else
      let j := subStream cl n x seq
      let pages := drainMissing s cl h j
      if !pages.isEmpty then
        let s1 := updSub s cl n fun x => { x with waits := addWaits x.waits pages }
        later 1 .copyLastTileRead [cl, 8 + h, seq] (joinPages s1 cl j.ctag (8 + h) pages)
      else match takeRows s cl h (s.args.getD 3 0) with
      | .next s1 k => later 1 .copyLastTileRead [cl, 8 + h, seq, k] s1
      | .done s0 =>
        let (ws, refused, _, s1) := drainWrites s0 cl h j
        let s2 := sendWrites s1 cl (8 + n) (BitVec.ofNat 32 i) j ws
        let s3 := updSub s2 cl n fun x => { x with writes := x.writes.set i ws.length }
        if refused then updTile s3 cl h fun t => { t with semem := true } else s3

/-- `COPY_LAST_TILE_READ` (R264). -/
def execCopyLastTileRead (s : State) : Host.Outcome State Fault Refusal :=
  match s.args with
  | cl :: unit :: seq :: _ => .next (if unit < 8 then drainCopy s cl unit seq else drainSub s cl (unit - 8) seq)
  | _ => .next s

/-- `COPY_JOB_COMPLETE` (R264). -/
def execCopyJobComplete (s : State) : Host.Outcome State Fault Refusal :=
  match s.args with
  | [cl, q] => match (s.jobQueue cl q).jobs with
    | j :: _ =>
      if j.phase = .ended ∧ j.pendingWrites = 0 ∧ 4 ≤ q then .next (completeJob s cl q j.seq) else .next s
    | [] => .next s
  | _ => .next s

/-! ### Fences and subscriptions (R266, R276) -/

/-- `QFENCE_COMPLETE` (R276). -/
def execQfenceComplete (s : State) : Host.Outcome State Fault Refusal :=
  match s.args with
  | [_, id] => match s.fences.get? id with
    | some f =>
      if fenceReady s f then
        .next (f.parts.foldl (fun s p => completeJob s f.cluster p.1 p.2) { s with fences := s.fences.erase id })
      else .next s
    | none => .next s
  | _ => .next s

/-- `SUBSCRIPTION_TILE_START` (R252, R266). -/
def execSubscriptionTileStart (s : State) : Host.Outcome State Fault Refusal :=
  match s.args with
  | [cl, n, i] => match (s.cluster cl).subs.get? n with
    | some x =>
      let h := x.h0 + i
      let t := s.tile cl h
      if t.st = .empty ∧ t.sub = some n ∧ x.next.getD i 0 < x.t ∧ !s.halted x.launch then
        let s1 := updTile s cl h fun t => { t with st := .filling, arrived := 0, job := 0 }
        .next ((List.range t.rows).foldl (fun s r => trip .bytesLand [cl, 8 + h, r, x.next.getD i 0] s) s1)
      else .next s
    | none => .next s
  | _ => .next s

/-- `STORER_WRITEBACK_COMPLETE` (R266): a `twait` that finds the tile READY learns of the bytes written (R338). -/
def execStorerWritebackComplete (s : State) : Host.Outcome State Fault Refusal :=
  match s.args with
  | [cl, n, i] => match (s.cluster cl).subs.get? n with
    | some x =>
      if x.writes.get? i = some 0 then
        let s1 := updSub s cl n fun x => { x with
          writes := x.writes.erase i, next := listSet x.next i (x.next.getD i 0 + x.n) }
        .next (tileReady s1 cl (x.h0 + i) (SMap.set [] (jobAgent cl (8 + n)) (x.since + 1)))
      else .next s
    | none => .next s
  | _ => .next s

/-! ### Cancellation (R284) -/

/-- The chunks that a matrix job added before a halt stopped it (R283, R284). -/
def keepChunks (s : State) (cl q : Nat) (j : Job) : State :=
  if j.ran = 0 then s
  else
    let (s1, f, bad) := matrixWork s cl j (j.ran / (jobTime s cl j.kind).2)
    updJob s1 cl q j.seq fun j => { j with flags := j.flags ||| f.setWidth 5, emach := j.emach || bad }

/-- A job of a cancelled group: one that has not started is removed and completes with `CANC`, with the chunks that it added
before a halt; a running matrix job is cut at its next chunk boundary; a running copy completes. -/
def cancelJob (s : State) (cl q : Nat) (j : Job) : State :=
  let s1 := updJob s cl q j.seq fun j => { j with canc := true }
  match j.phase with
  | .queued => updJob (keepChunks s1 cl q j) cl q j.seq fun j => { j with phase := .complete }
  | .running =>
    if q < 4 then
      let c := (jobTime s cl j.kind).2
      let cut (r : EngineRun) : EngineRun :=
        let ran := r.total - r.left
        let stop := min r.total ((ran + c - 1) / c * c)
        { r with total := stop, left := stop - ran }
      match (s1.cluster cl).engine with
      | some r =>
        if r.queue = q ∧ r.seq = j.seq then
          let s2 := s1.updCluster cl fun k => { k with engine := some (cut r) }
          if (cut r).left = 0 then arm 0 .matrixJobEnd [cl] s2 else s2
        else s1
      | none => s1
    else updJob s1 cl q j.seq fun j => { j with phase := .complete, pendingWrites := 0 }
  | .ended => if q < 4 then s1 else updJob s1 cl q j.seq fun j => { j with phase := .complete, pendingWrites := 0 }
  | .complete => s1

/-- The fences among jobs, by number. -/
def fencesOf (js : List Job) : List Nat := js.filterMap fun j => match j.kind with
  | .fence id => some id
  | .mma .. | .mzero .. | .mrd .. | .mwr .. | .cpy .. => none

/-- Jobs, subscriptions and tiles of a group that is cancelled or retires, on one cluster (R252, R266, R284). Its fence entries are
jobs that have not started: they complete too, and join nothing any more. -/
def endGroupOn (s : State) (l g cl : Nat) : State :=
  let mine (j : Job) : Bool := j.launch == l && j.group == g
  let s1 := (List.range 8).foldl (fun s q =>
    let js := (s.jobQueue cl q).jobs.filter mine
    let gone := fencesOf js
    let s0 := { s with fences := s.fences.filter fun f => !gone.contains f.1 }
    let s1 := js.foldl (fun s j => cancelJob s cl q j) s0
    advanceQueue ((s1.jobQueue cl q).jobs.length) s1 cl q) s
  let s2 := s1.updCluster cl fun k => { k with subs := k.subs.filter fun e => !(e.2.launch == l && e.2.group == g) }
  let held (h : Nat) : Bool := (List.range 8).any fun q => (s2.jobQueue cl q).jobs.any fun j =>
    j.phase != .complete && (j.kind.reads.any (fun r => baseHandle s2 cl r == h || r == h) || j.kind.writes? == some h)
  let mineT := (s2.cluster cl).tiles.filter fun e => e.2.launch == l && e.2.group == g && e.2.st != .free && !held e.1
  mineT.foldl (fun s e => freeTile s cl e.1) s2

end Sys2Proof.Machine
end

