-- ==== Sys2Proof/Machine/Link.lean ====
section
/-! DEFINITION. Claom Link ports (R434, R435): flits, the replay buffer, and messages given to a port. -/

namespace Sys2Proof.Machine

/-- The first 248 bytes of a flit. -/
def flitBody (f : LinkFlit) : List Byte :=
  toBytes 2 (f.seq.toNat + 4096 * f.kind.toNat) ++ toBytes 2 f.ackSeq.toNat ++ toBytes 2 f.dst.toNat ++ toBytes 2 f.src.toNat
    ++ (f.payload ++ List.replicate (240 - f.payload.length) 0).take 240

def State.link (s : State) (p : Nat) : LinkPort := s.links.getD p .reset
def State.setLink (s : State) (p : Nat) (x : LinkPort) : State := { s with links := s.links.put .reset p x }

/-- A control flit toward the other end: an acknowledgement (2) or a negative one (3). -/
def controlFlit (got : LinkFlit) (kind : BitVec 4) (seq : BitVec 12) : LinkFlit :=
  let f : LinkFlit := ⟨0, kind, seq, got.src, Config.moduleId, [], 0⟩
  { f with crc := Config.crc32 (flitBody f) }

/-- Flits that have waited moved into the replay buffer while it has room for 512, and sent (R434). -/
def fillReplay (cyc : Nat) : Nat → LinkPort → LinkPort × List (BitVec 12)
  | 0, x => (x, [])
  | fuel + 1, x => match x.waiting with
    | f :: r =>
      if x.replay.length < 512 then
        let (y, more) := fillReplay cyc fuel { x with waiting := r, replay := x.replay ++ [(f, cyc)], out := x.out ++ [f] }
        (y, f.seq :: more)
      else (x, [])
    | [] => (x, [])

/-- The timers of flits just sent: 4,096 network cycles are 2,048 cycles (R1, R434). -/
def armReplay (s : State) (port : Nat) (seqs : List (BitVec 12)) : State :=
  seqs.foldl (fun s q => later 2048 .linkReplayTimeout [port, q.toNat] s) s

/-- Flits that wait sent as far as the replay buffer takes them. -/
def pumpLink (s : State) (port : Nat) : State :=
  let x := s.link port
  let (y, seqs) := fillReplay s.cyc x.waiting.length x
  armReplay (s.setLink port y) port seqs

/-- The data flits of a message behind those a port has numbered. -/
def numberFlits (dst : BitVec 12) : BitVec 12 → List (List Byte) → List LinkFlit
  | _, [] => []
  | n, p :: r =>
    let f : LinkFlit := ⟨n, 1, 0, dst, Config.moduleId, p, 0⟩
    { f with crc := Config.crc32 (flitBody f) } :: numberFlits dst (n + 1) r

/-- A message sent toward a module through the port its hash picks; one without a route is lost (R435). -/
def sendMessage (s : State) (dst : BitVec 12) (win tile : Nat) (nums : List Nat) (bytes : List Byte) : State :=
  let mask := s.routes.getD dst.toNat 0
  let ports := (List.range 16).filter fun p => mask.getLsbD p
  match ports[Config.portHash [Config.moduleId.toNat, win, tile] % ports.length]? with
  | none => s
  | some port =>
    let x := s.link port
    let fs := numberFlits dst x.sendSeq (Config.fabricPayloads nums bytes)
    pumpLink (s.setLink port { x with sendSeq := x.sendSeq + BitVec.ofNat 12 fs.length, waiting := x.waiting ++ fs }) port

end Sys2Proof.Machine
end

