-- ==== Sys2Proof/Machine/Fabric.lean ====
section
/-! DEFINITION. Fabric instructions and counters (R436 to R442), and the events of a fabric operation (R439, R440). -/

namespace Sys2Proof.Machine

/-! ### Windows and counters (R436, R437) -/

def windowOf (s : State) (ctag : BitVec 16) (n : Nat) : Option WindowEntry :=
  ((s.contexts.get? ctag.toNat).bind fun c => c.windows.get? n).bind fun w => if w.wv then some w else none

def countersOf (s : State) (ctag : BitVec 16) (n : Nat) : Counters := s.counters.getD (64 * ctag.toNat + n) .reset
/-- The agent of `Know` for the bytes that a fabric operation of a module lands. -/
def fabricAgent (source : BitVec 12) (op : Nat) : Nat := 2 ^ 40 + 4096 * op + source.toNat

/-- The writer of those bytes. -/
def fabricWriter (source : BitVec 12) (op : Nat) : Writer := ⟨none, 0, 0, 2, some (fabricAgent source op), 0⟩

/-- What is ordered after the bytes that an operation has landed (R338, R439). -/
def landedKnow (source : BitVec 12) (op : Nat) : Know := [(fabricAgent source op, 1)]

def updCounters (s : State) (ctag : BitVec 16) (n : Nat) (f : Counters → Counters) : State :=
  { s with counters := s.counters.set (64 * ctag.toNat + n) (f (countersOf s ctag n)) }

/-- Tiles of a window's grid. -/
def gridTiles (w : WindowEntry) : Nat := (w.grows.toNat + 1) * (w.gcols.toNat + 1)

/-- A trap of the fabric's chapter (R442). -/
def fabricTrap {α : Type} (e : BitVec 32 → Word → Trap) (win cause : Nat) : Except Stop α :=
  .error (.trap (e (detail win 12 0 cause) 0) none)

/-- The value of a counter by kind (R437). -/
def Counters.value (c : Counters) (kind t : Nat) : BitVec 64 :=
  match kind with
  | 0 => c.lc
  | 1 => c.liss
  | 2 => c.rc
  | 3 => c.tc.getD t 0
  | _ => c.err

/-- A counter changed by kind. -/
def Counters.add (c : Counters) (kind t : Nat) (v : BitVec 64) : Counters :=
  match kind with
  | 0 => { c with lc := c.lc + v }
  | 1 => { c with liss := c.liss + v }
  | 2 => { c with rc := c.rc + v }
  | 3 => { c with tc := c.tc.put 0 t (c.tc.getD t 0 + v) }
  | _ => { c with err := c.err + v }

/-- The key of a counter in `Counters.know`. -/
def counterKey (kind t : Nat) : Nat := if kind = 3 then 8 + t else kind

/-- What the value of a counter carries: what its increments are ordered after (R338, R439, R441). -/
def Counters.carries (c : Counters) (kind t : Nat) : Know := c.know.getD (counterKey kind t) []

/-- A counter incremented, after what `k` knows (R338, R437). -/
def Counters.count (c : Counters) (kind t : Nat) (v : BitVec 64) (k : Know) : Counters :=
  let c := c.add kind t v
  { c with know := c.know.put [] (counterKey kind t) (Know.join (c.carries kind t) k) }

/-- What is ordered before an event of core `c` that is no boundary of its own: what the core has learned, and its last publishing
boundary (R334; entry 60). -/
def CoreSt.before (k : CoreSt) : Know := Know.join k.know k.sent

/-- A selector checked: window, kind and tile (R438, R442). -/
def Iss.selector (x : Iss) (v : Word) (adds : Bool) : Except Stop (Nat × Nat × Nat) :=
  let n := bitsAt v.toNat 0 6
  let kind := bitsAt v.toNat 6 3
  let t := bitsAt v.toNat 16 12
  if bitsAt v.toNat 9 7 ≠ 0 ∨ bitsAt v.toNat 28 36 ≠ 0 ∨ 5 ≤ kind then fabricTrap eBounds n 1
  else match windowOf x.s x.th.ctag n with
    | none => fabricTrap eBounds n 3
    | some w =>
      if kind = 3 ∧ gridTiles w ≤ t then fabricTrap eBounds n 4
      else if (kind = 2 ∨ kind = 3) ∧ w.module ≠ Config.moduleId then fabricTrap eRights n 7
      else if adds ∧ kind ≠ 2 ∧ kind ≠ 3 then fabricTrap eRights n 7
      else .ok (n, kind, t)

/-! ### Operations (R439, R440) -/

/-- A number for each kind of message; 3 is an acknowledgement, 4 the data of a get. -/
def kindNum : FabricKind → Nat
  | .put => 0 | .puts => 1 | .get => 2

/-- The local bytes of a put, read at their homes (R439). A change of their page waits until they have been (R326). -/
def FabOp.data (f : FabOp) (s : State) : List Byte :=
  match f.kind with
  | .get => []
  | .put | .puts => f.locals_.flatMap fun p => readBytes s p.1 p.2.2

/-- An operation sent: to its own module it arrives after a trip; to another module it leaves through a port. -/
def sendFabric (s : State) (op : Nat) : State :=
  match s.fabops.get? op with
  | none => s
  | some f => match windowOf s f.ctag f.win with
    | none => s
    | some w =>
      if w.module = Config.moduleId then
        let m : FabricMsg := ⟨f.kind, Config.moduleId, op, f.ctag, f.win, f.off, f.len, f.data s⟩
        match f.kind with
        | .get => trip (.fabricGetArrival m) [] s
        | .put | .puts => trip (.fabricPutArrival m) [] s
      else sendMessage s w.module f.win (f.off / max 1 w.tsize.toNat) [kindNum f.kind, op, f.ctag.toNat, f.win, f.off, f.len] (f.data s)

/-- The descriptor of an operation (R438). -/
structure FabDesc where
  lo : Nat
  seg : Fin 8
  off : Nat
  win : Nat
  len : Nat

/-- The three descriptor words, checked (R438, R442 causes 1 and 2). -/
def Iss.fabricDesc (x : Iss) (a : Opnd) : Except Stop (FabDesc × Iss) :=
  match a with
  | .g n => do
    let (w0, x) ← x.readG 1 (x.gEntry n.val)
    let (w1, x) ← x.readG 2 (x.gEntry (n.val + 1))
    let (w2, x) ← x.readG 3 (x.gEntry (n.val + 2))
    let d : FabDesc := ⟨bitsAt w0.toNat 0 48, ⟨bitsAt w0.toNat 48 3, Nat.mod_lt _ (by decide)⟩, bitsAt w1.toNat 0 48,
      bitsAt w1.toNat 48 6, bitsAt w2.toNat 0 32⟩
    if bitsAt w0.toNat 51 13 ≠ 0 ∨ bitsAt w1.toNat 54 10 ≠ 0 ∨ bitsAt w2.toNat 32 32 ≠ 0 then fabricTrap eBounds d.win 1
    else if d.len < 8 ∨ 2 ^ 24 < d.len ∨ d.lo % 8 ≠ 0 ∨ d.off % 8 ≠ 0 ∨ d.len % 8 ≠ 0 then fabricTrap eBounds d.win 2
    else pure (d, x)
  | _ => .ok (⟨0, 0, 0, 0, 0⟩, x)

/-- Local memory that is not reachable: a tier, or a window's place that is not the partition's (R439, R442). Such a refusal of the
path, by tier (access 12) or of R313 (causes 13 and 14), becomes that of this chapter. -/
def fabricTier {α : Type} (win : Nat) (r : Except Stop α) : Except Stop α :=
  match r with
  | .error (.trap t none) =>
    if bitsAt t.detail.toNat 8 8 = 12 ∨ (t.cause = 0x05 ∧ (bitsAt t.detail.toNat 24 8 = 13 ∨ bitsAt t.detail.toNat 24 8 = 14))
      then fabricTrap eRights win 6 else .error (.trap t none)
  | r => r

/-- `put`, `puts` and `get` (R439). -/
def fabricOp (i : Instr) (kind : FabricKind) (d a : Opnd) (s : State) : Host.Outcome State Fault Refusal :=
  issue i s fun x => do
    x.queues [] [d]
    let (f, x) ← x.fabricDesc a
    match windowOf x.s x.th.ctag f.win with
    | none => fabricTrap eBounds f.win 3
    | some w =>
      if w.wsize.toNat < f.off + f.len then fabricTrap eBounds f.win 4
      else if kind = .puts ∧ f.off / w.tsize.toNat ≠ (f.off + f.len - 1) / w.tsize.toNat then fabricTrap eBounds f.win 5
      else do
        let acc : Access := if kind = .get then .store else .load
        let want : Want := { Want.scalar f.seg f.lo f.len acc .everywhere 1 with
          tier := fun t => if 2 ≤ t then some (12, 6) else none }
        let ps ← fabricTier f.win (path x x.th.segs[f.seg] want)
        let (op, s1) := x.s.newId
        let o : FabOp := ⟨kind, x.th.ctag, f.win, f.off, f.len, ps.map fun p => (p.loc, BitVec.ofNat 56 p.da, p.len),
          x.core, x.slot, x.s.cyc, x.th.launch⟩
        let s2 := { s1 with fabops := s1.fabops.set op o }
        let empty := w.module ≠ Config.moduleId ∧ s2.routes.getD w.module.toNat 0 = 0
        let (now, s3) := if kind = .get then (true, s2) else publish (.fabric op) s2 x.core
        let s4 := updCounters (later (if empty then 7 else 2 ^ 24) .fabricOpTimeout [op] s3) x.th.ctag f.win fun c =>
          c.count 1 0 (BitVec.ofNat 64 f.len) (s3.core x.core).before
        let s5 := if empty ∨ !now then s4 else sendFabric s4 op
        pure ({ x with s := s5 }.setInt d (countersOf s4 x.th.ctag f.win).liss)

/-- `put` (R439). -/
def execPut (c : Ctl) (d a : Opnd) (s : State) : Host.Outcome State Fault Refusal := fabricOp (.put c d a) .put d a s

/-- `puts` (R439). -/
def execPuts (c : Ctl) (d a : Opnd) (s : State) : Host.Outcome State Fault Refusal := fabricOp (.puts c d a) .puts d a s

/-- `get` (R439). -/
def execGet (c : Ctl) (d a : Opnd) (s : State) : Host.Outcome State Fault Refusal := fabricOp (.get c d a) .get d a s

/-! ### Counter instructions (R441) -/

/-- `cwait` (R441). -/
def execCwait (c : Ctl) (d a b : Opnd) (s : State) : Host.Outcome State Fault Refusal :=
  issue (.cwait c d a b) s fun x0 => do
    x0.queues [a, b] [d]
    let (v, x) ← x0.int 1 a
    let (w, x) ← x.int 2 b
    let (n, kind, t) ← x.selector v false
    let k := countersOf x.s x.th.ctag n
    let reached := decide ((k.value kind t - w).toNat < 2 ^ 63)
    let seen := x.th.errSeen.getD k.err
    let th := { x.th with errSeen := none }
    if reached then pure ({ x with s := refreshCore x.s x.core (k.carries kind t), th := th }.setInt d 1)
    else if k.err ≠ seen then pure ({ x with th := th }.setInt d 0)
    else .error (.hold .counter (x0.s.updThread x0.key fun t => { t with errSeen := some seen }))

/-- `cread` (R441). -/
def execCread (c : Ctl) (d a : Opnd) (s : State) : Host.Outcome State Fault Refusal :=
  issue (.cread c d a) s fun x => do
    x.queues [a] [d]
    let (v, x) ← x.int 1 a
    let (n, kind, t) ← x.selector v false
    let k := countersOf x.s x.th.ctag n
    pure ({ x with s := refreshCore x.s x.core (k.carries kind t) }.setInt d (k.value kind t))

/-- `cadd` (R441). -/
def execCadd (c : Ctl) (d a b : Opnd) (s : State) : Host.Outcome State Fault Refusal :=
  issue (.cadd c d a b) s fun x => do
    x.queues [a, b] [d]
    let (v, x) ← x.int 1 a
    let (w, x) ← x.int 2 b
    let (n, kind, t) ← x.selector v true
    let old := (countersOf x.s x.th.ctag n).value kind t
    pure ({ x with s := updCounters x.s x.th.ctag n fun k => k.count kind t w (x.s.core x.core).before }.setInt d old)

/-! ### Events of an operation (R439, R440) -/

/-- Device addresses of the bytes an operation names in its window. -/
def windowDa (w : WindowEntry) (m : FabricMsg) : Nat := w.wbase.toNat + m.off

/-- `FABRIC_PUT_ARRIVAL` (R439): the bytes at their homes, then the counters, then the acknowledgement. It waits while a page is
absent or a tile holds a write (R253). -/
def execFabricPutArrival (m : FabricMsg) (s : State) : Host.Outcome State Fault Refusal :=
  match windowOf s m.ctag m.win with
  | none => .next s
  | some w =>
    if m.bytes.length ≠ m.len ∨ w.wsize.toNat < m.off + m.len then .next s
    else if !hubReaches s m.ctag (windowDa w m) m.len then
      .next (later 1 (.fabricPutArrival m) [] (postMissing s m.ctag (windowDa w m) m.len))
    else
      let t := m.off / w.tsize.toNat
      let s1 := daWrite s m.ctag (fabricWriter m.source m.op) (windowDa w m) m.bytes
      let n : BitVec 64 := BitVec.ofNat 64 m.len
      let s2 := updCounters s1 m.ctag m.win fun c =>
        let c := c.count 2 0 n (landedKnow m.source m.op)
        if m.kind = .puts then c.count 3 t n (landedKnow m.source m.op) else c
      .next (if m.source = Config.moduleId then trip .fabricAck [m.op] s2 else sendMessage s2 m.source m.win 0 [3, m.op] [])

/-- `FABRIC_GET_ARRIVAL` (R439): no counter changes. -/
def execFabricGetArrival (m : FabricMsg) (s : State) : Host.Outcome State Fault Refusal :=
  match windowOf s m.ctag m.win with
  | none => .next s
  | some w =>
    if w.wsize.toNat < m.off + m.len then .next s
    else match daBytes s m.ctag (windowDa w m) m.len with
      | none => .next (later 1 (.fabricGetArrival m) [] (postMissing s m.ctag (windowDa w m) m.len))
      | some bs =>
        .next (if m.source = Config.moduleId then trip (.fabricGetData m.op bs) [] s
          else sendMessage { s with served := s.served ++ [(m.op, bs)] } m.source m.win 0 [4, m.op] bs)

/-- Bytes of an answer written at the pieces of local memory. -/
def writePieces (op : Nat) (f : FabOp) (s : State) : List (Nat × BitVec 56 × Nat) → List Byte → State
  | [], _ => s
  | p :: r, bs =>
    writePieces op f (performWrite s { fabricWriter Config.moduleId op with launch := some f.launch, core := f.core, slot := f.slot }
      p.1 p.2.1 (bs.take p.2.2)) r (bs.drop p.2.2)

/-- `FABRIC_GET_DATA` (R439): the bytes wait while a tile holds one of them (R253). A change of their page waits for them (R326). -/
def execFabricGetData (op : Nat) (bytes : List (BitVec 8)) (s : State) : Host.Outcome State Fault Refusal :=
  match s.fabops.get? op with
  | none => .next s
  | some f =>
    if f.kind ≠ .get then .next s
    else if f.locals_.any fun p => tileHolds s p.1 p.2.2 then .next (later 1 (.fabricGetData op bytes) [] s)
    else
      let s1 := writePieces op f s f.locals_ bytes
      .next (updCounters { s1 with fabops := s1.fabops.erase op } f.ctag f.win fun c =>
        c.count 0 0 (BitVec.ofNat 64 f.len) (landedKnow Config.moduleId op))

/-- `FABRIC_ACK` (R439): one that comes after the operation failed is ignored (R440). -/
def execFabricAck (s : State) : Host.Outcome State Fault Refusal :=
  match s.args with
  | [op] => match s.fabops.get? op with
    | some f =>
      let own := (windowOf s f.ctag f.win).any fun w => w.module == Config.moduleId
      .next (updCounters { s with fabops := s.fabops.erase op } f.ctag f.win fun c =>
        c.count 0 0 (BitVec.ofNat 64 f.len) (if own then landedKnow Config.moduleId op else []))
    | none => .next s
  | _ => .next s

/-- `FABRIC_OP_TIMEOUT` (R440): an operation that was not acknowledged fails. -/
def execFabricOpTimeout (s : State) : Host.Outcome State Fault Refusal :=
  match s.args with
  | [op] => match s.fabops.get? op with
    | some f => .next (updCounters { s with fabops := s.fabops.erase op } f.ctag f.win fun c => c.add 4 0 1)
    | none => .next s
  | _ => .next s

end Sys2Proof.Machine
end

