-- ==== Sys2Proof/Machine/Float.lean ====
section
/-! DEFINITION. Scalar float instructions (R126 to R129). -/

namespace Sys2Proof.Machine

/-- The bits of a source a format reads (R117). -/
def srcF (f : FFmt) (v : Word) : Nat := v.toNat % 2 ^ (fmtOf f).bits

/-- Extra cycles of a scalar division or root (R118). -/
def fdivDelay : FFmt → Nat
  | .f64 => 16 | .f32 => 8 | .f16 => 0 | .b16 => 0

/-- A two-operand float instruction: the result is zero-extended, its flags are raised. -/
def flt2 (i : Instr) (d a b : Opnd) (dly : Nat) (s : State) (f : BitVec 32 → Word → Word → Nat × Flags) :
    Host.Outcome State Fault Refusal :=
  issue i s fun x => do
    x.queues [a, b] [d]
    let (va, x) ← x.int 1 a
    let (vb, x) ← x.int 2 b
    let r := f x.th.status va vb
    pure { (x.raise r.2).setInt d (BitVec.ofNat 64 r.1) with lat := 7 + dly }

/-- A one-operand float instruction. -/
def flt1 (i : Instr) (d a : Opnd) (dly : Nat) (s : State) (f : BitVec 32 → Word → Nat × Flags) :
    Host.Outcome State Fault Refusal :=
  issue i s fun x => do
    x.queues [a] [d]
    let (va, x) ← x.int 1 a
    let r := f x.th.status va
    pure { (x.raise r.2).setInt d (BitVec.ofNat 64 r.1) with lat := 7 + dly }

/-- `fadd` (R126). -/
def execFadd (c : Ctl) (fmt : FFmt) (rnd : Rnd) (d a b : Opnd) (s : State) : Host.Outcome State Fault Refusal :=
  flt2 (.fadd c fmt rnd d a b) d a b 0 s fun st x y =>
    fop2 xadd (fmtOf fmt) (roundOf st rnd) false (srcF fmt x) (srcF fmt y)

/-- `fsub` (R126). -/
def execFsub (c : Ctl) (fmt : FFmt) (rnd : Rnd) (d a b : Opnd) (s : State) : Host.Outcome State Fault Refusal :=
  flt2 (.fsub c fmt rnd d a b) d a b 0 s fun st x y =>
    fop2 xsub (fmtOf fmt) (roundOf st rnd) false (srcF fmt x) (srcF fmt y)

/-- `fmul` (R126). -/
def execFmul (c : Ctl) (fmt : FFmt) (rnd : Rnd) (d a b : Opnd) (s : State) : Host.Outcome State Fault Refusal :=
  flt2 (.fmul c fmt rnd d a b) d a b 0 s fun st x y =>
    fop2 (fun _ => xmul) (fmtOf fmt) (roundOf st rnd) false (srcF fmt x) (srcF fmt y)

/-- `fma` (R126): it reads D, with one rounding. -/
def execFma (c : Ctl) (fmt : FFmt) (rnd : Rnd) (d a b : Opnd) (s : State) : Host.Outcome State Fault Refusal :=
  issue (.fma c fmt rnd d a b) s fun x => do
    x.queues [a, b, d] [d]
    let (va, x) ← x.int 1 a
    let (vb, x) ← x.int 2 b
    let (vd, x) ← x.int 3 d
    let f := fmtOf fmt
    let m := x.mode rnd
    let r := writeF f m false (xfma m (f.decode (srcF fmt va)) (f.decode (srcF fmt vb)) (f.decode (srcF fmt vd)))
    pure ((x.raise r.2).setInt d (BitVec.ofNat 64 r.1))

/-- `fdiv` (R126). -/
def execFdiv (c : Ctl) (fmt : FFmt) (rnd : Rnd) (d a b : Opnd) (s : State) : Host.Outcome State Fault Refusal :=
  flt2 (.fdiv c fmt rnd d a b) d a b (fdivDelay fmt) s fun st x y =>
    fop2 (fun _ => xdiv) (fmtOf fmt) (roundOf st rnd) false (srcF fmt x) (srcF fmt y)

/-- `fsqrt` (R126). -/
def execFsqrt (c : Ctl) (fmt : FFmt) (rnd : Rnd) (d a : Opnd) (s : State) : Host.Outcome State Fault Refusal :=
  flt1 (.fsqrt c fmt rnd d a) d a (fdivDelay fmt) s fun st x =>
    fop1 xsqrt (fmtOf fmt) (roundOf st rnd) false (srcF fmt x)

/-- `fmin` (R127). -/
def execFmin (c : Ctl) (fmt : FFmt) (d a b : Opnd) (s : State) : Host.Outcome State Fault Refusal :=
  flt2 (.fmin c fmt d a b) d a b 0 s fun _ x y => fminmax false (fmtOf fmt) (srcF fmt x) (srcF fmt y)

/-- `fmax` (R127). -/
def execFmax (c : Ctl) (fmt : FFmt) (d a b : Opnd) (s : State) : Host.Outcome State Fault Refusal :=
  flt2 (.fmax c fmt d a b) d a b 0 s fun _ x y => fminmax true (fmtOf fmt) (srcF fmt x) (srcF fmt y)

/-- `fabs` (R126): a move that clears the sign bit. -/
def execFabs (c : Ctl) (fmt : FFmt) (d a : Opnd) (s : State) : Host.Outcome State Fault Refusal :=
  flt1 (.fabs c fmt d a) d a 0 s fun _ x => (srcF fmt x % 2 ^ ((fmtOf fmt).bits - 1), 0)

/-- `fneg` (R126): a move that inverts the sign bit. -/
def execFneg (c : Ctl) (fmt : FFmt) (d a : Opnd) (s : State) : Host.Outcome State Fault Refusal :=
  flt1 (.fneg c fmt d a) d a 0 s fun _ x => ((srcF fmt x + 2 ^ ((fmtOf fmt).bits - 1)) % 2 ^ (fmtOf fmt).bits, 0)

/-- `fcmp` (R128). -/
def execFcmp (c : Ctl) (fmt : FFmt) (cond : Cond) (d a b : Opnd) (s : State) : Host.Outcome State Fault Refusal :=
  flt2 (.fcmp c fmt cond d a b) d a b 0 s fun _ x y =>
    let r := fcompare cond ((fmtOf fmt).decode (srcF fmt x)) ((fmtOf fmt).decode (srcF fmt y))
    ((truth d r.1).toNat, r.2)

/-- `fcvt` (R58, R98, R126). -/
def execFcvt (c : Ctl) (k : CvtKind) (rnd : Rnd) (sat : Bool) (d a : Opnd) (s : State) : Host.Outcome State Fault Refusal :=
  flt1 (.fcvt c k rnd sat d a) d a 0 s fun st x =>
    let m := roundOf st rnd
    match k with
    | .ff src dst => toFloat (fmtOf dst) m sat ((fmtOf src).decode (srcF src x))
    | .fi src u => toInteger m u 64 ((fmtOf src).decode (srcF src x))
    | .fromInt dst u => ofInteger (fmtOf dst) m sat (readInt u 64 x.toNat)

/-- `fclass` (R129). -/
def execFclass (c : Ctl) (fmt : FFmt) (d a : Opnd) (s : State) : Host.Outcome State Fault Refusal :=
  flt1 (.fclass c fmt d a) d a 0 s fun _ x => (2 ^ classBit (fmtOf fmt) (srcF fmt x), 0)

/-- `frnd` (R126). -/
def execFrnd (c : Ctl) (fmt : FFmt) (rnd : Rnd) (d a : Opnd) (s : State) : Host.Outcome State Fault Refusal :=
  flt1 (.frnd c fmt rnd d a) d a 0 s fun st x => roundIntegral (fmtOf fmt) (roundOf st rnd) (srcF fmt x)

end Sys2Proof.Machine
end

