-- ==== Sys2Proof/Machine/Network.lean ====
section
/-! DEFINITION. Migration and multicast (R378 to R383), and the context of a migratory thread (R81). -/

namespace Sys2Proof.Machine

/-! ### The context of R81 -/

/-- The encoding of s0 and s1 in a context: the index, with 0xF in the top nibble for a null segment. -/
def segIndexCode (g : Segment) : Nat := g.index.toNat + if g.kind = .null then 0xF000 else 0

/-- Bit 0 of p1 to p7, with p1 in bit 1. -/
def predBits (t : Thread) : Nat :=
  (List.range 8).foldr (fun i acc => acc + (if i ≠ 0 ∧ (t.preds.toList.getD i 0).getLsbD 0 then 2 ^ i else 0)) 0

/-- The 12 words of a context. -/
def contextWords (s : State) (key : Nat) (t : Thread) (pc : BitVec 32) : List Word :=
  let g (i : Nat) : Word := s.gfile.getD (gKey (coreOf key) (t.gBase + i)) 0
  let w (l : List (Nat × Nat)) : Word := BitVec.ofNat 64 (l.foldr (fun p acc => p.1 + 2 ^ p.2 * acc) 0)
  (List.range 8).map g ++
    [ w [(pc.toNat, 32), (t.status.toNat % 2 ^ 16, 16), (predBits t, 8), (t.npth.toNat, 8)],
      w [(t.ferl.toNat, 16), (segIndexCode t.segs[0], 16), (segIndexCode t.segs[1], 16), (t.cseg.index.toNat, 16)],
      w [(t.ctag.toNat, 16), (t.rank, 16), (t.launch, 32)],
      BitVec.ofNat 64 t.group ]

/-- The owner core of a location (R378). -/
def ownerCore (loc : Nat) : Nat :=
  match homeOf loc with
  | .core c _ => c
  | .vault cl off => 8 * cl + bitsAt off 6 3
  | .hbm pa =>
    let stack := bitsAt pa 36 4
    let row := if stack % 2 = 0 then 0 else 15
    8 * (256 * (stack / 2) + 16 * row + bitsAt pa 32 4) + bitsAt pa 6 3
  | .cellar _ | .host _ _ | .other => 0

/-- `migrate` (R379): hint D acts in its issue cycle, before the status is packed (R22, R81). -/
def execMigrate (c : Ctl) (r : MemRef) (s : State) : Host.Outcome State Fault Refusal :=
  issue (.migrate c r) s fun x => do
    let (o, x) ← x.offset r
    if !x.th.status.getLsbD 12 then .error (.trap (eRights (detail r.seg.val 10 0 1) (BitVec.ofInt 64 o)) none)
    else if x.th.packet.isSome then .error (.trap (eBounds (detail r.seg.val 10 0 2) (BitVec.ofInt 64 o)) none)
    else do
      let w : Want := { Want.scalar r.seg o 8 .load .everywhere 1 with
        tier := fun t => if t = 0 then none else some (10, 2) }
      let ps ← path x x.th.segs[r.seg] w
      let owner := ownerCore ((spans ps).headD (0, 0)).1
      if !x.s.inPart x.th.ctag (clusterOf owner) then .error (.trap (ePart 3 (BitVec.ofNat 64 (clusterOf owner))) none)
      else if owner = x.core then pure x
      else if !retentionFree x.s x.core then .error (.hold .retention x.s)
      else
        let (seq, s1) := nextSeq x.s x.core
        let b : PktBody := ⟨.migration, owner, x.core, seq, x.th.ctag, x.th.launch, x.th.group,
          contextWords x.s x.key { x.th with status := deepIdle x.th.status c.d false } (x.th.pc + 1), 0, none, []⟩
        let s2 := freeSlot (retain s1 b) x.key
        pure { x with s := publishThenSend s2 x.core seq, gone := true }

/-- The clusters a multicast names: mask bit, and the cluster where the position lies on the die (R381). -/
def castTargets (origin : Nat) (mask : Nat) : List (Nat × Option Nat) :=
  ((List.range 64).filter fun j => mask.testBit j).map fun j =>
    let row := meshRow origin + j / 8
    let col := meshCol origin + j % 8
    (j, if row < 16 ∧ col < 16 then some (256 * dieOf origin + 16 * row + col) else none)

/-- The first target outside the die or the partition, as a second detail (R381). -/
def badTarget (s : State) (ctag : BitVec 16) (l : List (Nat × Option Nat)) : Option Word :=
  l.findSome? fun t => match t.2 with
    | none => some (BitVec.ofNat 64 (2 ^ 63 + t.1))
    | some cl => if s.inPart ctag cl then none else some (BitVec.ofNat 64 cl)

/-- Whether a multicast of a core is not accepted everywhere yet. -/
def castPending (s : State) (c : Nat) : Bool :=
  (s.core c).retained.any fun r => r.body.cls == .multicast && r.rstate == .sent

/-- `mcast` (R381). -/
def execMcast (c : Ctl) (d a b : Opnd) (s : State) : Host.Outcome State Fault Refusal :=
  issue (.mcast c d a b) s fun x0 => do
    x0.queues [d, a, b] []
    let (va, x) ← x0.int 1 a
    let (vb, x) ← x.int 2 b
    let targets := castTargets (bitsAt va.toNat 3 11) vb.toNat
    if bitsAt va.toNat 14 18 ≠ 0 then .error (.trap (eBounds (detail 0 11 0 1) 0) none)
    else match badTarget x.s x.th.ctag targets with
      | some w => .error (.trap (ePart 4 w) none)
      | none =>
        if vb ≠ 0 ∧ (castPending x.s x.core ∨ !retentionFree x.s x.core) then .error (.hold .retention x0.s)
        else do
          let (v, x) ← x.vec 3 d
          if vb = 0 then pure x
          else
            let words := (List.range 32).map fun i => BitVec.ofNat 64 (lane 64 v.data i)
            let (seq, s1) := nextSeq x.s x.core
            let s2 := targets.foldl (fun s t => match t.2 with
              | some cl => retain s ⟨.multicast, 8 * cl + bitsAt va.toNat 0 3, x.core, seq, x.th.ctag, x.th.launch,
                  x.th.group, words, BitVec.ofNat 32 (bitsAt va.toNat 32 32), none, []⟩
              | none => s) s1
            pure { x with s := publishThenSend s2 x.core seq }

end Sys2Proof.Machine
end

