-- ==== Sys2Proof/Machine/NetEvents.lean ====
section
/-! DEFINITION. Events of the network (R366 to R384): flits and packets, replies and resends, arrivals and admissions, remote
full-empty requests, and the reset of a core. -/

namespace Sys2Proof.Machine

/-! ### Cores (R209, R227) -/

/-- A core that is gated begins to wake (R227). -/
def wakeCore (s : State) (c : Nat) : State :=
  match (s.core c).power with
  | .gated => later 24 .coreWakeComplete [c] (s.updCore c fun k => { k with power := .waking s.cyc })
  | .active => s.updCore c fun k => { k with idleSince := s.cyc }
  | .waking _ => s

def coreActive (s : State) (c : Nat) : Bool :=
  match (s.core c).power with
  | .active => !(s.core c).resetting
  | .gated | .waking _ => false

/-- The rotation an empty core takes with a kernel, from the first cycle divisible by 64 after it emptied on (R209). -/
def setRotation (s : State) (c rot : Nat) : State :=
  s.updCore c fun k =>
    if k.rot = rot then k
    else { k with rot := rot, rotFrom := match k.busy with
      | some t => (t / 64 + 1) * 64
      | none => 0 }

/-- First cycle in which a thread created on a core may issue. -/
def firstIssue (s : State) (c : Nat) : Nat := max (s.cyc + 1) (s.core c).rotFrom

/-! ### Contexts that arrive (R77, R80, R81) -/

/-- A segment register reloaded from its index (R81). -/
def reloadSeg (s : State) (ctag : BitVec 16) (l code : Nat) : Segment :=
  match s.contexts.get? ctag.toNat with
  | none => .null
  | some x =>
    let i := code % 2 ^ 12
    let e := x.descs.getD i .null
    if code / 2 ^ 12 ≠ 0 ∨ x.sdtSize ≤ i ∨ e.kind = .res6 ∨ e.kind = .res7 ∨ (e.colour = 0 ∧ !privileged s l) then .null
    else { e with index := BitVec.ofNat 12 i }

/-- A code segment reloaded from its index (R81). -/
def reloadCode (s : State) (ctag : BitVec 16) (i : Nat) : Segment :=
  match s.contexts.get? ctag.toNat with
  | none => .null
  | some x =>
    let e := x.descs.getD (i % 2 ^ 12) .null
    if x.sdtSize ≤ i % 2 ^ 12 ∨ e.kind ≠ .code then .null else { e with index := BitVec.ofNat 12 i }

/-- The code segment of a launch's kernel (R67, R392). -/
def kernelCode (s : State) (l : Nat) : Segment :=
  match s.launch? l with
  | some x => reloadCode s x.ctag x.header.codeIdx
  | none => .null

/-- Words put into general registers from g0 on. -/
def putWords (s : State) (c base : Nat) (ws : List Word) : State :=
  (ws.zip (List.range ws.length)).foldl (fun s p => Iss.putG s c (base + p.2) p.1) s

/-- The thread of a migrated context, with its windows at `gb` (R81). -/
def contextThread (s : State) (c : Nat) (b : PktBody) (gb : Nat) : Thread :=
  let w (i : Nat) : Nat := (b.words.getD i 0).toNat
  let p := bitsAt (w 8) 48 8
  { blankThread true gb 8 0 0 0 (s.core c).rot with
    pc := BitVec.ofNat 32 (w 8)
    status := BitVec.ofNat 32 (bitsAt (w 8) 32 16)
    preds := Vector.ofFn fun i => if i.val ≠ 0 ∧ p.testBit i.val then 1 else 0
    npth := BitVec.ofNat 5 (bitsAt (w 8) 56 8)
    ferl := BitVec.ofNat 16 (w 9)
    segs := Vector.ofFn fun i =>
      if i.val = 0 then reloadSeg s b.ctag b.launch (bitsAt (w 9) 16 16)
      else if i.val = 1 then reloadSeg s b.ctag b.launch (bitsAt (w 9) 32 16)
      else .null
    cseg := reloadCode s b.ctag (bitsAt (w 9) 48 16)
    ctag := BitVec.ofNat 16 (w 10)
    rank := bitsAt (w 10) 16 16
    launch := bitsAt (w 10) 32 32
    group := w 11 % 2 ^ 32
    readyAt := firstIssue s c }

/-- A handler's thread (R377). -/
def handlerThread (s : State) (c : Nat) (b : PktBody) (mig : Bool) (gb gn wb nv nk : Nat) : Thread :=
  { blankThread mig gb gn wb nv nk (s.core c).rot with
    pc := b.pc
    cseg := kernelCode s b.launch
    rank := freeRank s b.launch b.group (declared s b.launch)
    ctag := b.ctag
    launch := b.launch
    group := b.group
    readyAt := firstIssue s c }

/-! ### Admission (R374 to R377) -/

/-- Whether a packet's launch or group has been cancelled or is gone (R375). -/
def packetDead (s : State) (b : PktBody) : Bool :=
  match s.group? b.launch b.group with
  | some x => x.cancelled || x.st != .running
  | none => true

/-- General, vector and interval window of the thread a packet creates (R80, R377). -/
def packetWindows (s : State) (b : PktBody) : Bool × Nat × Nat × Nat :=
  match s.launch? b.launch, b.cls with
  | some x, .message | some x, .multicast =>
    if x.header.migratory then (true, 8, 0, 0)
    else (false, max x.header.regs (ceil8 b.words.length), x.header.nv, x.header.nk)
  | _, _ => (true, 8, 0, 0)

/-- Whether a kernel is loaded in a cluster's code buffer (R282). -/
def codeLoaded (s : State) (cl l : Nat) : Bool := (s.cluster cl).code.any fun k => k.launch == l && k.loaded && !k.poisoned

/-- The lowest slot of a parked thread that may be lent to a migratory context (R322). -/
def lendSlot (s : State) (c : Nat) (ctag : BitVec 16) (l g : Nat) : Option (Nat × Thread) :=
  if !resident s c ctag || spanForeign s c l g then none
  else (List.range (s.rotLen c)).findSome? fun j => match s.thread? (slotKey c j) with
    | some t =>
      if t.st = .parked ∧ t.parkPlace = .frame ∧ (s.slot (slotKey c j)).lent.isNone ∧ !s.timed t.launch then some (j, t) else none
    | none => none

/-- A slot lent: its owner's g0 to g7 stay in the fault frame while the context runs in their entries (R322). -/
def lend (s : State) (c j : Nat) (owner : Thread) : State :=
  let x := s.slot (slotKey c j)
  s.setSlot (slotKey c j) { x with
    lent := some owner
    frame := (List.range 8).map fun i => s.gfile.getD (gKey c (owner.gBase + i)) 0 }

/-- A packet's thread created in the lowest admissible slot of core `c`, one that is lent included for a migrated context;
none where a condition of R375 fails. -/
def admitBody (s0 : State) (c : Nat) (b : PktBody) : Option (State × Nat) :=
  let s := match coreEmpty s0 c, s0.launch? b.launch with
    | true, some x => setRotation s0 c x.header.rot
    | _, _ => s0
  let (mig, gn, nv, nk) := packetWindows s b
  let enter (s : State) (key gb wb : Nat) : State × Nat :=
    let (t, ws) := match b.cls with
      | .migration => (contextThread s c b gb, b.words.take 8)
      | .message | .multicast | .fullEmpty =>
        (handlerThread s c b mig gb gn wb nv nk, if mig then b.words.take 8 else b.words)
    (refreshCore (putWords (createThread (bindOwners s c b.ctag) key t) c gb ws) c b.know, key)
  let free := match lowestSlot s c b.ctag b.launch b.group, findWindows s c gn nv nk with
    | some j, some (gb, wb) => some (j, gb, wb)
    | _, _ => none
  if !coreActive s c ∨ !codeLoaded s (clusterOf c) b.launch ∨ (b.cls ≠ .migration ∧ 512 ≤ liveThreads s b.launch b.group) then
    none
  else match free, (if b.cls = .migration then lendSlot s c b.ctag b.launch b.group else none) with
    | some (j, gb, wb), some (i, t) =>
      if j < i then some (enter s (slotKey c j) gb wb) else some (enter (lend s c i t) (slotKey c i) t.gBase t.wBase)
    | some (j, gb, wb), none => some (enter s (slotKey c j) gb wb)
    | none, some (i, t) => some (enter (lend s c i t) (slotKey c i) t.gBase t.wBase)
    | none, none => none

/-- Arrivals that have ended, oldest first by the cycle of their end and then by source core (R375). -/
def oldestArrival (l : List Arrival) : Option Arrival :=
  l.foldl (fun (r : Option Arrival) a => match a.ended with
    | none => r
    | some t => match r.bind fun q => q.ended.map fun u => (q, u) with
      | none => some a
      | some (q, u) => if t < u ∨ (t = u ∧ a.body.src < q.body.src) then some a else r) none

/-- Room in the arrival queue starts the move of the next spilled entry, which arrives 16 cycles later (R376). -/
def noteRoom (s : State) (c : Nat) : State :=
  let k := s.core c
  if k.spillMoves.length < k.spill.length ∧ k.arrivals.length + k.spillMoves.length < 32 then
    let due := max (s.cyc + 16) ((k.spillMoves.getLast?.map (· + 1)).getD 0)
    later (due - s.cyc) .spillMove [c] (s.setCore c { k with spillMoves := k.spillMoves ++ [due] })
  else s

/-- An entry taken out of the arrival queue or the spill area. -/
def dropArrival (s : State) (c : Nat) (b : PktBody) : State :=
  let keep (a : Arrival) : Bool := !(a.body.src == b.src && a.body.seq == b.seq)
  noteRoom (s.updCore c fun k => { k with arrivals := k.arrivals.filter keep, spill := k.spill.filter keep }) c

/-- A packet answered ADMIT; a context that came back to its own core has no table entry and no answer (R323, R374). -/
def admitAnswer (s : State) (c : Nat) (b : PktBody) : State :=
  if (s.core c).dups.any fun e => e.src == b.src && e.seq == b.seq then markAdmitted s c b.src b.seq 0 false [] else s

/-- The oldest arrival admitted, or discarded where its group is gone; none where it must wait (R375). A context that was given up
traps, and its record has the cycle of that (R83, R374). -/
def admitOldest (s : State) (c : Nat) : Option State :=
  let k := s.core c
  match oldestArrival (k.arrivals ++ k.spill) with
  | none => none
  | some a =>
    if !(k.arrivals.contains a) then none
    else if packetDead s a.body then some (admitAnswer (dropArrival s c a.body) c a.body)
    else if s.halted a.body.launch then none
    else match admitBody s c a.body with
      | none => none
      | some (s1, key) =>
        let s2 := dropArrival s1 c a.body
        match a.lost with
        | some (dest, at_) => some (takeTrapAt s2 key (eLost 1 dest) at_)
        | none => some (admitAnswer s2 c a.body)

/-- `PACKET_ADMIT` (R375). -/
def execPacketAdmit (s : State) : Host.Outcome State Fault Refusal :=
  match s.args with
  | [c] => .next ((admitOldest s c).getD s)
  | _ => .next s

/-- `SPILL_MOVE` (R376). -/
def execSpillMove (s : State) : Host.Outcome State Fault Refusal :=
  match s.args with
  | [c] =>
    let k := s.core c
    match k.spill with
    | a :: r => .next (noteRoom (s.setCore c { k with
        arrivals := k.arrivals ++ [a], spill := r, spillMoves := k.spillMoves.drop 1 }) c)
    | [] => .next (s.setCore c { k with spillMoves := k.spillMoves.drop 1 })
  | _ => .next s

/-! ### Flits and packets at their destination (R370, R372) -/

def dupOf (s : State) (c src seq : Nat) : Option DupEntry := (s.core c).dups.find? fun e => e.src == src && e.seq == seq
def dropDup (s : State) (c src seq : Nat) : State :=
  s.updCore c fun k => { k with dups := k.dups.filter fun e => !(e.src == src && e.seq == seq) }

/-- A packet that its destination does not take: what is still to come of it is discarded on arrival. -/
def dropPacket (s : State) (id : Nat) : State :=
  match s.packets.get? id with
  | some p => { s with packets := if p.closed then s.packets.erase id
      else s.packets.set id { p with lost := [0], headIn := false } }
  | none => s

/-- A reply to the source of a packet (R372). -/
def replyTo (ev : Instr) (s : State) (b : PktBody) : State :=
  let kind := match ev with
    | .replyRefuse => 2
    | .replyBounce => 3
    | _ => 0
  sendReply ev kind b [b.src, b.seq, b.dest] 0 s

/-- A partial packet discarded: its flits, its place and its table entry (R372). -/
def discardPartial (s : State) (b : PktBody) : State := dropDup (dropArrival s b.dest b) b.dest b.src b.seq

/-- A place for a packet's head: the arrival queue, or the spill area (R376); none where both are full. A full-empty
request takes no place. -/
def takePlace (s : State) (b : PktBody) : Option State :=
  let k := s.core b.dest
  let a : Arrival := ⟨b, none, none⟩
  if b.cls = .fullEmpty then some s
  else if k.spill.isEmpty ∧ k.arrivals.length < 32 then some (s.setCore b.dest { k with arrivals := k.arrivals ++ [a] })
  else if k.spill.length < 204 then some (noteRoom (s.setCore b.dest { k with spill := k.spill ++ [a] }) b.dest)
  else none

/-- A flit that follows a missing one shows the destination that an index is skipped: the flits taken are then discarded as a timeout
would discard them (R372; entry 59). -/
def skipSeen (s : State) (p : NetPkt) : State :=
  let b := p.body
  let inner := (List.range p.flits.length).filter fun n => !p.lost.contains n && !(p.closed && n + 1 == p.flits.length)
  let skipped := inner.any fun n => p.lost.any fun m => decide (m < n)
  match dupOf s b.dest b.src b.seq with
  | some e => if p.headIn && skipped && !e.ended then trip .partialPacketTimeout [b.dest, b.src, b.seq, e.headAt] s else s
  | none => s

/-- A new packet's head: its table entry and its place; its end follows (R372). -/
def enterHead (s : State) (id : Nat) (p : NetPkt) : State :=
  let b := p.body
  match (if 256 ≤ (s.core b.dest).dups.length then none else takePlace s b) with
  | none => replyTo .replyRefuse (dropPacket s id) b
  | some s1 =>
    let s2 := s1.updCore b.dest fun k => { k with dups := k.dups ++ [⟨b.src, b.seq, .held, s.cyc, 0, false, [], false, b.launch⟩] }
    let s3 := later 4096 .partialPacketTimeout [b.dest, b.src, b.seq, s.cyc]
      { s2 with packets := s2.packets.set id { p with headIn := true } }
    if !p.closed ∨ p.flits.length ≠ 1 then skipSeen s3 { p with headIn := true }
    else if b.cls = .fullEmpty then later 0 .remoteFeRequest [id] s3
    else later 0 .packetEndArrival [id] s3

/-- `PACKET_HEAD_ARRIVAL` (R372, R373). -/
def execPacketHeadArrival (s : State) : Host.Outcome State Fault Refusal :=
  match s.args with
  | [id] => match s.packets.get? id with
    | none => .next s
    | some p =>
      let b := p.body
      if p.lost.contains 0 then .next (dropPacket s id)
      else if (s.core b.dest).resetting then .next (replyTo .replyBounce (dropPacket s id) b)
      else
        let s1 := if b.cls = .fullEmpty then s else wakeCore s b.dest
        match dupOf s1 b.dest b.src b.seq with
        | none => .next (enterHead s1 id p)
        | some e =>
          if e.st = .admitted then .next (sendAdmit (dropPacket s1 id) b.src b.seq b.dest e.value e.bad)
          else if e.ended then .next (replyTo .replyAccept (dropPacket s1 id) b)
          else
            let old := s1.packets.filter fun q => q.1 != id && q.2.body.src == b.src && q.2.body.seq == b.seq
              && q.2.body.dest == b.dest && q.2.headIn
            let s2 := old.foldl (fun s q => dropPacket s q.1) (discardPartial s1 b)
            .next (enterHead s2 id p)
  | _ => .next s

/-- `PACKET_END_ARRIVAL` (R372): the packet is whole. It is answered ADMIT where it is admitted in this cycle, and at the cycle's end
ACCEPT where not. It follows its head flit on the channel. A packet that lacks a flit is discarded, and one that lacks its closing
flit stays partial. -/
def execPacketEndArrival (s : State) : Host.Outcome State Fault Refusal :=
  match s.args with
  | [id] => match s.packets.get? id with
    | none => .next s
    | some p =>
      let b := p.body
      let s1 := dropPacket s id
      if p.lost.contains (p.flits.length - 1) then .next s
      else if p.lost.contains 0 then .next s1
      else if !p.headIn then .next (later 1 .packetEndArrival [id] s)
      else if (dupOf s b.dest b.src b.seq).isNone then .next s1
      else if !p.lost.isEmpty then .next (discardPartial s1 b)
      else
        let mark (a : Arrival) : Arrival :=
          if a.body.src = b.src ∧ a.body.seq = b.seq then { a with body := b, ended := some s.cyc } else a
        let s2 := s1.updCore b.dest fun k => { k with
          arrivals := k.arrivals.map mark, spill := k.spill.map mark
          dups := listUpd (fun e : DupEntry => e.src == b.src && e.seq == b.seq) (fun e => { e with ended := true }) k.dups }
        let k := s2.core b.dest
        let first := match oldestArrival (k.arrivals ++ k.spill) with
          | some a => a.body.src == b.src && a.body.seq == b.seq
          | none => false
        .next ((if first then admitOldest s2 b.dest else none).getD s2)
  | _ => .next s

/-- The packets that have ended in this cycle and were not admitted in it, answered ACCEPT (R372). -/
def acceptEnded (s : State) (c : Nat) : State :=
  let k := s.core c
  ((k.arrivals ++ k.spill).filter fun a => a.ended == some s.cyc
      && (dupOf s c a.body.src a.body.seq).any fun e => e.st == .held).foldl (fun s a => replyTo .replyAccept s a.body) s

/-- `ABORT_FLIT_ARRIVAL` (R242): the destination discards the packet. -/
def execAbortFlitArrival (s : State) : Host.Outcome State Fault Refusal :=
  match s.args with
  | [id] => match s.packets.get? id with
    | none => .next s
    | some p =>
      let s1 := dropPacket s id
      if p.lost.contains (p.flits.length - 1) then .next s
      else if 1 < p.flits.length ∧ !p.headIn ∧ !p.lost.contains 0 then .next (later 1 .abortFlitArrival [id] s)
      else match dupOf s1 p.body.dest p.body.src p.body.seq with
      | some e => .next (if e.ended then s1 else discardPartial s1 p.body)
      | none => .next s1
  | _ => .next s

/-- `PARTIAL_PACKET_TIMEOUT` (R372). -/
def execPartialPacketTimeout (s : State) : Host.Outcome State Fault Refusal :=
  match s.args with
  | [c, src, seq, at_] => match dupOf s c src seq with
    | none => .next s
    | some e =>
      if e.ended ∨ e.headAt ≠ at_ then .next s
      else
        let old := s.packets.filter fun q => q.2.body.src == src && q.2.body.seq == seq && q.2.body.dest == c && q.2.headIn
        let s1 := old.foldl (fun s q => dropPacket s q.1) s
        .next (discardPartial s1 (replyBody src seq c))
  | _ => .next s

/-- A flit discarded on its way: of a packet, of a reply, which is one flit, or of a deposit (R239, R370). A packet whose flits
are all gone leaves the network. -/
def loseFlit (s : State) : State :=
  match s.args with
  | [id, n] => match s.packets.get? id with
    | some p =>
      if p.lost.contains n ∨ (n = 0 ∧ p.headIn) then s
      else
        let lost := p.lost ++ [n]
        if p.closed ∧ lost.contains 0 ∧ lost.contains (p.flits.length - 1) then { s with packets := s.packets.erase id }
        else
          let q := { p with lost := lost }
          skipSeen { s with packets := s.packets.set id q } q
    | none => match s.deposits.get? id with
      | some d => if clusterOf d.srcCore = clusterOf d.core then s
          else { s with deposits := s.deposits.set id { d with lost := true } }
      | none => s
  | _ => s

/-- `FLIT_AGE_DISCARD` (R370). -/
def execFlitAgeDiscard (s : State) : Host.Outcome State Fault Refusal := .next (loseFlit s)

/-- `ROUTER_PARITY_DISCARD` (R370). -/
def execRouterParityDiscard (s : State) : Host.Outcome State Fault Refusal := .next (loseFlit s)

/-- `LINK_FLIT_CRC_FAIL` (R370): the link replays the flit, which changes nothing else. -/
def execLinkFlitCrcFail (s : State) : Host.Outcome State Fault Refusal := .next s

/-! ### Replies at the source (R371, R374) -/

/-- The retention entry of a packet toward a destination. -/
def retainedOf (s : State) (src seq dest : Nat) : Option Retained :=
  (s.core src).retained.find? fun r => r.body.seq == seq && r.body.dest == dest
def updRetained (s : State) (src seq dest : Nat) (f : Retained → Retained) : State :=
  s.updCore src fun k => { k with retained := listUpd (fun r : Retained => r.body.seq == seq && r.body.dest == dest) f k.retained }
def dropRetained (s : State) (src seq dest : Nat) : State :=
  s.updCore src fun k => { k with retained := k.retained.filter fun r => !(r.body.seq == seq && r.body.dest == dest) }

/-- Whether a packet in the network is a reply, which travels on channel 1 (R366). -/
def isReply (q : NetPkt) : Bool := q.flits.any fun f => f.vc == 1

/-- Whether an older reply from the same core to the same core is still on its way: replies arrive in the order in which they were
sent (entry 59). -/
def olderReply (s : State) (id : Nat) : Bool :=
  (s.packets.get? id).any fun r => s.packets.any fun q => decide (q.1 < id) && isReply q.2 && q.2.body.src == r.body.src
    && q.2.body.dest == r.body.dest

/-- A reply acted on where it was not discarded on its way, or held while its core is reset (R373). `id` is its number. -/
def atSource (ev : Instr) (s : State) (src id : Nat) (act : State → State) : State :=
  match takeReply s id with
  | none => s
  | some s1 =>
    if olderReply s id then later 1 ev s.args s
    else if (s.core src).resetting then
      s.updCore src fun k => { k with heldReplies := k.heldReplies ++ [⟨s.cyc, ev, s.args⟩] }
    else act s1

/-- `REPLY_ACCEPT` (R371). -/
def execReplyAccept (s : State) : Host.Outcome State Fault Refusal :=
  match s.args with
  | [src, seq, dest, id] => .next (atSource .replyAccept s src id fun s =>
      updRetained s src seq dest fun r => { r with rstate := .accepted, nSend := 0 })
  | _ => .next s

/-- The thread that waits for the answer of a full-empty request. -/
def feThread (s : State) (src seq : Nat) : Option (Nat × Thread × Instr × PktBody) :=
  s.threads.findSome? fun e => match e.2.fe with
    | some (i, b, _) => if coreOf e.1 = src ∧ b.seq = seq ∧ e.2.outstanding.isSome then some (e.1, e.2, i, b) else none
    | none => none

/-- The destination of a load, written when its answer comes (R224); its queue entry was reserved at issue (R18). -/
def writeAnswer (s : State) (key : Nat) (i : Instr) (q : Option (Nat × Nat × Nat)) (v : Word) : State :=
  match i, q with
  | .ldfe _ d _, none | .ldfp _ d _, none => writeLate s key d 0 v
  | _, some q => fillEntry s q ⟨v.setWidth 2048, 0⟩ none
  | _, none => s

/-- A trap that a full-empty request's answer brings: what was reserved for its result or popped is given back (R28). -/
def failFe (s : State) (key : Nat) (t : Thread) (x : Trap) : State :=
  let s1 := match t.fe.bind (·.2.2) with
    | some q => dropReserved s q
    | none => s
  takeTrap ((unpop s1 (coreOf key) t).setThread key { t with fe := none, outstanding := none, popped := none }) key x

/-- Device address of a full-empty request's word. -/
def PktBody.feDa (b : PktBody) : BitVec 56 :=
  match b.fe with
  | some (_, _, da, _) => da
  | none => 0

/-- A full-empty instruction completed by its answer (R380); what it read carries is known from the core's next refresh on
(R338). -/
def completeFe (s : State) (key : Nat) (t : Thread) (i : Instr) (da : BitVec 56) (v : Word) (bad : Bool) (know : Know) : State :=
  if bad then failFe s key t (eMachine 5 (da.setWidth 64))
  else
    ((writeAnswer s key i (t.fe.bind (·.2.2)) v).updThread key fun t =>
      { t.stepped (t.pc + 1) false false 0 (max t.readyAt (s.cyc + 1)) none with
        outstanding := none, deposited := [], fe := none, popped := none }).updCore (coreOf key) fun k => { k with heard := Know.join k.heard know }

/-- Whether the banks of an answered full-empty instruction's result are free in this cycle (R213). -/
def feBanks (t : Thread) (i : Instr) : List Nat :=
  match i, t.fe.bind (·.2.2) with
  | .ldfe _ (.g n) _, none | .ldfp _ (.g n) _, none => [gBank (t.gBase + n.val)]
  | .ldfe _ (.bg n) _, none | .ldfp _ (.bg n) _, none => [gBank (t.bBase + n.val)]
  | _, _ => []

/-- `REPLY_ADMIT` (R371, R372, R380): FREE answers it, whether or not the packet is still retained. -/
def execReplyAdmit (s : State) : Host.Outcome State Fault Refusal :=
  match s.args with
  | [src, seq, dest, v, bad, id] =>
    let done (s : State) : State := sendReply .replyFree 5 (replyBody dest seq src) [src, seq, dest] 0 (dropRetained s src seq dest)
    let act (s : State) : State := match retainedOf s src seq dest, feThread s src seq with
      | some _, some (key, t, i, b) =>
        let know := ((dupOf s dest src seq).map (·.know)).getD []
        (match takeBanks s src (if bad = 0 then feBanks t i else []) with
          | some s1 => done (completeFe s1 key t i b.feDa (BitVec.ofNat 64 v) (bad != 0) know)
          | none => later 1 .replyAdmit [src, seq, dest, v, bad, id]
              { s with packets := s.packets.set id ⟨replyBody src seq dest, [], [], true, false⟩ })
      | _, _ => done s
    .next (atSource .replyAdmit s src id act)
  | _ => .next s

/-- `REPLY_REFUSE` (R371): the timer of the last send resends the packet. -/
def execReplyRefuse (s : State) : Host.Outcome State Fault Refusal :=
  match s.args with
  | [src, seq, dest, id] => .next (atSource .replyRefuse s src id fun s =>
      updRetained s src seq dest fun r => { r with nSend := 0 })
  | _ => .next s

/-- A packet given up after its third bounce (R374). -/
def giveUp (s : State) (src : Nat) (r : Retained) : State :=
  let b := r.body
  let s1 := dropRetained s src b.seq b.dest
  match b.cls with
  | .migration =>
    let w8 := b.words.getD 8 0
    let pc : BitVec 32 := w8.setWidth 32 - 1
    let ws := listSet b.words 8 (BitVec.ofNat 64 (w8.toNat / 2 ^ 32 * 2 ^ 32 + pc.toNat))
    (wakeCore s1 src).updCore src fun k => { k with
      arrivals := ⟨{ b with dest := src, words := ws }, some 0, some (b.dest, s.cyc)⟩ :: k.arrivals }
  | .fullEmpty => match feThread s1 src b.seq with
    | some (key, t, _, _) => failFe s1 key t (eLost 3 b.dest)
    | none => s1
  | .message | .multicast => s1.updLaunch b.launch fun l => { l with lostPackets := l.lostPackets + 1 }

/-- A bounce, or what is handled as one (R371). -/
def bounce (s : State) (src seq dest : Nat) : State :=
  match retainedOf s src seq dest with
  | none => s
  | some r =>
    if r.nBounce < 2 then
      resendTimer src seq dest (updRetained s src seq dest fun r => { r with
        nBounce := r.nBounce + 1, nSend := 0, rstate := .sent, tSend := s.cyc })
    else giveUp s src r

/-- `REPLY_BOUNCE` (R371, R374). -/
def execReplyBounce (s : State) : Host.Outcome State Fault Refusal :=
  match s.args with
  | [src, seq, dest, id] => .next (atSource .replyBounce s src id fun s => bounce s src seq dest)
  | _ => .next s

/-- `REPLY_FREE` (R372): the table keeps its entry while a copy of its packet is still on its way, so that none is admitted twice
(R385; entry 59). -/
def execReplyFree (s : State) : Host.Outcome State Fault Refusal :=
  match s.args with
  | [src, seq, dest, id] => match takeReply s id, dupOf s dest src seq with
    | some s1, some e =>
      let copy (q : NetPkt) : Bool := q.body.src == src && q.body.seq == seq && q.body.dest == dest && !isReply q && !q.headIn
      if s1.packets.any fun q => copy q.2 then .next (later 1 .replyFree s.args s)
      else .next (if e.st = .admitted then dropDup s1 dest src seq else s1)
    | some s1, none => .next s1
    | none, _ => .next s
  | _ => .next s

/-- `RETENTION_RESEND_TIMEOUT` (R371). -/
def execRetentionResendTimeout (s : State) : Host.Outcome State Fault Refusal :=
  match s.args with
  | [src, seq, dest, tsend] => match retainedOf s src seq dest with
    | none => .next s
    | some r =>
      if r.rstate ≠ .sent ∨ r.tSend ≠ tsend then .next s
      else if r.nSend < 16 then
        let s1 := updRetained s src seq dest fun r => { r with tSend := s.cyc, nSend := r.nSend + 1 }
        .next (resendTimer src seq dest (injectPacket s1 r.body))
      else .next (bounce s src seq dest)
  | _ => .next s

/-- `ADMIT_RESEND` (R372). -/
def execAdmitResend (s : State) : Host.Outcome State Fault Refusal :=
  match s.args with
  | [c, src, seq] => match dupOf s c src seq with
    | some e =>
      .next (if e.st = .admitted then later 4096 .admitResend [c, src, seq] (sendAdmit s src seq c e.value e.bad) else s)
    | none => .next s
  | _ => .next s

/-! ### Remote full-empty requests (R380) -/

/-- Remote operations parked at a core. -/
def parkedCount (s : State) (c : Nat) : Nat := ((s.core c).feWait.filter fun w => w.body.isSome).length

/-- A request turned away: its table entry goes, and RETRY carries the reason. -/
def retryReply (s : State) (c src seq reason : Nat) : State :=
  sendReply .replyRetry 4 (replyBody src seq c) [src, seq, reason] (BitVec.ofNat 64 reason) (dropDup s c src seq)

/-- `REMOTE_FE_REQUEST` (R380). -/
def execRemoteFeRequest (s : State) : Host.Outcome State Fault Refusal :=
  match s.args with
  | id :: r => match s.packets.get? id with
    | none => .next s
    | some p =>
      let b := p.body
      let c := b.dest
      let s1 := dropPacket s id
      match dupOf s c b.src b.seq, b.fe with
      | some e, some (op, loc, _, _) =>
        if e.ended then .next s1
        else
          let s2 := s1.updCore c fun k => { k with
            dups := listUpd (fun e : DupEntry => e.src == b.src && e.seq == b.seq) (fun e => { e with ended := true }) k.dups }
          let ahead := (s2.core c).feWait.any fun w => w.loc == loc && w.op.wants == op.wants && FeWaiter.live s2 c w
          if packetDead s2 b then .next (markAdmitted s2 c b.src b.seq 0 false [])
          else if isFull s2 loc = op.wants ∧ !ahead then
            match (if owed s2 b.src b.know [(loc, 8)] then none else takeTurn s2 [(loc, 8)] 0).bind fun s3 => performFe s3 c b with
            | some s3 => .next (fillGaps (afterFe s3 c loc))
            | none => .next (later 1 .remoteFeRequest [id, r.headD s.cyc] s)
          else if parkedCount s2 c < 32 then
            let s3 := s2.updCore c fun k => { k with feWait := k.feWait ++ [⟨loc, op, none, none, none, some b, s.cyc⟩] }
            .next (later 4096 .feParkTimeout [c, b.src, b.seq] (replyTo .replyAccept s3 b))
          else .next (retryReply s2 c b.src b.seq 1)
      | _, _ => .next s1
  | [] => .next s

/-- `FE_PARK_TIMEOUT` (R380). -/
def execFeParkTimeout (s : State) : Host.Outcome State Fault Refusal :=
  match s.args with
  | [c, src, seq] =>
    let mine (w : FeWaiter) : Bool := match w.body with
      | some b => b.src == src && b.seq == seq
      | none => false
    if (s.core c).feWait.any mine then
      .next (retryReply (s.updCore c fun k => { k with feWait := k.feWait.filter fun w => !mine w }) c src seq 2)
    else .next s
  | _ => .next s

/-- `REPLY_RETRY` (R380). -/
def execReplyRetry (s : State) : Host.Outcome State Fault Refusal :=
  match s.args with
  | [src, seq, reason, id] => .next (atSource .replyRetry s src id fun s =>
      let s1 := s.updCore src fun k => { k with retained := k.retained.filter fun r => r.body.seq != seq }
      match feThread s1 src seq with
      | none => s1
      | some (key, t, _, b) =>
        if t.feBudget = 0 then
          failFe s1 key t (eFeRetry reason b.feDa.toNat)
        else later 64 .feRetryResend [src, slotOf key] (s1.setThread key { t with feBudget := t.feBudget - 1 }))
  | _ => .next s

/-- `FE_RETRY_RESEND` (R380): a new request with a new `SEQ`; it waits while no retention entry is free (R371). -/
def execFeRetryResend (s : State) : Host.Outcome State Fault Refusal :=
  match s.args with
  | [c, j] => match s.thread? (slotKey c j) with
    | none => .next s
    | some t => match t.fe with
      | none => .next s
      | some (i, b, q) =>
        if (s.core c).retained.any fun r => r.body.seq == b.seq then .next s
        else if !retentionFree s c then .next (later 1 .feRetryResend [c, j] s)
        else match b.fe with
          | some (op, loc, da, _) => .next (sendFe s (slotKey c j) t i op loc da.toNat (b.words.headD 0) q)
          | none => .next s
  | _ => .next s

/-! ### Reset of a core (R217, R373) -/

/-- A core's store as reset leaves it (R217). -/
def clearStore (s : State) (c : Nat) : State :=
  let mine (loc : Nat) : Bool := decide (coreLoc c 0 ≤ loc) && decide (loc < coreLoc c 0 + 2 ^ 17)
  let s1 := { s with
    mem := s.mem.filter fun e => !mine e.1
    full := s.full.filter fun w => !mine (8 * w)
    gtags := s.gtags.filter fun e => !mine (64 * e.1) }
  clearErrs (wipePast s1 (coreLoc c 0) (2 ^ 17)) mine

/-- `CORE_RESET` (R373): held packets bounce, and the core's own state goes to its reset values; its retention buffer, its
sequence counter and the tags the root monitor wrote stay, and so do contexts that were given up and came back (R374), a core that
retains a packet is not gated, and what orders its accesses goes on. -/
def execCoreReset (s : State) : Host.Outcome State Fault Refusal :=
  match s.args with
  | [c] =>
    let k := s.core c
    let held := k.dups.filter fun e => e.st == .held
    let s1 := held.foldl (fun s e => replyTo .replyBounce s (replyBody e.src e.seq c)) s
    let s2 := s1.setCore c { CoreSt.reset with
      rot := k.rot, rotFrom := k.rotFrom, busy := k.busy, retained := k.retained, seqCount := k.seqCount, tags := k.tags
      arrivals := k.arrivals.filter fun a => a.lost.isSome
      power := if k.retained.isEmpty then .gated else k.power
      know := k.know, sent := k.sent, phase := k.phase, seen := k.places, portFull := k.portFull
      resetting := true, idleSince := s.cyc, heldReplies := k.heldReplies, dropped := k.dropped }
    let s3 := { clearStore s2 c with
      threads := s2.threads.filter fun e => coreOf e.1 != c
      slots := s2.slots.filter fun e => coreOf e.1 != c
      gfile := s2.gfile.filter fun e => e.1 / 2048 != c
      wfile := s2.wfile.filter fun e => e.1 / 256 != c }
    .next (trip .coreResetComplete [c] s3)
  | _ => .next s

/-- `CORE_RESET_COMPLETE` (R373): replies held during the reset are acted on. -/
def execCoreResetComplete (s : State) : Host.Outcome State Fault Refusal :=
  match s.args with
  | [c] =>
    let k := s.core c
    if k.resetting then
      let due := k.heldReplies.map fun p => { p with at_ := s.cyc }
      let s1 := s.setCore c { k with
        resetting := false, heldReplies := [], arrivals := k.arrivals.filter fun a => a.lost.isSome, spill := [], spillMoves := [], dups := [] }
      .next { s1 with pending := s1.pending ++ due }
    else .next s
  | _ => .next s

end Sys2Proof.Machine
end

