-- ==== Sys2Proof/Machine/Pager.lean ====
section
/-! DEFINITION. Translation and page faults (R319 to R327): walks, futures, parked threads, and changes of page entries. -/

namespace Sys2Proof.Machine

/-! ### Walks and faults (R320 to R322, R304) -/

/-- A page entry taken into a cluster's translation cache; the oldest of 2,048 makes room (R319). -/
def cacheFill (s : State) (cl : Nat) (e : PageEntry) : State :=
  s.updCluster cl fun k => { k with tcache := (if k.tcache.length < 2048 then k.tcache else k.tcache.drop 1) ++ [e] }

/-- Whether a thread waits for the translation of a page. -/
def waitsForPage (t : Thread) (ctag : BitVec 16) (page : Nat) : Bool :=
  t.ctag == ctag && t.st == .blocked && t.cause == some .translation
    && (match t.parkedOn with
      | some da => da.toNat / 2 ^ 17 == page
      | none => false)

/-- A stalled thread leaves its span's freeze (R304). -/
def leaveFreeze (s : State) (l g key : Nat) : State :=
  s.updGroup l g fun x => { x with freeze := x.freeze.map fun f => (f.1, f.2.1.filter fun k => k != key, f.2.2) }

/-- A thread parked at the boundary of its unissued instruction: its context goes to a fault frame where the pool has one,
and a timed instruction sets `TB` (R304, R322). -/
def park (s : State) (key : Nat) : State :=
  match s.thread? key with
  | none => s
  | some t =>
    let frozen := match s.group? t.launch t.group with
      | some x => (match x.freeze with
          | some f => f.2.1.contains key
          | none => false)
      | none => false
    let pid := (s.pidOf t.ctag).getD 0
    let n := s.framePool.getD pid 0
    let s1 := if n = 0 then s else { s with framePool := s.framePool.put 0 pid (n - 1) }
    leaveFreeze (s1.setThread key { t with
      st := .parked, cause := none
      parkPlace := if n = 0 then .inPlace else .frame
      status := if frozen then t.status ||| 0x100 else t.status }) t.launch t.group key

/-- `WALK_PROBE` (R317, R320). -/
def execWalkProbe (s : State) : Host.Outcome State Fault Refusal :=
  match s.args with
  | [cl, n] => match (s.cluster cl).misses.get? n with
    | none => .next s
    | some m =>
      let done (s : State) : State := s.updCluster cl fun k => { k with misses := k.misses.erase n }
      match probe s m.ctag (m.page * 2 ^ 17) m.probe with
      | some e => .next (cacheFill (done s) cl e)
      | none =>
        if m.probe < 2 then
          .next (trip .walkProbe [cl, n]
            (s.updCluster cl fun k => { k with misses := k.misses.set n { m with probe := m.probe + 1 } }))
        else
          let keys := m.waiters.filterMap fun w => match w with
            | .thread key => (match s.thread? key with
                | some t => if waitsForPage t m.ctag m.page then some key else none
                | none => none)
            | .copy _ | .prefetch => none
          .next (keys.foldl park (postFault (done s) m.ctag m.page keys))
  | _ => .next s

/-! ### The pager's answers (R323, R324) -/

/-- Whether a thread stands at an instruction boundary at which its 96-byte context is whole. -/
def movable (s : State) (t : Thread) : Bool :=
  t.outstanding.isNone && decide (t.readyAt ≤ s.cyc) && t.packet.isNone && t.idle.isNone && t.cause != some .record
    && (t.st == .ready || t.st == .blocked || t.st == .parked)

/-- The occupant of a lent slot stopped, and its context at the head of the arrival queue (R323). -/
def evict (s : State) (key : Nat) (t : Thread) : State :=
  let c := coreOf key
  let (seq, s1) := nextSeq s c
  let b : PktBody := ⟨.migration, c, c, seq, t.ctag, t.launch, t.group, contextWords s key t t.pc, 0, none, []⟩
  let b := { b with know := (s1.core c).know }
  let s2 := s1.updCore c fun k => { k with arrivals := ⟨b, some 0, none⟩ :: k.arrivals }
  freeSlot s2 key

/-- A fault frame given back. -/
def frameBack (s : State) (t : Thread) : State :=
  if t.parkPlace = .frame then
    let pid := (s.pidOf t.ctag).getD 0
    { s with framePool := s.framePool.put 0 pid (s.framePool.getD pid 0 + 1) }
  else s

/-- Whether a thread is parked on a page. -/
def parkedAt (t : Thread) (ctag : BitVec 16) (page : Nat) : Bool :=
  t.ctag == ctag && t.st == .parked && (match t.parkedOn with
    | some da => da.toNat / 2 ^ 17 == page
    | none => false)

/-- Whether the parked thread of a key lies in a save area, with the context of a halted launch (R328). -/
def savedParked (s : State) (ctag : BitVec 16) (page key : Nat) : Bool :=
  s.halts.any fun h => h.2.saved.any fun x =>
    (x.threads.get? key).any (fun t => parkedAt t ctag page) || ((x.slots.get? key).bind (·.lent)).any fun t => parkedAt t ctag page

/-- A parked thread back in its windows, READY; none while the occupant of its lent slot cannot be stopped, or while it lies in a
save area. A key whose thread no longer waits is passed over. -/
def unpark (s : State) (ctag : BitVec 16) (page key : Nat) : Option State :=
  if savedParked s ctag page key then none else
  let wake (s : State) : State := match s.thread? key with
    | some t =>
      if parkedAt t ctag page then
        (frameBack s t).setThread key { t with
          st := .ready, parkPlace := .inPlace, readyAt := max t.readyAt (s.cyc + 1) }
      else s
    | none => s
  match (s.slot key).lent, s.thread? key with
  | some w, some t =>
    if parkedAt w ctag page then (if movable s t then some (wake (evict (frameBack s t) key t)) else none) else some (wake s)
  | _, _ => some (wake s)

/-- Whether the thread of a key, or the parked owner of its lent slot, is parked on a page. -/
def parkedKey (s : State) (ctag : BitVec 16) (page key : Nat) : Bool :=
  ((s.thread? key).toList ++ (s.slot key).lent.toList).any fun t => parkedAt t ctag page

/-- A future completed for all of its waiters, `act` applied to each that is parked; those that cannot be reached stay. -/
def completeFuture (s : State) (ctag : BitVec 16) (page : Nat) (act : State → Nat → State) : State × Bool :=
  match s.futures.find? fun f => f.ctag == ctag && f.page == page with
  | none => (s, true)
  | some f =>
    let r := f.waiters.foldl (fun (acc : State × List Nat) key => match unpark acc.1 ctag page key with
      | some s1 => (if parkedKey acc.1 ctag page key then act s1 key else s1, acc.2)
      | none => (acc.1, acc.2 ++ [key])) (s, [])
    let rest := r.1.futures.filter fun f => !(f.ctag == ctag && f.page == page)
    ({ r.1 with futures := if r.2.isEmpty then rest else rest ++ [⟨ctag, page, r.2⟩] }, r.2.isEmpty)

/-- `PAGER_COMPLETE` (R323). -/
def execPagerComplete (s : State) : Host.Outcome State Fault Refusal :=
  match s.args with
  | [ctag, page] =>
    let (s1, all) := completeFuture s (BitVec.ofNat 16 ctag) page fun s _ => s
    .next (if all then s1 else later 1 .pagerComplete [ctag, page] s1)
  | _ => .next s

/-- A declined page noted by the copies and subscriptions that wait for it (R265, R324). -/
def declineCopies (s : State) (ctag : BitVec 16) (page : Nat) : State :=
  let job (j : Job) : Job := if j.ctag = ctag ∧ j.waits.contains page then { j with declined := j.declined ++ [page] } else j
  let queue (q : JobQueue) : JobQueue := { q with jobs := q.jobs.map job }
  let sub (u : Sub) : Sub := if u.ctag = ctag ∧ u.waits.contains page then { u with declined := u.declined ++ [page] } else u
  let one (k : ClusterSt) : ClusterSt :=
    { k with queues := k.queues.map fun (n, q) => (n, queue q), subs := k.subs.map fun (n, u) => (n, sub u) }
  { s with clusters := s.clusters.map fun (n, k) => (n, one k) }

/-- `PAGER_DECLINE` (R324). Where a waiter cannot be reached yet the event comes again, with the cycle of the refusal as its fourth
number (R83). -/
def execPagerDecline (s : State) : Host.Outcome State Fault Refusal :=
  match s.args with
  | ctag :: page :: why :: since =>
    let at_ := since.headD s.cyc
    let trap (s : State) (key : Nat) : State := match s.thread? key with
      | some t => (match t.parkedOn with
          | some da => if da.toNat / 2 ^ 17 = page then takeTrapAt s key (ePage (if why = 0 then 1 else 2) da.toNat) at_ else s
          | none => s)
      | none => s
    let (s1, all) := completeFuture (declineCopies s (BitVec.ofNat 16 ctag) page) (BitVec.ofNat 16 ctag) page trap
    .next (if all then s1 else later 1 .pagerDecline [ctag, page, why, at_] s1)
  | _ => .next s

/-! ### Changes of page entries (R315 to R317, R326, R327) -/

/-- 128 KiB units of a page. -/
def pageUnits (e : PageEntry) : Nat := 2 ^ (5 * e.size.toNat)

/-- Whether two pages of one context overlap. -/
def pagesOverlap (e f : PageEntry) : Bool :=
  e.ctag == f.ctag && decide (e.vpn.toNat < f.vpn.toNat + pageUnits f) && decide (f.vpn.toNat < e.vpn.toNat + pageUnits e)

/-- Whether two entries describe one page. -/
def samePage (e f : PageEntry) : Bool := e.ctag == f.ctag && e.vpn == f.vpn && e.size == f.size

/-- Every valid entry of a context. -/
def allEntries (s : State) (ctag : BitVec 16) : List PageEntry :=
  match s.contexts.get? ctag.toNat, s.partOf ctag with
  | some c, some p => (p.clusters.flatMap fun cl => (List.range 256).flatMap fun b =>
      (bucketEntries s (vaultLoc cl (c.ptRoot.toNat % 2 ^ 22 + 256 * b))).map (·.2)).filter fun e => e.v && e.ctag == ctag
  | _, _ => []

/-- Whether the frame of an entry is the partition's to map (R315, R413). The pager maps no peer page (R311). -/
def frameOk (s : State) (e : PageEntry) : Bool :=
  let lo := e.frame.toNat * 2 ^ 17
  if e.tier = 3 then false
  else match s.partOf e.ctag with
    | some p => p.frames.any fun f =>
        f.1 == e.tier.toNat && decide (f.2.1 ≤ lo) && decide (lo + pageUnits e * 2 ^ 17 ≤ f.2.2 + 1)
    | none => false

/-- Whether an entry may stand in the table: its form, and that it overlaps no other page (R315, R317). -/
def entryFits (s : State) (e : PageEntry) : Bool :=
  let n := pageUnits e
  e.size.toNat < 3 && e.vpn.toNat % n == 0 && e.frame.toNat % n == 0
    && (!e.v || !((allEntries s e.ctag).any fun f => pagesOverlap f e && !samePage f e))

/-- What the root monitor checks before it writes an entry for the pager: that it fits, and its frame against the partition (R315,
R317, R326). -/
def entryAllowed (s : State) (e : PageEntry) : Bool := entryFits s e && (!e.v || frameOk s e)

/-- Where an entry is written: over the entry of its page, or the first place of its bucket that is not valid. -/
def entryPlace (s : State) (e : PageEntry) : Option Nat :=
  (bucketLoc s e.ctag (e.vpn.toNat * 2 ^ 17) e.size.toNat).bind fun b =>
    let es := bucketEntries s b
    match es.find? fun x => x.2.v && samePage x.2 e with
    | some x => some x.1
    | none => (es.find? fun x => !x.2.v).map (·.1)

/-- Translations of a page dropped, and walks of it restarted (R320, R326). -/
def dropTranslations (s : State) (e : PageEntry) : State :=
  let hit (m : Miss) : Bool := m.ctag == e.ctag && decide (e.vpn.toNat ≤ m.page) && decide (m.page < e.vpn.toNat + pageUnits e)
  let one (k : ClusterSt) : ClusterSt := { k with
    tcache := k.tcache.filter fun f => !(pagesOverlap f e)
    misses := k.misses.map fun (n, m) => (n, if hit m then { m with probe := 0 } else m) }
  { s with clusters := s.clusters.map fun (n, k) => (n, one k) }

/-- Store-buffer entries translated through a page published by every core (R326). -/
def publishPage (s : State) (e : PageEntry) : State :=
  let mine (b : BufEntry) : Bool := b.page == some (e.ctag, e.vpn.toNat, e.size.toNat)
  s.cores.foldl (fun s c => (publishIf mine [] .nothing s c.1).2) s

/-- An entry written at its home bucket, with what follows of it (steps 1 to 3 of R326); none where the bucket is full. -/
def writePage (s : State) (e : PageEntry) : Option State :=
  (entryPlace s e).map fun loc =>
    let s1 := performWrite s hubWriter loc (BitVec.ofNat 56 loc) (toBytes 32 (numOfPage e))
    publishPage (dropTranslations s1 e) e

/-- Steps 1 to 3 of R326; none where the root monitor refuses. -/
def changeEntry (s : State) (e : PageEntry) : Option State := if entryAllowed s e then writePage s e else none

/-- The locations of a page: first and number; none where it has no memory on this module. -/
def pageRange (s : State) (e : PageEntry) : Nat × Nat :=
  match pageLoc ((s.pidOf e.ctag).getD 0) e (e.vpn.toNat * 2 ^ 17) with
  | some lo => (lo, pageUnits e * 2 ^ 17)
  | none => (0, 0)

/-- Whether an access that was translated to a range is still on its way to its home: a request, or a fabric operation (R326,
R439). -/
def rangeBusy (s : State) (lo n : Nat) : Bool :=
  let inside (loc : Nat) : Bool := decide (lo ≤ loc) && decide (loc < lo + n)
  (s.reqs.any fun r => !r.2.performed && (match r.2.kind with
    | .write loc _ _ _ | .atomic loc _ _ | .tagRead loc | .tagWrite loc _ | .fe loc _ _ => inside loc
    | .read ps => ps.any fun p => inside p.1))
  || s.fabops.any fun f => f.2.toCome s f.1 && f.2.locals_.any fun p => inside p.1

/-- The granules of a page given a colour, as the context sees it, when the pager maps its frame (R318). -/
def colourPage (s : State) (e : PageEntry) (c : BitVec 4) : State :=
  let (lo, n) := pageRange s e
  if 2 ≤ e.tier.toNat then s
  else (List.range (n / 64)).foldl (fun s i => setColour s e.ctag (lo + 64 * i) (e.vpn.toNat * 2 ^ 17 + 64 * i) c) s

/-- `PAGE_ENTRY_CHANGE` (R318, R326): refused, or steps 1 to 3 at once; it completes once no access by the old translation is on
its way. While it waits, its numbers are the old page's locations. -/
def execPageEntryChange (change : PageChange) (s : State) : Host.Outcome State Fault Refusal :=
  let e := change.entry
  let wait (s : State) (lo n : Nat) : State :=
    if rangeBusy s lo n then later 1 (.pageEntryChange change) [lo, n] s else { s with refused := none }
  match s.args with
  | [lo, n] => .next (wait s lo n)
  | _ =>
    let old := match walk s e.ctag (e.vpn.toNat * 2 ^ 17) with
      | some f => pageRange s f
      | none => (0, 0)
    match changeEntry s e with
    | some s1 =>
      let s2 := match change.colour with
        | some c => if e.v then colourPage s1 e c else s1
        | none => s1
      .next (wait s2 old.1 old.2)
    | none => .next { s with refused := some (if frameOk s e then .form else .frames) }

/-- Entries kept by location that follow a range to another place; what was kept of that place goes. `loc` gives the location of a
key, where it stands for one, and `key` the key of a location. -/
def moveKeys {α : Type} (loc : Nat → Option Nat) (key : Nat → Nat) (src dst n : Nat) (m : SMap α) : SMap α :=
  let inR (b : Nat) (e : Nat × α) : Bool := (loc e.1).any fun a => decide (b ≤ a) && decide (a < b + n)
  (m.filter (inR src)).foldl (fun r e => SMap.set r (key ((loc e.1).getD 0 - src + dst)) e.2)
    (m.filter fun e => !inR dst e && !inR src e)

/-- The places read that are known of the words of a range follow it (R327, R336). -/
def Know.moved (src dst n : Nat) (k : Know) : Know :=
  moveKeys (fun w => if 2 ^ 80 ≤ w then some (8 * (w - 2 ^ 80)) else none) (fun a => readKey (a / 8)) src dst n k

/-- What is known at any point of the machine, changed. -/
def mapKnows (f : Know → Know) (s : State) : State :=
  let body (b : PktBody) : PktBody := { b with know := f b.know }
  let arr (a : Arrival) : Arrival := { a with body := body a.body }
  let core (k : CoreSt) : CoreSt := { k with
    know := f k.know, sent := f k.sent, heard := f k.heard
    own := k.own.map fun a => { a with after := f a.after }
    arrivals := k.arrivals.map arr
    spill := k.spill.map arr
    dups := k.dups.map fun e => { e with know := f e.know }
    retained := k.retained.map fun r => { r with body := body r.body }
    feWait := k.feWait.map fun w => { w with body := w.body.map body } }
  let queue (q : JobQueue) : JobQueue := { q with
    know := f q.know
    jobs := q.jobs.map fun j => { j with know := f j.know }
    reports := q.reports.map fun r => { r with know := f r.know } }
  let change (c : TileChange) : TileChange := match c with
    | .define h t => .define h { t with know := f t.know }
    | .ready h j k => .ready h j (f k)
    | .release .. | .empty .. => c
  let cluster (k : ClusterSt) : ClusterSt := { k with
    tiles := k.tiles.map fun t => (t.1, { t.2 with know := f t.2.know })
    queues := k.queues.map fun q => (q.1, queue q.2)
    changes := k.changes.map change }
  let thread (t : Thread) : Thread := { t with fe := t.fe.map fun e => (e.1, body e.2.1, e.2.2) }
  let slot (x : SlotSt) : SlotSt := { x with lent := x.lent.map thread }
  let saved (x : SavedCluster) : SavedCluster := { x with
    state := cluster x.state
    cores := x.cores.map fun c => (c.1, core c.2)
    threads := x.threads.map fun t => (t.1, thread t.2)
    slots := x.slots.map fun t => (t.1, slot t.2)
    rels := x.rels.map fun e => (e.1, f e.2) }
  { s with
    cores := s.cores.map fun c => (c.1, core c.2)
    clusters := s.clusters.map fun c => (c.1, cluster c.2)
    threads := s.threads.map fun t => (t.1, thread t.2)
    slots := s.slots.map fun t => (t.1, slot t.2)
    groups := s.groups.map fun g => (g.1, { g.2 with barrier := { g.2.barrier with
      know := g.2.barrier.know.map fun e => (e.1, f e.2) } })
    rels := s.rels.map fun e => (e.1, f e.2)
    done := f s.done
    counters := s.counters.map fun c => (c.1, { c.2 with know := c.2.know.map fun e => (e.1, f e.2) })
    packets := s.packets.map fun p => (p.1, { p.2 with body := body p.2.body })
    reqs := s.reqs.map fun r => (r.1, { r.2 with know := f r.2.know, got := f r.2.got, after := f r.2.after })
    halts := s.halts.map fun h => (h.1, { h.2 with saved := h.2.saved.map saved }) }

/-- Bytes, granule tags and error marks of a range copied to another one. What cores have read of it and may still read of it, and
its release sequences, go with it: a migration changes no value that any agent can read (R327). -/
def copyFrame (s : State) (src dst n : Nat) : State :=
  let inR (b : Nat) (loc : Nat) : Bool := decide (b ≤ loc) && decide (loc < b + n)
  let mem := (s.mem.filter fun c => inR src c.1).foldl (fun m c => memPut m (c.1 - src + dst) c.2)
    (s.mem.filter fun c => !inR dst c.1)
  let tags := (s.gtags.filter fun c => inR src (64 * c.1)).foldl (fun m c => SMap.put m 0 ((64 * c.1 - src + dst) / 64) c.2)
    (s.gtags.filter fun c => !inR dst (64 * c.1))
  let errs := (s.errs.filter fun e => match e.1 with
      | .memWord w => !inR dst (8 * w)
      | _ => true)
    ++ s.errs.filterMap fun e => match e.1 with
      | .memWord w => if inR src (8 * w) then some (.memWord ((8 * w - src + dst) / 8), e.2) else none
      | _ => none
  let past := s.past.map fun p =>
    if inR dst p.loc then { p with len := 0, old := [] } else if inR src p.loc then { p with loc := p.loc - src + dst } else p
  let words {α : Type} (m : SMap α) : SMap α := moveKeys (fun w => some (8 * w)) (· / 8) src dst n m
  mapKnows (Know.moved src dst n) { s with
    mem := mem, gtags := tags, errs := errs, past := past
    rels := moveKeys some id src dst n s.rels
    cores := s.cores.map fun c => (c.1, { c.2 with snap := words c.2.snap, seen := words c.2.seen }) }

/-- `PAGE_MIGRATE` (R327): its first step sets `MG`; its last copies the frame, once every earlier access is performed, and
writes the entry with its new home. -/
def execPageMigrate (ctag vpn : Nat) (last : Bool) (tier : BitVec 2) (frame : BitVec 47) (s : State) :
    Host.Outcome State Fault Refusal :=
  let tag := BitVec.ofNat 16 ctag
  let no : Host.Outcome State Fault Refusal := .next { s with refused := some .form }
  match walk s tag (vpn * 2 ^ 17) with
  | none => no
  | some e =>
    if 2 ≤ e.tier.toNat ∨ 2 ≤ tier.toNat then no
    else if !last then
      match changeEntry s { e with mg := true } with
      | some s1 => .next { s1 with refused := none }
      | none => no
    else if !e.mg then no
    else
      let pid := (s.pidOf tag).getD 0
      let e' := { e with tier := tier, frame := frame, mg := false }
      if rangeBusy s (pageRange s e).1 (pageRange s e).2 then .next (later 1 (.pageMigrate ctag vpn last tier frame) [] s)
      else match pageLoc pid e (e.vpn.toNat * 2 ^ 17), pageLoc pid e' (e.vpn.toNat * 2 ^ 17), changeEntry s e' with
        | some src, some dst, some s1 => .next { (copyFrame s1 src dst (pageUnits e * 2 ^ 17)) with refused := none }
        | _, _, _ => no

end Sys2Proof.Machine
end

