-- ==== Sys2Proof/Machine/Hub.lean ====
section
/-! DEFINITION. The hub's queues (R388 to R390) and the checks of packets (R391 to R395, R398, R399). -/

namespace Sys2Proof.Machine

/-! ### Queues (R388 to R390, R422) -/

/-- The partition a queue is bound to (R413). -/
def queuePart (s : State) (q : Nat) : Option (Nat × Partition) := s.partitions.find? fun p => p.2.jobs.contains q

/-- The context of a queue's job: one of its partition's tags (R391). -/
def queueTag (s : State) (q : Nat) : Option (BitVec 16) :=
  (queuePart s q).bind fun p => p.2.tags[Config.tagChoice (s.hq q).job.toNat % p.2.tags.length]?

/-- A scheduler core is in charge and no take-over is in progress (R423). -/
def schedulerUp (s : State) : Bool :=
  s.sched.failed != 2 && (match s.sched.takeover with
    | some t => decide (t ≤ s.cyc)
    | none => true)

/-- Whether the hub starts packets (R417, R420, R423). -/
def hubStarts (s : State) : Bool := schedulerUp s && !s.sched.stopped && s.boot.failed.isNone

/-- A journal record: 0 a packet start, 1 a `QREAD` step, 2 a `QDONE` step, 3 a placement, 4 the completion of a launch, 5 the start
of a member of a graph, 6 the completion of a graph, 7 that of a packet without a launch (R422). -/
def jot (s : State) (ev a b : Nat) : State := { s with sched := { s.sched with journal := s.sched.journal ++ [(ev, a, b)] } }

/-- A completion that falls due is held while a take-over is in progress, and behind those that fell due before it (R423). -/
def holdDue (s : State) (d : Due) : State :=
  { s with sched := { s.sched with held := if s.sched.held.contains d then s.sched.held else s.sched.held ++ [d] } }

def dropDue (s : State) (d : Due) : State := { s with sched := { s.sched with held := s.sched.held.filter (· != d) } }

/-- Whether what is due may be written now: no take-over is in progress, and nothing that fell due in one comes before it
(R423). -/
def mayWrite (s : State) (d : Due) : Bool :=
  schedulerUp s && (match s.sched.held with
    | [] => true
    | e :: _ => e == d)

/-- The slot of a packet; none where a page of it is not resident (R388). -/
def slotBytes (s : State) (q i : Nat) : Option (List Byte) :=
  (queueTag s q).bind fun ctag => daBytes s ctag ((s.hq q).qbase.toNat + 256 * (i % 2 ^ (s.hq q).log)) 256

/-- The read of a slot in host memory, for the function it is made for (R428). -/
def noteSlot (s : State) (q i : Nat) : State :=
  match queueTag s q with
  | some ctag =>
    (daRange s ctag ((s.hq q).qbase.toNat + 256 * (i % 2 ^ (s.hq q).log)) 256).foldl (fun s p => (p.1.map (noteHost s)).getD s) s
  | none => s

/-- Whether the hub may read slots of a queue, as far as the queue goes: how many are published (R389, R390). -/
def aheadOf (s : State) (q : Nat) : Nat :=
  let h := s.hq q
  let n := (h.qkick - h.qread).toNat
  if !h.en || 2 ^ 31 ≤ n then 0 else n

/-- The slot at `QREAD`, where the hub may read it now: its index and its bytes (R389). A barrier packet waits for the
packets before it. -/
def readable (s : State) (q : Nat) : Option (Nat × List Byte) :=
  let h := s.hq q
  let i := h.qread.toNat
  if aheadOf s q == 0 || !hubStarts s then none
  else (slotBytes s q i).bind fun bs =>
    if bs.getD 255 0 ≠ lapParity i h.log then none
    else if (bs.getD 253 0).toNat / 16 = 1 ∧ h.qdone ≠ h.qread then none
    else some (i, bs)

/-- A packet read and started; one that is complete at once is journalled as that too (R422). -/
def takePacket (s : State) (q i : Nat) (p : PktState) : State :=
  let s0 := jot (jot (noteSlot s q i) 0 q i) 1 q (i + 1)
  let s1 := if p = .complete then jot s0 7 q i else s0
  let kicks := if (s.hq q).qkick = (s.hq q).qread + 1 then s.sched.kicks.filter fun k => k != q else s.sched.kicks
  { s1 with sched := { s1.sched with kicks := kicks } }.updHq q fun h => { h with
    qread := h.qread + 1, started := h.started.set i p, marks := h.marks.filter fun m => m != i }

/-- A packet complete; one without a launch is journalled here (R422). -/
def packetDone (s : State) (q i : Nat) : State :=
  let s1 := match (s.hq q).started.get? i with
    | some (.wait ..) | some (.waited _) | some (.signal ..) | some .cancelled => jot s 7 q i
    | some (.launch _) | some (.graph _) | some .complete | none => s
  s1.updHq q fun h => { h with started := if h.started.has i then h.started.set i .complete else h.started }

/-- `QDONE` steps over the packets that are complete. -/
def stepDone : Nat → State → Nat → State
  | 0, s, _ => s
  | fuel + 1, s, q =>
    let h := s.hq q
    let step (s : State) : State :=
      jot (s.setHq q { h with qdone := h.qdone + 1, started := h.started.erase h.qdone.toNat }) 2 q (h.qdone.toNat + 1)
    match h.started.get? h.qdone.toNat with
    | some .complete => stepDone fuel (step s) q
    | some (.waited t) => if t ≤ s.cyc then stepDone fuel (step (jot s 7 q h.qdone.toNat)) q else s
    | some (.launch _) | some (.graph _) | some (.wait ..) | some (.signal ..) | some .cancelled | none => s

/-- The event a readable slot makes due: by its type, and a launch's for a type that is refused (R389). -/
def packetEvent (bs : List Byte) : Instr :=
  match (bs.getD 254 0).toNat with
  | 2 => .packetGraph
  | 3 => .packetWait
  | 4 => .packetSignal
  | 5 => .packetCancel
  | _ => .packetLaunch

/-- The MSI-X message that follows a completion signal written for a packet of a queue (R431). -/
def raiseVector (s : State) (q : Nat) : State :=
  let e := s.intMap.getD q ⟨0, false⟩
  match e.ien, queuePart s q with
  | true, some (_, p) =>
    let f := s.functions.getD p.vfn .reset
    let v := e.vec.toNat
    let f' := if f.masked.contains v then { f with msiPending := f.msiPending.filter (· != v) ++ [v] }
      else { f with msiSent := f.msiSent ++ [v] }
    { s with functions := s.functions.put .reset p.vfn f' }
  | _, _ => s

/-- A signal written for a packet of a queue; none where its address is 0 (R344, R391). The write is a release: an acquire that reads
it learns of what the groups that have retired knew and performed (R338, R344). -/
def writeSignal (s : State) (ctag : BitVec 16) (q : Nat) (da : BitVec 56) (v : Word) : State :=
  if da = 0 then s
  else
    let s1 := daWrite s ctag hubWriter da.toNat (toBytes 8 v.toNat)
    raiseVector ((daRange s ctag da.toNat 8).foldl (fun s p => match p.1 with
      | some l => setRels s l p.2.2 s.done
      | none => s) s1) q

/-- Pages of `[da, da + n)` that are not resident. -/
def absentPages (s : State) (ctag : BitVec 16) (da n : Nat) : List Nat :=
  if n = 0 then []
  else ((List.range (n / 2 ^ 17 + 2)).filterMap fun i =>
    let a := da + min (i * 2 ^ 17) (n - 1)
    if (daLoc s ctag a).isNone then some (a / 2 ^ 17) else none).eraseDups

/-- Faults posted for pages the hub waits for (R321). -/
def postAbsent (s : State) (ctag : BitVec 16) (pages : List Nat) : State := pages.foldl (fun s p => postFault s ctag p []) s

/-! ### Fields of packets and headers (R391, R392) -/

/-- A little-endian field. -/
def fieldAt (bs : List Byte) (i n : Nat) : Nat := ofBytes ((bs.drop i).take n)

/-- A signed byte. -/
def signedAt (bs : List Byte) (i : Nat) : Int := ((bs.getD i 0).toInt)

/-- Whether ranges of bytes are zero. -/
def zerosAt (bs : List Byte) (rs : List (Nat × Nat)) : Bool := rs.all fun r => ((bs.drop r.1).take r.2).all (· == 0)

/-- The fields of a kernel header (R392). -/
def headerOfBytes (bs : List Byte) : Header where
  threads := fieldAt bs 0 2
  regs := fieldAt bs 2 1
  nv := fieldAt bs 3 1
  nk := fieldAt bs 4 1
  members := fieldAt bs 5 2
  spanW := 2 ^ (fieldAt bs 7 1 % 4)
  spanH := 2 ^ (fieldAt bs 7 1 / 4 % 4)
  rot := fieldAt bs 8 1
  migratory := fieldAt bs 9 1 % 2 == 1
  timed := fieldAt bs 9 1 / 2 % 2 == 1
  store := fieldAt bs 12 4
  vault := fieldAt bs 16 4
  count := fieldAt bs 20 4
  codeIdx := fieldAt bs 24 2

/-- The three components of a vector at a byte. -/
def vectorAt (bs : List Byte) (i : Nat) : Int × Int × Int := (signedAt bs i, signedAt bs (i + 1), signedAt bs (i + 2))

/-- λ·d. -/
def dot (l d : Int × Int × Int) : Int := l.1 * d.1 + l.2.1 * d.2.1 + l.2.2 * d.2.2

/-- Values in the order of the search (R398). -/
def sweepValues : List Int := [0, 1, -1, 2, -2, 3, -3]

/-- Every λ of the search for `n` dimensions, in value order. -/
def lambdas (n : Nat) : List (Int × Int × Int) :=
  sweepValues.flatMap fun a => (if 2 ≤ n then sweepValues else [0]).flatMap fun b =>
    (if 3 ≤ n then sweepValues else [0]).map fun c => (a, b, c)

/-- The first λ that passes (R398). -/
def findSweep (n : Nat) (deps : List (Int × Int × Int)) : Option (Int × Int × Int) :=
  let ls := lambdas n
  (List.range 10).findSome? fun norm => ls.find? fun l =>
    l.1.natAbs + l.2.1.natAbs + l.2.2.natAbs == norm && deps.all fun d => decide (1 ≤ dot l d)

/-- λ·g of a group (R399). -/
def sweepKey (grid : Nat × Nat × Nat) (l : Int × Int × Int) (g : Nat) : Int :=
  let (x, y, z) := coords grid g
  dot l (x, y, z)

/-- A group put before those whose key is not smaller. -/
def insertGroup (key : Nat → Int) (g : Nat) : List Nat → List Nat
  | [] => [g]
  | h :: r => if key g ≤ key h then g :: h :: r else h :: insertGroup key g r

/-- Groups in release order (R399). -/
def releaseOrder (grid : Nat × Nat × Nat) (deps : List (Int × Int × Int)) (l : Int × Int × Int) : List Nat :=
  let all := List.range (grid.1 * grid.2.1 * grid.2.2)
  if deps.isEmpty then all else all.foldr (insertGroup (sweepKey grid l)) []

/-- A launch as its packet describes it, before any check. A device address has 56 bits, and each address stands in a field of 8
bytes: bits [63:56] of it are not looked at (entry 47). -/
def launchOfBytes (s : State) (q i pid : Nat) (ctag : BitVec 16) (graph : Option (Nat × Nat)) (mark : Bool) (bs : List Byte) :
    Launch where
  st := .waiting
  queue := q
  index := i
  graph := graph
  job := (s.hq q).job.toNat
  pid := pid
  ctag := ctag
  header := headerOfBytes []
  headerAddr := BitVec.ofNat 56 (fieldAt bs 0 8)
  grid := (fieldAt bs 8 4, fieldAt bs 12 4, fieldAt bs 16 4)
  dims := fieldAt bs 20 1
  priority := fieldAt bs 21 1
  scope := fieldAt bs 22 1 % 16
  fence := fieldAt bs 253 1 % 16
  policy := bs.getD 23 0
  barrierIdx := if fieldAt bs 24 2 = 0xFFFF then none else some (fieldAt bs 24 2)
  deps := (List.range (fieldAt bs 26 1 % 8)).map fun k => vectorAt bs (28 + 3 * k)
  sweep := vectorAt bs 40
  segs := (List.range 8).map fun k => if fieldAt bs (48 + 2 * k) 2 = 0xFFFF then none else some (fieldAt bs (48 + 2 * k) 2)
  sigAddr := BitVec.ofNat 56 (fieldAt bs 64 8)
  sigValue := BitVec.ofNat 64 (fieldAt bs 72 8)
  ringAddr := BitVec.ofNat 56 (fieldAt bs 80 8)
  ringLog := fieldAt bs 88 1
  coreImage := (BitVec.ofNat 56 (fieldAt bs 96 8), fieldAt bs 104 4)
  vaultImage := (BitVec.ofNat 56 (fieldAt bs 112 8), fieldAt bs 120 4)
  recAddr := BitVec.ofNat 56 (fieldAt bs 128 8)
  privileged := mark
  order := []
  next := 0
  head := 0
  cnt := 0
  retired := 0
  cancelledGroups := 0
  cancelled := false
  refusal := 0
  trapsWritten := 0
  trapsLost := 0
  lostPackets := 0
  effPriority := fieldAt bs 21 1
  readySince := none
  startedAt := s.cyc
  begun := false
  halted := false
  doomed := false

/-! ### Checks (R395) -/

/-- The trailer's part of E_PACKET and E_SCOPE that every packet type shares; 0 where it passes (R389). `i` is the index
the trailer must carry. -/
def trailerCode (bs : List Byte) (i : Option Nat) : Nat :=
  let other : Bool := match i with
    | some n => fieldAt bs 252 1 != n % 256
    | none => false
  if 32 ≤ fieldAt bs 253 1 ∨ other then 7 else 0

def scopeCode (bs : List Byte) : Nat := if 6 ≤ fieldAt bs 253 1 % 16 then 4 else 0

/-- A descriptor of a context, where its index is in the table. -/
def descAt (s : State) (ctag : BitVec 16) (i : Nat) : Option Segment :=
  (s.contexts.get? ctag.toNat).bind fun c => if i < c.sdtSize ∧ i < 2 ^ 12 then some (c.descs.getD i .null) else none

/-- E_PACKET for a launch packet (R391, R395). -/
def launchPacketBad (s : State) (x : Launch) (bs : List Byte) : Bool :=
  let seg (o : Option Nat) : Bool := match o with
    | none => true
    | some i => (match descAt s x.ctag i with
        | some e => e.kind != .res6 && e.kind != .res7
        | none => false)
  let bar := match x.barrierIdx with
    | none => true
    | some i => (match descAt s x.ctag i with
        | some e => e.kind == .barrier
        | none => false)
  let aligned (i n : Nat) : Bool := fieldAt bs i 8 != 0 && fieldAt bs i 8 % n == 0
  !(zerosAt bs [(27, 1), (43, 5), (89, 7), (108, 4), (124, 4), (136, 116)]
    && fieldAt bs 22 1 < 16 && fieldAt bs 23 1 < 8 && fieldAt bs 26 1 < 16
    && aligned 0 64 && aligned 80 64 && aligned 128 64 && fieldAt bs 64 8 % 8 == 0
    && 4 ≤ x.ringLog && x.ringLog ≤ 16 && x.priority ≤ 31 && bar && x.segs.all seg)

/-- E_PRIV (R50, R395). A descriptor of kind 0 gives access to nothing, and is no colour 0 segment (entry 62). -/
def launchPrivBad (s : State) (x : Launch) : Bool :=
  !x.privileged && (decide (x.priority < 4) || x.segs.any fun o => (match o.bind (descAt s x.ctag) with
    | some e => e.colour == 0 && e.kind != .null
    | none => false))

/-- E_GRID (R391, R395). -/
def launchGridBad (x : Launch) (bs : List Byte) : Bool :=
  let (gx, gy, gz) := x.grid
  let inDims (v : Int × Int × Int) : Bool := (2 ≤ x.dims || v.2.1 == 0) && (3 ≤ x.dims || v.2.2 == 0)
  let small (v : Int × Int × Int) : Bool := v.1.natAbs ≤ 7 && v.2.1.natAbs ≤ 7 && v.2.2.natAbs ≤ 7
  let k := fieldAt bs 26 1 % 8
  let swept := fieldAt bs 26 1 / 8 % 2 == 1
  !(decide (1 ≤ x.dims) && decide (x.dims ≤ 3) && decide (1 ≤ gx) && decide (1 ≤ gy) && decide (1 ≤ gz)
    && decide (gx * gy * gz ≤ 2 ^ 24) && (2 ≤ x.dims || gy == 1) && (3 ≤ x.dims || gz == 1)
    && decide (k ≤ 4) && x.deps.all (fun v => small v && inDims v) && zerosAt bs [(28 + 3 * k, 12 - 3 * k)]
    && (!swept || (x.sweep.1 != -128 && x.sweep.2.1 != -128 && x.sweep.2.2 != -128)))

/-- E_HEADER (R47, R392, R395). -/
def headerBad (s : State) (x : Launch) (h : Header) (bs : List Byte) : Bool :=
  let w := fieldAt bs 7 1 % 4
  let v := fieldAt bs 7 1 / 4 % 4
  let code := match descAt s x.ctag h.codeIdx with
    | some e => e.kind == .code
    | none => false
  !(decide (1 ≤ h.threads) && decide (h.threads ≤ 512) && decide (8 ≤ h.regs) && decide (h.regs ≤ 128) && h.regs % 8 == 0
    && decide (h.nv ≤ 32) && decide (h.nk ≤ 16) && decide (h.members ≤ 256) && decide (h.members ≤ h.threads)
    && decide (w ≤ 2) && decide (v ≤ 2) && fieldAt bs 7 1 < 16 && decide (h.rot ≤ 3) && fieldAt bs 9 1 < 4
    && h.store % 64 == 0 && decide (h.store ≤ 131072) && h.vault % 64 == 0 && decide (h.vault ≤ 2490368)
    && decide (h.count ≤ 21845) && code
    && decide (h.threads ≤ 8 * (8 * 2 ^ h.rot) * h.spanW * h.spanH)
    && (!h.migratory || (h.regs == 8 && h.nv == 0 && h.nk == 0))
    && (h.members == 0 || x.barrierIdx.isSome)
    && decide (x.coreImage.2 ≤ h.store) && decide (x.vaultImage.2 ≤ h.vault))

/-- The lowest start of a free region of `size` bytes below `limit`; every size in use is a multiple of 64 (R217). -/
def lowRegion (taken : List (Nat × Nat)) (size limit : Nat) : Option Nat :=
  if size = 0 then some 0
  else ((0 :: taken.map fun t => t.1 + t.2).filter fun b =>
      decide (b + size ≤ limit) && taken.all fun t => decide (b + size ≤ t.1) || decide (t.1 + t.2 ≤ b)).foldl
    (fun r b => match r with
      | some a => some (min a b)
      | none => some b) none

/-- The page-table shards in each cluster of a partition (R316). -/
def shards (s : State) (pid : Nat) : List (Nat × Nat) :=
  s.contexts.filterMap fun c => if c.2.pid = pid then some (c.2.ptRoot.toNat % 2 ^ 22, 65536) else none

/-- Whether the rectangle of a span stands at `lead` on one die, inside a partition (R288, R396). -/
def spanFits (p : Partition) (lead w h : Nat) : Bool :=
  meshCol lead + w ≤ 16 && meshRow lead + h ≤ 16 && (rectangle lead w h).all p.clusters.contains

/-- Threads of a kernel that one core can hold (R66, R396). -/
def coreRoom (h : Header) : Nat :=
  let wide := ceil8 h.nv + ceil8 h.nk
  min (8 * 2 ^ h.rot) (min (2048 / h.regs) (if wide = 0 then 64 else 256 / wide))

/-- Whether an empty partition could hold one group (R396). -/
def everPlaced (s : State) (pid : Nat) (p : Partition) (h : Header) : Bool :=
  decide (h.threads ≤ coreRoom h * 8 * h.spanW * h.spanH) && (lowRegion (shards s pid) h.vault 0x270000).isSome
    && p.clusters.any fun c => spanFits p c h.spanW h.spanH

/-- What the hub finds of a launch packet. -/
inductive Checked where
  /-- a page it must read is not resident -/
  | absent (pages : List Nat)
  | launch (x : Launch)

/-- A launch packet checked: a launch with its header, order and sweep, or with the code of its refusal (R395). -/
def checkLaunch (s : State) (x : Launch) (p : Partition) (i : Option Nat) (bs : List Byte) : Checked :=
  let no (code : Nat) : Checked := .launch { x with refusal := code }
  if trailerCode bs i ≠ 0 ∨ fieldAt bs 254 1 ≠ 1 ∨ launchPacketBad s x bs then no 7
  else if scopeCode bs ≠ 0 ∨ 6 ≤ x.scope then no 4
  else if launchPrivBad s x then no 3
  else if launchGridBad x bs then no 5
  else match daBytes s x.ctag x.headerAddr.toNat 64 with
    | none => .absent (absentPages s x.ctag x.headerAddr.toNat 64)
    | some hb =>
      let h := headerOfBytes hb
      if headerBad s x h hb then no 2
      else
        let swept := fieldAt bs 26 1 / 8 % 2 == 1
        let l := if swept then (if x.deps.all fun d => decide (1 ≤ dot x.sweep d) then some x.sweep else none)
          else findSweep x.dims x.deps
        match l with
        | none => no 1
        | some l =>
          if !everPlaced s x.pid p h then no 6
          else .launch { x with header := h, sweep := l, order := releaseOrder x.grid x.deps l }

end Sys2Proof.Machine
end

