-- ==== Sys2Proof/Machine/Launch.lean ====
section
/-! DEFINITION. Launches and their groups (R387 to R402): packets started, the scoreboard, placement, start fills, retirement,
cancellation and completion. -/

namespace Sys2Proof.Machine

/-! ### Packets started (R391 to R395) -/

/-- A launch recorded under the next identifier; a refused one, or one that waits for its graph, is not ready. -/
def addLaunch (s : State) (x : Launch) (ready : Bool) : Nat × State :=
  let l := s.launches.length + 1
  let st := if x.refusal ≠ 0 then LaunchState.waiting else if ready then .ready else .waiting
  (l, { s with launches := s.launches.set l { x with st := st, readySince := none } })

/-- A launch or graph packet that `JCTL` cancelled before the hub read it: its launches complete as cancelled, each with its
record and its signal; any other packet, and a slot that does not read as published, is complete (R387, R393). -/
def readCancelled (s : State) (q i : Nat) : State :=
  match queuePart s q, queueTag s q with
  | some (pid, _), some ctag =>
    let h := s.hq q
    let dead (g : Option (Nat × Nat)) (bs : List Byte) : Launch := { launchOfBytes s q i pid ctag g false bs with cancelled := true }
    let is (s : State) (p : PktState) : State := s.updHq q fun h => { h with started := h.started.set i p }
    match slotBytes s q i with
    | none => postMissing s ctag (h.qbase.toNat + 256 * (i % 2 ^ h.log)) 256
    | some bs =>
      let n := fieldAt bs 8 4
      if bs.getD 255 0 ≠ lapParity i h.log then packetDone s q i
      else match (bs.getD 254 0).toNat with
        | 1 =>
          let (l, s1) := addLaunch s (dead none bs) false
          is s1 (.launch l)
        | 2 =>
          if n = 0 ∨ 4096 < n then packetDone s q i
          else match daBytes s ctag (fieldAt bs 0 8) (256 * n) with
            | none => postMissing s ctag (fieldAt bs 0 8) (256 * n)
            | some tb =>
              let gid := s.graphs.length + 1
              let (ls, s1) := (List.range n).foldl (fun (r : List Nat × State) k =>
                let (l, s') := addLaunch r.2 (dead (some (gid, k)) ((tb.drop (256 * k)).take 256)) false
                (r.1 ++ [l], s')) ([], s)
              is { s1 with graphs := s1.graphs.set gid ⟨q, i, ls, [], false, true, 0, s.cyc⟩ } (.graph gid)
        | _ => packetDone s q i
  | _, _ => packetDone s q i

/-- `PACKET_LAUNCH` (R391, R395). A packet that waits for an absent page has its fault posted. One with the index of a packet
that was cancelled unread ends it (R387). -/
def execPacketLaunch (s : State) : Host.Outcome State Fault Refusal :=
  match s.args with
  | [q, i] => .next (if (s.hq q).started.get? i = some .cancelled then readCancelled s q i else s)
  | [q] => match readable s q, queuePart s q, queueTag s q with
    | some (i, bs), some (pid, p), some ctag =>
      let mark := p.priv && (s.hq q).marks.contains i
      match checkLaunch s (launchOfBytes s q i pid ctag none mark bs) p (some i) bs with
      | .absent pages => .next (postAbsent s ctag pages)
      | .launch x =>
        let (l, s1) := addLaunch s x true
        .next (takePacket s1 q i (.launch l))
    | _, _, _ => .next s
  | _ => .next s

/-- A packet refused whose type has neither record nor signal: it is complete (R395). -/
def refusePacket (s : State) (q i : Nat) : State := takePacket s q i .complete

/-- E_PACKET for the types of R393 whose bytes 0 to 7 hold an address. -/
def addressPacketBad (bs : List Byte) (i listed : Nat) : Bool :=
  trailerCode bs (some i) != 0 || !(zerosAt bs [(listed, 252 - listed)]) || fieldAt bs 0 8 == 0 || fieldAt bs 0 8 % 8 != 0

/-- Edges of a graph: source and target. -/
def edgesOf (bs : List Byte) (n : Nat) : List (Nat × Nat) :=
  (List.range n).map fun k => (fieldAt bs (4 * k) 2 % 4096, fieldAt bs (4 * k + 2) 2 % 4096)

/-- Members left when those without an unmet source are taken away, `n` times; a graph has a cycle when some stay. -/
def peel : Nat → List (Nat × Nat) → List Nat → List Nat
  | 0, _, left => left
  | n + 1, es, left => peel n es (left.filter fun m => es.any fun e => e.2 == m && left.contains e.1)

/-- The members of a graph table checked; absent pages where a header cannot be read. -/
def checkMembers (s : State) (q i pid : Nat) (ctag : BitVec 16) (p : Partition) (mark : Bool) (gid : Nat) (bs : List Byte) :
    List Nat → List Launch × List Nat
  | [] => ([], [])
  | k :: r =>
    let one := (bs.drop (256 * k)).take 256
    let x := launchOfBytes s q i pid ctag (some (gid, k)) mark one
    let (xs, pages) := checkMembers s q i pid ctag p mark gid bs r
    match (if fieldAt one 255 1 = 0xA5 then checkLaunch s x p none one else .launch { x with refusal := 7 }) with
    | .absent more => (xs, more ++ pages)
    | .launch y => (y :: xs, pages)

/-- `PACKET_GRAPH` (R393, R395). -/
def execPacketGraph (s : State) : Host.Outcome State Fault Refusal :=
  match s.args with
  | [q] => match readable s q, queuePart s q, queueTag s q with
    | some (i, bs), some (pid, p), some ctag =>
      let n := fieldAt bs 8 4
      let m := fieldAt bs 12 4
      let table := fieldAt bs 0 8
      let list := fieldAt bs 16 8
      if addressPacketBad bs i 24 ∨ n = 0 ∨ 4096 < n ∨ list = 0 ∨ list % 8 ≠ 0 ∨ scopeCode bs ≠ 0 then
        .next (refusePacket s q i)
      else match daBytes s ctag table (256 * n), daBytes s ctag list (4 * m) with
        | some tb, some lb =>
          let es := edgesOf lb m
          let form := (List.range m).all fun k => fieldAt lb (4 * k) 4 / 4096 % 16 == 0 && fieldAt lb (4 * k) 4 / 2 ^ 28 == 0
          if !form || (es.any fun e => n ≤ e.1 || n ≤ e.2) || !(peel n es (List.range n)).isEmpty then .next (refusePacket s q i)
          else
            let gid := s.graphs.length + 1
            let (xs, pages) := checkMembers s q i pid ctag p (p.priv && (s.hq q).marks.contains i) gid tb (List.range n)
            if !pages.isEmpty then .next (postAbsent s ctag pages)
            else
              let (ls, s1) := (xs.zip (List.range n)).foldl (fun (r : List Nat × State) e =>
                let first := !(es.any fun d => d.2 == e.2)
                let (l, s') := addLaunch r.2 e.1 first
                (r.1 ++ [l], if first then jot s' 5 l i else s')) ([], s)
              let g : Graph := ⟨q, i, ls, es, false, false, fieldAt bs 253 1 % 16, s.cyc⟩
              .next (takePacket { s1 with graphs := s1.graphs.set gid g } q i (.graph gid))
        | _, _ => .next (postAbsent s ctag (absentPages s ctag table (256 * n) ++ absentPages s ctag list (4 * m)))
    | _, _, _ => .next s
  | _ => .next s

/-- The read of a waited word: the packet's end, one cycle after the read returns, or the next read (R393). -/
def pollWord (s : State) (q i : Nat) : State :=
  match (s.hq q).started.get? i, queueTag s q with
  | some (.wait da v), some ctag =>
    let again (s : State) : State := later 1024 .waitPacketPoll [q, i] s
    match daBytes s ctag da.toNat 8 with
    | some bs =>
      if v.toNat ≤ ofBytes bs then
        { s with fresh := s.fresh + 1 }.updHq q fun h => { h with started := h.started.set i (.waited (s.cyc + s.tripLen + 1)) }
      else again s
    | none => again (postAbsent s ctag (absentPages s ctag da.toNat 8))
  | _, _ => s

/-- `PACKET_WAIT` (R393). -/
def execPacketWait (s : State) : Host.Outcome State Fault Refusal :=
  match s.args with
  | [q] => match readable s q with
    | some (i, bs) =>
      if addressPacketBad bs i 16 ∨ scopeCode bs ≠ 0 then .next (refusePacket s q i)
      else
        let s1 := takePacket s q i (.wait (BitVec.ofNat 56 (fieldAt bs 0 8)) (BitVec.ofNat 64 (fieldAt bs 8 8)))
        .next (pollWord s1 q i)
    | none => .next s
  | _ => .next s

/-- `WAIT_PACKET_POLL` (R393). -/
def execWaitPacketPoll (s : State) : Host.Outcome State Fault Refusal :=
  match s.args with
  | [q, i] => .next (pollWord s q i)
  | _ => .next s

/-- A signal whose turn has come: everything before it is complete; at fence scope 5, so is every fabric operation of the queue's
launches (R343, R344, R393). -/
def signalTurn (s : State) (q : Nat) : Option (Nat × BitVec 56 × Word) :=
  let h := s.hq q
  match h.started.get? h.qdone.toNat with
  | some (.signal da v scope) =>
    if scope = 5 ∧ s.fabops.any (fun f => (s.launch? f.2.launch).any fun x => x.queue == q) then none
    else some (h.qdone.toNat, da, v)
  | _ => none

/-- `PACKET_SIGNAL` (R393): the start of the signal packet at a slot, whose index is the event's second number, or the write of a
signal whose turn has come. The write waits for its page and for tiles (R253), and during a take-over (R423). -/
def execPacketSignal (s : State) : Host.Outcome State Fault Refusal :=
  match s.args with
  | [q] => match signalTurn s q, queueTag s q with
    | some (i, da, v), some ctag =>
      if !mayWrite s (.signal q) then .next (holdDue s (.signal q))
      else if hubReaches s ctag da.toNat 8 then
        .next (packetDone (writeSignal (dropDue s (.signal q)) ctag q da v) q i)
      else .next (postMissing s ctag da.toNat 8)
    | _, _ => .next s
  | [q, _] => match readable s q with
    | some (i, bs) =>
      if addressPacketBad bs i 16 ∨ scopeCode bs ≠ 0 then .next (refusePacket s q i)
      else .next (takePacket s q i
        (.signal (BitVec.ofNat 56 (fieldAt bs 0 8)) (BitVec.ofNat 64 (fieldAt bs 8 8)) (fieldAt bs 253 1 % 16)))
    | none => .next s
  | _ => .next s

/-- A launch cancelled, or, while a halt of it waits to take effect, marked to be (R387, R407). -/
def askCancel (s : State) (l : Nat) : State :=
  match s.launch? l with
  | none => s
  | some x =>
    let waits := match s.halts.get? x.pid with
      | some h => h.taken.isNone && (h.launch.isNone || h.launch == some l)
      | none => false
    if x.st = .complete then s
    else if waits then s.updLaunch l fun x => { x with doomed := true }
    else cancelLaunch s l

/-- A graph cancelled with its launches (R387). -/
def cancelGraph (s : State) (g : Nat) : State :=
  match s.graphs.get? g with
  | some x => x.members.foldl askCancel { s with graphs := s.graphs.set g { x with cancelled := true } }
  | none => s

/-- `PACKET_CANCEL` (R393): only within the partition of its queue. -/
def execPacketCancel (s : State) : Host.Outcome State Fault Refusal :=
  match s.args with
  | [q] => match readable s q, queuePart s q with
    | some (i, bs), some (pid, _) =>
      let bad := trailerCode bs (some i) != 0 || !(zerosAt bs [(16, 236)]) || decide (2 ≤ fieldAt bs 8 8)
      let s1 := takePacket s q i .complete
      if bad ∨ scopeCode bs ≠ 0 then .next s1
      else
        let id := fieldAt bs 0 8
        if fieldAt bs 8 8 = 1 then
          match s.graphs.get? id with
          | some g => .next (if (queuePart s g.queue).map (·.1) = some pid then cancelGraph s1 id else s1)
          | none => .next s1
        else match s.launch? id with
          | some x => .next (if x.pid = pid then askCancel s1 id else s1)
          | none => .next s1
    | _, _ => .next s
  | _ => .next s

/-- `JCTL` (R387): the job's queues disabled, and every packet of them that is not complete cancelled. Those that the hub has not
read are read for what they owe. -/
def cancelQueue (s : State) (q : Nat) : State :=
  let h := s.hq q
  let ahead := (h.qkick - h.qread).toNat
  let unread := if ahead < 2 ^ 31 then (List.range ahead).map fun k => (h.qread + BitVec.ofNat 32 k).toNat else []
  let s1 := h.started.foldl (fun s e => match e.2 with
    | .launch l => askCancel s l
    | .graph g => cancelGraph s g
    | .wait .. | .waited _ | .signal .. => packetDone s q e.1
    | .cancelled | .complete => s) s
  let s2 := unread.foldl (fun s i => jot s 1 q (i + 1)) s1
  s2.updHq q fun h => { h with
    en := false
    qread := if ahead < 2 ^ 31 then h.qkick else h.qread
    started := unread.foldl (fun m i => SMap.set m i PktState.cancelled) h.started }

def execJctl (s : State) : Host.Outcome State Fault Refusal :=
  match s.args with
  | [job] => .next (if s.boot.failed.isSome then s
      else (s.hqueues.filter fun e => e.2.job.toNat == job).foldl (fun s e => cancelQueue s e.1) s)
  | _ => .next s

/-! ### Writes of the queue registers (R388, R390) -/

/-- `QKICK` (R390): a write of the host, which does not pass an earlier one that is not yet performed (R343, R432). -/
def execQkick (queue : Nat) (value : BitVec 32) (s : State) : Host.Outcome State Fault Refusal :=
  .next (if !s.posted.isEmpty then { s with posted := s.posted ++ [.kick queue value] }
    else if s.boot.failed.isSome then s else writeKick s queue value)

/-- Whether every started packet of a queue is complete. -/
def queueIdle (h : HQueue) : Bool := h.started.all fun e => e.2 == .complete

/-- Whether a slot at a device address may lie there: one in a window lies in a core store or the visible vault below the system region
of one of the partition's clusters (R281, R388, R413). -/
def slotAllowed (p : Partition) (da : Nat) : Bool :=
  match homeOf da with
  | .core c _ => p.clusters.contains (clusterOf c)
  | .vault cl off => p.clusters.contains cl && decide (off < 0x270000)
  | .hbm _ | .cellar _ | .host _ _ | .other => true

/-- Bytes of the slots of a queue of a size (R388). -/
def slotsBytes (size : BitVec 4) : Nat := 256 * 2 ^ (size.toNat + 4)

/-- Whether a job is that of a queue which is enabled for another partition. -/
def jobElsewhere (s : State) (q : Nat) (job : BitVec 10) : Bool :=
  s.hqueues.any fun e => e.2.en && e.2.job == job && (queuePart s e.1).map (·.1) != (queuePart s q).map (·.1)

/-- Whether a queue, its slots and its job lie in the allocation of a partition: the partition holds the queue, every slot in a window
lies in one of its clusters, and no other partition runs the job (R388, R413; entry 52). What lies at an address that is a multiple
of 256 goes on for 256 bytes, and what lies at one that is a multiple of 65,536 goes on for 65,536. -/
def queueAllocated (s : State) (q base n : Nat) (job : BitVec 10) : Bool :=
  match queuePart s q with
  | some (_, p) => slotAllowed p base && !jobElsewhere s q job
      && (List.range (n / 65536 + 1)).all fun i =>
        let a := (base / 65536 + 1 + i) * 65536
        decide (base + n ≤ a) || slotAllowed p a
  | none => false

/-- The cause of a refused write of a queue register (R419). -/
def queueCause (s : State) (q base n : Nat) (job : BitVec 10) : Denied :=
  if (queuePart s q).isNone || jobElsewhere s q job then .jobs else if queueAllocated s q base n job then .form else .frames

/-- A write of `QBASE`, whose bits [63:56] are reserved (R7, R388, R390): refused while the queue is enabled or has a packet that
is not complete, outside the allocation, and for an address that is no multiple of 256. -/
def writeBase (s : State) (queue : Nat) (value : BitVec 64) : State :=
  let h := s.hq queue
  let base : BitVec 56 := value.setWidth 56
  let n := slotsBytes h.qsize
  if h.en ∨ !queueIdle h ∨ base.toNat % 256 ≠ 0 ∨ !queueAllocated s queue base.toNat n h.job then
    { s with refused := some (queueCause s queue base.toNat n h.job) }
  else
    let s1 := s.setHq queue { h with qbase := base, qkick := 0, qread := 0, qdone := 0, started := [] }
    { s1 with refused := none }

/-- `QBASE` (R388). -/
def execQbase (queue : Nat) (value : BitVec 64) (s : State) : Host.Outcome State Fault Refusal :=
  .next (if s.boot.failed.isSome then s else writeBase s queue value)

/-- A write of `QCTL` (R388, R390). -/
def writeCtl (s : State) (queue : Nat) (value : BitVec 64) : State :=
  let h := s.hq queue
  let size := value.extractLsb' 0 4
  let job := value.extractLsb' 16 10
  let host := value.getLsbD 4
  let en := value.getLsbD 31
  let n := slotsBytes size
  let no : State := { s with refused := some (queueCause s queue h.qbase.toNat n job) }
  if h.en then
    if !en ∧ size = h.qsize ∧ job = h.job ∧ host = h.qhost then { (s.setHq queue { h with en := false }) with refused := none }
    else no
  else if 13 ≤ size.toNat ∨ !queueAllocated s queue h.qbase.toNat n job then no
  else if size = h.qsize then { (s.setHq queue { h with qhost := host, job := job, en := en }) with refused := none }
  else if !queueIdle h then no
  else
    let h' := { h with
      qsize := size, qhost := host, job := job, en := en, qkick := 0, qread := 0, qdone := 0, started := [] }
    { (s.setHq queue h') with refused := none }

/-- `QCTL` (R388). -/
def execQctl (queue : Nat) (value : BitVec 64) (s : State) : Host.Outcome State Fault Refusal :=
  .next (if s.boot.failed.isSome then s else writeCtl s queue value)

/-! ### The scoreboard (R397 to R400) -/

def Group.fresh : Group := ⟨.waiting, false, false, 0, [], [], [], .reset, [], [], none⟩

/-- `SCOREBOARD_ENTER` (R400). -/
def execScoreboardEnter (s : State) : Host.Outcome State Fault Refusal :=
  match s.args with
  | [l] => match s.launch? l with
    | some x => match x.order[x.next]? with
      | some g =>
        if x.st = .ready ∧ x.cnt < 65536 ∧ !x.cancelled then
          .next ((s.setGroup l g .fresh).updLaunch l fun x => { x with next := x.next + 1, cnt := x.cnt + 1 })
        else .next s
      | none => .next s
    | none => .next s
  | _ => .next s

/-- The entries at `HEAD` that are RETIRED leave the window (R400). -/
def scoreHead : Nat → State → Nat → State
  | 0, s, _ => s
  | fuel + 1, s, l => match s.launch? l with
    | some x => match x.order[x.head]? with
      | some g => match s.group? l g with
        | some y =>
          if y.st = .retired then
            scoreHead fuel ({ s with groups := s.groups.erase (groupKey l g) }.updLaunch l fun x => { x with
              head := x.head + 1, cnt := x.cnt - 1 }) l
          else s
        | none => s
      | none => s
    | none => s

/-- The predecessors of a group (R399). -/
def predecessors (x : Launch) (g : Nat) : List Nat :=
  let (gx, gy, gz) := x.grid
  let (a, b, c) := coords x.grid g
  x.deps.filterMap fun d =>
    let p : Int := a - d.1
    let q : Int := b - d.2.1
    let r : Int := c - d.2.2
    if 0 ≤ p ∧ p < gx ∧ 0 ≤ q ∧ q < gy ∧ 0 ≤ r ∧ r < gz then some (p.toNat + gx * (q.toNat + gy * r.toNat)) else none

/-- Whether a group that lies before another in release order has retired: its entry says so, or has left the window. -/
def hasRetired (s : State) (l g : Nat) : Bool :=
  match s.group? l g with
  | some y => y.st == .retired
  | none => true

/-- Whether a WAITING group may be released (R400). -/
def releasable (s : State) (l g : Nat) : Bool :=
  match s.launch? l, s.group? l g with
  | some x, some y => y.st == .waiting && !x.cancelled && (predecessors x g).all (hasRetired s l)
  | _, _ => false

/-- `GROUP_RELEASE` (R400). A launch is ready to place from its first releasable group on (R397). -/
def execGroupRelease (s : State) : Host.Outcome State Fault Refusal :=
  match s.args with
  | [l, pos] => match (s.launch? l).bind fun x => x.order[pos]? with
    | some g =>
      if releasable s l g then
        .next ((s.updGroup l g fun y => { y with st := .released }).updLaunch l fun x => { x with
          readySince := if x.readySince.isNone then some s.cyc else x.readySince })
      else .next s
    | none => .next s
  | _ => .next s

/-- Cycles of the ageing step of R397: 1 ms. -/
def ageStep : Nat := 600000

/-- `PRIORITY_AGE` (R397): one step for a full 1 ms ready and unplaced. -/
def execPriorityAge (s : State) : Host.Outcome State Fault Refusal :=
  match s.args with
  | [l] => .next (s.updLaunch l fun x => match x.readySince with
      | some t =>
        let floor := if 4 ≤ x.priority then 4 else 0
        if x.st = .ready ∧ t < s.cyc ∧ (s.cyc - t) % ageStep = 0 ∧ floor < x.effPriority then
          { x with effPriority := x.effPriority - 1 }
        else x
      | none => x)
  | _ => .next s

/-- Priorities of the launches that a slot describes. One that its packet may not have is passed over (R50, R393). -/
def slotPriorities (s : State) (q i : Nat) (bs : List Byte) : List Nat :=
  let mark := (queuePart s q).any (·.2.priv) && (s.hq q).marks.contains i
  let ps := match (bs.getD 254 0).toNat with
    | 1 => [fieldAt bs 21 1]
    | 2 =>
      let n := if fieldAt bs 8 4 ≤ 4096 then fieldAt bs 8 4 else 0
      (match (queueTag s q).bind fun t => daBytes s t (fieldAt bs 0 8) (256 * n) with
        | some tb => (List.range n).map fun k => fieldAt tb (256 * k + 21) 1
        | none => [])
    | _ => []
  ps.filter fun p => mark || decide (4 ≤ p)

/-- Priorities of the launches that a barrier packet of a queue holds back, its own and those of the packets behind it, from slot
`i` on (R397). -/
def heldBack (s : State) (q : Nat) : Nat → Nat → Bool → List Nat
  | 0, _, _ => []
  | n + 1, i, behind => match slotBytes s q i with
    | none => []
    | some bs =>
      if bs.getD 255 0 ≠ lapParity i (s.hq q).log then []
      else
        let b := behind || fieldAt bs 253 1 / 16 == 1
        (if b then slotPriorities s q i bs else []) ++ heldBack s q n ((i + 1) % 2 ^ 32) b

/-- Launches that wait on a launch, with the priorities of those that a barrier bit of its queue holds back (R397). -/
def waitersOn (s : State) (l : Nat) : List Nat × List Nat :=
  match s.launch? l with
  | none => ([], [])
  | some x =>
    let byEdge : List Nat := match x.graph with
      | some (g, k) => (match s.graphs.get? g with
          | some y => y.edges.filterMap fun (a, b) => if a = k then y.members[b]? else none
          | none => [])
      | none => []
    (byEdge.filter fun m => match s.launch? m with
      | some y => y.st != LaunchState.complete
      | none => false, heldBack s x.queue (aheadOf s x.queue) (s.hq x.queue).qread.toNat false)

/-- The effective priority: its own, or a higher one of a launch that waits on it, along chains, whose length is the first
argument (R397). -/
def effective (s : State) : Nat → Nat → Nat
  | 0, l => ((s.launch? l).map (·.effPriority)).getD 31
  | fuel + 1, l =>
    let own := ((s.launch? l).map (·.effPriority)).getD 31
    let (ls, ps) := waitersOn s l
    (ls.map (effective s fuel) ++ ps).foldl min own

/-! ### Code buffers (R282) -/

/-- Whether a group's span covers a cluster while the group is placed. -/
def spansCluster (s : State) (k : Nat) (y : Group) (cl : Nat) : Bool :=
  (y.st == .running || y.st == .retiring) && (s.span (k / 2 ^ 24) (k % 2 ^ 24) cl).contains cl

/-- Whether a kernel of a launch is in use on a cluster: a group on it, a thread, or an arrival that waits (R282, R375). -/
def kernelUsed (s : State) (cl l : Nat) : Bool :=
  (s.groups.any fun e => e.1 / 2 ^ 24 == l && spansCluster s e.1 e.2 cl)
    || ((s.threads ++ owners s).any fun t => clusterOf (coreOf t.1) == cl && t.2.launch == l)
    || s.cores.any fun c => clusterOf c.1 == cl && (c.2.arrivals ++ c.2.spill).any fun a => a.body.launch == l

/-- Whether two launches run one kernel. -/
def sameKernel (s : State) (l m : Nat) : Bool :=
  match s.launch? l, s.launch? m with
  | some x, some y => x.ctag == y.ctag && x.headerAddr == y.headerAddr
  | _, _ => false

/-- Bytes of a launch's code. -/
def codeBytes (s : State) (l : Nat) : Nat := ((s.launch? l).map fun x => 12 * x.header.count).getD 0

/-- Entries of a code buffer whose kernel is in use, or is the one of launch `l`; one for each kernel. -/
def kernelsUsed (s : State) (cl l : Nat) : List Nat :=
  ((s.cluster cl).code.map (·.launch)).foldl (fun r m =>
    if (kernelUsed s cl m) && !(sameKernel s l m) && !(r.any (sameKernel s m)) then r ++ [m] else r) []

/-- Whether a launch's kernel fits a cluster's code buffer beside those in use (R282, R396). -/
def codeFits (s : State) (cl l : Nat) : Bool :=
  decide (((kernelsUsed s cl l).map (codeBytes s)).sum + codeBytes s l ≤ 262144)

/-- Loading of a kernel begun, where no usable copy is there: one copy is kept while a group of the kernel remains. -/
def loadCode (s : State) (cl l : Nat) : State :=
  let k := s.cluster cl
  let inUse := k.code.any fun b => sameKernel s l b.launch && kernelUsed s cl b.launch
  let mine := k.code.find? fun b => b.launch == l
  match mine with
  | some b =>
    if b.poisoned || (!inUse && b.loaded) then
      trip .codeBufferLoadComplete [cl, l] (s.setCluster cl { k with
        code := (k.code.filter fun b => b.launch != l) ++ [⟨l, [], [], false, false⟩] })
    else s
  | none =>
    let keep := k.code.filter fun b => kernelUsed s cl b.launch || !b.loaded
    match k.code.find? fun b => sameKernel s l b.launch && kernelUsed s cl b.launch && b.loaded && !b.poisoned with
    | some b => s.setCluster cl { k with code := keep ++ [{ b with launch := l }] }
    | none => trip .codeBufferLoadComplete [cl, l] (s.setCluster cl { k with code := keep ++ [⟨l, [], [], false, false⟩] })

/-- The 12-byte words of a code segment, through the translations a cluster holds. -/
def codeWords (s : State) (cl : Nat) (ctag : BitVec 16) (base n : Nat) : List InstrWord :=
  (List.range n).map fun i => BitVec.ofNat 96 (ofBytes ((List.range 12).map fun j =>
    match portLoc s cl ctag ((base + 12 * i + j) % 2 ^ 56) with
    | some loc => readByte s loc
    | none => 0))

/-- `CODE_BUFFER_LOAD_COMPLETE` (R282). Absent pages are waited for. -/
def execCodeBufferLoadComplete (s : State) : Host.Outcome State Fault Refusal :=
  match s.args with
  | [cl, l] => match (s.cluster cl).code.find? fun b => b.launch == l, s.launch? l with
    | some b, some x =>
      if b.loaded then .next s
      else
        let base := (kernelCode s l).base.toNat
        let n := x.header.count
        let pages := if n = 0 then [] else (List.range (12 * n / 2 ^ 17 + 2)).map fun i => (base + min (i * 2 ^ 17) (12 * n - 1)) / 2 ^ 17
        let absent := (pages.filter fun p => (portLoc s cl x.ctag (p * 2 ^ 17)).isNone).eraseDups
        if !absent.isEmpty then
          .next (later 1 .codeBufferLoadComplete [cl, l] (absent.foldl (fun s p => joinMiss s cl x.ctag (p * 2 ^ 17) .prefetch) s))
        else
          let xn := (pages.filter fun p => (match cached s cl x.ctag (p * 2 ^ 17) with
            | some e => e.xn
            | none => false)).eraseDups
          let b' : CodeBuf := ⟨l, codeWords s cl x.ctag base n, xn, true, false⟩
          let s1 := s.updCluster cl fun k => { k with code := listUpd (fun b => b.launch == l) (fun _ => b') k.code }
          .next (dropErr s1 (.code cl l))
    | _, _ => .next s
  | _ => .next s

/-! ### Placement (R396) -/

/-- Regions of the groups placed on a core, and on a cluster beside the shards (R217, R316). -/
def storeTaken (s : State) (c : Nat) : List (Nat × Nat) :=
  s.groups.filterMap fun e => match e.2.store.get? c, s.launch? (e.1 / 2 ^ 24) with
    | some b, some x => some (b, x.header.store)
    | _, _ => none
def vaultTaken (s : State) (pid cl : Nat) : List (Nat × Nat) :=
  shards s pid ++ s.groups.filterMap fun e => match e.2.vault.get? cl, s.launch? (e.1 / 2 ^ 24) with
    | some b, some x => some (b, x.header.vault)
    | _, _ => none

/-- A tag that could be evicted from a core: one without a bound slot (R226). -/
def unboundTag (s : State) (c : Nat) : Option (BitVec 16) :=
  ((s.core c).tags.find? fun t => !((threadsOn s c).any fun x => x.2.ctag == t.ctag)).map (·.ctag)

/-- The residency entry of a tag, from the root monitor's tables (R225). -/
def resTagOf (s : State) (ctag : BitVec 16) : ResTag :=
  match s.contexts.get? ctag.toNat with
  | some c => ⟨ctag, c.sdt, BitVec.ofNat 12 c.sdtSize, c.ptRoot, c.tagKey⟩
  | none => ⟨ctag, 0, 0, 0, 0⟩

/-- A tag made resident on a core where there is room, or by evicting an unbound one (R225, R226). -/
def makeResident (s : State) (c : Nat) (ctag : BitVec 16) : Option State :=
  let put (s : State) (ts : List ResTag) : State := s.updCore c fun k => { k with tags := ts ++ [resTagOf s ctag] }
  let ts := (s.core c).tags
  if resident s c ctag then some s
  else if ts.length < 16 then some (put s ts)
  else (unboundTag s c).map fun e => put s (ts.filter fun t => t.ctag != e)

/-- The scheduler may bind queues that are all empty to the tag of a group it places (R219); whether it does is open. -/
def rebindQueues (s : State) (c : Nat) (ctag : BitVec 16) : State :=
  let k := s.core c
  if k.qOwner.isSome && k.qOwner != some ctag && k.queues.all (fun q => q.2.ents.isEmpty) then
    let s1 := { s with fresh := s.fresh + 1 }
    if Config.freeBit s.fresh then s1.updCore c fun k => { k with qOwner := some ctag } else s1
  else s

/-- The segment registers of a thread at its group's start: kind 2 and kind 3 segments begin at the group's regions, and reach no
further than the bytes that the kernel's header declares of them (R48, R67, R217). -/
def startSegs (s : State) (l : Nat) (x : Launch) (store vault : Nat) : Vector Segment 8 :=
  Vector.ofFn fun i => match x.segs.getD i.val none with
    | none => .null
    | some n =>
      let e := reloadSeg s x.ctag l n
      match e.kind with
      | .core => { e with base := BitVec.ofNat 56 store, limit := BitVec.ofNat 48 (min e.limit.toNat x.header.store) }
      | .vault => { e with base := BitVec.ofNat 56 vault, limit := BitVec.ofNat 48 (min e.limit.toNat x.header.vault) }
      | .null | .memory | .barrier | .code | .res6 | .res7 => e

/-- One thread placed in the slot that its placement names; the cause where the core cannot take it (R247, R309, R396; entry 13). -/
def placeThread (l g : Nat) (x : Launch) (y : Group) (s : State) (p : Place) : Except Denied State :=
  let c := p.core
  let key := slotKey c p.slot
  let h := x.header
  if s.rotLen c ≤ p.slot ∨ !slotFree s key ∨ spanForeign s c l g then .error .busy
  else match findWindows s c h.regs h.nv h.nk with
    | none => .error .busy
    | some (gb, wb) =>
      let t := { blankThread h.migratory gb h.regs wb h.nv h.nk (s.core c).rot with
        segs := startSegs s l x (y.store.getD c 0) (y.vault.getD (clusterOf c) 0)
        cseg := kernelCode s l, rank := p.rank, ctag := x.ctag, launch := l, group := g
        readyAt := firstIssue s c }
      .ok (createThread s key t)

/-- What placing a group does to one of its cores before threads are put there; the cause where the core cannot take it. -/
def placeCore (l g : Nat) (x : Launch) (s : State) (c : Nat) : Except Denied State :=
  let h := x.header
  let foreign := h.timed && ((threadsOn s c).any fun t => t.2.launch != l || t.2.group != g)
  if foreign ∨ (s.core c).resetting ∨ (!(coreEmpty s c) ∧ (s.core c).rot ≠ h.rot) then .error .busy
  else match makeResident s c x.ctag, lowRegion (storeTaken s c) h.store 131072 with
    | some s1, some b =>
      let s2 := if coreEmpty s1 c then setRotation s1 c h.rot else s1
      .ok ((bindOwners (rebindQueues (wakeCore s2 c) c x.ctag) c x.ctag).updGroup l g fun y => { y with store := y.store.set c b })
    | _, _ => .error .busy

def placeCluster (l g : Nat) (x : Launch) (s : State) (cl : Nat) : Except Denied State :=
  if !codeFits s cl l then .error .busy
  else match lowRegion (vaultTaken s x.pid cl) x.header.vault 0x270000 with
    | some b => .ok (s.updGroup l g fun y => { y with vault := y.vault.set cl b })
    | none => .error .busy

/-- Why a request to place a group is refused by the tables and by the form of its placement, if it is (R396, R419). A group of a
launch whose restore is admitted may be placed before its issue resumes (R409). -/
def placeDenied (s : State) (l lead : Nat) (x : Launch) (y : Group) (p : Partition) (places : List Place) : Option Denied :=
  let h := x.header
  let area := rectangle lead h.spanW h.spanH
  let halting : Bool := match s.halts.get? x.pid with
    | some k => k.resumeAt.isNone && (k.launch.isNone || k.launch == some l)
    | none => x.halted
  if !(p.jobs.contains x.queue) then some .jobs
  else if !(p.tags.contains x.ctag) then some .tags
  else if !spanFits p lead h.spanW h.spanH ∨ !(places.all fun q => area.contains (clusterOf q.core)) then some .shape
  else if places.length ≠ h.threads ∨ !((List.range h.threads).all fun r => places.any fun q => q.rank == r) then some .form
  else if x.st ≠ .ready ∨ x.cancelled ∨ x.doomed ∨ halting ∨ y.st ≠ .released ∨ !schedulerUp s then some .busy
  else none

/-- A whole group placed, or the cause of its refusal (R396, R419). -/
def placeGroup (s : State) (l g lead : Nat) (places : List Place) : Except Denied State :=
  match s.launch? l, s.group? l g, ((s.launch? l).bind fun x => s.partitions.get? x.pid) with
  | some x, some y, some p => match placeDenied s l lead x y p places with
    | some d => .error d
    | none => do
      let area := rectangle lead x.header.spanW x.header.spanH
      let cores := (places.map (·.core)).eraseDups
      let s1 := (area.foldl (fun s cl => loadCode s cl l) s).setGroup l g { y with st := .running, lead := lead, places := places }
      let s2 ← area.foldlM (placeCluster l g x) s1
      let s3 ← cores.foldlM (placeCore l g x) s2
      places.foldlM (placeThread l g x ((s3.group? l g).getD y)) s3
  | _, _, _ => .error .form

/-- The lowest position of a launch that holds a RELEASED group. -/
def nextReleased (s : State) (l : Nat) (x : Launch) : Option Nat :=
  ((List.range (x.next - x.head)).map (· + x.head)).find? fun pos => match x.order[pos]? with
    | some g => (match s.group? l g with
        | some y => y.st == .released
        | none => false)
    | none => false

/-- `GROUP_PLACE` (R396, R397, R419): a request of the policy firmware, refused whole where a check fails. One group is placed
in a cycle; a further request waits for the next. -/
def execGroupPlace (l pos lead : Nat) (places : List Place) (s : State) : Host.Outcome State Fault Refusal :=
  if s.sched.lastPlace = some s.cyc then .next (later 1 (.groupPlace l pos lead places) [] s)
  else match (s.launch? l).bind fun x => (if nextReleased s l x = some pos then x.order[pos]? else none) with
    | none => .next { s with refused := some .form }
    | some g => match placeGroup s l g lead places with
      | .error d => .next { s with refused := some d }
      | .ok s1 =>
        let bar : Barrier := { Barrier.reset with
          gstate := if ((s1.launch? l).bind (·.barrierIdx)).isSome then .run else .idle
          mcount := ((s1.launch? l).map (·.header.members)).getD 0 }
        let s2 := s1.updGroup l g fun y => { y with barrier := bar }
        let s3 := jot (s2.updLaunch l fun x => { x with readySince := if (nextReleased s2 l x).isSome then some s.cyc else none }) 3 l g
        .next (trip .groupStart [l, g] { s3 with refused := none, sched := { s3.sched with lastPlace := some s.cyc } })

/-! ### Start (R217, R295, R400, R405) -/

/-- Whether the gaffer's fill before the start has ended (R295). -/
def fillEnded (s : State) (l g : Nat) : Bool :=
  match s.group? l g, s.launch? l, barrierSegment s l with
  | some y, some x, some sg =>
    let b := y.barrier
    b.gstate != .run || b.entries.length == 32
      || (b.pfb.isEmpty && (daLoc s x.ctag ((sg.base.toNat + 64 * b.gpc.toNat) % 2 ^ 56)).isNone)
  | some y, _, _ => y.barrier.gstate != .run
  | none, _, _ => true

/-- Colour of an image's granule as its context sees it. -/
def imageColour (s : State) (ctag : BitVec 16) (da : Nat) : BitVec 4 :=
  let ptag := match walk s ctag da with
    | some e => e.ptag
    | none => 0
  match daLoc s ctag da with
  | some loc => granuleColour s ctag loc da ptag
  | none => ptag

/-- The colour of granules without an image byte: of the lowest segment register whose descriptor is of a kind, or 1. -/
def plainColour (s : State) (x : Launch) (kind : SegKind) : BitVec 4 :=
  (x.segs.findSome? fun o => (o.bind (descAt s x.ctag)).bind fun e => if e.kind = kind then some e.colour else none).getD 1

/-- A region of `n` bytes at a window location written at a group's start (R217). -/
def fillRegion (s : State) (ctag : BitVec 16) (loc n : Nat) (img : List Byte) (imgDa : Nat) (plain : BitVec 4) (bits : Bool) :
    State :=
  let data := (img ++ List.replicate (n - img.length) 0).take n
  let inside (a : Nat) : Bool := decide (loc ≤ a) && decide (a < loc + n)
  let words := if bits then (List.range ((img.length + 7) / 8)).map fun i => loc / 8 + i else []
  let s1 := if n = 0 then s else clearErrs (endSequences (writeBytes (wipePast s loc n) loc data) loc n) inside
  let s2 := { s1 with full := words.foldl (fun l w => insertNat w l) (s1.full.filter fun w => !(bits && inside (8 * w))) }
  (List.range (n / 64)).foldl (fun s k =>
    let c := if 64 * k < img.length then imageColour s ctag (imgDa + 64 * k) else plain
    setColour s ctag (loc + 64 * k) (loc + 64 * k) c) s2

/-- The 4,096-byte regions of a core or a vault that meet `[b, b + n)`. -/
def regionsOf (b n : Nat) : List Nat := if n = 0 then [] else (List.range ((b + n - 1) / 4096 + 1 - b / 4096)).map (b / 4096 + ·)

/-- The images and zeros of a group in the regions of its cores and of its clusters, at locations `f` gives (R217). -/
def fillGroup (s : State) (x : Launch) (store vault : SMap Nat) : State :=
  let img (p : BitVec 56 × Nat) : List Byte := ((daBytes s x.ctag p.1.toNat p.2).getD [])
  let ci := img x.coreImage
  let vi := img x.vaultImage
  let cc := plainColour s x .core
  let vc := plainColour s x .vault
  let s1 := store.foldl (fun s e =>
    fillRegion s x.ctag (coreLoc e.1 e.2) x.header.store ci x.coreImage.1.toNat cc true) s
  vault.foldl (fun s e => fillRegion s x.ctag (vaultLoc e.1 e.2) x.header.vault vi x.vaultImage.1.toNat vc false) s1

/-- The writes of a group's start on its cores and clusters, and the `DIRTY` bits that clear: on a core when its writes are
complete, in every cluster of the partition when the launch starts (R217, R405). -/
def startWrites (s : State) (x : Launch) (l : Nat) (y : Group) : State :=
  let s1 := fillGroup s x y.store y.vault
  let s2 := y.store.foldl (fun s e => s.updCore e.1 fun k => { k with dirty := [] }) s1
  let s3 := y.vault.foldl (fun s e => (regionsOf e.2 x.header.vault).foldl (fun s r => markDirty s (vaultLoc e.1 (4096 * r)) 1) s) s2
  let clear (s : State) : State :=
    if x.begun then s3
    else match s.partitions.get? x.pid with
      | some p => p.clusters.foldl (fun s cl =>
          if (s.cluster cl).dirty.isEmpty then s else s.updCluster cl fun k => { k with dirty := [] }) s
      | none => s
  (clear s2).updLaunch l fun x => { x with begun := true }

/-- `GROUP_START` (R217, R396). It waits for the code buffers, the cores' wake, the images' pages and the gaffer's fill. -/
def execGroupStart (s : State) : Host.Outcome State Fault Refusal :=
  match s.args with
  | [l, g] => match s.launch? l, s.group? l g with
    | some x, some y =>
      if y.st ≠ .running ∨ y.started ∨ y.cancelled then .next s
      else
        let area := s.span l g y.lead
        let cores := (y.places.map (·.core)).eraseDups
        let pages := absentPages s x.ctag x.coreImage.1.toNat x.coreImage.2 ++ absentPages s x.ctag x.vaultImage.1.toNat x.vaultImage.2
        let ready := (area.all fun cl => codeLoaded s cl l) && (cores.all (coreActive s)) && fillEnded s l g
        if !ready ∨ s.halted l ∨ !pages.isEmpty then
          .next (later 1 .groupStart [l, g] (postAbsent s x.ctag pages))
        else
          let s1 := startWrites s x l y
          .next (s1.updGroup l g fun y => { y with started := true, unissued := cores })
    | _, _ => .next s
  | _ => .next s

/-! ### Retirement (R377, R401) -/

/-- Clusters whose state a group can have reached. -/
def groupClusters (s : State) (l g : Nat) (y : Group) : List Nat :=
  (s.span l g y.lead ++ y.held.map clusterOf).eraseDups

/-- Whether a group has nothing left: threads, jobs, write-backs, packets (R377, R387, R401). -/
def groupDone (s : State) (l g : Nat) (y : Group) : Bool :=
  let mine (b : PktBody) : Bool := b.launch == l && b.group == g
  liveThreads s l g == 0
    && !(s.slots.any fun e => match e.2.lent with
      | some t => t.launch == l && t.group == g
      | none => false)
    && (groupClusters s l g y).all (fun cl =>
      let k := s.cluster cl
      !(k.queues.any fun q => q.2.jobs.any fun j => j.launch == l && j.group == g && j.phase != .complete)
        && !(k.subs.any fun e => e.2.launch == l && e.2.group == g && e.2.storer
          && (!e.2.writes.isEmpty || (List.range e.2.n).any fun i => (s.tile cl (e.2.h0 + i)).st == .draining))
        && !(k.changes.any fun c => match c with
          | .release h => (s.tile cl h).launch == l && (s.tile cl h).group == g
          | .define .. | .empty .. | .ready .. => false))
    && !(s.cores.any fun c => c.2.retained.any (fun r => mine r.body)
      || c.2.arrivals.any (fun a => mine a.body) || c.2.spill.any (fun a => mine a.body))

/-- A group recorded RETIRED, with its regions given back; a cancelled one counts as cancelled (R393, R400). -/
def recordRetired (s : State) (l g : Nat) : State :=
  match s.group? l g with
  | some y =>
    let s1 := s.setGroup l g { y with st := .retired, store := [], vault := [], freeze := none }
    s1.updLaunch l fun x =>
      if y.cancelled then { x with cancelledGroups := x.cancelledGroups + 1 } else { x with retired := x.retired + 1 }
  | none => s

/-- What a group that retires knew and has performed: on its cores, and by its jobs and write-backs (R340). -/
def groupKnow (s : State) (l g : Nat) (y : Group) : Know :=
  let ctag := ((s.launch? l).map (·.ctag)).getD 0
  let byCores := y.held.foldl (fun k c => Know.join k (s.core c).sent) []
  (groupClusters s l g y).foldl (fun k cl =>
    let jobs := (List.range 8).foldl (fun k q =>
      let jq := s.jobQueue cl q
      (jq.reports.filter fun r => r.ctag == ctag).foldl (fun k r => Know.join k r.know) k) k
    ((s.cluster cl).tiles.filter fun t => t.2.launch == l && t.2.group == g).foldl (fun k t => Know.join k t.2.know) jobs) byCores

/-- `GROUP_RETIRE` (R401): the publications of its cores, then the end of its tiles and subscriptions, then the record. -/
def execGroupRetire (s : State) : Host.Outcome State Fault Refusal :=
  match s.args with
  | [l, g] => match s.group? l g with
    | some y =>
      let finish (s : State) : State :=
        if s.pubs.any fun p => p.2.after == .retire l g then s
        else
          let s1 := { s with done := Know.join s.done (groupKnow s l g y) }
          recordRetired ((groupClusters s l g y).foldl (fun s cl => endGroupOn s l g cl) s1) l g
      match y.st with
      | .running =>
        if (y.started || y.cancelled) && groupDone s l g y && (y.cancelled || !s.halted l) then
          .next (finish (y.held.foldl (fun s c => (publish (.retire l g) s c).2)
            (s.updGroup l g fun y => { y with st := .retiring })))
        else .next s
      | .retiring => .next (finish s)
      | .waiting | .released | .retired => .next s
    | none => .next s
  | _ => .next s

/-! ### Cancellation (R387, R284, R307) -/

/-- What a thread of a cancelled group holds outside its slot given back: its frame, its borrowed window, the queue entry that its
full-empty request has reserved, and its open packet (R82, R219, R221, R328). -/
def endThread (s : State) (c : Nat) (t : Thread) : State :=
  let s1 := frameBack s t
  let s2 := match t.fe.bind (·.2.2) with
    | some q => dropReserved s1 q
    | none => s1
  abortOpen (giveBack s2 c t 1) c t

/-- A thread of a cancelled group freed in any state (R82). -/
def freeThread (s : State) (key : Nat) : State :=
  match s.thread? key with
  | some t => freeSlot (endThread s (coreOf key) t) key
  | none => s

/-- Parked operations of a group removed; a remote one is answered, so that its table entry ends. -/
def dropParked (s : State) (l g c : Nat) : State :=
  let mine (w : FeWaiter) : Bool := match w.body, w.slot with
    | some b, _ => b.launch == l && b.group == g
    | none, some j => (match s.thread? (slotKey c j) with
        | some t => t.launch == l && t.group == g
        | none => true)
    | none, none => false
  let gone := (s.core c).feWait.filter mine
  if gone.isEmpty then s
  else gone.foldl (fun s w => match w.body with
    | some b => markAdmitted s c b.src b.seq 0 false []
    | none => s) (s.updCore c fun k => { k with feWait := k.feWait.filter fun w => !mine w })

/-- A cancelled group's part of a context in the save area discarded (R407). -/
def dropSaved (s : State) (l g : Nat) : State :=
  let mine (t : Thread) : Bool := t.launch == l && t.group == g
  let body (b : PktBody) : Bool := b.launch == l && b.group == g
  let saved := s.halts.flatMap fun h => h.2.saved
  let parked := saved.flatMap fun x => ((x.threads.map (·.2) ++ x.slots.filterMap fun e => e.2.lent).filter fun t =>
    mine t && t.st == .parked)
  let slot (x : SlotSt) : SlotSt := if x.lent.any mine then { x with lent := none, frame := [] } else x
  let core (k : CoreSt) : CoreSt := { k with
    retained := k.retained.filter fun r => !body r.body
    arrivals := k.arrivals.filter fun a => !body a.body
    spill := k.spill.filter fun a => !body a.body
    feWait := k.feWait.filter fun w => !(w.body.any body) }
  let theirs (j : Job) : Bool := j.launch == l && j.group == g
  let cut (x : SavedCluster) (q : Nat) (j : Job) : Option CutJob := x.cuts.find? fun c => theirs j && c.queue == q && c.seq == j.seq
  let job (x : SavedCluster) (q : Nat) (j : Job) : Job :=
    if !theirs j then j
    else
      let done : Job := { j with canc := true, phase := .complete, pendingWrites := 0 }
      match cut x q j with
      | some c => { done with flags := c.flags, emach := c.emach }
      | none => done
  let accs (x : SavedCluster) : SMap Acc := x.state.queues.foldl (fun m q =>
    (q.2.jobs.filterMap (cut x q.1)).foldl (fun m c => SMap.put m .reset c.acc c.value) m) x.state.accs
  let gone := saved.flatMap fun x => fencesOf ((x.state.queues.flatMap fun q => q.2.jobs).filter theirs)
  let cluster (x : SavedCluster) (k : ClusterSt) : ClusterSt := { k with
    accs := accs x
    queues := k.queues.map fun q => (q.1, { q.2 with jobs := q.2.jobs.map (job x q.1) })
    subs := k.subs.filter fun e => !(e.2.launch == l && e.2.group == g)
    tiles := k.tiles.filter fun e => !(e.2.launch == l && e.2.group == g) }
  let one (x : SavedCluster) : SavedCluster := { x with
    threads := x.threads.filter fun e => !mine e.2
    slots := x.slots.map fun e => (e.1, slot e.2)
    cores := x.cores.map fun e => (e.1, core e.2)
    state := cluster x x.state }
  { (parked.foldl frameBack s) with
    fences := s.fences.filter fun f => !gone.contains f.1
    halts := s.halts.map fun h => (h.1, { h.2 with saved := h.2.saved.map one }) }

/-- `GROUP_CANCEL` (R387): every thread freed, its packets, parked operations and jobs removed, its barrier state discarded. -/
def cancelGroup (s : State) (l g : Nat) (y : Group) : State :=
  let mine (t : Thread) : Bool := t.launch == l && t.group == g
  let s0 := s.cores.foldl (fun s c => dropParked s l g c.1) s
  let s1 := ((owners s0).filter fun e => mine e.2).foldl (fun s e => endThread s (coreOf e.1) e.2) s0
  let clear (x : SlotSt) : SlotSt := if x.lent.any mine then { x with lent := none, frame := [] } else x
  let s2 := { s1 with slots := s1.slots.map fun (k, x) => (k, clear x) }
  let s3 := (groupThreads s2 l g).foldl (fun s t => freeThread s t.1) s2
  let keep (k : CoreSt) : CoreSt :=
    { k with retained := k.retained.filter fun r => !(r.body.launch == l && r.body.group == g) }
  let s4 := { s3 with cores := s3.cores.map fun (c, k) => (c, keep k) }
  let s5 := (groupClusters s4 l g y).foldl (fun s cl => endGroupOn s l g cl) s4
  let s6 := if s.halted l then dropSaved s5 l g else s5
  s6.updGroup l g fun y => { y with cancelled := true, freeze := none, unissued := [], barrier := .reset }

def execGroupCancel (s : State) : Host.Outcome State Fault Refusal :=
  match s.args with
  | [l, g] => match s.group? l g with
    | some y => .next (if y.st = .running ∧ !y.cancelled then cancelGroup s l g y else s)
    | none => .next s
  | _ => .next s

/-! ### Completion (R343, R344, R393) -/

/-- The 64 bytes of a completion record. -/
def completionRecord (s : State) (l : Nat) (x : Launch) : List Byte :=
  let dropped := (s.cores.map fun c => c.2.dropped.getD l 0).sum
  let status := if x.refusal ≠ 0 then 2 else if x.cancelled then 1 else 0
  toBytes 4 l ++ toBytes 4 x.job ++ toBytes 1 status ++ toBytes 1 x.refusal ++ toBytes 2 0 ++ toBytes 4 x.retired
    ++ toBytes 4 x.trapsWritten ++ toBytes 4 x.trapsLost ++ toBytes 4 dropped ++ toBytes 4 x.lostPackets ++ toBytes 8 s.cyc
    ++ toBytes 4 x.cancelledGroups ++ toBytes 19 0 ++ [0xA5]

/-- Whether a write of a launch is still to be performed at its home (R343). -/
def writesLeft (s : State) (l : Nat) : Bool :=
  (s.reqs.any fun r => r.2.launch == l && !r.2.performed && (match r.2.kind with
      | .write .. | .atomic .. | .fe .. | .tagWrite .. => true
      | .read _ | .tagRead _ => false))
    || (s.cores.any fun c => (c.2.buffer.any (·.launch == l)) || (c.2.inFlight.any (·.2.launch == l))
      || c.2.own.any fun a => a.launch == l && (match a.act with
          | .read .. => false
          | .write .. | .home .. => true))
    || s.fabops.any fun f => f.2.launch == l && f.2.kind == .get

/-- Whether a launch has nothing left to run, its trap records are written, and its writes are visible at its release scope
(R343, R344). -/
def launchDone (s : State) (l : Nat) (x : Launch) : Bool :=
  if x.st == .complete then false
  else if x.refusal ≠ 0 then true
  else (x.cancelled || (x.st == .ready && decide (x.order.length ≤ x.next)))
    && !(s.groups.any fun e => e.1 / 2 ^ 24 == l && e.2.st != .retired)
    && !(s.trapOut.any fun e => e.2.1 == l) && !(s.trapHeld.any fun e => e.1 == l)
    && !writesLeft s l && (x.scope != 5 || !(s.fabops.any fun f => f.2.launch == l))

/-- Members of a graph that may start now that `l` is complete, and the graph's own end (R340, R393). -/
def graphStep (s : State) (g : Nat) : State :=
  match s.graphs.get? g with
  | none => s
  | some y =>
    let complete (m : Nat) : Bool := match s.launch? m with
      | some x => x.st == .complete
      | none => true
    let free (k : Nat) : Bool := y.edges.all fun e => e.2 != k || (match y.members[e.1]? with
      | some m => complete m
      | none => true)
    let start (s : State) (k : Nat) : State := match y.members[k]?, (y.members[k]?).bind s.launch? with
      | some m, some x =>
          if x.st = .waiting ∧ x.refusal = 0 ∧ !x.cancelled ∧ free k then
            (jot s 5 m y.index).updLaunch m fun x => { x with st := .ready, startedAt := s.cyc }
          else s
      | _, _ => s
    let s1 := (List.range y.members.length).foldl start s
    if !y.done ∧ y.members.all complete then
      packetDone (jot { s1 with graphs := s1.graphs.set g { y with done := true } } 6 g 0) y.queue y.index
    else s1

/-- Whether a refused launch may complete: a member of a graph, only when its sources are complete. -/
def mayEnd (s : State) (x : Launch) : Bool :=
  match x.graph with
  | none => true
  | some (g, k) => match s.graphs.get? g with
    | none => true
    | some y => x.refusal = 0 || y.edges.all fun e => e.2 != k || (match (y.members[e.1]?).bind s.launch? with
        | some m => m.st == .complete
        | none => true)

/-- A halted context discarded once every launch it holds is complete (R407). -/
def dropHalt (s : State) (pid : Nat) : State :=
  if s.launches.any fun e => e.2.pid == pid && e.2.halted && e.2.st != .complete then s
  else match s.halts.get? pid with
    | some h => h.clusters.foldl (fun s cl => s.updCluster cl fun k => { k with larder := none }) { s with halts := s.halts.erase pid }
    | none => s

/-- `LAUNCH_COMPLETE` (R393, R344, R423): the record, then the signal, once the hub can write both (R253, R327). A refused packet's
record is written only at a legal address. -/
def execLaunchComplete (s : State) : Host.Outcome State Fault Refusal :=
  match s.args with
  | [l] => match s.launch? l with
    | some x =>
      let recOk := x.recAddr != 0 && x.recAddr.toNat % 64 == 0
      let sigOk := x.sigAddr != 0 && x.sigAddr.toNat % 8 == 0
      let reach (ok : Bool) (da n : Nat) : Bool := !ok || hubReaches s x.ctag da n
      let want (ok : Bool) (da n : Nat) (s : State) : State := if ok then postMissing s x.ctag da n else s
      if !launchDone s l x ∨ !mayEnd s x then .next s
      else if !mayWrite s (.launch l) then .next (holdDue s (.launch l))
      else if !(reach recOk x.recAddr.toNat 64 && reach sigOk x.sigAddr.toNat 8) then
        .next (want sigOk x.sigAddr.toNat 8 (want recOk x.recAddr.toNat 64 s))
      else
        let s0 := jot (dropDue s (.launch l)) 4 l 0
        let s1 := if recOk then daWrite s0 x.ctag hubWriter x.recAddr.toNat (completionRecord s l x) else s0
        let s2 := if sigOk then writeSignal s1 x.ctag x.queue x.sigAddr x.sigValue else s1
        let s3 := s2.updLaunch l fun x => { x with st := .complete }
        let s4 := { s3 with groups := s3.groups.filter fun e => e.1 / 2 ^ 24 != l }
        let s5 := if x.halted then dropHalt s4 x.pid else s4
        .next (match x.graph with
          | some (g, _) => graphStep s5 g
          | none => packetDone s5 x.queue x.index)
    | none => .next s
  | _ => .next s

end Sys2Proof.Machine
end

