-- ==== Sys2Proof/Machine/Halt.lean ====
section
/-! DEFINITION. Halts and restores (R242, R283, R305, R306, R403 to R407). -/

namespace Sys2Proof.Machine

/-! ### What a halt holds (R403) -/

/-- The launches a halt holds. -/
def haltLaunches (s : State) (pid : Nat) (h : Halt) : List Nat :=
  s.launches.filterMap fun e =>
    if e.2.pid = pid ∧ e.2.st ≠ .complete ∧ (h.launch.isNone ∨ h.launch = some e.1) then some e.1 else none

/-- The placed groups of launches: launch, group and entry. -/
def placedGroups (s : State) (ls : List Nat) : List (Nat × Nat × Group) :=
  s.groups.filterMap fun e =>
    if ls.contains (e.1 / 2 ^ 24) ∧ (e.2.st = .running ∨ e.2.st = .retiring) then some (e.1 / 2 ^ 24, e.1 % 2 ^ 24, e.2) else none

/-- The cores a halt stops: those of the partition, or those that hold or held the launch's threads. -/
def haltCores (s : State) (pid : Nat) (h : Halt) : List Nat :=
  match h.launch, s.partitions.get? pid with
  | none, some p => (s.cores.map (·.1)).filter fun c => p.clusters.contains (clusterOf c)
  | _, _ => ((placedGroups s (haltLaunches s pid h)).flatMap fun e => e.2.2.held).eraseDups

/-- The clusters a halted context lies on. -/
def haltClusters (s : State) (ls : List Nat) : List Nat :=
  ((placedGroups s ls).flatMap fun e => groupClusters s e.1 e.2.1 e.2.2).eraseDups

/-- A halt of a partition, or of one launch of it (R403). A request for the partition takes over one for a launch, and stops a
restore that has not ended (R417); any other second request is refused. -/
def requestHalt (s : State) (pid : Nat) (l : Option Nat) : State :=
  let known : Bool := match l with
    | none => true
    | some n => (match s.launch? n with
        | some x => x.pid == pid && x.st != .complete
        | none => false)
  let ask (h : Halt) : State :=
    later 4096 .haltPacketTimeout [pid, s.cyc] (later 1 .haltTakeEffect [pid] { s with halts := s.halts.set pid h, refused := none })
  if !known ∨ (s.partitions.get? pid).isNone then { s with refused := some .form }
  else match s.halts.get? pid with
    | none => ask ⟨s.cyc, l, none, none, [], [], [], none⟩
    | some h =>
      if l.isSome then { s with refused := some .busy }
      else if h.launch.isNone then
        if h.resumeAt.isSome then { s with halts := s.halts.set pid { h with resumeAt := none }, refused := none }
        else { s with refused := some .busy }
      else ask { h with requestedAt := s.cyc, launch := none, taken := none, older := h.taken, resumeAt := none }

/-- `HALT_REQUEST` (R403). -/
def execHaltRequest (s : State) : Host.Outcome State Fault Refusal :=
  match s.args with
  | [pid] => .next (requestHalt s pid none)
  | [pid, l] => .next (requestHalt s pid (some l))
  | _ => .next s

/-- Whether a halt may take effect in this cycle (R242, R403): no open packet, no packet sent and not accepted, no reserved
queue entry, and no fill or retirement in progress. -/
def haltReady (s : State) (ls cores : List Nat) : Bool :=
  cores.all (fun c =>
    let k := s.core c
    (threadsOn s c).all (fun t => t.2.packet.isNone)
      && k.retained.all (fun r => r.rstate != .sent)
      && k.queues.all fun q => q.2.ents.all fun e => match e.present with
          | some t => decide (t ≤ s.cyc)
          | none => false)
    && (placedGroups s ls).all fun e => e.2.2.st == .running && (e.2.2.started || e.2.2.cancelled)

/-- The launch of the packet that a timer of the network runs for: retained, in the duplicate table, on its way in, or parked. -/
def timerLaunch (s : State) (p : Pending) : Option Nat :=
  match p.ev, p.args with
  | .retentionResendTimeout, src :: seq :: dest :: _ => (retainedOf s src seq dest).map (·.body.launch)
  | .admitResend, c :: src :: seq :: _ => (dupOf s c src seq).map (·.launch)
  | .partialPacketTimeout, c :: src :: seq :: _ =>
    (((s.core c).arrivals ++ (s.core c).spill).find? fun a => a.body.src == src && a.body.seq == seq).map (·.body.launch)
  | .feParkTimeout, c :: src :: seq :: _ =>
    (((s.core c).feWait.filterMap (·.body)).find? fun b => b.src == src && b.seq == seq).map (·.launch)
  | _, _ => none

/-- Whether an event is held until issue resumes: what a span's offsets govern (R305), and the timers of its packets (R373). -/
def heldByHalt (s : State) (ls : List Nat) (p : Pending) : Bool :=
  (timerLaunch s p).any ls.contains || match p.ev, p.args with
  | .barrierRelease, l :: _ | .waitArrival, l :: _ | .spanFreezeEnd, l :: _ => ls.contains l
  | .idleExpiry, [c, j] | .feRetryResend, [c, j] => (s.thread? (slotKey c j)).any fun t => ls.contains t.launch
  | .depositLanding, [_, _, id] => (s.deposits.get? id).any fun d => ls.contains d.launch && s.timed d.launch
  | _, _ => false

/-- Whether an event is dropped at a halt, to be made again at the restore: reads of records, and bytes of copies and of
subscription tiles in flight (R283, R306). -/
def droppedByHalt (s : State) (ls : List Nat) (p : Pending) : Bool :=
  let unit (cl u seq : Nat) : Bool :=
    if u < 4 then false
    else if u < 8 then (match findJob s cl u (BitVec.ofNat 32 seq) with
      | some j => ls.contains j.launch
      | none => false)
    else ls.contains (s.tile cl (u - 8)).launch
  match p.ev, p.args with
  | .gafferRecordRead, l :: _ => ls.contains l
  | .bytesLand, cl :: u :: _ :: seq :: _ => unit cl u seq
  | .copyLastTileRead, cl :: u :: seq :: _ => unit cl u seq
  | _, _ => false

/-- Copies and subscription tiles in flight put back to their first byte (R283). -/
def rewindCopies (s : State) (ls : List Nat) (cl : Nat) : State :=
  let job (j : Job) : Job := if ls.contains j.launch ∧ j.phase = .running then { j with phase := .queued } else j
  let queue (n : Nat) (q : JobQueue) : JobQueue := if n < 4 then q else { q with jobs := q.jobs.map job }
  let tile (t : Tile) : Tile := if ls.contains t.launch ∧ t.st = .filling then { t with arrived := 0 } else t
  let byMatrix (t : Tile) : Bool := t.sub.isNone && t.job.toNat / 2 ^ 32 < 4
  s.updCluster cl fun k => { k with
    queues := k.queues.map fun (n, q) => (n, queue n q)
    tiles := k.tiles.map fun (h, t) => (h, if byMatrix t then t else tile t) }

/-- What the offsets of a halt govern, moved from h to h′ (R305). A group that is placed while its launch is being restored has not
started yet, and has no offsets. -/
def moveHalted (s : State) (ls cores : List Nat) (c d : Nat) : State :=
  let thread (t : Thread) : Thread :=
    if ls.contains t.launch ∧ (s.group? t.launch t.group).any (·.started) then
      { t with
        readyAt := if c < t.readyAt then t.readyAt + d else t.readyAt
        nominal := t.nominal.map fun n => if c < n then n + d else n
        idle := t.idle.map fun n => if n = 0 then 0 else moved c d n }
    else t
  let dep (x : Deposit) : Deposit :=
    if ls.contains x.launch ∧ s.timed x.launch then { x with lands := moved c d x.lands } else x
  let core (k : CoreSt) : CoreSt :=
    if ls.contains k.vecUser.1 then
      { k with vecFree := if c < k.vecFree then k.vecFree + d else k.vecFree }
    else k
  let rls (r : BitVec 256 × Nat) : BitVec 256 × Nat := (r.1, moved c d r.2)
  let group (k : Nat) (y : Group) : Group :=
    if ls.contains (k / 2 ^ 24) then
      { y with
        barrier := { y.barrier with rls := y.barrier.rls.map fun (n, r) => (n, rls r) }
        freeze := y.freeze.map fun f => (f.1 + d, f.2) }
    else y
  let s1 := { s with
    threads := s.threads.map fun (k, t) => (k, thread t)
    deposits := s.deposits.map fun (k, x) => (k, dep x)
    groups := s.groups.map fun (k, y) => (k, group k y) }
  cores.foldl (fun s n => s.updCore n core) s1

/-- What an earlier halt of a launch holds, moved so that its offsets count from this cycle; by whole rotations of 64, so
that its phase stays (R305). -/
def joinHalt (s : State) (pid : Nat) (h : Halt) (ls : List Nat) : State :=
  match h.older with
  | none => s
  | some t =>
    let d := (s.cyc - t + 63) / 64 * 64
    let old := ls.filter s.halted
    let cores := ((placedGroups s old).flatMap fun e => e.2.2.held).eraseDups
    let s1 := moveHalted s old cores t d
    { s1 with halts := s1.halts.set pid { h with events := h.events.map fun p => { p with at_ := p.at_ + d } } }

/-- A halt takes effect (R403). -/
def takeHalt (s0 : State) (pid : Nat) (h0 : Halt) (all : List Nat) : State :=
  let s := joinHalt s0 pid h0 all
  let h := (s.halts.get? pid).getD h0
  let ls := all.filter fun l => !s.halted l
  let clusters := h.clusters ++ (haltClusters s ls).filter fun c => !h.clusters.contains c
  let ev := s.pending.filter (heldByHalt s ls)
  let rest := s.pending.filter fun p => !(heldByHalt s ls p) && !(droppedByHalt s ls p)
  let s1 := { s with
    pending := rest
    halts := s.halts.set pid { h with taken := some s.cyc, events := h.events ++ ev, clusters := clusters } }
  let s2 := ls.foldl (fun s l => s.updLaunch l fun x => { x with halted := true }) s1
  let s3 := (placedGroups s2 ls).foldl (fun s e => updBarrier s e.1 e.2.1 fun b => { b with pfb := [], reads := [] }) s2
  let s4 := clusters.foldl (fun s cl => (rewindCopies s ls cl).updCluster cl fun k => { k with larder := some pid }) s3
  ls.foldl (fun s l => match s.launch? l with
    | some x => if x.doomed then cancelLaunch s l else s
    | none => s) s4

/-- `HALT_TAKE_EFFECT` (R403): the first cycle in which it can. -/
def execHaltTakeEffect (s : State) : Host.Outcome State Fault Refusal :=
  match s.args with
  | [pid] => match s.halts.get? pid with
    | some h =>
      let ls := haltLaunches s pid h
      if h.taken.isSome then .next s
      else if haltReady s ls (haltCores s pid h) then .next (takeHalt s pid h ls)
      else .next (later 1 .haltTakeEffect [pid] s)
    | none => .next s
  | _ => .next s

/-- A trap of a parked thread whose slot is lent: its open packet is aborted, and it is STOPPED where it lies once its record is
written (R86, R242, R322). -/
def trapOwner (s : State) (key : Nat) (t : Thread) (x : Trap) : State :=
  let s1 := abortOpen s (coreOf key) t
  { s1 with trapOut := s1.trapOut ++ [(key, t.launch, t.group, trapRecord s key t x)] }.setSlot key
    { s1.slot key with lent := some { t with packet := none, st := .blocked, cause := some .record } }

/-- `HALT_PACKET_TIMEOUT` (R242): every packet still open is aborted, and its thread traps. -/
def execHaltPacketTimeout (s : State) : Host.Outcome State Fault Refusal :=
  match s.args with
  | [pid, at_] => match s.halts.get? pid with
    | some h =>
      if h.taken.isSome ∨ h.requestedAt ≠ at_ then .next s
      else
        let cores := haltCores s pid h
        let on (l : List (Nat × Thread)) : List (Nat × Thread × OpenPacket) := l.filterMap fun e =>
          if cores.contains (coreOf e.1) then e.2.packet.map fun p => (e.1, e.2, p) else none
        let s1 := (on s.threads).foldl (fun s e => takeTrap s e.1 (eLost 2 e.2.2.dest)) s
        .next ((on (owners s)).foldl (fun s e => trapOwner s e.1 e.2.1 (eLost 2 e.2.2.dest)) s1)
    | none => .next s
  | _ => .next s

/-! ### Records of dirty regions (R406) -/

/-- The code of a granule, and what it keeps. -/
def granuleCode (prev : Option (List Byte)) (g : List Byte) : Nat × List Byte :=
  if prev = some g then (3, [])
  else if g.all (· == 0) then (0, [])
  else if (List.range 8).all fun i => (g.drop (8 * i)).take 8 == g.take 8 then (1, g.take 8)
  else (2, g)

/-- Codes and payload of the granules of a region, in order. -/
def granuleCodes : Option (List Byte) → List (List Byte) → List Nat × List Byte
  | _, [] => ([], [])
  | prev, g :: r =>
    let (c, bs) := granuleCode prev g
    let (cs, more) := granuleCodes (some g) r
    (c :: cs, bs ++ more)

/-- The record of a region of 4,096 bytes at `loc`. -/
def regionRecord (s : State) (vault : Bool) (core region loc : Nat) : List Byte :=
  let gs := (List.range 64).map fun g => readBytes s (loc + 64 * g) 64
  let (codes, payload) := granuleCodes none gs
  let codeNum := codes.foldr (fun c acc => c + 4 * acc) 0
  let fullNum := (List.range 512).foldr (fun w acc => (if s.full.contains (loc / 8 + w) then 1 else 0) + 2 * acc) 0
  let tagNum := (List.range 64).foldr (fun g acc => (s.gtags.getD (loc / 64 + g) 0).toNat + 16 * acc) 0
  let body := toBytes 2 region ++ toBytes 1 vault.toNat ++ toBytes 1 (if vault then 0 else core) ++ toBytes 2 payload.length
    ++ toBytes 2 0 ++ toBytes 16 codeNum ++ (if vault then [] else toBytes 64 fullNum) ++ toBytes 32 tagNum ++ payload
  body ++ List.replicate ((8 - body.length % 8) % 8) 0

/-- The records of a cluster's dirty regions below the system region. -/
def dirtyRecords (s : State) (cl : Nat) (goes : Nat → Bool) : List (List Byte) :=
  (List.range 8).flatMap (fun i => (s.core (8 * cl + i)).dirty.map fun r =>
    regionRecord s false i r (coreLoc (8 * cl + i) (4096 * r)))
  ++ ((s.cluster cl).dirty.filter fun r => goes (vaultLoc cl (4096 * r))).map fun r => regionRecord s true 0 r (vaultLoc cl (4096 * r))

/-- The granules that codes and a payload stand for, after granule `prev`. -/
def decodeGranules : List Nat → List Byte → List Byte → List (List Byte)
  | [], _, _ => []
  | c :: cs, prev, pay =>
    let (g, rest) := match c with
      | 0 => (List.replicate 64 0, pay)
      | 1 => ((List.replicate 8 (pay.take 8)).flatten, pay.drop 8)
      | 2 => (pay.take 64, pay.drop 64)
      | _ => (prev, pay)
    g :: decodeGranules cs g rest

/-- A record decoded into a cluster: bytes, granule tags, and the full-empty bits of a core store. -/
def putRecord (cl : Nat) (s : State) (r : List Byte) : State :=
  let num (i n : Nat) : Nat := ofBytes ((r.drop i).take n)
  let vault := num 2 1 == 1
  let loc := if vault then vaultLoc cl (4096 * num 0 2) else coreLoc (8 * cl + num 3 1) (4096 * num 0 2)
  let full := if vault then 0 else num 24 64
  let at_ := if vault then 24 else 88
  let codes := (List.range 64).map fun g => num 8 16 / 4 ^ g % 4
  let s1 := writeBytes s loc (decodeGranules codes [] ((r.drop (at_ + 32)).take (num 4 2))).flatten
  let mine (a : Nat) : Bool := decide (loc ≤ a) && decide (a < loc + 4096)
  { s1 with
    full := ((List.range 512).filter full.testBit).foldl (fun l w => insertNat (loc / 8 + w) l)
      (s1.full.filter fun w => vault || !mine (8 * w))
    gtags := (List.range 64).foldl (fun m g => m.put 0 (loc / 64 + g) (BitVec.ofNat 4 (num at_ 32 / 16 ^ g % 16))) s1.gtags }

/-! ### Moving a cluster's part of a halted context (R403, R405) -/

/-- Whether a location of a cluster goes with a halted context: its core stores, and its vault below the system region but for the
page-table shards (R281, R316, R405). -/
def goesAlong (s : State) (pid cl loc : Nat) : Bool :=
  match homeOf loc with
  | .core c _ => clusterOf c == cl
  | .vault c off => c == cl && decide (off < 0x270000) && !((shards s pid).any fun b => decide (b.1 ≤ off) && decide (off < b.1 + b.2))
  | .hbm _ | .cellar _ | .host _ _ | .other => false

/-- Whether a location lies in a dirty region. -/
def isDirty (s : State) (loc : Nat) : Bool :=
  match homeOf loc with
  | .core c off => (s.core c).dirty.contains (off / 4096)
  | .vault cl off => (s.cluster cl).dirty.contains (off / 4096)
  | .hbm _ | .cellar _ | .host _ _ | .other => false

/-- The cluster of a storage element; none for one outside every cluster. -/
def siteCluster : ErrSite → Option Nat
  | .gfile c _ | .wfile c _ | .queue c _ _ | .pred c _ => some (clusterOf c)
  | .memWord w | .fullBit w => tileCluster (8 * w)
  | .granTag g => tileCluster (64 * g)
  | .acc cl _ _ | .tile cl _ | .code cl _ | .job cl _ _ => some cl
  | .deposit _ => none

/-- Places of the numbers of an event that are cores. -/
def eventCores : Instr → List Nat
  | .replyAccept | .replyAdmit | .replyRefuse | .replyBounce | .replyFree | .retentionResendTimeout => [0, 2]
  | .partialPacketTimeout | .admitResend | .feParkTimeout => [0, 1]
  | .idleExpiry | .feRetryResend | .spillMove | .packetAdmit | .replyRetry | .depositLanding => [0]
  | _ => []

/-- Whether an event, a deposit's landing apart, names a core of a cluster. -/
def eventOn (cl : Nat) (p : Pending) : Bool :=
  p.ev != .depositLanding && (eventCores p.ev).any fun i => clusterOf (p.args.getD i 0) == cl && i < p.args.length

/-- Whether an event of a cluster's units is under way. -/
def unitEvent (cl : Nat) (p : Pending) : Bool :=
  match p.ev, p.args with
  | .matrixJobStart, c :: _ | .matrixJobEnd, c :: _ | .matrixJobComplete, c :: _ | .copyJobStart, c :: _ | .copyJobComplete, c :: _
  | .copyLastTileRead, c :: _ | .bytesLand, c :: _ | .storerWritebackComplete, c :: _ | .qfenceComplete, c :: _ => c == cl
  | .vectorUnitGate, c :: _ | .vectorUnitWake, c :: _ | .coreWakeComplete, c :: _ | .coreResetComplete, c :: _ => clusterOf c == cl
  | _, _ => false

/-- Whether something of a cluster is still under way: a request, a publication, a packet, a fabric operation on its memory (R440), a
walk, a trap record, a deposit to it that no halt holds, or an event of its units. -/
def clusterBusy (s : State) (cl : Nat) : Bool :=
  let k := s.cluster cl
  let deposit (p : Pending) : Bool := match p.ev, p.args with
    | .depositLanding, [_, _, id] => (s.deposits.get? id).any fun d => clusterOf d.core == cl
    | _, _ => false
  (s.reqs.any fun r => clusterOf (coreOf r.2.key) == cl) || (s.pubs.any fun p => clusterOf p.2.core == cl)
    || (s.packets.any fun p => clusterOf p.2.body.src == cl || clusterOf p.2.body.dest == cl)
    || s.fabops.any (fun f => f.2.toCome s f.1 && f.2.locals_.any fun p => tileCluster p.1 == some cl)
    || (s.trapOut ++ s.trapHeld).any (fun e => clusterOf (coreOf e.1) == cl)
    || !k.misses.isEmpty || k.engine.isSome || !k.changes.isEmpty
    || (List.range 8).any (fun i => !(s.core (8 * cl + i)).own.isEmpty)
    || s.pending.any fun p => unitEvent cl p || deposit p

/-- A cluster's core stores and vault cleared of what goes with a context. -/
def wipeCluster (s : State) (pid cl : Nat) : State :=
  let goes := goesAlong s pid cl
  let s1 := { s with
    mem := s.mem.filter fun c => !goes c.1
    full := s.full.filter fun w => !goes (8 * w)
    gtags := s.gtags.filter fun e => !goes (64 * e.1) }
  let s2 := (List.range 8).foldl (fun s i => wipePast s (coreLoc (8 * cl + i) 0) (2 ^ 17)) s1
  clearErrs (wipePast s2 (vaultLoc cl 0) 0x270000) goes

/-- What the chunks that the halted matrix jobs of a cluster have added come to (R283, R284). -/
def cutJobs (s : State) (cl : Nat) : List CutJob :=
  [0, 1, 2, 3].flatMap fun q => (s.jobQueue cl q).jobs.filterMap fun j =>
    if j.ran = 0 then none
    else j.kind.acc?.map fun a =>
      let s1 := keepChunks s cl q j
      let r := (findJob s1 cl q j.seq).getD j
      ⟨q, j.seq, a, s1.acc cl a, r.flags, r.emach⟩

/-- A cluster's part of a halted context taken to the save area; the cluster is left as free. Its error record, its activity and
its trace ring are the cluster's own and stay, and so do the counts of deposits that its cores have dropped and the cycle in which they
last held a slot (R209). -/
def moveOut (s : State) (pid cl : Nat) : State :=
  match s.halts.get? pid with
  | none => s
  | some h =>
    let k := s.cluster cl
    let onCl (c : Nat) : Bool := clusterOf c == cl
    let goes := goesAlong s pid cl
    let mineE (e : ErrSite × Bool) : Bool := match siteBytes e.1 with
      | some (a, _) => goes a && isDirty s a
      | none => siteCluster e.1 == some cl
    let saved : SavedCluster := {
      cluster := cl
      state := { k with code := k.code.filter (·.loaded), retries := [] }
      cores := s.cores.filter fun c => onCl c.1
      threads := s.threads.filter fun t => onCl (coreOf t.1)
      slots := s.slots.filter fun t => onCl (coreOf t.1)
      gfile := s.gfile.filter fun e => onCl (e.1 / 2048)
      wfile := s.wfile.filter fun e => onCl (e.1 / 256)
      rels := s.rels.filter fun e => goes e.1
      errs := s.errs.filter mineE
      records := dirtyRecords s cl goes
      cuts := cutJobs s cl }
    let blank (c : CoreSt) : CoreSt := { CoreSt.reset with
      rot := c.rot, rotFrom := c.rotFrom, tags := c.tags, power := c.power, idleSince := s.cyc, dropped := c.dropped, phase := c.phase
      busy := c.busy, portFull := c.portFull }
    let left : ClusterSt := { ClusterSt.reset with
      err := k.err, vact := k.vact, vprev := k.vprev, eact := k.eact, trace := k.trace }
    let s1 := { s with
      cores := s.cores.map fun (c, x) => (c, if onCl c then blank x else x)
      threads := s.threads.filter fun t => !onCl (coreOf t.1)
      slots := s.slots.filter fun t => !onCl (coreOf t.1)
      gfile := s.gfile.filter fun e => !onCl (e.1 / 2048)
      wfile := s.wfile.filter fun e => !onCl (e.1 / 256)
      rels := s.rels.filter fun e => !goes e.1
      errs := s.errs.filter fun e => siteCluster e.1 != some cl || (siteBytes e.1).isSome
      pending := s.pending.filter fun p => !eventOn cl p
      halts := s.halts.set pid { h with
        saved := h.saved ++ [saved], events := h.events ++ s.pending.filter (eventOn cl) } }
    (wipeCluster s1 pid cl).setCluster cl left

/-- `LAZY_REGION_SAVE` (R405): a cluster that another partition is to use gives up the halted context that lies on it. -/
def execLazyRegionSave (s : State) : Host.Outcome State Fault Refusal :=
  match s.args with
  | [cl] => match (s.cluster cl).larder with
    | some pid => match s.halts.get? pid with
      | some h =>
        if h.taken.isNone ∨ h.resumeAt.isSome then .next s
        else if clusterBusy s cl then .next (later 1 .lazyRegionSave [cl] s)
        else .next (moveOut s pid cl)
      | none => .next s
    | none => .next s
  | _ => .next s

/-! ### Restore (R306, R403) -/

/-- Cores and clusters renumbered by a map of clusters. -/
def mapCl (m : List (Nat × Nat)) (cl : Nat) : Nat := ((m.find? fun e => e.1 == cl).map (·.2)).getD cl
def mapCore (m : List (Nat × Nat)) (c : Nat) : Nat := 8 * mapCl m (clusterOf c) + c % 8
def mapLoc (m : List (Nat × Nat)) (loc : Nat) : Nat :=
  match homeOf loc with
  | .core c off => coreLoc (mapCore m c) off
  | .vault cl off => vaultLoc (mapCl m cl) off
  | .hbm _ | .cellar _ | .host _ _ | .other => loc
def mapBody (m : List (Nat × Nat)) (b : PktBody) : PktBody :=
  { b with dest := mapCore m b.dest, src := mapCore m b.src, fe := b.fe.map fun f => (f.1, mapLoc m f.2.1, f.2.2.1, f.2.2.2) }
def mapEvent (m : List (Nat × Nat)) (p : Pending) : Pending :=
  { p with args := (eventCores p.ev).foldl (fun as i => listSet as i (mapCore m (as.getD i 0))) p.args }
/-- What core `c` keeps. Its own writes, which were made under that number, it still knows of. -/
def mapCoreSt (m : List (Nat × Nat)) (c : Nat) (k : CoreSt) : CoreSt :=
  let arr (a : Arrival) : Arrival := { a with body := mapBody m a.body, lost := a.lost.map fun e => (mapCore m e.1, e.2) }
  let fe (w : FeWaiter) : FeWaiter := { w with loc := mapLoc m w.loc, body := w.body.map (mapBody m) }
  { k with
    buffer := k.buffer.map fun e => { e with loc := mapLoc m e.loc }
    arrivals := k.arrivals.map arr
    spill := k.spill.map arr
    dups := k.dups.map fun e => { e with src := mapCore m e.src }
    retained := k.retained.map fun r => { r with body := mapBody m r.body }
    feWait := k.feWait.map fe
    heldReplies := k.heldReplies.map (mapEvent m)
    know := if mapCore m c = c then k.know else k.know.set c (k.phase + 1)
    snap := [] }
def mapClusterSt (m : List (Nat × Nat)) (k : ClusterSt) : ClusterSt :=
  let job (j : Job) : Job := { j with core := mapCore m j.core }
  let queue (q : JobQueue) : JobQueue := { q with jobs := q.jobs.map job }
  { k with
    queues := k.queues.map fun (n, q) => (n, queue q)
    subs := k.subs.map fun (n, x) => (n, { x with core := mapCore m x.core })
    tcache := [] }
def mapThread (m : List (Nat × Nat)) (t : Thread) : Thread :=
  { t with fe := t.fe.map fun f => (f.1, mapBody m f.2.1, f.2.2.map fun q => (mapCore m q.1, q.2)) }
def mapSlot (m : List (Nat × Nat)) (x : SlotSt) : SlotSt := { x with lent := x.lent.map (mapThread m) }
def mapGroup (m : List (Nat × Nat)) (y : Group) : Group :=
  let put (f : Nat → Nat) (x : SMap Nat) : SMap Nat := x.foldl (fun r e => SMap.set r (f e.1) e.2) []
  { y with
    lead := mapCl m y.lead
    places := y.places.map fun p => { p with core := mapCore m p.core }
    held := y.held.map (mapCore m)
    unissued := y.unissued.map (mapCore m)
    store := put (mapCore m) y.store
    vault := put (mapCl m) y.vault }
def mapSite (m : List (Nat × Nat)) : ErrSite → ErrSite
  | .gfile c e => .gfile (mapCore m c) e
  | .wfile c e => .wfile (mapCore m c) e
  | .queue c q n => .queue (mapCore m c) q n
  | .pred c j => .pred (mapCore m c) j
  | .memWord w => .memWord (mapLoc m (8 * w) / 8)
  | .fullBit w => .fullBit (mapLoc m (8 * w) / 8)
  | .granTag g => .granTag (mapLoc m (64 * g) / 64)
  | .acc cl a e => .acc (mapCl m cl) a e
  | .tile cl h => .tile (mapCl m cl) h
  | .code cl l => .code (mapCl m cl) l
  | .job cl q n => .job (mapCl m cl) q n
  | .deposit id => .deposit id

/-- The waiters of futures that lie in a saved cluster under their new keys (R328). A thread on the old slot that waits for the same
page keeps its place. -/
def mapFutures (m : List (Nat × Nat)) (x : SavedCluster) (s : State) : List Future :=
  let parked (f : Future) (key : Nat) : Bool :=
    (x.threads.get? key).any (fun t => parkedAt t f.ctag f.page)
      || ((x.slots.get? key).bind (·.lent)).any fun t => parkedAt t f.ctag f.page
  let still (f : Future) (key : Nat) : Bool :=
    (s.thread? key).any (fun t => parkedAt t f.ctag f.page) || ((s.slot key).lent).any fun t => parkedAt t f.ctag f.page
  let one (f : Future) (key : Nat) : List Nat :=
    let there := slotKey (mapCore m (coreOf key)) (slotOf key)
    if parked f key then (if still f key then [there, key] else [there]) else [key]
  s.futures.map fun f => { f with waiters := f.waiters.flatMap (one f) }

/-- The core stores and the vault of a saved cluster made again in cluster `cl`: clean regions by the group-start rules, dirty ones
from their records (R405). -/
def rebuildCluster (m : List (Nat × Nat)) (s : State) (pid : Nat) (ls : List Nat) (x : SavedCluster) : State :=
  let cl := mapCl m x.cluster
  let s1 := wipeCluster s pid cl
  let s2 := (placedGroups s1 ls).foldl (fun s e => match s.launch? e.1 with
    | some la =>
      let store := (e.2.2.store.filter fun p => clusterOf p.1 == x.cluster).map fun p => (mapCore m p.1, p.2)
      let vault := (e.2.2.vault.filter fun p => p.1 == x.cluster).map fun p => (cl, p.2)
      fillGroup s la store vault
    | none => s) s1
  x.records.foldl (putRecord cl) s2

/-- A saved cluster put into its target cluster, in place of all that lies there, with the power states of its cores (R207); a gated
core that is to hold threads wakes (R227). -/
def moveIn (m : List (Nat × Nat)) (pid : Nat) (ls : List Nat) (s : State) (x : SavedCluster) : State :=
  let cl := mapCl m x.cluster
  let key (f : Nat → Nat) (n w : Nat) : Nat := w * f (n / w) + n % w
  let off (c : Nat) : Bool := clusterOf c != cl
  let old := s.cluster cl
  let st := { mapClusterSt m x.state with
    err := old.err, vact := old.vact, vprev := old.vprev, eact := old.eact, trace := old.trace }
  let core (s : State) (i : Nat) : State :=
    let c := 8 * cl + i
    let was := s.core c
    let k := mapCoreSt m (8 * x.cluster + i) (x.cores.getD (8 * x.cluster + i) .reset)
    let s1 := s.setCore c { k with
      idleSince := s.cyc, dropped := was.dropped, phase := max k.phase was.phase + 1, portFull := was.portFull
      busy := (k.busy.toList ++ was.busy.toList).foldl (fun b t => some (max (b.getD 0) t)) none }
    if (threadsOn s1 c).isEmpty && k.arrivals.isEmpty then s1 else wakeCore s1 c
  let s0 := rebuildCluster m s pid ls x
  let s1 := { s0 with
    threads := x.threads.foldl (fun r t => SMap.set r (key (mapCore m) t.1 64) (mapThread m t.2))
      (s0.threads.filter fun t => off (coreOf t.1))
    slots := x.slots.foldl (fun r t => SMap.set r (key (mapCore m) t.1 64) (mapSlot m t.2))
      (s0.slots.filter fun t => off (coreOf t.1))
    gfile := x.gfile.foldl (fun r e => SMap.set r (key (mapCore m) e.1 2048) e.2) (s0.gfile.filter fun e => off (e.1 / 2048))
    wfile := x.wfile.foldl (fun r e => SMap.set r (key (mapCore m) e.1 256) e.2) (s0.wfile.filter fun e => off (e.1 / 256))
    rels := x.rels.foldl (fun r e => SMap.set r (mapLoc m e.1) e.2) s0.rels
    futures := mapFutures m x s0
    errs := (s0.errs.filter fun e => siteCluster e.1 != some cl) ++ x.errs.map fun e => (mapSite m e.1, e.2) }
  let s2 := ((List.range 8).foldl core s1).setCluster cl st
  (List.range 8).foldl (fun s q => advanceQueue ((s.jobQueue cl q).jobs.length) s cl q) s2

/-- Whether a context may be restored onto targets: clusters of its partition, one for each of its own, in the same shapes,
and free where they are not the ones it lies on (R306, R403, R419). -/
def restoreAllowed (s : State) (pid : Nat) (h : Halt) (ls targets : List Nat) : Bool :=
  let m := h.clusters.zip targets
  let lies (cl : Nat) : Bool := h.clusters.contains cl && !(h.saved.any fun x => x.cluster == cl)
  let free (cl : Nat) : Bool := ((s.threads ++ owners s).all fun t => clusterOf (coreOf t.1) != cl) && (s.cluster cl).larder.isNone
  match s.partitions.get? pid with
  | none => false
  | some p =>
    targets.length == h.clusters.length && targets.eraseDups.length == targets.length && targets.all p.clusters.contains
      && targets.all (fun cl => lies cl || free cl)
      && (placedGroups s ls).all fun e =>
        let w := ((s.launch? e.1).map (·.header.spanW)).getD 1
        let v := ((s.launch? e.1).map (·.header.spanH)).getD 1
        spanFits p (mapCl m e.2.2.lead) w v
          && (rectangle e.2.2.lead w v).map (mapCl m) == rectangle (mapCl m e.2.2.lead) w v

/-- The whole context renumbered and put into its targets. -/
def moveContext (s : State) (pid : Nat) (ls : List Nat) (m : List (Nat × Nat)) : State :=
  let away := m.filter fun e => e.1 != e.2
  let s1 := away.foldl (fun s e => match s.halts.get? pid with
    | some h => if h.saved.any fun x => x.cluster == e.1 then s else moveOut s pid e.1
    | none => s) s
  match s1.halts.get? pid, s1.partitions.get? pid with
  | some h, some p =>
    let s2 := h.saved.foldl (moveIn m pid ls) s1
    let group (k : Nat) (y : Group) : Group := if ls.contains (k / 2 ^ 24) then mapGroup m y else y
    let core (c : Nat) (k : CoreSt) : CoreSt :=
      if p.clusters.contains (clusterOf c) ∧ !(away.any fun e => e.2 == clusterOf c) then mapCoreSt m c k else k
    let dep (d : Deposit) : Deposit :=
      if ls.contains d.launch then { d with core := mapCore m d.core, srcCore := mapCore m d.srcCore } else d
    let ids := h.saved.flatMap fun x => x.state.queues.flatMap fun q => q.2.jobs.filterMap fun j => match j.kind with
      | .fence id => some id
      | .mma .. | .mzero .. | .mrd .. | .mwr .. | .cpy .. => none
    let fen (i : Nat) (f : Fence) : Fence := if ids.contains i then { f with cluster := mapCl m f.cluster } else f
    { s2 with
      groups := s2.groups.map fun (k, y) => (k, group k y)
      cores := s2.cores.map fun (c, k) => (c, core c k)
      deposits := s2.deposits.map fun (i, d) => (i, dep d)
      fences := s2.fences.map fun (i, f) => (i, fen i f)
      halts := s2.halts.set pid { h with
        events := h.events.map (mapEvent m), clusters := h.clusters.map (mapCl m), saved := [] } }
  | _, _ => s1

/-- The records a gaffer lacks read at once, up to 8 of them, those whose pages are resident; one with an uncorrectable error
fails as any read does (R290, R306). -/
def refillPfb : Nat → State → Nat → Nat → State
  | 0, s, _, _ => s
  | fuel + 1, s, l, g => match s.group? l g, s.launch? l, barrierSegment s l with
    | some x, some la, some sg =>
      let b := x.barrier
      if b.gstate ≠ .run then s
      else match b.nextRead 9 b.back b.gpc.toNat b.lstk with
        | none => s
        | some i =>
          let put (s : State) (bs : List Byte) : State :=
            refillPfb fuel (updBarrier s l g fun b => { b with pfb := b.pfb ++ [(i, bs)] }) l g
          if sg.limit.toNat < 64 * i + 64 then put s []
          else match daLoc s la.ctag ((sg.base.toNat + 64 * i) % 2 ^ 56) with
            | some loc => (match Iss.memErrors s loc 64 with
                | (s1, _, some _) => put s1 []
                | (s1, _, none) => put s1 (readBytes s1 loc 64))
            | none => s
    | _, _, _ => s

/-- The pages of the images from which clean regions are made again. -/
def imagePages (s : State) (ls : List Nat) : List (BitVec 16 × Nat) :=
  ls.flatMap fun l => match s.launch? l with
    | some x => (absentPages s x.ctag x.coreImage.1.toNat x.coreImage.2 ++ absentPages s x.ctag x.vaultImage.1.toNat x.vaultImage.2).map
        fun p => (x.ctag, p)
    | none => []

/-- The clusters of the placed groups of launches, with the launch of each. -/
def codeClusters (s : State) (ls : List Nat) : List (Nat × Nat) :=
  (placedGroups s ls).flatMap fun e => (s.span e.1 e.2.1 e.2.2.lead).map fun cl => (cl, e.1)

/-- The restore of a context that lies on its clusters (R403): the larder part begins in the next cycle, and issue resumes in h′.
`PFB` is filled before that (R306). -/
def resumeHalt (s : State) (pid t : Nat) (ls : List Nat) : State :=
  let base := s.cyc + 1 + 240
  let resume := base + (t % 64 + 64 - base % 64) % 64
  let s1 := (placedGroups s ls).foldl (fun s e => refillPfb 8 s e.1 e.2.1) s
  match s1.halts.get? pid with
  | some h => later (resume - s.cyc) .restoreIssueResume [pid]
      { s1 with halts := s1.halts.set pid { h with resumeAt := some resume }, refused := none }
  | none => s1

/-- `RESTORE` (R403): refused; or admitted, with issue to resume in cycle h′. A context that goes to other clusters moves first, and
the larder part begins once it has arrived with its kernels. Admission waits for publications that a `wait` began before the halt, so
that those arrive in cycle h′ + 1 (R306). -/
def execRestore (pid : Nat) (targets : List Nat) (s : State) : Host.Outcome State Fault Refusal :=
  let no (d : Denied) : Host.Outcome State Fault Refusal := .next { s with refused := some d }
  match s.halts.get? pid with
  | none => no .form
  | some h => match h.taken with
    | none => no .busy
    | some t =>
      let ls := haltLaunches s pid h
      let m := h.clusters.zip targets
      let still := h.saved.isEmpty && targets == h.clusters
      let again (s : State) : Host.Outcome State Fault Refusal := .next (later 1 (.restore pid targets) [] s)
      let waits := s.pubs.any fun p => match p.2.after with
        | .waitArrive l _ _ => ls.contains l
        | _ => false
      if h.resumeAt.isSome ∨ s.sched.stopped then no .busy
      else if !restoreAllowed s pid h ls targets then no .shape
      else if waits then again s
      else if still then
        if (codeClusters s ls).all fun c => codeLoaded s c.1 c.2 then .next (resumeHalt s pid t ls)
        else again ((codeClusters s ls).foldl (fun s c => if codeLoaded s c.1 c.2 then s else loadCode s c.1 c.2) s)
      else if h.clusters.any (fun cl => !(h.saved.any fun x => x.cluster == cl) && clusterBusy s cl) then again s
      else match imagePages s ls with
        | [] => .next (trip (.restore pid targets) [] { (moveContext s pid ls m) with refused := none })
        | ps => again (ps.foldl (fun s p => postFault s p.1 p.2 []) s)

/-- Subscription tiles in flight begun again (R283). -/
def restartSubs (s : State) (ls : List Nat) (cl : Nat) : State :=
  (s.cluster cl).subs.foldl (fun s e =>
    let x := e.2
    if !ls.contains x.launch then s
    else (List.range x.n).foldl (fun s i =>
      let h := x.h0 + i
      let t := s.tile cl h
      let seq := x.next.getD i 0
      if t.sub ≠ some e.1 then s
      else if t.st = .filling then (List.range t.rows).foldl (fun s r => trip .bytesLand [cl, 8 + h, r, seq] s) s
      else if t.st = .draining ∧ x.storer ∧ !x.writes.has i then trip .copyLastTileRead [cl, 8 + h, seq] s
      else s) s) s

/-- `RESTORE_ISSUE_RESUME` (R305, R306, R331). -/
def execRestoreIssueResume (s : State) : Host.Outcome State Fault Refusal :=
  match s.args with
  | [pid] => match s.halts.get? pid with
    | some h => match h.taken, h.resumeAt with
      | some t, some r =>
        if r ≠ s.cyc then .next s
        else
          let ls := (haltLaunches s pid h).filter s.halted
          let cores := ((placedGroups s ls).flatMap fun e => e.2.2.held).eraseDups
          let d := r - t
          let s1 := moveHalted s ls cores t d
          let s2 := { s1 with
            pending := s1.pending ++ h.events.map fun p => { p with at_ := p.at_ + d }
            halts := s1.halts.erase pid }
          let s3 := ls.foldl (fun s l => s.updLaunch l fun x => { x with halted := false }) s2
          let s4 := h.clusters.foldl (fun s cl => (restartSubs s ls cl).updCluster cl fun k => { k with larder := none }) s3
          .next (cores.foldl (fun s c => refreshCore s c s.done) s4)
      | _, _ => .next s
    | none => .next s
  | _ => .next s

end Sys2Proof.Machine
end

