-- ==== Sys2Proof/Machine/Package.lean ====
section
/-! DEFINITION. The package (R411 to R426): power and heat, partitions and tags, boot, scheduler take-over, and what the root
monitor writes. -/

namespace Sys2Proof.Machine

/-! ### Power and heat (R415 to R418) -/

def State.die (s : State) (d : Nat) : DieSt := s.dies.getD d .reset
def State.setDie (s : State) (d : Nat) (x : DieSt) : State := { s with dies := s.dies.put .reset d x }

/-- The budget in force with a value of `CAP` (R415, R417). -/
def DieSt.budget (x : DieSt) (cap : BitVec 12) : BitVec 12 := if x.hot then 1024 else cap

/-- Engine cycles of a cluster in the current window (R416). -/
def engineAllowance (s : State) (cl : Nat) : Nat := ((s.die (dieOf cl)).ecap.toNat - (s.cluster cl).vprev) / 4

/-- `POWER_WINDOW` (R416): V(n − 1) is the activity of the window that ends, and `CAP` comes into force. -/
def execPowerWindow (s : State) : Host.Outcome State Fault Refusal :=
  let turn (k : ClusterSt) : ClusterSt := { k with vprev := k.vact, vact := 0, eact := 0 }
  let die (x : DieSt) : DieSt := { x with window := x.cap, ecap := x.budget x.cap }
  .next (later 256 .powerWindow []
    { s with clusters := s.clusters.map fun (n, k) => (n, turn k), dies := s.dies.map fun (n, x) => (n, die x) })

/-- Whether a value may stand in `CAP` (R415). -/
def capLegal (v : BitVec 12) : Bool := 1024 ≤ v.toNat && v.toNat ≤ 2048 && v.toNat % 64 == 0

/-- A write of a die's `CAP` (R415, R426). -/
def writeCap (s : State) (die : Nat) (value : BitVec 12) : State :=
  if die < 8 ∧ capLegal value then s.setDie die { (s.die die) with cap := value } else s

/-- `CAP` (R415). -/
def execCap (die : Nat) (value : BitVec 12) (s : State) : Host.Outcome State Fault Refusal := .next (writeCap s die value)

/-- The functions of the host port (R427). -/
def allFunctions : List Nat := List.range 64

def updFunction (s : State) (f : Nat) (g : FuncSt → FuncSt) : State :=
  { s with functions := s.functions.put .reset f (g (s.functions.getD f .reset)) }

/-- A thermal event: every partition is halted, one that is being restored too, the host is told, and no further packet starts
(R417). -/
def thermalEvent (s : State) : State :=
  let s1 := allFunctions.foldl (fun s f => updFunction s f fun x => { x with thalt := true })
    { s with sched := { s.sched with stopped := true } }
  s1.partitions.foldl (fun s p => match s.halts.get? p.1 with
    | some h => if h.resumeAt.isSome || h.launch.isSome then requestHalt s p.1 none else s
    | none => requestHalt s p.1 none) s1

/-- `TEMP_UPDATE` (R417). A value of `CAP` that was written in this window is not in force before the next (R426). -/
def execTempUpdate (die : Nat) (temp : BitVec 8) (s : State) : Host.Outcome State Fault Refusal :=
  if 8 ≤ die then .next s
  else
    let x := s.die die
    let hot := if 100 ≤ temp.toNat then true else if temp.toNat < 95 then false else x.hot
    let y := { x with temp := temp, hot := hot }
    let y := if hot = x.hot then y else { y with ecap := y.budget y.window }
    let s1 := s.setDie die y
    .next (if 110 ≤ temp.toNat ∧ x.temp.toNat < 110 then thermalEvent s1 else s1)

/-- `THERMAL_EVENT_CLEAR` (R417, R430). -/
def execThermalEventClear (s : State) : Host.Outcome State Fault Refusal :=
  let clear (x : FuncSt) : FuncSt := { x with thalt := false }
  .next { s with
    sched := { s.sched with stopped := false }
    functions := s.functions.map fun (n, x) => (n, clear x) }

/-! ### Partitions, tags, descriptors (R72, R225, R226, R281, R413, R414) -/

/-- Whether every slot of a cluster is free and its larder empty (R414). -/
def clusterFree (s : State) (cl : Nat) : Bool :=
  (s.cluster cl).larder.isNone
    && (s.threads.all fun t => clusterOf (coreOf t.1) != cl)
    && s.slots.all fun x => clusterOf (coreOf x.1) != cl || (!x.2.withheld && x.2.lent.isNone)

/-- The visible vault of a cluster, its tags and its trace ring, zeroed (R414). -/
def clearVault (s : State) (cl : Nat) : State :=
  let mine (loc : Nat) : Bool := decide (vaultLoc cl 0 ≤ loc) && decide (loc < vaultLoc cl 0x300000)
  let s1 := { s with
    mem := s.mem.filter fun e => !mine e.1
    gtags := s.gtags.filter fun e => !mine (64 * e.1) }
  (clearErrs (wipePast s1 (vaultLoc cl 0) 0x300000) mine).updCluster cl fun k => { k with trace := .reset }

/-- Whether a shape is one of the three of R413. -/
def shapeLegal : PartShape → Bool
  | .rect die row col rows cols => die < 8 && 1 ≤ rows && 1 ≤ cols && row + rows ≤ 16 && col + cols ≤ 16
  | .dies mask => mask != 0

/-- Whether a shape covers a cluster (R413). -/
def shapeHas (cl : Nat) : PartShape → Bool
  | .rect die row col rows cols =>
    dieOf cl == die && row ≤ meshRow cl && meshRow cl < row + rows && col ≤ meshCol cl && meshCol cl < col + cols
  | .dies mask => mask.getLsbD (dieOf cl)

/-- Why the root monitor does not take a partition entry: its form and shape, a virtual function that serves another partition, tags
and page-table roots, queues, and frames that another partition has (R316, R413, R414, R427). An entry can be written again while no cluster is assigned under it. -/
def entryDenied (s : State) (pid : Nat) (e : PartEntry) : Option Denied :=
  let others := s.partitions.filter fun q => q.1 != pid
  let root (t : ResTag) : Bool :=
    t.ptRoot.toNat / 2 ^ 48 == 0xFE && t.ptRoot.toNat % 65536 == 0 && decide (t.ptRoot.toNat % 2 ^ 22 < 0x270000)
  let overlap (f g : Nat × Nat × Nat) : Bool := f.1 == g.1 && f.1 != 2 && decide (f.2.1 ≤ g.2.2) && decide (g.2.1 ≤ f.2.2)
  if 64 ≤ pid ∨ 64 ≤ e.vfn ∨ (e.vfn ≠ 0 ∧ others.any fun q => q.2.vfn == e.vfn) ∨ (e.tags.map (·.ctag)).eraseDups.length ≠ e.tags.length then some .form
  else if !shapeLegal e.shape
      ∨ (List.range 2048).any (fun cl => shapeHas cl e.shape && others.any fun q => shapeHas cl q.2.shape) then some .shape
  else if !(e.tags.all root) ∨ e.tags.any (fun t => s.contexts.any fun c => c.1 == t.ctag.toNat && c.2.pid != pid) then some .tags
  else if e.jobs.any (fun q => decide (1024 ≤ q) || others.any fun p => p.2.jobs.contains q) then some .jobs
  else if e.frames.any (fun f => decide (3 ≤ f.1) || others.any fun p => p.2.frames.any (overlap f)) then some .frames
  else if (s.partitions.get? pid).any fun p => !p.clusters.isEmpty then some .busy
  else none

/-- A partition entry written, with the tables of its tags (R225, R413), and the pool of fault frames that comes with a new
partition, whose size the manual leaves open (R322). -/
def writeEntry (s : State) (pid : Nat) (e : PartEntry) : State :=
  let p : Partition := ⟨e.shape, [], e.tags.map (·.ctag), e.jobs, e.frames, e.vfn, e.priv, e.pasid⟩
  let keep (c : Nat × Context) : Bool := c.2.pid != pid || e.tags.any fun t => t.ctag.toNat == c.1
  let ctx (m : SMap Context) (t : ResTag) : SMap Context :=
    let old := m.get? t.ctag.toNat
    m.set t.ctag.toNat ⟨pid, t.sdt, (old.map (·.descs)).getD [], t.sdtSize.toNat, t.ptRoot, t.tagKey, (old.map (·.windows)).getD []⟩
  let s1 := { s with partitions := s.partitions.set pid p, contexts := e.tags.foldl ctx (s.contexts.filter keep) }
  if s.partitions.has pid then s1
  else { s1 with framePool := s.framePool.put 0 pid (Config.freeWord s.fresh).toNat, fresh := s.fresh + 1 }

/-- A cluster as its assignment leaves it: the resets of R217 on its cores, its spawn counts and the queue its engine served last
at their reset values, and its visible vault zeroed (R132, R259, R414). -/
def clearCluster (s : State) (cl : Nat) : State :=
  let s1 := (List.range 8).foldl (fun s i => (clearStore s (8 * cl + i)).updCore (8 * cl + i) fun k => { k with spawns := 0 }) s
  (clearVault s1 cl).updCluster cl fun k => { k with lastServed := 3 }

/-- A cluster taken away, or assigned to the partition it goes to, whose entry is written first where one is given (R413, R414). -/
def assignCluster (cluster : Nat) (pid : Option Nat) (entry : Option PartEntry) (s : State) : Host.Outcome State Fault Refusal :=
  let no (d : Denied) : Host.Outcome State Fault Refusal := .next { s with refused := some d }
  if 2048 ≤ cluster then no .form
  else if !clusterFree s cluster then no .busy
  else match pid with
    | none =>
      let drop (p : Partition) : Partition := { p with clusters := p.clusters.filter (· != cluster) }
      .next { s with partitions := s.partitions.map fun (n, p) => (n, drop p), refused := none }
    | some n =>
      if s.partitions.any fun q => q.2.clusters.contains cluster then no .busy
      else match entry.bind (entryDenied s n) with
        | some d => no d
        | none =>
          let s1 := match entry with
            | some e => writeEntry s n e
            | none => s
          match s1.partitions.get? n with
          | none => no .form
          | some p =>
            if !(shapeHas cluster p.shape) then no .shape
            else
              let s2 := clearCluster s1 cluster
              .next { s2 with
                partitions := s2.partitions.set n { p with clusters := insertNat cluster p.clusters }
                asked := s2.asked.erase n
                refused := none }

/-- `PARTITION_ASSIGN` (R413, R414): a cluster and the partition it goes to, or a cluster alone that is taken away. The entry that
the root monitor is to write for the partition stands in `State.asked`. -/
def execPartitionAssign (s : State) : Host.Outcome State Fault Refusal :=
  match s.args with
  | [cluster] => assignCluster cluster none none s
  | [cluster, pid] => assignCluster cluster (some pid) (s.asked.get? pid) s
  | _ => .next { s with refused := some .form }

/-- Whether a tag has no bound slot on a core (R226). -/
def tagUnbound (s : State) (c : Nat) (ctag : BitVec 16) : Bool := !((threadsOn s c).any fun t => t.2.ctag == ctag)

/-- `CONTEXT_TAG_RESIDE` (R225, R226, R419): the residency entry of a tag written from the root monitor's tables. -/
def execContextTagReside (core : Nat) (ctag : BitVec 16) (evict : Option (BitVec 16)) (s : State) :
    Host.Outcome State Fault Refusal :=
  let owner := s.partitions.find? fun p => p.2.clusters.contains (clusterOf core)
  let known : Bool := match owner with
    | some (pid, p) => p.tags.contains ctag && s.pidOf ctag == some pid
    | none => false
  let no (d : Denied) : Host.Outcome State Fault Refusal := .next { s with refused := some d }
  let put (ts : List ResTag) : Host.Outcome State Fault Refusal :=
    .next { (s.updCore core fun k => { k with tags := ts ++ [resTagOf s ctag] }) with refused := none }
  let ts := (s.core core).tags
  if !known then no .tags
  else if resident s core ctag then .next { s with refused := none }
  else match evict with
    | some e =>
      if !resident s core e then no .tags
      else if tagUnbound s core e then put (ts.filter fun t => t.ctag != e) else no .busy
    | none => if ts.length < 16 then put ts else no .busy

/-- Whether `[base, base + limit)` meets the system region of a vault through the vault window (R281). -/
def meetsSystem (base limit : Nat) : Bool :=
  let lo := max base (0xFE * 2 ^ 48)
  let hi := min (base + limit) (0xFF * 2 ^ 48)
  let o := lo % 2 ^ 22
  let n := hi - lo
  decide (lo < hi) && ((decide (o < 0x300000) && decide (0x270000 < o + n)) || decide (0x270000 + 2 ^ 22 < o + n))

/-- Whether `[lo, lo + n)`, in the vault of one cluster, meets a page-table shard of a partition (R316). -/
def meetsShard (s : State) (pid lo n : Nat) : Bool := (shards s pid).any fun b => decide (b.1 < lo + n) && decide (lo < b.1 + b.2)

/-- Whether `[base, base + limit)` meets a page-table shard through the vault window (R316). -/
def meetsShards (s : State) (pid base limit : Nat) : Bool :=
  let lo := max base (0xFE * 2 ^ 48)
  let hi := min (base + limit) (0xFF * 2 ^ 48)
  let o := lo % 2 ^ 22
  decide (lo < hi) && (meetsShard s pid o (hi - lo) || (decide (2 ^ 22 < o + (hi - lo)) && meetsShard s pid 0 (o + (hi - lo) - 2 ^ 22)))

/-- What the root monitor refuses of a descriptor (R72, R281). No thread instruction reaches a page entry, so one that covers a
page-table shard is refused too (R315; entry 54). -/
def descriptorBad (s : State) (pid : Nat) (e : Segment) : Bool :=
  let top := e.base.toNat + e.limit.toNat
  match e.kind with
  | .core => decide (131072 < top)
  | .vault => decide (0x270000 < top) || meetsShard s pid e.base.toNat e.limit.toNat
  | .memory => meetsSystem e.base.toNat e.limit.toNat || meetsShards s pid e.base.toNat e.limit.toNat
  | .res6 | .res7 => true
  | .null | .barrier | .code => false

/-- `DESCRIPTOR_CREATE` (R72). -/
def execDescriptorCreate (ctag index : Nat) (seg : Segment) (s : State) : Host.Outcome State Fault Refusal :=
  match s.contexts.get? ctag with
  | some c =>
    if descriptorBad s c.pid seg ∨ c.sdtSize ≤ index ∨ 2 ^ 12 ≤ index then .next { s with refused := some .form }
    else
      let c' := { c with descs := c.descs.set index { seg with index := BitVec.ofNat 12 index } }
      .next { s with contexts := s.contexts.set ctag c', refused := none }
  | none => .next { s with refused := some .form }

/-! ### Scheduler take-over (R422, R423) -/

/-- Both scheduler cores have failed: no further packet starts, completions stay held, and the host is told. -/
def schedulerDead (s : State) : State :=
  allFunctions.foldl (fun s f => updFunction s f fun x => { x with sfatal := true })
    { s with sched := { s.sched with failed := 2 } }

/-- `SCHEDULER_CORE_ERROR` (R423): the standby replays the journal and is in charge within 50 µs; where no standby is left, the
scheduler is dead. -/
def execSchedulerCoreError (s : State) : Host.Outcome State Fault Refusal :=
  if s.sched.failed = 0 then
    .next { s with
      fresh := s.fresh + 1
      sched := { s.sched with failed := 1, takeover := some (s.cyc + 1 + Config.latency s.fresh % 30000), journal := [] } }
  else .next (schedulerDead s)

/-- `STANDBY_FAILURE` (R423): the end of the scheduler where the active core has failed; else the active core goes on alone. -/
def execStandbyFailure (s : State) : Host.Outcome State Fault Refusal :=
  if s.sched.failed = 1 then .next (schedulerDead s)
  else if s.sched.failed = 0 then .next { s with sched := { s.sched with failed := 3 } }
  else .next s

/-! ### What the policy firmware reads (R348, R419, R425) -/

/-- The trace ring of a cluster, or of a streamer, read for a launch that has completed or is halted: its bytes from the first
place on, or the cause of a refusal. A streamer's key is that of `State.traces`; it is the launch's partition's where one of its
frames lies there (R348, R419). -/
def readClusterTrace (s : State) (l cl : Nat) : Except Denied (TraceHead × List Byte) :=
  match s.launch? l with
  | some x =>
    if !(s.inPart x.ctag cl) then .error .shape
    else if x.st ≠ .complete ∧ !x.halted then .error .busy
    else .ok ((s.cluster cl).trace, readBytes s (vaultLoc cl 0x2F0000) 65536)
  | none => .error .form

def readStreamerTrace (s : State) (l key : Nat) : Except Denied TraceRing :=
  match s.launch? l with
  | some x =>
    let tier := if key < 256 then 0 else 1
    let lo := key % 256 * 2 ^ 32
    let ours := (s.partOf x.ctag).any fun p => p.frames.any fun f =>
      f.1 == tier && decide (f.2.1 < lo + 2 ^ 32) && decide (lo ≤ f.2.2)
    if !ours then .error .frames
    else if x.st ≠ .complete ∧ !x.halted then .error .busy
    else .ok (s.traces.getD key .reset)
  | none => .error .form

/-- A cluster's error record as the policy firmware reads it for a partition that owns the cluster (R425). -/
def readErrorRecord (s : State) (pid cl : Nat) : Except Denied (BitVec 64) :=
  if (s.partitions.get? pid).any fun p => p.clusters.contains cl then
    let e := (s.cluster cl).err
    .ok (e.core ++ e.src ++ e.ue ++ e.ce)
  else .error .shape

/-! ### Boot (R420, R421) -/

/-- The check of an image: the vendor key, the signature and the security version (R420). -/
def imagePasses (x : BootImage) : Bool :=
  Config.shake256 x.key == Config.vendorKeyDigest && x.key.length == 1793 && decide (x.signature.length ≤ 1280)
    && Config.falconVerify x.key x.bytes x.signature && decide (Config.fusedVersion ≤ x.version)

/-- The measurement extended by a digest (R421). -/
def extend (m d : List Byte) : List Byte := Config.shake256 (m ++ d)

/-- The boot chain stopped at a step (R420, R430). -/
def bootStops (s : State) (step : Nat) (b : BootSt) : State :=
  allFunctions.foldl (fun s f => updFunction s f fun x => { x with bootf := true })
    { s with boot := { b with failed := some step } }

/-- `BOOT` (R420, R421): once, after reset. -/
def execBoot (romVersion monitor policy : BootImage) (s : State) : Host.Outcome State Fault Refusal :=
  if s.boot.steps ≠ 0 ∨ s.boot.failed.isSome then .next s
  else
    let m1 := extend s.boot.measure (Config.shake256 romVersion.bytes)
    let m2 := extend m1 (Config.shake256 monitor.bytes)
    let m3 := extend m2 (Config.shake256 policy.bytes)
    if !imagePasses monitor then .next (bootStops s 2 ⟨1, none, m1, [romVersion.version]⟩)
    else if !imagePasses policy then .next (bootStops s 3 ⟨2, none, m2, [romVersion.version, monitor.version]⟩)
    else .next { s with boot := ⟨3, none, m3, [romVersion.version, monitor.version, policy.version]⟩ }

end Sys2Proof.Machine
end

