-- ==== Sys2Proof/Machine/HostPort.lean ====
section
/-! DEFINITION. The host port and the links (R427 to R436): registers, BAR2, ATS, DOE, Claom Link flits, routes and windows. -/

namespace Sys2Proof.Machine

/-! ### Registers of BAR0 (R9, R429 to R431) -/

/-- Whether a function sees a queue (R429). -/
def seesQueue (s : State) (f q : Nat) : Bool :=
  q < 1024 && (f == 0 || (match queuePart s q with
    | some (_, p) => p.vfn == f
    | none => false))

/-- A word of the MSI-X table written: bit 32 of an entry's second word is its mask bit. A vector that is unmasked while
pending is sent (R431). -/
def writeVector (s : State) (f word : Nat) (value : Word) : State :=
  let v := word / 2
  updFunction s f fun x =>
    let y := { x with table := x.table.set word value }
    if word % 2 = 0 then y
    else if value.getLsbD 32 then { y with masked := x.masked.filter (· != v) ++ [v] }
    else
      let z := { y with masked := x.masked.filter (· != v) }
      if x.msiPending.contains v then { z with msiPending := x.msiPending.filter (· != v), msiSent := x.msiSent ++ [v] } else z

/-- A write of one register of a queue's block (R388). -/
def writeQueueReg (s : State) (q off : Nat) (value : BitVec 64) : State :=
  match off with
  | 0x00 => writeBase s q value
  | 0x08 => writeCtl s q value
  | 0x10 => writeKick s q (value.setWidth 32)
  | 0x28 => s.updHq q fun h => { h with qign := h.qign &&& ~~~(value.setWidth 16) }
  | _ => s

/-- A cluster's error record with 1s written to its counters (R425). -/
def writeErrors (s : State) (cl : Nat) (value : BitVec 64) : State :=
  s.updCluster cl fun k => { k with err := { k.err with
    ce := k.err.ce &&& ~~~(value.setWidth 32), ue := k.err.ue &&& ~~~(value.extractLsb' 32 16) } }

/-- A write of an 8-byte register of BAR0 (R429): read-only and reserved ones ignore it. -/
def writeBar0 (s : State) (fnum offset : Nat) (value : BitVec 64) : State :=
  if s.boot.failed.isSome ∨ 64 ≤ fnum ∨ offset % 8 ≠ 0 then s
  else if offset = 0x18 then updFunction s fnum fun x => { x with herr := x.herr &&& ~~~(value.setWidth 32) }
  else if fnum = 0 ∧ 0x100 ≤ offset ∧ offset < 0x140 then writeCap s ((offset - 0x100) / 8) (value.setWidth 12)
  else if 0x100000 ≤ offset ∧ offset < 0x110000 then
    let q := (offset - 0x100000) / 64
    if seesQueue s fnum q then writeQueueReg s q ((offset - 0x100000) % 64) value else s
  else if 0x200000 ≤ offset ∧ offset < 0x202000 then
    let q := (offset - 0x200000) / 8
    if seesQueue s fnum q then { s with intMap := s.intMap.put ⟨0, false⟩ q ⟨value.setWidth 5, value.getLsbD 7⟩ } else s
  else if 0x300000 ≤ offset ∧ offset < 0x300200 then writeVector s fnum ((offset - 0x300000) / 8) value
  else s

/-- A register of a queue's block as it reads (R388). -/
def readQueueReg (h : HQueue) : Nat → BitVec 64
  | 0x00 => h.qbase.setWidth 64
  | 0x08 => BitVec.ofNat 64 (h.qsize.toNat + 16 * h.qhost.toNat + 2 ^ 16 * h.job.toNat + 2 ^ 31 * h.en.toNat)
  | 0x10 => h.qkick.setWidth 64
  | 0x18 => h.qread.setWidth 64
  | 0x20 => h.qdone.setWidth 64
  | 0x28 => h.qign.setWidth 64
  | _ => 0

/-- A register of a function's control block as it reads (R430). -/
def readControl (fnum : Nat) (x : FuncSt) : Nat → BitVec 64
  | 0x00 => BitVec.ofNat 64 (fnum % 64 + 64 * x.bootf.toNat)
  | 0x08 => x.b2da.setWidth 64
  | 0x10 => x.b2tag.setWidth 64
  | 0x18 => x.herr.setWidth 64
  | 0x20 => BitVec.ofNat 64 (x.thalt.toNat + 2 * x.sfatal.toNat)
  | _ => 0

/-- A die's power register as it reads (R415). -/
def readPower (x : DieSt) : BitVec 64 :=
  BitVec.ofNat 64 (x.cap.toNat + 2 ^ 12 * x.ecap.toNat + 2 ^ 24 * x.temp.toNat + 2 ^ 32 * x.hot.toNat)

/-- An 8-byte register of BAR0 as it reads: reserved ranges, and reserved fields of registers, read as zero (R7, R9, R429 to
R431). While the boot chain has stopped the function number and `BOOTF` are all that reads otherwise (R420). -/
def readBar0 (s : State) (fnum offset : Nat) : BitVec 64 :=
  let x := s.functions.getD fnum .reset
  if 64 ≤ fnum ∨ offset % 8 ≠ 0 ∨ (s.boot.failed.isSome ∧ offset ≠ 0) then 0
  else if offset < 0x100 then readControl fnum x offset
  else if fnum = 0 ∧ offset < 0x140 then readPower (s.die ((offset - 0x100) / 8))
  else if 0x100000 ≤ offset ∧ offset < 0x110000 then
    let q := (offset - 0x100000) / 64
    if seesQueue s fnum q then readQueueReg (s.hq q) ((offset - 0x100000) % 64) else 0
  else if 0x200000 ≤ offset ∧ offset < 0x202000 then
    let q := (offset - 0x200000) / 8
    let e := s.intMap.getD q ⟨0, false⟩
    if seesQueue s fnum q then BitVec.ofNat 64 (e.vec.toNat + 128 * e.ien.toNat) else 0
  else if 0x300000 ≤ offset ∧ offset < 0x300200 then x.table.getD ((offset - 0x300000) / 8) (if offset / 8 % 2 = 1 then 2 ^ 32 else 0)
  else if offset = 0x310000 then BitVec.ofNat 64 ((x.msiPending.map fun v => 2 ^ v).sum)
  else 0

/-! ### BAR2 and ATS (R428, R432) -/

/-- The page or window of a byte of BAR2: its location, where the access is allowed; none where it is refused. The flag says
that the page is migrating. -/
def bar2Byte (s : State) (ctag : BitVec 16) (store : Bool) (da : Nat) : Option (Nat × Bool) :=
  if isWindow da then
    let want : Want := ⟨0, 0, 1, if store then .store else .load, .everywhere, 1, 0, false, fun _ => none⟩
    match windowCheck s ctag want da with
    | .ok _ => some (da, false)
    | .error _ => none
  else match walk s ctag da, s.partOf ctag with
    | some e, some p =>
      let right := if store then e.w else e.r
      let pa := e.frame.toNat * 2 ^ 17
      let ours := decide (2 ≤ e.tier.toNat) || p.frames.any fun f => f.1 == e.tier.toNat && decide (f.2.1 ≤ pa) && decide (pa ≤ f.2.2)
      if right && ours then (pageLoc ((s.pidOf ctag).getD 0) e da).map fun l => (l, e.mg) else none
    | _, _ => none

/-- Bytes of a function's BAR2 (R432). -/
def FuncSt.bar2Size (x : FuncSt) : Nat := 2 ^ (30 + min x.bar2Code.toNat 6)

/-- Whether an access lies in a function's BAR2; what lies outside it is no access of the module (R427, R432; entry 53). -/
def inBar2 (s : State) (fnum offset n : Nat) : Bool :=
  decide (fnum < 64) && decide (offset + n ≤ (s.functions.getD fnum .reset).bar2Size)

/-- The places of the bytes of a BAR2 access; none where one of them is refused. -/
def bar2Bytes (s : State) (f : FuncSt) (store : Bool) (offset n : Nat) : Option (List (Nat × Bool)) :=
  if s.boot.failed.isSome then none
  else (List.range n).foldr (fun i acc => match bar2Byte s f.b2tag store ((f.b2da.toNat + offset + i) % 2 ^ 56), acc with
    | some x, some r => some (x :: r)
    | _, _ => none) (some [])

/-- A refusal counted (R430). -/
def countHerr (s : State) (fnum : Nat) : State :=
  updFunction s fnum fun x => { x with herr := if x.herr = BitVec.allOnes 32 then x.herr else x.herr + 1 }

/-- `BAR2_READ` (R432): the data, or Completer Abort. It does not pass a write (entry 53). -/
def execBar2Read (s : State) : Host.Outcome State Fault Refusal :=
  match s.args with
  | [fnum, offset, n] =>
    if !inBar2 s fnum offset n then .next s
    else if !s.posted.isEmpty then .next (later 1 .bar2Read [fnum, offset, n] s)
    else match bar2Bytes s (s.functions.getD fnum .reset) false offset n with
    | some ls => .next (updFunction s fnum fun x => { x with bar2 := some (ls.map fun l => readByte s l.1) })
    | none => .next (updFunction (countHerr s fnum) fnum fun x => { x with bar2 := none })
  | _ => .next s

/-- A write of the host performed; none where it waits: a page migrates (R327), or a tile holds one of its bytes (R253). Each page's
part of a BAR2 write is one write; what the host has written is known to a launch whose packet has fence scope 5 (R343, R432). -/
def performHost (s : State) : HostWrite → Option State
  | .memory fnum offset bytes =>
    let f := s.functions.getD fnum .reset
    match bar2Bytes s f true offset bytes.length with
    | none => some (countHerr s fnum)
    | some ls =>
      if ls.any fun l => l.2 || tileHolds s l.1 1 then none
      else some (daWrite s f.b2tag ⟨none, 0, 0, 0, some hostAgent, s.cyc⟩ ((f.b2da.toNat + offset) % 2 ^ 56) bytes)
  | .register fnum offset value => some (writeBar0 s fnum offset value)
  | .kick queue value => some (if s.boot.failed.isSome then s else writeKick s queue value)

/-- The host's writes performed in their order, as far as they go (R432): PCIe lets no posted write pass another (entry 53). -/
def drainHost : Nat → State → State
  | 0, s => s
  | n + 1, s => match s.posted with
    | [] => s
    | w :: r => match performHost { s with posted := r } w with
      | some s1 => drainHost n s1
      | none => later 1 (.bar2Write 0 0 []) [0] s

/-- A write of the host, behind those that wait (R343, R432). -/
def hostWrite (s : State) (w : HostWrite) : State :=
  if s.posted.isEmpty then drainHost 1 { s with posted := [w] } else { s with posted := s.posted ++ [w] }

/-- `BAR2_WRITE` (R432). With a number, the event tries the writes that wait again. -/
def execBar2Write (fnum offset : Nat) (bytes : List (BitVec 8)) (s : State) : Host.Outcome State Fault Refusal :=
  match s.args with
  | [_] => .next (drainHost s.posted.length s)
  | _ => .next (if inBar2 s fnum offset bytes.length then hostWrite s (.memory fnum offset bytes) else s)

/-- What the root monitor writes in a function's control block: `B2DA` and `B2TAG` (R430). -/
def writeMonitor (x : FuncSt) (value : BitVec 64) : Nat → FuncSt
  | 0x08 => { x with b2da := value.setWidth 56 }
  | 0x10 => { x with b2tag := value.setWidth 16 }
  | _ => x

/-- `REGISTER_WRITE` (R9): a register of BAR0, the error record of a cluster, what the root monitor sets of a function, or the size of
its BAR2, of which there are seven (R430, R432). -/
def execRegisterWrite (place : RegPlace) (offset : Nat) (value : BitVec 64) (s : State) : Host.Outcome State Fault Refusal :=
  match place with
  | .bar0 fnum => .next (hostWrite s (.register fnum offset value))
  | .errors cl => .next (if offset = 0 then writeErrors s cl value else s)
  | .monitor fnum => .next (if fnum < 64 then updFunction s fnum fun x => writeMonitor x value offset else s)
  | .rebar fnum => .next (if fnum < 64 ∧ value.toNat ≤ 6 then updFunction s fnum fun x => { x with bar2Code := value.setWidth 3 } else s)

/-- `ATS_INVALIDATION` (R428): complete once every access that used the translation has been performed. Those of copies and of the hub
are made whole in one event, so that none of them is under way at this one. -/
def execAtsInvalidation (s : State) : Host.Outcome State Fault Refusal :=
  match s.args with
  | [fnum, iova] =>
    if 64 ≤ fnum then .next s else
    let page := iova / 4096
    let drop (x : FuncSt) : FuncSt := { x with ats := x.ats.filter (· != page) }
    let s1 := updFunction s fnum drop
    let mine (loc : Nat) : Bool := match homeOf loc with
      | .host pid va => va / 4096 == page && (match s.partitions.get? pid with
          | some p => p.vfn == fnum
          | none => false)
      | _ => false
    let busy := s.reqs.any fun r => !r.2.performed && (match r.2.kind with
      | .write loc _ _ _ | .atomic loc _ _ | .tagRead loc | .tagWrite loc _ | .fe loc _ _ => mine loc
      | .read ps => ps.any fun p => mine p.1)
    .next (if s.boot.failed.isSome then s else if busy then later 1 .atsInvalidation [fnum, iova] s1 else s1)
  | _ => .next s

/-! ### DOE (R420, R421, R433) -/

/-- A response put into a function's mailbox; while the boot chain has stopped it holds only the failed step's number. -/
def respond (s : State) (fnum : Nat) (bs : List Byte) : State :=
  let out := match s.boot.failed with
    | some step => toBytes 1 step
    | none => bs
  updFunction s fnum fun x => { x with doe := out, doeBusy := false }

/-- A request written to a function's mailbox by event `ev`, which comes again with the request's number to answer it. One exchange
is in progress at a time: a request that comes meanwhile ends it unanswered (R433; entry 31). -/
def askDoe (s : State) (fnum : Nat) (ev : Instr) (args : List Nat) : State :=
  if 64 ≤ fnum then s
  else
    let n := (s.functions.getD fnum .reset).doeRequests + 1
    trip ev (args ++ [n]) (updFunction s fnum fun x => { x with doe := [], doeRequests := n, doeBusy := true })

/-- The answer to request `n` of a mailbox, unless a later request has ended the exchange. -/
def answerDoe (s : State) (fnum n : Nat) (bs : List Byte) : State :=
  let x := s.functions.getD fnum .reset
  if x.doeBusy ∧ x.doeRequests = n then respond s fnum bs else s

/-- The entries of a discovery response: vendor, type, and the index of the next entry, 0 after the last (R433; entry 31). -/
def doeEntries (ts : List (BitVec 16 × BitVec 8)) : List Byte :=
  ((List.range ts.length).zip ts).flatMap fun e =>
    toBytes 2 e.2.1.toNat ++ [e.2.2] ++ toBytes 1 (if e.1 + 1 = ts.length then 0 else e.1 + 1)

/-- `DOE_DISCOVERY` (R433). -/
def execDoeDiscovery (s : State) : Host.Outcome State Fault Refusal :=
  match s.args with
  | [fnum] => .next (askDoe s fnum .doeDiscovery [fnum])
  | [fnum, n] => .next (answerDoe s fnum n (doeEntries Config.doeTypes))
  | _ => .next s

/-- `DOE_IDE_KM` (R433). -/
def execDoeIdeKm (fnum : Nat) (object : List (BitVec 8)) (s : State) : Host.Outcome State Fault Refusal :=
  match s.args with
  | [n] => .next (answerDoe s fnum n (Config.ideKmResponse object))
  | _ => .next (askDoe s fnum (.doeIdeKm fnum object) [])

/-- A partition's shape as a report gives it; its form in bytes is the model's (entry 31). -/
def shapeBytes : PartShape → List Byte
  | .rect die row col rows cols => [0, BitVec.ofNat 8 die, BitVec.ofNat 8 row, BitVec.ofNat 8 col, BitVec.ofNat 8 rows, BitVec.ofNat 8 cols]
  | .dies mask => [mask]

/-- The signed part of an attestation response: the report of R421 for a function's partition. -/
def attestationReport (s : State) (fnum : Nat) (nonce : List Byte) : List Byte :=
  let part := s.partitions.find? fun p => p.2.vfn == fnum
  let shape := (part.map fun q => shapeBytes q.2.shape).getD []
  let tags := ((part.map (·.2.tags)).getD []).flatMap fun t => toBytes 2 t.toNat
  toBytes 2 Config.moduleId.toNat ++ s.boot.versions.flatMap (toBytes 4) ++ s.boot.measure ++ nonce ++ shape ++ tags

/-- `DOE_ATTESTATION` (R433): the report and its signature of at most 1,280 bytes. A request whose nonce is not 64 bytes gets an empty
response. -/
def execDoeAttestation (fnum : Nat) (nonce : List (BitVec 8)) (s : State) : Host.Outcome State Fault Refusal :=
  let r := attestationReport s fnum nonce
  match s.args with
  | [n] => .next (answerDoe s fnum n (if nonce.length = 64 then r ++ (Config.falconSign r).take 1280 else []))
  | _ => .next (askDoe s fnum (.doeAttestation fnum nonce) [])

/-! ### Claom Link (R434, R435) -/

/-- `LINK_FLIT_RECEIVE` (R434). -/
def execLinkFlitReceive (port : Nat) (flit : LinkFlit) (s : State) : Host.Outcome State Fault Refusal :=
  let x := s.link port
  let nack : Host.Outcome State Fault Refusal := .next (s.setLink port { x with out := x.out ++ [controlFlit flit 3 x.expected] })
  if 16 ≤ port then .next s
  else if Config.crc32 (flitBody flit) ≠ flit.crc then nack
  else match flit.kind.toNat with
    | 1 =>
      if flit.seq ≠ x.expected then nack
      else .next (s.setLink port { x with
        expected := x.expected + 1, received := x.received ++ [flit], out := x.out ++ [controlFlit flit 2 flit.seq] })
    | 2 =>
      let keep := x.replay.filter fun e => decide (2 ^ 11 ≤ (flit.ackSeq - e.1.seq).toNat)
      .next (pumpLink (s.setLink port { x with replay := keep }) port)
    | 3 =>
      let keep := x.replay.filter fun e => decide ((e.1.seq - flit.ackSeq).toNat < 2 ^ 11)
      let again := keep.map fun e => (e.1, s.cyc)
      .next (pumpLink (armReplay (s.setLink port { x with replay := again, out := x.out ++ again.map (·.1) }) port
        (again.map (·.1.seq))) port)
    | _ => .next s

/-- `LINK_REPLAY_TIMEOUT` (R434): the oldest flit that is not acknowledged was sent 4,096 network cycles ago. -/
def execLinkReplayTimeout (s : State) : Host.Outcome State Fault Refusal :=
  match s.args with
  | [port, seq] =>
    let x := s.link port
    match x.replay with
    | (f, t) :: _ =>
      if f.seq.toNat = seq ∧ t + 2048 ≤ s.cyc then
        let again := x.replay.map fun e => (e.1, s.cyc)
        .next (armReplay (s.setLink port { x with replay := again, out := x.out ++ again.map (·.1) }) port (again.map (·.1.seq)))
      else .next s
    | [] => .next s
  | _ => .next s

/-- `ROUTE_TABLE_WRITE` (R435). -/
def execRouteTableWrite (mod : Nat) (mask : BitVec 16) (s : State) : Host.Outcome State Fault Refusal :=
  if 4096 ≤ mod then .next { s with refused := some .form } else .next { s with routes := s.routes.put 0 mod mask, refused := none }

/-! ### Windows (R54, R436, R437) -/

/-- Whether the grid of a window is legal for its size (R54). -/
def gridLegal (w : WindowEntry) : Bool :=
  gridTiles w ≤ 4096 && w.wsize.toNat % 64 == 0 && w.wsize.toNat % gridTiles w == 0 && w.wsize.toNat / gridTiles w % 64 == 0

/-- The entry of page `i` of a window on another module, at the virtual page where it is to stand: no thread instruction reaches it
(R311, R315; entry 51). -/
def peerEntry (ctag : Nat) (win : WindowEntry) (i page : Nat) : PageEntry where
  v := true
  r := true
  w := true
  xn := true
  size := 0
  tier := 3
  mg := false
  ptag := 0
  ctag := BitVec.ofNat 16 ctag
  vpn := BitVec.ofNat 39 page
  frame := BitVec.ofNat 47 i
  module := win.module

/-- The peer pages of a window written, page `i` at the virtual page that is number `i` of `pages`; none where one does not fit
(R311, R436). A window on the module itself has none. -/
def writePeers (s : State) (ctag : Nat) (win : WindowEntry) (pages : List Nat) : Option State :=
  if win.module = Config.moduleId then some s
  else ((List.range pages.length).zip pages).foldlM (fun s p =>
    let e := peerEntry ctag win p.1 p.2
    if p.1 * 2 ^ 17 < win.wsize.toNat ∧ p.2 < 2 ^ 39 ∧ entryFits s e then writePage s e else none) s

/-- `WINDOW_REGISTER` (R436, R437). The event's numbers are the virtual pages at which its peer pages are to stand. -/
def execWindowRegister (ctag n : Nat) (win : WindowEntry) (onFabricPlace : Bool) (s : State) :
    Host.Outcome State Fault Refusal :=
  let no : Host.Outcome State Fault Refusal := .next { s with refused := some .form }
  match s.contexts.get? ctag with
  | none => no
  | some c =>
    if 64 ≤ n ∨ c.windows.has n ∨ !onFabricPlace ∨ !gridLegal win ∨ s.routes.getD win.module.toNat 0 = 0 then no
    else match writePeers s ctag win s.args with
    | none => no
    | some s1 =>
      let w := { win with wv := true, tsize := BitVec.ofNat 40 (win.wsize.toNat / gridTiles win) }
      .next { s1 with
        contexts := s1.contexts.set ctag { c with windows := c.windows.set n w }
        counters := s1.counters.put .reset (64 * ctag + n) .reset
        refused := none }

end Sys2Proof.Machine
end

