-- ==== Sys2Proof/Machine/Box.lean ====
section
/-! DEFINITION. Intervals as values (R105 to R108), the forward and backward computations of the interval group (R187 to
R202) lane by lane, and three-valued logic (R205), without a machine. -/

namespace Sys2Proof.Machine

/-- A nonempty interval. Its bounds are no NaN; an infinite bound leaves that side unbounded (R106). -/
structure Box where
  lo : XVal
  hi : XVal
  deriving DecidableEq, Repr

/-- An interval; none is the empty one. -/
abbrev IVal := Option Box

namespace Box

def entire : Box := ⟨.inf true, .inf false⟩
def zero : Box := ⟨.zero false, .zero false⟩
/-- [0, +∞] -/
def nonneg : Box := ⟨.zero false, .inf false⟩

end Box

/-- Order of two bounds. -/
def bcmp (a b : XVal) : Ordering := (xcmp a b).getD .eq
def blt (a b : XVal) : Bool := bcmp a b == .lt
def ble (a b : XVal) : Bool := bcmp a b != .gt
def beqv (a b : XVal) : Bool := bcmp a b == .eq
def bmin (a b : XVal) : XVal := if ble a b then a else b
def bmax (a b : XVal) : XVal := if ble a b then b else a
def bneg (a : XVal) : XVal := a.negate
def bzero : XVal := .zero false
def badd (a b : XVal) : XVal := (xadd .rne a b).1
def bsub (a b : XVal) : XVal := badd a (bneg b)

/-- A bound rounded outward (R108). -/
def rlo (f : Fmt) (x : XVal) : XVal := f.decode (writeF f .rdn false (x, 0)).1
def rhi (f : Fmt) (x : XVal) : XVal := f.decode (writeF f .rup false (x, 0)).1

/-- An exact box rounded outward once. -/
def outward (f : Fmt) (b : Box) : Box := ⟨rlo f b.lo, rhi f b.hi⟩

/-- The encoding of a bound; a zero is written +0 (R106). -/
def boundBits (f : Fmt) (x : XVal) : Nat :=
  match x with
  | .zero _ => 0
  | y => (writeF f .rne false (y, 0)).1

/-! ### Lanes (R105 to R107) -/

namespace Lane

def lanes (t : Tag) : Nat := if t.toNat = 2 then 16 else 32
def fmt (t : Tag) : Fmt := if t.toNat = 2 then .f64 else .f32
/-- Width of one bound. -/
def bw (t : Tag) : Nat := if t.toNat = 2 then 64 else 32

end Lane

/-- A pair of bounds read as an interval, and whether it is ill-formed (R106, R107). -/
def readPair (f : Fmt) (lo hi : Nat) : IVal × Bool :=
  let l := f.decode lo
  let h := f.decode hi
  if l.isNan || h.isNan then (none, true)
  else if ble l h then
    if l == .inf false || h == .inf true then (none, true) else (some ⟨l, h⟩, false)
  else (none, !(l == .inf false && h == .inf true))

/-- The two encodings an interval is written as (R107). -/
def pairBits (f : Fmt) (x : IVal) : Nat × Nat :=
  match x with
  | none => (f.infBits false, f.infBits true)
  | some b => (boundBits f b.lo, boundBits f b.hi)

/-- An operand of an interval instruction: a register or a scalar point (R180). -/
inductive KSrc where
  | reg (w : Wide)
  | point (bits : Nat)
  deriving DecidableEq, Repr

/-- Lane `j` of an operand, and whether it is ill-formed (R180, R181). -/
def KSrc.read (t : Tag) (s : KSrc) (j : Nat) : IVal × Bool :=
  let f := Lane.fmt t
  match s with
  | .reg w => readPair f (wideBits w (2 * Lane.bw t * j) (Lane.bw t)) (wideBits w (2 * Lane.bw t * j + Lane.bw t) (Lane.bw t))
  | .point b =>
    let x := f.decode b
    if x.isNan || x.isInf then (none, true) else (some ⟨x, x⟩, false)

/-- A register from the encodings of its lanes. -/
def ofPairs (t : Tag) (l : List (Nat × Nat)) : Wide :=
  ofLanes (Lane.bw t) (l.flatMap fun p => [p.1, p.2])

/-- The two encodings in lane `j` of a register. -/
def rawPair (t : Tag) (w : Wide) (j : Nat) : Nat × Nat :=
  (wideBits w (2 * Lane.bw t * j) (Lane.bw t), wideBits w (2 * Lane.bw t * j + Lane.bw t) (Lane.bw t))

/-- A register whose enabled lanes are intervals and whose other lanes are kept. -/
def kMap (t : Tag) (mask : Word) (old : Wide) (f : Nat → IVal) : Wide :=
  ofPairs t ((List.range (Lane.lanes t)).map fun j =>
    if mask.getLsbD j then pairBits (Lane.fmt t) (f j) else rawPair t old j)

/-- Flags ORed over the enabled lanes. -/
def kFlags (t : Tag) (mask : Word) (f : Nat → Flags) : Flags :=
  (List.range (Lane.lanes t)).foldl (fun acc j => if mask.getLsbD j then acc ||| f j else acc) 0

/-! ### Forward computations on boxes (R187 to R190); each result is rounded outward once -/

/-- A product of bounds (R187). -/
def mulBd (a b : XVal) : XVal := if a.isZero || b.isZero then bzero else (xmul a b).1

/-- A quotient of bounds; none for two infinite ones (R187). The divisor is not zero. -/
def divBd (a b : XVal) : Option XVal :=
  if a.isInf && b.isInf then none else if b.isInf then some bzero else some (xdiv a b).1

/-- Minimum of a list of bounds. -/
def minOf : List XVal → XVal
  | [] => .inf false
  | x :: r => r.foldl bmin x
def maxOf : List XVal → XVal
  | [] => .inf true
  | x :: r => r.foldl bmax x

/-- The four corner products. -/
def corners (a b : Box) : List XVal := [mulBd a.lo b.lo, mulBd a.lo b.hi, mulBd a.hi b.lo, mulBd a.hi b.hi]

/-- Exact minimum and maximum of the corner products. -/
def mulExact (a b : Box) : Box := ⟨minOf (corners a b), maxOf (corners a b)⟩

def fwdAdd (f : Fmt) (a b : Box) : Box := outward f ⟨badd a.lo b.lo, badd a.hi b.hi⟩
def fwdSub (f : Fmt) (a b : Box) : Box := outward f ⟨bsub a.lo b.hi, bsub a.hi b.lo⟩
def fwdMul (f : Fmt) (a b : Box) : Box := outward f (mulExact a b)

def Box.hasZero (a : Box) : Bool := ble a.lo bzero && ble bzero a.hi
def Box.isZero (a : Box) : Bool := a.lo.isZero && a.hi.isZero

/-- A quotient of bounds rounded outward to one side. -/
def quoLo (f : Fmt) (a b : XVal) : XVal := match divBd a b with
  | some q => rlo f q
  | none => .inf true
def quoHi (f : Fmt) (a b : XVal) : XVal := match divBd a b with
  | some q => rhi f q
  | none => .inf false

/-- `kdiv` (R189). Corners are rounded before they are compared, which rounding, being monotone, does not show. -/
def fwdDiv (f : Fmt) (a b : Box) : IVal :=
  if !b.hasZero then
    let qs := [divBd a.lo b.lo, divBd a.lo b.hi, divBd a.hi b.lo, divBd a.hi b.hi].filterMap id
    some ⟨minOf (qs.map (rlo f)), maxOf (qs.map (rhi f))⟩
  else if b.isZero then none
  else if a.isZero then some Box.zero
  else if !b.lo.isZero && !b.hi.isZero then some Box.entire
  else if blt a.lo bzero && blt bzero a.hi then some Box.entire
  else
    let nonneg := ble bzero a.lo
    if b.lo.isZero then
      some (if nonneg then ⟨quoLo f a.lo b.hi, .inf false⟩ else ⟨.inf true, quoHi f a.hi b.hi⟩)
    else
      some (if nonneg then ⟨.inf true, quoHi f a.lo b.lo⟩ else ⟨quoLo f a.hi b.lo, .inf false⟩)

def fwdFma (f : Fmt) (a b c : Box) : Box :=
  let m := mulExact a b
  outward f ⟨badd m.lo c.lo, badd m.hi c.hi⟩

def fwdNeg (a : Box) : Box := ⟨bneg a.hi, bneg a.lo⟩

def fwdAbs (a : Box) : Box :=
  if ble bzero a.lo then a
  else if ble a.hi bzero then fwdNeg a
  else ⟨bzero, bmax (bneg a.lo) a.hi⟩

def fwdSqr (f : Fmt) (a : Box) : Box :=
  let m := fwdAbs a
  outward f ⟨mulBd m.lo m.lo, mulBd m.hi m.hi⟩

/-- Exact intersection. -/
def cap (a b : Box) : IVal :=
  let lo := bmax a.lo b.lo
  let hi := bmin a.hi b.hi
  if ble lo hi then some ⟨lo, hi⟩ else none

def capI (a b : IVal) : IVal :=
  match a, b with
  | some x, some y => cap x y
  | _, _ => none

/-- The smallest interval that holds both (R195). -/
def hull (a b : IVal) : IVal :=
  match a, b with
  | some x, some y => some ⟨bmin x.lo y.lo, bmax x.hi y.hi⟩
  | some x, none => some x
  | none, y => y

/-- Square roots of the bounds of a box at or above zero. -/
def sqrtBox (f : Fmt) (x : Box) : Box := ⟨rlo f (xsqrt (bmax bzero x.lo)).1, rhi f (xsqrt x.hi).1⟩

def fwdSqrt (f : Fmt) (a : Box) : IVal := (cap a Box.nonneg).map (sqrtBox f)

/-- `e^x` of a bound (R188). -/
def expBd (x : XVal) : XVal :=
  match x with
  | .inf true => bzero
  | .num y => .num y.exp
  | .zero _ => .num ⟨false, 1, 0, false⟩
  | y => y

def fwdExp (f : Fmt) (a : Box) : Box := ⟨rlo f (expBd a.lo), rhi f (expBd a.hi)⟩

/-- `ln x` of a bound; −∞ at or below zero. -/
def lnBd (x : XVal) : XVal :=
  match x with
  | .num y =>
    if y.neg then .inf true
    else if y.cmp ⟨false, 1, 0, false⟩ == .eq then bzero
    else .num y.ln
  | .inf false => .inf false
  | _ => .inf true

def fwdLog (f : Fmt) (a : Box) : IVal :=
  if ble a.hi bzero then none else some ⟨rlo f (lnBd a.lo), rhi f (lnBd a.hi)⟩

def fwdRelu (a : Box) : Box := ⟨bmax a.lo bzero, bmax a.hi bzero⟩
def fwdMax (a b : Box) : Box := ⟨bmax a.lo b.lo, bmax a.hi b.hi⟩
def fwdMin (a b : Box) : Box := ⟨bmin a.lo b.lo, bmin a.hi b.hi⟩

/-! ### Backward computations on boxes (R191 to R193) -/

/-- Relational division (R192). -/
def rdiv (f : Fmt) (z y : Box) : IVal := if z.hasZero && y.hasZero then some Box.entire else fwdDiv f z y

/-- A narrowed pair: both empty when either is (R191). -/
def bothOrNone (a b : IVal) : IVal × IVal :=
  match a, b with
  | some x, some y => (some x, some y)
  | _, _ => (none, none)

/-- A' and then B' from A'. -/
def narrow2 (a b : Box) (fa : IVal) (fb : Box → IVal) : IVal × IVal :=
  match capI (some a) fa with
  | none => (none, none)
  | some a' => bothOrNone (some a') (capI (some b) (fb a'))

def bwdAdd (f : Fmt) (d a b _c : Box) : IVal × IVal :=
  narrow2 a b (some (fwdSub f d b)) fun a' => some (fwdSub f d a')
def bwdSub (f : Fmt) (d a b _c : Box) : IVal × IVal :=
  narrow2 a b (some (fwdAdd f d b)) fun a' => some (fwdSub f a' d)
def bwdMul (f : Fmt) (d a b _c : Box) : IVal × IVal :=
  narrow2 a b (rdiv f d b) fun a' => rdiv f d a'

/-- The closing test of `kdiv.b` removes a divisor that could only be zero (R193). -/
def bwdDiv (f : Fmt) (d a b _c : Box) : IVal × IVal :=
  match narrow2 a b (some (fwdMul f d b)) fun a' => rdiv f a' d with
  | (some a', some b') => if b'.isZero then (none, none) else (some a', some b')
  | r => r

def bwdFma (f : Fmt) (d a b c : Box) : IVal × IVal :=
  let t := fwdSub f d c
  narrow2 a b (rdiv f t b) fun a' => rdiv f t a'

/-- The set of `±` a nonnegative box, met with A. -/
def bothSigns (a : Box) (p : IVal) : IVal :=
  match p with
  | none => none
  | some q => hull (cap a q) (cap a (fwdNeg q))

def bwdNeg (_f : Fmt) (d a : Box) : IVal := cap a (fwdNeg d)
def bwdAbs (_f : Fmt) (d a : Box) : IVal := bothSigns a (cap d Box.nonneg)
def bwdSqr (f : Fmt) (d a : Box) : IVal := bothSigns a ((cap d Box.nonneg).map (sqrtBox f))
def bwdSqrt (f : Fmt) (d a : Box) : IVal :=
  capI (cap a Box.nonneg) ((cap d Box.nonneg).map (fwdSqr f))
def bwdExp (f : Fmt) (d a : Box) : IVal :=
  match cap d Box.nonneg with
  | none => none
  | some p => if p.hi.isZero then none else cap a ⟨rlo f (lnBd p.lo), rhi f (lnBd p.hi)⟩
def bwdLog (f : Fmt) (d a : Box) : IVal := cap a (fwdExp f d)
def bwdRelu (_f : Fmt) (d a : Box) : IVal :=
  if blt d.hi bzero then none
  else if blt bzero d.lo then cap a d
  else cap a ⟨.inf true, d.hi⟩

def bwdMax (_f : Fmt) (d a b _c : Box) : IVal × IVal :=
  let side (x other : Box) : IVal :=
    let y := cap x ⟨.inf true, d.hi⟩
    if blt other.hi d.lo then capI y (some d) else y
  match side a b with
  | none => (none, none)
  | some a' => bothOrNone (some a') (side b a')

def bwdMin (_f : Fmt) (d a b _c : Box) : IVal × IVal :=
  let side (x other : Box) : IVal :=
    let y := cap x ⟨d.lo, .inf false⟩
    if blt d.hi other.lo then capI y (some d) else y
  match side a b with
  | none => (none, none)
  | some a' => bothOrNone (some a') (side b a')

/-- `kscale.b`: only A is narrowed. -/
def bwdScale (f : Fmt) (d a b _c : Box) : IVal × IVal := (capI (some a) (rdiv f d b), some b)

/-- A one-operand backward form. -/
def bwd1 (g : Fmt → Box → Box → IVal) (f : Fmt) (d a _b _c : Box) : IVal × IVal := (g f d a, some a)

/-- Narrowing progress (R184). -/
def progress (old new : IVal) (npth : Nat) : Bool :=
  match old, new with
  | none, _ => false
  | some _, none => true
  | some o, some n =>
    if beqv n.lo o.lo && beqv n.hi o.hi then false
    else if npth = 0 then true
    else if (o.lo.isInf && !n.lo.isInf) || (o.hi.isInf && !n.hi.isInf) then true
    else if o.lo.isInf || o.hi.isInf then false
    else
      let wo := bsub o.hi o.lo
      let wn := bsub n.hi n.lo
      let part : XVal := match wo with
        | .num x => .num { x with e := x.e - npth }
        | y => y
      ble part (bsub wo wn)

/-! ### Instructions on registers -/

/-- A forward form of one interval (R188). -/
def kFwd1 (t : Tag) (mask : Word) (old : Wide) (a : KSrc) (g : Fmt → Box → IVal) : Wide × Flags :=
  let f := Lane.fmt t
  let r (j : Nat) : IVal := (a.read t j).1.bind (g f)
  (kMap t mask old r, kFlags t mask fun j => flagIf (a.read t j).2 Flags.iv ||| flagIf (r j).isNone Flags.em)

/-- A forward form of two intervals. -/
def kFwd2 (t : Tag) (mask : Word) (old : Wide) (a b : KSrc) (g : Fmt → Box → Box → IVal) : Wide × Flags :=
  let f := Lane.fmt t
  let r (j : Nat) : IVal := (a.read t j).1.bind fun x => (b.read t j).1.bind fun y => g f x y
  (kMap t mask old r,
   kFlags t mask fun j => flagIf ((a.read t j).2 || (b.read t j).2) Flags.iv ||| flagIf (r j).isNone Flags.em)

/-- `kfma.f` with its companion C (R190). -/
def kFwd3 (t : Tag) (mask : Word) (old : Wide) (a b c : KSrc) : Wide × Flags :=
  let f := Lane.fmt t
  let r (j : Nat) : IVal :=
    (a.read t j).1.bind fun x => (b.read t j).1.bind fun y => (c.read t j).1.map fun z => fwdFma f x y z
  (kMap t mask old r,
   kFlags t mask fun j =>
     flagIf ((a.read t j).2 || (b.read t j).2 || (c.read t j).2) Flags.iv ||| flagIf (r j).isNone Flags.em)

/-- A backward form (R191): the narrowed A and B, and the flags. `wb` says that B is written; `c` is the companion of
`kfma.b`. Absent operands are read as entire. -/
def kBwd (t : Tag) (mask : Word) (npth : Nat) (d a : KSrc) (aOld : Wide) (b c : Option KSrc) (bOld : Wide) (wb : Bool)
    (g : Fmt → Box → Box → Box → Box → IVal × IVal) : Wide × Wide × Flags :=
  let f := Lane.fmt t
  let opt (s : Option KSrc) (j : Nat) : IVal × Bool := match s with
    | some x => x.read t j
    | none => (some Box.entire, false)
  let r (j : Nat) : IVal × IVal :=
    match (d.read t j).1, (a.read t j).1, (opt b j).1, (opt c j).1 with
    | some dd, some x, some y, some z => g f dd x y z
    | _, _, _, _ => (none, none)
  let fl (j : Nat) : Flags :=
    let (a', b') := r j
    flagIf ((d.read t j).2 || (a.read t j).2 || (opt b j).2 || (opt c j).2) Flags.iv
      ||| flagIf (a'.isNone || (wb && b'.isNone)) Flags.em
      ||| flagIf (progress (a.read t j).1 a' npth || (wb && progress (opt b j).1 b' npth)) Flags.np
  (kMap t mask aOld fun j => (r j).1, kMap t mask bOld fun j => (r j).2, kFlags t mask fl)

/-- Enabled lanes in ascending order. -/
def lanesOn (t : Tag) (mask : Word) : List Nat := (List.range (Lane.lanes t)).filter fun j => mask.getLsbD j

/-- The exact sum over lanes of the corner products, rounded outward once; empty when any lane is (R190). -/
def macSum (t : Tag) (a b : KSrc) (js : List Nat) : IVal :=
  let parts := js.map fun j => (a.read t j).1.bind fun x => (b.read t j).1.map fun y => mulExact x y
  if parts.any Option.isNone then none
  else
    let bs := parts.filterMap id
    some (outward (Lane.fmt t) ⟨bs.foldl (fun s x => badd s x.lo) bzero, bs.foldl (fun s x => badd s x.hi) bzero⟩)

/-- `kmac.f` (R190): the new D, or none when mask bit 0 is clear, and the flags. -/
def kMacF (t : Tag) (mask : Word) (old : Wide) (a b : KSrc) : Option Wide × Flags :=
  let js := lanesOn t mask
  let ill := kFlags t mask fun j => flagIf ((a.read t j).2 || (b.read t j).2) Flags.iv
  let s := macSum t a b js
  if mask.getLsbD 0 then (some (kMap t 1 old fun _ => s), ill ||| flagIf s.isNone Flags.em) else (none, ill)

/-- `kmac.b` (R194). -/
def kMacB (t : Tag) (mask : Word) (npth : Nat) (d a b : KSrc) (aOld bOld : Wide) : Wide × Wide × Flags :=
  let f := Lane.fmt t
  let js := lanesOn t mask
  let tgt := d.read t 0
  let one (i : Nat) : IVal × IVal :=
    match tgt.1, macSum t a b (js.filter fun l => l != i), (a.read t i).1, (b.read t i).1 with
    | some tv, some rest, some x, some y =>
      let u := fwdSub f tv rest
      match capI (some x) (rdiv f u y) with
      | none => (none, none)
      | some x' => (some x', capI (some y) (rdiv f u x'))
    | _, _, _, _ => (none, none)
  let rs := js.map fun i => (i, one i)
  let dead := tgt.1.isNone || rs.any fun r => r.2.1.isNone || r.2.2.isNone
  let r (j : Nat) : IVal × IVal :=
    if dead then (none, none) else match rs.find? fun q => q.1 == j with
      | some q => q.2
      | none => (none, none)
  let fl := kFlags t mask fun j =>
    flagIf ((a.read t j).2 || (b.read t j).2) Flags.iv
      ||| flagIf ((r j).1.isNone || (r j).2.isNone) Flags.em
      ||| flagIf (progress (a.read t j).1 (r j).1 npth || progress (b.read t j).1 (r j).2 npth) Flags.np
  (kMap t mask aOld fun j => (r j).1, kMap t mask bOld fun j => (r j).2, fl ||| flagIf tgt.2 Flags.iv)

/-! ### Bounds out of intervals (R197, R198) -/

/-- The midpoint, as an encoding; the canonical NaN of an empty lane. -/
def midBits (f : Fmt) (x : IVal) : Nat :=
  match x with
  | none => f.nanBits
  | some b =>
    match b.lo.isInf, b.hi.isInf with
    | true, true => 0
    | true, false => f.maxBits true
    | false, true => f.maxBits false
    | false, false => match badd b.lo b.hi with
      | .num s => boundBits f (f.decode (roundEx f .rne false { s with e := s.e - 1 }).1)
      | _ => 0

/-- The width, rounded up. -/
def widBits (f : Fmt) (x : IVal) : Nat :=
  match x with
  | none => f.nanBits
  | some b =>
    if b.lo.isInf || b.hi.isInf then f.infBits false
    else match bsub b.hi b.lo with
      | .num s => (roundEx f .rup false s).1
      | _ => 0

/-- The two halves of a lane (R198). -/
def splitLane (f : Fmt) (x : IVal) : IVal × IVal :=
  match x with
  | none => (none, none)
  | some b => let m := f.decode (midBits f (some b)); (some ⟨b.lo, m⟩, some ⟨m, b.hi⟩)

/-! ### Three values (R70, R205) -/

/-- A lane of an m register. -/
inductive Tri where
  | false | unknown | true
  deriving DecidableEq, Repr

/-- A lane's two bits; 0b11 is read as UNKNOWN (R70). -/
def Tri.ofBits (n : Nat) : Tri := match n % 4 with
  | 0 => .false | 1 => .true | _ => .unknown

def Tri.bits : Tri → Nat
  | .false => 0 | .true => 1 | .unknown => 2

def Tri.not : Tri → Tri
  | .false => .true | .true => .false | .unknown => .unknown
def Tri.and : Tri → Tri → Tri
  | .false, _ => .false
  | _, .false => .false
  | .true, .true => .true
  | _, _ => .unknown
def Tri.or (a b : Tri) : Tri := (Tri.and a.not b.not).not
def Tri.eqv : Tri → Tri → Tri
  | .unknown, _ => .unknown
  | _, .unknown => .unknown
  | a, b => if a = b then .true else .false

/-- Lane `j` of an m register. -/
def triLane (m : BitVec 128) (j : Nat) : Tri := Tri.ofBits (bitsAt m.toNat (2 * j) 2)

/-- An m register with lanes `j < n` that satisfy `on` replaced. -/
def triMap (n : Nat) (on : Nat → Bool) (old : BitVec 128) (f : Nat → Tri) : BitVec 128 :=
  BitVec.ofNat 128 ((List.range 64).foldr (fun j acc =>
    (if j < n && on j then (f j).bits else bitsAt old.toNat (2 * j) 2) + 4 * acc) 0)

/-- `kcmp.f` on one lane (R200). -/
def cmpBox (c : Cond) (a b : Box) : Tri :=
  let pt := beqv a.lo a.hi && beqv b.lo b.hi && beqv a.lo b.lo
  let apart := (cap a b).isNone
  let pick (yes no : Bool) : Tri := if yes then .true else if no then .false else .unknown
  match c with
  | .eq => pick pt apart
  | .ne => pick apart pt
  | .lt => pick (blt a.hi b.lo) (ble b.hi a.lo)
  | .le => pick (ble a.hi b.lo) (blt b.hi a.lo)
  | .gt => pick (blt b.hi a.lo) (ble a.hi b.lo)
  | .ge => pick (ble b.hi a.lo) (blt a.hi b.lo)
  | .uo | .ord => .unknown

/-- The negation of a relation (R201). -/
def Cond.negate : Cond → Cond
  | .eq => .ne | .ne => .eq | .lt => .ge | .ge => .lt | .le => .gt | .gt => .le | .uo => .uo | .ord => .ord

/-- A relation enforced on two boxes (R201). -/
def enforce (c : Cond) (a b : Box) : IVal × IVal :=
  let below : IVal × IVal := narrow2 a b (some ⟨.inf true, b.hi⟩) fun a' => some ⟨a'.lo, .inf false⟩
  let above : IVal × IVal := narrow2 a b (some ⟨b.lo, .inf false⟩) fun a' => some ⟨.inf true, a'.hi⟩
  match c with
  | .lt => if ble b.hi a.lo then (none, none) else below
  | .le => if blt b.hi a.lo then (none, none) else below
  | .gt => if ble a.hi b.lo then (none, none) else above
  | .ge => if blt a.hi b.lo then (none, none) else above
  | .eq => (cap a b, cap a b)
  | .ne => if beqv a.lo a.hi && beqv b.lo b.hi && beqv a.lo b.lo then (none, none) else (some a, some b)
  | .uo | .ord => (some a, some b)

end Sys2Proof.Machine
end

