-- ==== Sys2Proof/Machine/Vector.lean ====
section
/-! DEFINITION. Vector instructions that compute and move elements (R148 to R172). -/

namespace Sys2Proof.Machine

/-! ### Operands and destinations (R148 to R152) -/

/-- An operand in a V or S position (R150). -/
def Iss.src (x : Iss) (stage : Nat) (o : Opnd) : Except Stop (Src × Iss) :=
  match o with
  | .imm v => .ok (.number v.toInt, x)
  | _ =>
    if Iss.isWide o then do
      let (v, x) ← x.vec stage o
      pure (.vec v.data v.tag, x)
    else do
      let (v, x) ← x.int stage o
      pure (.scalar v, x)

/-- The bits of a register that a mask enables, for a destination of a tag (R99, R102, R152). The pad bits of a BFP register are
written with a block, and stay where neither is (entry 45). -/
def enabledBits (t : Tag) (mask : Word) : Wide :=
  if t.isBfp then
    let m := t.mant
    let one (b : Nat) : Wide := if mask.getLsbD (32 * b) then
        setBits (setBits 0 (32 * m * b) (32 * m) (2 ^ (32 * m) - 1)) (2032 + 8 * b) 8 255
      else 0
    let both := one 0 ||| one 1
    if both = 0 then 0 else setBits both (64 * m) (2032 - 64 * m) (2 ^ (2032 - 64 * m) - 1)
  else if t.bits = 64 then ofLanes 64 ((List.range 32).map fun j => if mask.getLsbD j then 2 ^ 64 - 1 else 0)
  else ofLanes 32 ((List.range 64).map fun j => if mask.getLsbD j then 2 ^ 32 - 1 else 0)

/-- What D holds before: zero for a pushed result (R149). -/
def Iss.oldWide (x : Iss) (d : Opnd) : Wide :=
  match d with
  | .v n => (x.s.wfile.getD (wKey x.core (x.vEntry n.val)) .zero).data
  | .k n => (x.s.wfile.getD (wKey x.core (x.kEntry n.val)) .zero).data
  | _ => 0

/-- A value written into D under the mask; the tag is written whole (R152). -/
def Iss.setMasked (x : Iss) (d : Opnd) (t : Tag) (w : Wide) : Iss :=
  let m := enabledBits t x.mask
  x.setVec d ⟨(written t w &&& m) ||| (x.oldWide d &&& ~~~m), t⟩

/-- Cycles of the unit (R155): `base`, doubled for 64-bit formats. -/
def unitCycles (base : Nat) (wide : Bool) : Nat := if wide then 2 * base else base

/-- No further check. -/
def noMore (_ : BitVec 4) : Except Stop Unit := .ok ()

def anyTag (_ : BitVec 4) : Bool := true

/-- The operand that gives the format (R151). -/
def fmtUse (d a b : Opnd) : Iss.TagUse :=
  if Iss.isWide a then ⟨1, a, 0, anyTag⟩
  else if Iss.isWide b then ⟨2, b, Iss.popsBefore [a] b, anyTag⟩
  else ⟨0, d, Iss.popsBefore [a, b] d, anyTag⟩

/-- The checks of an entry whose operands all carry one format (R151). -/
def Iss.oneFormat (x : Iss) (d a b : Opnd) (readsD : Bool) (set : BitVec 4 → Bool) : Except Stop (BitVec 4) :=
  let us := Iss.tagUses d a b readsD set set set
  x.formats (if readsD then [a, b, d] else [a, b]) [d] us (some (fmtUse d a b)) (us.filter fun u => u.field != 1) noMore

/-- An instruction that computes D element by element from A, B and, where `readsD` says so, the old D. -/
def lanewise (i : Instr) (d a b : Opnd) (readsD : Bool) (set : BitVec 4 → Bool) (base : Nat) (s : State)
    (f : BitVec 32 → Tag → Nat → Nat → Nat → Nat × Flags) : Host.Outcome State Fault Refusal :=
  issue i s fun x => do
    let t ← x.oneFormat d a b readsD set
    let x ← x.claim (unitCycles base (Tag.wide t))
    let (va, x) ← x.src 1 a
    let (vb, x) ← x.src 2 b
    let (vd, x) ← if readsD then x.vec 3 d else pure (.zero, x)
    let r := elemMap t x.mask (x.oldWide d) fun j =>
      f x.th.status t (va.elem t j) (vb.elem t j) (lane (Tag.bits t) vd.data j)
    pure ((x.raise r.2).setVec d ⟨r.1, t⟩)

/-! ### Arithmetic (R156 to R158) -/

/-- `vadd` (R156). -/
def execVadd (c : Ctl) (rnd : Rnd) (sat : Bool) (d a b : Opnd) (s : State) : Host.Outcome State Fault Refusal :=
  lanewise (.vadd c rnd sat d a b) d a b false Tag.isNum 1 s fun st t x y z => numElem opAdd t (roundOf st rnd) sat x y z

/-- `vsub` (R156). -/
def execVsub (c : Ctl) (rnd : Rnd) (sat : Bool) (d a b : Opnd) (s : State) : Host.Outcome State Fault Refusal :=
  lanewise (.vsub c rnd sat d a b) d a b false Tag.isNum 1 s fun st t x y z => numElem opSub t (roundOf st rnd) sat x y z

/-- `vmul` (R156). -/
def execVmul (c : Ctl) (rnd : Rnd) (sat : Bool) (d a b : Opnd) (s : State) : Host.Outcome State Fault Refusal :=
  lanewise (.vmul c rnd sat d a b) d a b false Tag.isNum 1 s fun st t x y z => numElem opMul t (roundOf st rnd) sat x y z

/-- `vfma` (R156): it reads D. -/
def execVfma (c : Ctl) (rnd : Rnd) (sat : Bool) (d a b : Opnd) (s : State) : Host.Outcome State Fault Refusal :=
  lanewise (.vfma c rnd sat d a b) d a b true Tag.isNum 1 s fun st t x y z => numElem opFma t (roundOf st rnd) sat x y z

/-- `vmin` (R157). -/
def execVmin (c : Ctl) (d a b : Opnd) (s : State) : Host.Outcome State Fault Refusal :=
  lanewise (.vmin c d a b) d a b false Tag.isNum 1 s fun _ t x y _ => minmaxElem false t x y

/-- `vmax` (R157). -/
def execVmax (c : Ctl) (d a b : Opnd) (s : State) : Host.Outcome State Fault Refusal :=
  lanewise (.vmax c d a b) d a b false Tag.isNum 1 s fun _ t x y _ => minmaxElem true t x y

/-- `vabs` (R157). -/
def execVabs (c : Ctl) (sat : Bool) (d a : Opnd) (s : State) : Host.Outcome State Fault Refusal :=
  lanewise (.vabs c sat d a) d a .none false Tag.isNum 1 s fun _ t x _ _ => signElem false t sat x

/-- `vneg` (R157). -/
def execVneg (c : Ctl) (sat : Bool) (d a : Opnd) (s : State) : Host.Outcome State Fault Refusal :=
  lanewise (.vneg c sat d a) d a .none false Tag.isNum 1 s fun _ t x _ _ => signElem true t sat x

/-- `vrcp` (R158). -/
def execVrcp (c : Ctl) (rnd : Rnd) (sat : Bool) (d a : Opnd) (s : State) : Host.Outcome State Fault Refusal :=
  lanewise (.vrcp c rnd sat d a) d a .none false Tag.isFlt 4 s fun st t x _ _ => fltElem1 xrcp t (roundOf st rnd) sat x

/-- `vrsqrt` (R158). -/
def execVrsqrt (c : Ctl) (rnd : Rnd) (sat : Bool) (d a : Opnd) (s : State) : Host.Outcome State Fault Refusal :=
  lanewise (.vrsqrt c rnd sat d a) d a .none false Tag.isFlt 4 s fun st t x _ _ => fltElem1 xrsqrt t (roundOf st rnd) sat x

/-- `vexp2` (R158). -/
def execVexp2 (c : Ctl) (rnd : Rnd) (sat : Bool) (d a : Opnd) (s : State) : Host.Outcome State Fault Refusal :=
  lanewise (.vexp2 c rnd sat d a) d a .none false Tag.isFlt 4 s fun st t x _ _ => fltElem1 xexp2 t (roundOf st rnd) sat x

/-- `vlog2` (R158). -/
def execVlog2 (c : Ctl) (rnd : Rnd) (sat : Bool) (d a : Opnd) (s : State) : Host.Outcome State Fault Refusal :=
  lanewise (.vlog2 c rnd sat d a) d a .none false Tag.isFlt 4 s fun st t x _ _ => fltElem1 xlog2 t (roundOf st rnd) sat x

/-- `vdiv` (R158). -/
def execVdiv (c : Ctl) (rnd : Rnd) (sat : Bool) (d a b : Opnd) (s : State) : Host.Outcome State Fault Refusal :=
  lanewise (.vdiv c rnd sat d a b) d a b false Tag.isFlt 4 s fun st t x y _ =>
    fop2 (fun _ => xdiv) t.fmt (roundOf st rnd) sat x y

/-- `vsqrt` (R158). -/
def execVsqrt (c : Ctl) (rnd : Rnd) (sat : Bool) (d a : Opnd) (s : State) : Host.Outcome State Fault Refusal :=
  lanewise (.vsqrt c rnd sat d a) d a .none false Tag.isFlt 4 s fun st t x _ _ => fltElem1 xsqrt t (roundOf st rnd) sat x

/-! ### Logic and shifts (R159) -/

/-- `vand` (R159). -/
def execVand (c : Ctl) (d a b : Opnd) (s : State) : Host.Outcome State Fault Refusal :=
  lanewise (.vand c d a b) d a b false Tag.isBit 1 s fun _ _ x y _ => (x &&& y, 0)

/-- `vor` (R159). -/
def execVor (c : Ctl) (d a b : Opnd) (s : State) : Host.Outcome State Fault Refusal :=
  lanewise (.vor c d a b) d a b false Tag.isBit 1 s fun _ _ x y _ => (x ||| y, 0)

/-- `vxor` (R159). -/
def execVxor (c : Ctl) (d a b : Opnd) (s : State) : Host.Outcome State Fault Refusal :=
  lanewise (.vxor c d a b) d a b false Tag.isBit 1 s fun _ _ x y _ => (x ^^^ y, 0)

/-- `vshl` (R159). -/
def execVshl (c : Ctl) (d a b : Opnd) (s : State) : Host.Outcome State Fault Refusal :=
  lanewise (.vshl c d a b) d a b false Tag.isInt 1 s fun _ t x y _ => (shlN t.bits x y, 0)

/-- `vshr` (R159): arithmetic where `ar` says so. -/
def execVshr (c : Ctl) (ar : Bool) (d a b : Opnd) (s : State) : Host.Outcome State Fault Refusal :=
  lanewise (.vshr c ar d a b) d a b false Tag.isInt 1 s fun _ t x y _ => (if ar then sarN t.bits x y else shrN t.bits x y, 0)

/-! ### Compare, select and clamp (R160 to R162) -/

/-- `vcmp` (R160). -/
def execVcmp (c : Ctl) (cond : Cond) (d a b : Opnd) (s : State) : Host.Outcome State Fault Refusal :=
  issue (.vcmp c cond d a b) s fun x => do
    let t ← x.oneFormat d a b false Tag.isNum
    let x ← x.claim (unitCycles 1 (Tag.wide t))
    let (va, x) ← x.src 1 a
    let (vb, x) ← x.src 2 b
    let r (j : Nat) : Bool × Flags := cmpElem cond t (va.elem t j) (vb.elem t j)
    match d with
    | .p n =>
      let rs := (List.range (Tag.count t)).map fun j => if elemOn t x.mask j then r j else (false, 0)
      let fl := rs.foldl (fun acc q => acc ||| q.2) 0
      pure ((x.raise fl).writeP n (cmpPred t x.mask (Iss.predOf x.th n) fun j => (rs.getD j (false, 0)).1))
    | _ =>
      let q := elemMap t x.mask (x.oldWide d) fun j => (if (r j).1 then 2 ^ Tag.bits t - 1 else 0, (r j).2)
      pure ((x.raise q.2).setVec d ⟨q.1, Tag.intTag t⟩)

/-- `vsel` (R161). -/
def execVsel (c : Ctl) (n : BitVec 3) (d a b : Opnd) (s : State) : Host.Outcome State Fault Refusal :=
  issue (.vsel c n d a b) s fun x => do
    let t ← x.oneFormat d a b false Tag.isBit
    let x ← x.claim (unitCycles 1 (Tag.wide t))
    let (va, x) ← x.src 1 a
    let (vb, x) ← x.src 2 b
    let p := Iss.predOf x.th n.toFin
    let r := elemMap t x.mask (x.oldWide d) fun j => (if elemOn t p j then va.elem t j else vb.elem t j, 0)
    pure (x.setVec d ⟨r.1, t⟩)

/-- `vclamp` (R162): it reads D. -/
def execVclamp (c : Ctl) (d a b : Opnd) (s : State) : Host.Outcome State Fault Refusal :=
  lanewise (.vclamp c d a b) d a b true Tag.isNum 1 s fun _ t x y z =>
    let m := minmaxElem true t z x
    let r := minmaxElem false t m.1 y
    (r.1, m.2 ||| r.2)

/-! ### Conversions (R163 to R165) -/

/-- One element converted from tag `s` to tag `t` (R98, R163). -/
def cvtElem (s t : Tag) (mode : RMode) (sat : Bool) (a : Nat) : Nat × Flags :=
  if s.isFlt then
    let v := s.fmt.decode a
    if t.isFlt then toFloat t.fmt mode sat v else toInteger mode false t.bits v
  else
    let v := toSigned s.bits a
    if t.isFlt then ofInteger t.fmt mode sat v else (fitInt sat false t.bits v, 0)

/-- Element `i` of D takes element `j` of A, where `pick` names it; the other elements keep their old bits. -/
def convert (i : Instr) (d a : Opnd) (t : Tag) (set : BitVec 4 → Bool) (parts : Tag → Nat) (part : BitVec 2) (s : State)
    (pick : Tag → Nat → Option Nat) (f : BitVec 32 → Tag → Wide → Nat → Nat × Flags) : Host.Outcome State Fault Refusal :=
  issue i s fun x => do
    let us := Iss.tagUses d a .none false anyTag set anyTag
    let ta ← x.formats [a, d] [d] us (some ⟨1, a, 0, anyTag⟩) [] fun u =>
      if part.toNat < parts u then .ok () else .error (.trap (eFormat 1 u.toNat) none)
    let x ← x.claim (unitCycles 1 (Tag.wide ta || Tag.wide t))
    let (va, x) ← x.vec 1 a
    let (vd, x) ← x.vec 3 d
    let r := laneMap t.bits (fun _ => true) 0 fun j =>
      if elemOn t x.mask j then match pick ta j with
        | some q => f x.th.status ta va.data q
        | none => (lane t.bits vd.data j, 0)
      else (lane t.bits (x.oldWide d) j, 0)
    pure ((x.raise r.2).setVec d ⟨r.1, t⟩)

/-- `vcvt` (R163). -/
def execVcvt (c : Ctl) (tag : BitVec 4) (rnd : Rnd) (sat : Bool) (part : BitVec 2) (d a : Opnd) (s : State) :
    Host.Outcome State Fault Refusal :=
  let p := part.toNat
  let nd := Tag.count tag
  convert (.vcvt c tag rnd sat part d a) d a tag Tag.isNum
    (fun u => max (Tag.count u / nd) (nd / Tag.count u)) part s
    (fun u j => if nd ≤ Tag.count u then some (p * nd + j)
      else if p * Tag.count u ≤ j ∧ j < p * Tag.count u + Tag.count u then some (j - p * Tag.count u) else none)
    fun st u w j => cvtElem u tag (roundOf st rnd) sat (lane (Tag.bits u) w j)

/-- `vunbfp` (R165). -/
def execVunbfp (c : Ctl) (tag : BitVec 4) (rnd : Rnd) (sat : Bool) (part : BitVec 2) (d a : Opnd) (s : State) :
    Host.Outcome State Fault Refusal :=
  let p := part.toNat
  convert (.vunbfp c tag rnd sat part d a) d a tag Tag.isBfp (fun _ => if tag = 7 then 1 else 2) part s
    (fun _ j => match Tag.bits tag with
      | 32 => some j
      | 64 => some (32 * p + j)
      | _ => if 64 * p ≤ j ∧ j < 64 * p + 64 then some (j - 64 * p) else none)
    fun st u w j => toFloat (Tag.fmt tag) (roundOf st rnd) sat
      (bfpVal (Tag.mant u) (blockExp w (j / 32)) (lane (Tag.mant u) w j))

/-- The first element of A that goes into block `b` (R164); none where the block is left. -/
def blockSource (t : Tag) (p b : Nat) : Option Nat :=
  match t.bits with
  | 32 => some (32 * b)
  | 64 => if b = p then some 0 else none
  | _ => some (64 * p + 32 * b)

/-- One block packed (R103, R164), where the mask enables it. -/
def packBlock (m : Nat) (mode : RMode) (t : Tag) (p : Nat) (mask : Word) (a : Wide) (b : Nat) (r : Wide × Flags) : Wide × Flags :=
  match blockSource t p b with
  | some e =>
    if mask.getLsbD (32 * b) then
      let (ex, ms, fl) := toBfp m mode ((List.range 32).map fun j => t.fmt.decode (lane t.bits a (e + j)))
      (setBlock m b r.1 ex ms, r.2 ||| fl)
    else r
  | none => r

/-- `vbfp` (R164). A pushed entry keeps nothing of a disabled block (R149). -/
def execVbfp (c : Ctl) (tag : BitVec 4) (rnd : Rnd) (sat : Bool) (part : BitVec 2) (d a : Opnd) (s : State) :
    Host.Outcome State Fault Refusal :=
  issue (.vbfp c tag rnd sat part d a) s fun x => do
    let us := Iss.tagUses d a .none false anyTag Tag.isFlt anyTag
    let ta ← x.formats [a, d] [d] us (some ⟨1, a, 0, anyTag⟩) [] fun u =>
      if part.toNat < (if u = 7 then 1 else 2) then .ok () else .error (.trap (eFormat 1 u.toNat) none)
    let x ← x.claim (unitCycles 1 (Tag.wide ta))
    let (va, x) ← x.vec 1 a
    let (vd, x) ← x.vec 3 d
    let old := match d with
      | .q _ => vd.data &&& enabledBits tag x.mask
      | _ => vd.data
    let m := Tag.mant tag
    let mode := x.mode rnd
    let r := packBlock m mode ta part.toNat x.mask va.data 1 (packBlock m mode ta part.toNat x.mask va.data 0 (written tag old, 0))
    pure ((x.raise r.2).setVec d ⟨r.1, tag⟩)

/-! ### Moving elements (R166 to R169) -/

/-- `vperm` (R166). -/
def execVperm (c : Ctl) (d a b : Opnd) (s : State) : Host.Outcome State Fault Refusal :=
  issue (.vperm c d a b) s fun x => do
    let us := Iss.tagUses d a b false anyTag Tag.isNum Tag.isNum
    let ub : Iss.TagUse := ⟨2, b, Iss.popsBefore [a] b, anyTag⟩
    let fits (all : Bool) (t : BitVec 4) : Except Stop Unit := x.agreePass all (Tag.intTag t) [ub]
    let seen := x.entriesSeen [a, b]
    x.formatRun seen us (some ⟨1, a, 0, anyTag⟩) [] (fits seen)
    x.queues [a, b] [d]
    let t := x.tagOf 0 a
    let x ← x.claim (unitCycles 1 (Tag.wide t))
    let (va, x) ← x.vec 1 a
    let (vb, x) ← x.vec 2 b
    let r := elemMap t x.mask (x.oldWide d) fun j =>
      (lane (Tag.bits t) va.data (lane (Tag.bits t) vb.data j % Tag.count t), 0)
    pure (x.setVec d ⟨r.1, t⟩)

/-- `vbcast` (R167), in its element form and its scalar form. -/
def execVbcast (c : Ctl) (d a b : Opnd) (s : State) : Host.Outcome State Fault Refusal :=
  issue (.vbcast c d a b) s fun x => do
    let el := Iss.isWide a
    let t ← x.oneFormat d a b (!el) (if el then Tag.isBit else Tag.isNum)
    let x ← x.claim (unitCycles 1 (Tag.wide t))
    let (va, x) ← x.src 1 a
    let (vb, x) ← x.int 2 b
    let (_, x) ← if el then pure (.zero, x) else x.vec 3 d
    let r := elemMap t x.mask (x.oldWide d) fun _ =>
      (va.elem t (if el then vb.toNat % Tag.count t else 0), 0)
    pure (x.setVec d ⟨r.1, t⟩)

/-- Where index `n` of a register of a tag lies: first bit, width, and whether it is signed (R168). -/
def elemAt (t : Tag) (n : Nat) : Option (Nat × Nat × Bool) :=
  if t.isBfp then
    if n < 64 then some (t.mant * n, t.mant, true) else if n = 64 then some (2032, 16, false) else none
  else if n < t.count then some (t.bits * n, t.bits, t.isInt)
  else none

/-- Whether the guard of an element is set; of both exponents, where either block's is (R168). -/
def elemGuard (t : Tag) (mask : Word) (n : Nat) : Bool :=
  if t.isBfp then
    if n < 64 then mask.getLsbD (32 * (n / 32)) else mask.getLsbD 0 || mask.getLsbD 32
  else elemOn t mask n

/-- `vext` (R168). -/
def execVext (c : Ctl) (d a b : Opnd) (s : State) : Host.Outcome State Fault Refusal :=
  issue (.vext c d a b) s fun x => do
    let t ← x.oneFormat .none a .none false anyTag
    x.queues [a, b] [d]
    let x ← x.claim (unitCycles 1 (Tag.wide t))
    let (va, x) ← x.vec 1 a
    let (n, x) ← x.int 2 b
    match elemAt t n.toNat with
    | none => pure (x.setInt d 0)
    | some (at_, w, sg) =>
      if elemGuard t x.mask n.toNat then
        let v := wideBits va.data at_ w
        pure (x.setInt d (if sg then BitVec.ofInt 64 (toSigned w v) else BitVec.ofNat 64 v))
      else pure x

/-- The bits an index write reaches under the mask (R168). -/
def insMask (t : Tag) (mask : Word) (n at_ w : Nat) : Wide :=
  if t.isBfp && n == 64 then
    setBits (setBits 0 2032 8 (if mask.getLsbD 0 then 255 else 0)) 2040 8 (if mask.getLsbD 32 then 255 else 0)
  else if elemGuard t mask n then setBits 0 at_ w (2 ^ w - 1) else 0

/-- `vins` (R168). In a v register of a BFP tag the pad bits stay as they were (entry 45). -/
def execVins (c : Ctl) (d a b : Opnd) (s : State) : Host.Outcome State Fault Refusal :=
  issue (.vins c d a b) s fun x => do
    let us := Iss.tagUses d .none .none true anyTag anyTag anyTag
    let t ← x.formats [a, b, d] [d] us (some ⟨0, d, 0, anyTag⟩) [] noMore
    let x ← x.claim (unitCycles 1 (Tag.wide t))
    let (va, x) ← x.src 1 a
    let (n, x) ← x.int 2 b
    let (vd, x) ← x.vec 3 d
    let bits (w : Nat) : Nat := match va with
      | .scalar v => v.toNat % 2 ^ w
      | .number i => if Tag.isFlt t then va.elem t 0 else ofInt w i
      | .vec .. => 0
    let new := match elemAt t n.toNat with
      | none => vd.data
      | some (at_, w, _) =>
        let m := insMask t x.mask n.toNat at_ w
        (setBits 0 at_ w (bits w) &&& m) ||| (vd.data &&& ~~~m)
    match d with
    | .q _ => pure (x.setVec d ⟨written t new &&& enabledBits t x.mask, t⟩)
    | _ => pure (x.setVec d ⟨new, t⟩)

/-- `vmov` (R169). -/
def execVmov (c : Ctl) (d a : Opnd) (s : State) : Host.Outcome State Fault Refusal :=
  issue (.vmov c d a) s fun x => do
    let t ← x.oneFormat d a .none false anyTag
    let x ← x.claim (unitCycles 1 (Tag.wide t))
    let (va, x) ← x.vec 1 a
    pure (x.setMasked d t va.data)

/-- `vtag` (R169). -/
def execVtag (c : Ctl) (tag : BitVec 4) (d a : Opnd) (s : State) : Host.Outcome State Fault Refusal :=
  issue (.vtag c tag d a) s fun x => do
    let _ ← x.oneFormat d a .none false anyTag
    let (va, x) ← x.vec 1 a
    pure (x.setMasked d tag va.data)

/-- `vgtag` (R169): A's data is not read. -/
def execVgtag (c : Ctl) (d a : Opnd) (s : State) : Host.Outcome State Fault Refusal :=
  issue (.vgtag c d a) s fun x => do
    x.queues [a] [d]
    match a with
    | .q n => do
      let (v, x) ← x.pop n.val false
      pure (x.setInt d (v.tag.setWidth 64))
    | _ => pure (x.setInt d ((x.tagOf 0 a).setWidth 64))

/-! ### Reductions, scans and dot products (R170 to R172) -/

/-- The operand checks of `vred` and `vscan`. -/
def Iss.redFormat (x : Iss) (op : RedOp) (d a : Opnd) : Except Stop (BitVec 4) :=
  let logic := op == .and || op == .or || op == .xor
  x.formats [a] [d] (Iss.tagUses .none a .none false anyTag Tag.isNum anyTag) (some ⟨1, a, 0, anyTag⟩) [] fun t =>
    if logic && Tag.isFlt t then .error (.trap (eFormat 1 t.toNat) none) else .ok ()

/-- The elements of A, disabled ones as identities (R170). -/
def redElems (op : RedOp) (t : Tag) (mask : Word) (w : Wide) : List Nat :=
  (List.range t.count).map fun j => if elemOn t mask j then lane t.bits w j else redIdent op t

/-- `vred` (R170). -/
def execVred (c : Ctl) (op : RedOp) (rnd : Rnd) (sat : Bool) (d a : Opnd) (s : State) : Host.Outcome State Fault Refusal :=
  issue (.vred c op rnd sat d a) s fun x => do
    let t ← x.redFormat op d a
    let x ← x.claim (unitCycles 2 (Tag.wide t))
    let (va, x) ← x.vec 1 a
    let r := redTree (redOp op t (x.mode rnd) sat) 8 (redElems op t x.mask va.data) 0
    let v := if Tag.isFlt t then BitVec.ofNat 64 r.1 else BitVec.ofInt 64 (toSigned (Tag.bits t) r.1)
    pure ((x.raise r.2).setInt d v)

/-- `vscan` (R171). -/
def execVscan (c : Ctl) (op : RedOp) (rnd : Rnd) (sat : Bool) (d a : Opnd) (s : State) : Host.Outcome State Fault Refusal :=
  issue (.vscan c op rnd sat d a) s fun x => do
    let t ← x.redFormat op d a
    let x ← x.claim (unitCycles 2 (Tag.wide t))
    let (va, x) ← x.vec 1 a
    let r := scanTree (elemOn t x.mask) (redOp op t (x.mode rnd) sat) 8 1 (redElems op t x.mask va.data) 0
    let w := ofLanes (Tag.bits t) ((List.range (Tag.count t)).map fun j =>
      if elemOn t x.mask j then r.1.getD j 0 else lane (Tag.bits t) (x.oldWide d) j)
    pure ((x.raise r.2).setVec d ⟨w, t⟩)

/-- Tags `vdot` accepts (R172). -/
def dotTag (t : BitVec 4) : Bool := Tag.isNum t && t != 4

/-- The accumulator after a dot product of pairs of elements (R114, R172). -/
def dotValue (t : Tag) (mode : RMode) (sat : Bool) (acc : Word) (ps : List (Nat × Nat)) : Word × Flags :=
  if t.isFlt then
    let f := if t = 8 then Fmt.f64 else Fmt.f32
    let r := dotChunks f t.fmt mode sat (acc.toNat % 2 ^ f.bits) ps
    (BitVec.ofNat 64 r.1, r.2)
  else (BitVec.ofNat 64 (dotInts t.bits 64 sat acc.toNat ps), 0)

/-- `vdot` (R172): it reads D. Its time goes by the tag of A and B alone (entry 49). -/
def execVdot (c : Ctl) (rnd : Rnd) (sat : Bool) (d a b : Opnd) (s : State) : Host.Outcome State Fault Refusal :=
  issue (.vdot c rnd sat d a b) s fun x => do
    let us := Iss.tagUses .none a b false anyTag dotTag dotTag
    let t ← x.formats [a, b, d] [d] us (some ⟨1, a, 0, anyTag⟩) (us.filter fun u => u.field != 1) noMore
    let x ← x.claim (unitCycles 2 (Tag.wide t))
    let (va, x) ← x.vec 1 a
    let (vb, x) ← x.vec 2 b
    let (acc, x) ← x.int 3 d
    let ps := ((List.range (Tag.count t)).filter (elemOn t x.mask)).map fun j =>
      (lane (Tag.bits t) va.data j, lane (Tag.bits t) vb.data j)
    let r := dotValue t (x.mode rnd) sat acc ps
    pure ((x.raise r.2).setInt d r.1)

end Sys2Proof.Machine
end

