-- ==== Sys2Proof/Machine/VectorMemory.lean ====
section
/-! DEFINITION. Vector loads and stores (R173 to R177), and the unit accesses that interval loads and stores share. -/

namespace Sys2Proof.Machine

/-- One unit of a vector access: its offset from the access's base, its size, its number, and its first byte in the
register. -/
structure VUnit where
  at_ : Int
  size : Nat
  num : Nat
  byte : Nat
  deriving DecidableEq, Repr

/-- Units of `size` bytes of a contiguous image of `total` bytes that hold an enabled byte. Their number is what a failing one
reports. -/
def imageUnits (total size : Nat) (en : Nat → Bool) : List VUnit :=
  ((List.range (total / size)).filter fun j => (List.range size).any fun k => en (size * j + k)).map fun j =>
    ⟨(size * j : Nat), size, j, size * j⟩

/-- The paths of units in order; the first that fails traps, and nothing is accessed (R173). -/
def Iss.unitPaths (x : Iss) (seg : Fin 8) (o : Int) (k : Access) : List VUnit → Except Stop (List Part)
  | [] => .ok []
  | u :: r => do
    let ps ← path x x.th.segs[seg] ⟨seg.val, o + u.at_, u.size, k, .vector, u.size, u.num, true, tierOf k⟩
    let more ← unitPaths x seg o k r
    pure (ps ++ more)

/-- Byte `k` of a register image. -/
def imageByte (w : Wide) (k : Nat) : Byte := BitVec.ofNat 8 (wideBits w (8 * k) 8)

/-- Units loaded into the wide register D, of which `en` enables bytes; what it held is `old`, and its tag becomes `tag`
(R173, R174). -/
def Iss.loadUnits (x : Iss) (seg : Fin 8) (o : Int) (us : List VUnit) (en : Nat → Bool) (d : Opnd) (tag : BitVec 4) (old : Wide) :
    Except Stop Iss := do
  let ps ← x.unitPaths seg o .load us
  let onto := us.flatMap fun u => (List.range u.size).map fun k => if en (u.byte + k) then some (u.byte + k) else none
  pure ((x.load false ps d 1 (some ⟨onto, old, tag⟩)).tested seg o .load (ps.zip (us.map (·.num))))

/-- Bytes by location as runs of consecutive ones. -/
def byteRuns : SMap Byte → List (Nat × List Byte)
  | [] => []
  | (a, b) :: r => match byteRuns r with
    | (l, bs) :: q => if l = a + 1 then (a, b :: bs) :: q else (a, [b]) :: (l, bs) :: q
    | [] => [(a, [b])]

/-- The bytes units store in the own core store, by location; of bytes written twice the later stay (R176). -/
def unitMap (ps : List (Part × List (Option Byte))) : SMap Byte :=
  ps.foldl (fun m p => ((List.range p.2.length).zip p.2).foldl (fun m b => match b.2 with
    | some v => m.set (p.1.loc + b.1) v
    | none => m) m) []

/-- Entries joined that lie in one aligned 16-byte part; of bytes written twice the later stay (R174, R176). -/
def joinEntries (acc : List BufEntry) (e : BufEntry) : List BufEntry :=
  let same (f : BufEntry) : Bool := f.loc / 16 == e.loc / 16
  if acc.any same then
    listUpd same (fun f =>
      let lo := min f.loc e.loc
      let hi := max (f.loc + f.bytes.length) (e.loc + e.bytes.length)
      let at_ (g : BufEntry) (i : Nat) : Option Byte :=
        if g.loc ≤ lo + i ∧ lo + i < g.loc + g.bytes.length then g.bytes.getD (lo + i - g.loc) none else none
      { f with loc := lo
               da := f.da - BitVec.ofNat 56 (f.loc - lo)
               bytes := (List.range (hi - lo)).map fun i => (at_ e i).orElse fun _ => at_ f i }) acc
  else acc ++ [e]

/-- Units stored from a register image: tiles hold them (R177), the own core store takes them in the last stage as its aligned
8-byte parts (R173), and others through the store buffer, which they enter in issue + 6 + c, or later by what bank conflicts and
corrections delay the last stage (R174). -/
def Iss.storeUnits (x : Iss) (seg : Fin 8) (o : Int) (us : List VUnit) (en : Nat → Bool) (val : Iss → Except Stop (Wide × Iss)) :
    Except Stop Iss := do
  let ps ← x.unitPaths seg o .store us
  x.tileHold ps
  let (w, x) ← val x
  let bytesOf (u : VUnit) : List (Option Byte) :=
    (List.range u.size).map fun k => if en (u.byte + k) then some (imageByte w (u.byte + k)) else none
  let pairs := ps.zip (us.map bytesOf)
  match x.place ps with
  | .ownCore =>
    let x := x.timed_ false (spans ps) false
    pure { (x.writeOwn ((byteRuns (unitMap pairs)).map fun r => (r.1, r.1, r.2))) with wrote := true }
  | .ownVault | .otherCore | .otherVault | .paged =>
    let c := Iss.turnCount (Iss.turns (fun w => w / 8 % 64) (Iss.words (spans ps)))
    let lat := 6 + c + x.extra
    let last := (reserveBanks x.s x.core (Iss.addStage lat x.writes x.stages) lat).1
    let es := ((pairs.flatMap fun p => x.entriesOf p.1 (p.1.len + 1) 0 p.2).foldl joinEntries []).map fun e => { e with enters := last }
    pure { (x.buffer es) with lat := 6 + c, wrote := true }

/-- Bytes of a unit in `vld` and `vst` (R173). -/
def unitBytes (t : Tag) : Nat := if t.isBfp then 8 else t.bits / 8

/-- Bytes that `vld` and `vst` move (R175). -/
def imageBytes (t : Tag) : Nat := if t.isBfp then 8 * t.mant else 256

/-- Whether `vld` loads byte `k`: by blocks for BFP (R175). -/
def loadEn (t : Tag) (mask : Word) (k : Nat) : Bool :=
  if t.isBfp then mask.getLsbD (32 * (k / (4 * t.mant))) else elemOn t mask (8 * k / t.bits)

/-- Whether `vst` stores byte `k`: by the lane of its first bit's element for BFP (R175). -/
def storeEn (t : Tag) (mask : Word) (k : Nat) : Bool :=
  if t.isBfp then mask.getLsbD (8 * k / t.mant) else elemOn t mask (8 * k / t.bits)

/-- `vld` (R175): the bits between mantissas and exponents of a BFP register are zero after it, whichever blocks are enabled. -/
def execVld (c : Ctl) (tag : BitVec 4) (d : Opnd) (r : MemRef) (s : State) : Host.Outcome State Fault Refusal :=
  issue (.vld c tag d r) s fun x => do
    x.queues [] [d]
    let (o, x) ← x.offset r
    let us := imageUnits (imageBytes tag) (unitBytes tag) (loadEn tag x.mask)
    x.loadUnits r.seg o us (loadEn tag x.mask) d tag (written tag (x.oldWide d))

/-- `vst` (R175): D is a source only. -/
def execVst (c : Ctl) (d : Opnd) (r : MemRef) (s : State) : Host.Outcome State Fault Refusal :=
  issue (.vst c d r) s fun x => do
    x.queues [d] []
    let (o, x) ← x.offset r
    let t : Tag := x.tagOf 0 d
    let us := imageUnits (imageBytes t) (unitBytes t) (storeEn t x.mask)
    x.storeUnits r.seg o us (storeEn t x.mask) fun x => do
      let (v, x) ← x.vec 3 d
      pure (v.data, x)

/-- Bytes of a gathered unit (R176). -/
def gatherBytes (t : Tag) : Nat := if t.isBfp || t.wide then 8 else 4

/-- Whether byte `k` of a register of a BFP tag is written under a mask: the bytes of its block, or a pad byte (R102). -/
def blockOn (t : Tag) (mask : Word) (k : Nat) : Bool :=
  if k < 8 * t.mant then mask.getLsbD (32 * (k / (4 * t.mant)))
  else if k < 254 then mask.getLsbD 0 || mask.getLsbD 32
  else mask.getLsbD (32 * (k - 254))

/-- The tag an index register must carry (R176). -/
def indexTag (u : Nat) : BitVec 4 := if u = 8 then 4 else 3

/-- Unit `j` of `u` bytes, addressed by index register `w` (R176). -/
def gatherUnit (u : Nat) (w : Wide) (j : Nat) : VUnit := ⟨toSigned (8 * u) (lane (8 * u) w j) * u, u, j, u * j⟩

/-- `vldx` (R176): D holds the indices before it holds the result. -/
def execVldx (c : Ctl) (tag : BitVec 4) (d : Opnd) (r : MemRef) (s : State) : Host.Outcome State Fault Refusal :=
  issue (.vldx c tag d r) s fun x => do
    let u := gatherBytes tag
    x.setPass true [⟨0, d, 0, fun t => t == indexTag u⟩]
    let (o, x) ← x.offset r
    let (vx, x) ← x.vec 3 d
    let bfp := Tag.isBfp tag
    let both := x.mask.getLsbD 0 || x.mask.getLsbD 32
    let on (j : Nat) : Bool := if bfp then both else x.mask.getLsbD j
    let us := ((List.range (256 / u)).filter on).map (gatherUnit u vx.data)
    x.loadUnits r.seg o us (fun k => if bfp then blockOn tag x.mask k else on (k / u)) d tag vx.data

/-- `vstx` (R176): the register after D holds the indices. -/
def execVstx (c : Ctl) (d : Opnd) (r : MemRef) (s : State) : Host.Outcome State Fault Refusal :=
  issue (.vstx c d r) s fun x => do
    match d with
    | .v n => do
      let e := x.vEntry n.val
      let t : Tag := x.tagW e
      let u := gatherBytes t
      if x.tagW (e + 1) ≠ indexTag u then .error (.trap (eFormat 0 (x.tagW (e + 1)).toNat) none)
      else do
        let (o, x) ← x.offset r
        let (vx, x) ← x.readW 3 (e + 1)
        let us := ((List.range (256 / u)).filter x.mask.getLsbD).map (gatherUnit u vx.data)
        x.storeUnits r.seg o us (fun k => x.mask.getLsbD (k / u)) fun x => do
          let (v, x) ← x.readW 3 e
          pure (v.data, x)
    | _ => pure x

end Sys2Proof.Machine
end

