-- ==== Sys2Proof/Machine/Interval.lean ====
section
/-! DEFINITION. Interval instructions (R178 to R205). -/

namespace Sys2Proof.Machine

/-! ### Operands and formats (R179, R180) -/

/-- The check of R179 on interval operands in order: field and tag found. The result is the format. -/
def kTags : Option (BitVec 4) → List (Nat × BitVec 4) → Except Stop (BitVec 4)
  | f, [] => .ok (f.getD 1)
  | f, (field, t) :: r =>
    if (t = 1 ∨ t = 2) ∧ (f = none ∨ f = some t) then kTags (some t) r else .error (.trap (eFormat field t.toNat) none)

/-- The tag of a K operand with the field that names it; nothing for another class. -/
def Iss.kUse (x : Iss) (field : Nat) (o : Opnd) : List (Nat × BitVec 4) :=
  match o with
  | .k _ => [(field, x.tagOf 0 o)]
  | _ => []

/-- The register after a K operand. -/
def companion (o : Opnd) : Opnd :=
  match o with
  | .k n => .k (n + 1)
  | _ => .none

/-- An operand in a K or S position as intervals (R180). -/
def Iss.kSrc (x : Iss) (t : Tag) (stage : Nat) (o : Opnd) : Except Stop (KSrc × Iss) :=
  match o with
  | .k _ => do
    let (v, x) ← x.vec stage o
    pure (.reg v.data, x)
  | .imm v => .ok (.point (ofInteger (Lane.fmt t) .rne false v.toInt).1, x)
  | _ => do
    let (v, x) ← x.int stage o
    pure (.point (v.toNat % 2 ^ (Lane.fmt t).bits), x)

/-- Cycles of the unit (R186). -/
def kCycles (base : Nat) (t : BitVec 4) : Nat := if t = 2 then 2 * base else base

/-- Two results written, the second after the first; where they name one register it receives the second, in one write (R182,
R186). -/
def Iss.setPair (x : Iss) (a : Opnd) (v : VReg) (b : Opnd) (w : VReg) : Iss :=
  if a = b then x.setVec b w else (x.setVec a v).setVec b w

/-! ### Forward forms (R188) -/

/-- A forward form of one interval. -/
def fwd1 (i : Instr) (d a : Opnd) (base : Nat) (s : State) (g : Fmt → Box → IVal) : Host.Outcome State Fault Refusal :=
  issue i s fun x => do
    let t ← kTags none (x.kUse 1 a)
    let x ← x.claim (kCycles base t)
    let (va, x) ← x.kSrc t 1 a
    let r := kFwd1 t x.mask (x.oldWide d) va g
    pure ((x.raise r.2).setVec d ⟨r.1, t⟩)

/-- A forward form of two operands. -/
def fwd2 (i : Instr) (d a b : Opnd) (base : Nat) (s : State) (g : Fmt → Box → Box → IVal) : Host.Outcome State Fault Refusal :=
  issue i s fun x => do
    let t ← kTags none (x.kUse 1 a ++ x.kUse 2 b)
    x.queues [b] []
    let x ← x.claim (kCycles base t)
    let (va, x) ← x.kSrc t 1 a
    let (vb, x) ← x.kSrc t 2 b
    let r := kFwd2 t x.mask (x.oldWide d) va vb g
    pure ((x.raise r.2).setVec d ⟨r.1, t⟩)

/-- A backward form: A is narrowed, and B where `wb` says so (R191). The companion is read where `fma` says so. -/
def bwd (i : Instr) (d a b : Opnd) (fma wb : Bool) (base : Nat) (s : State)
    (g : Fmt → Box → Box → Box → Box → IVal × IVal) : Host.Outcome State Fault Refusal :=
  issue i s fun x => do
    let cm := if fma then companion d else .none
    let t ← kTags none (x.kUse 0 d ++ x.kUse 0 cm ++ x.kUse 1 a ++ x.kUse 2 b)
    x.queues [b] []
    let x ← x.claim (kCycles base t)
    let (va, x) ← x.kSrc t 1 a
    let (vb, x) ← if b == .none then pure (none, x) else do
      let (v, x) ← x.kSrc t 2 b
      pure (some v, x)
    let (vd, x) ← x.kSrc t 3 d
    let (vc, x) ← if fma then do
        let (v, x) ← x.kSrc t 3 cm
        pure (some v, x)
      else pure (none, x)
    let r := kBwd t x.mask x.th.npth.toNat vd va (x.oldWide a) vb vc (x.oldWide b) wb g
    let y := x.raise r.2.2
    pure (if wb then y.setPair a ⟨r.1, t⟩ b ⟨r.2.1, t⟩ else y.setVec a ⟨r.1, t⟩)

/-- `kadd.f` (R188). -/
def execKaddF (c : Ctl) (d a b : Opnd) (s : State) : Host.Outcome State Fault Refusal :=
  fwd2 (.kaddF c d a b) d a b 1 s fun f p q => some (fwdAdd f p q)
/-- `kadd.b` (R193). -/
def execKaddB (c : Ctl) (d a b : Opnd) (s : State) : Host.Outcome State Fault Refusal :=
  bwd (.kaddB c d a b) d a b false true 2 s bwdAdd
/-- `ksub.f` (R188). -/
def execKsubF (c : Ctl) (d a b : Opnd) (s : State) : Host.Outcome State Fault Refusal :=
  fwd2 (.ksubF c d a b) d a b 1 s fun f p q => some (fwdSub f p q)
/-- `ksub.b` (R193). -/
def execKsubB (c : Ctl) (d a b : Opnd) (s : State) : Host.Outcome State Fault Refusal :=
  bwd (.ksubB c d a b) d a b false true 2 s bwdSub
/-- `kmul.f` (R188). -/
def execKmulF (c : Ctl) (d a b : Opnd) (s : State) : Host.Outcome State Fault Refusal :=
  fwd2 (.kmulF c d a b) d a b 2 s fun f p q => some (fwdMul f p q)
/-- `kmul.b` (R193). -/
def execKmulB (c : Ctl) (d a b : Opnd) (s : State) : Host.Outcome State Fault Refusal :=
  bwd (.kmulB c d a b) d a b false true 4 s bwdMul
/-- `kdiv.f` (R189). -/
def execKdivF (c : Ctl) (d a b : Opnd) (s : State) : Host.Outcome State Fault Refusal :=
  fwd2 (.kdivF c d a b) d a b 4 s fwdDiv
/-- `kdiv.b` (R193). -/
def execKdivB (c : Ctl) (d a b : Opnd) (s : State) : Host.Outcome State Fault Refusal :=
  bwd (.kdivB c d a b) d a b false true 8 s bwdDiv

/-- `kfma.f` (R190): the companion is the register after D. -/
def execKfmaF (c : Ctl) (d a b : Opnd) (s : State) : Host.Outcome State Fault Refusal :=
  issue (.kfmaF c d a b) s fun x => do
    let cm := companion d
    let t ← kTags none (x.kUse 0 cm ++ x.kUse 1 a ++ x.kUse 2 b)
    let x ← x.claim (kCycles 2 t)
    let (va, x) ← x.kSrc t 1 a
    let (vb, x) ← x.kSrc t 2 b
    let (vc, x) ← x.kSrc t 3 cm
    let r := kFwd3 t x.mask (x.oldWide d) va vb vc
    pure ((x.raise r.2).setVec d ⟨r.1, t⟩)
/-- `kfma.b` (R193). -/
def execKfmaB (c : Ctl) (d a b : Opnd) (s : State) : Host.Outcome State Fault Refusal :=
  bwd (.kfmaB c d a b) d a b true true 4 s bwdFma

/-- `kneg.f` (R188). -/
def execKnegF (c : Ctl) (d a : Opnd) (s : State) : Host.Outcome State Fault Refusal :=
  fwd1 (.knegF c d a) d a 1 s fun _ p => some (fwdNeg p)
/-- `kneg.b` (R193). -/
def execKnegB (c : Ctl) (d a : Opnd) (s : State) : Host.Outcome State Fault Refusal :=
  bwd (.knegB c d a) d a .none false false 2 s (bwd1 bwdNeg)
/-- `kabs.f` (R188). -/
def execKabsF (c : Ctl) (d a : Opnd) (s : State) : Host.Outcome State Fault Refusal :=
  fwd1 (.kabsF c d a) d a 1 s fun _ p => some (fwdAbs p)
/-- `kabs.b` (R193). -/
def execKabsB (c : Ctl) (d a : Opnd) (s : State) : Host.Outcome State Fault Refusal :=
  bwd (.kabsB c d a) d a .none false false 2 s (bwd1 bwdAbs)
/-- `ksqr.f` (R188). -/
def execKsqrF (c : Ctl) (d a : Opnd) (s : State) : Host.Outcome State Fault Refusal :=
  fwd1 (.ksqrF c d a) d a 2 s fun f p => some (fwdSqr f p)
/-- `ksqr.b` (R193). -/
def execKsqrB (c : Ctl) (d a : Opnd) (s : State) : Host.Outcome State Fault Refusal :=
  bwd (.ksqrB c d a) d a .none false false 4 s (bwd1 bwdSqr)
/-- `ksqrt.f` (R188). -/
def execKsqrtF (c : Ctl) (d a : Opnd) (s : State) : Host.Outcome State Fault Refusal :=
  fwd1 (.ksqrtF c d a) d a 4 s fwdSqrt
/-- `ksqrt.b` (R193). -/
def execKsqrtB (c : Ctl) (d a : Opnd) (s : State) : Host.Outcome State Fault Refusal :=
  bwd (.ksqrtB c d a) d a .none false false 8 s (bwd1 bwdSqrt)
/-- `kexp.f` (R188). -/
def execKexpF (c : Ctl) (d a : Opnd) (s : State) : Host.Outcome State Fault Refusal :=
  fwd1 (.kexpF c d a) d a 4 s fun f p => some (fwdExp f p)
/-- `kexp.b` (R193). -/
def execKexpB (c : Ctl) (d a : Opnd) (s : State) : Host.Outcome State Fault Refusal :=
  bwd (.kexpB c d a) d a .none false false 8 s (bwd1 bwdExp)
/-- `klog.f` (R188). -/
def execKlogF (c : Ctl) (d a : Opnd) (s : State) : Host.Outcome State Fault Refusal :=
  fwd1 (.klogF c d a) d a 4 s fwdLog
/-- `klog.b` (R193). -/
def execKlogB (c : Ctl) (d a : Opnd) (s : State) : Host.Outcome State Fault Refusal :=
  bwd (.klogB c d a) d a .none false false 8 s (bwd1 bwdLog)
/-- `krelu.f` (R188). -/
def execKreluF (c : Ctl) (d a : Opnd) (s : State) : Host.Outcome State Fault Refusal :=
  fwd1 (.kreluF c d a) d a 1 s fun _ p => some (fwdRelu p)
/-- `krelu.b` (R193). -/
def execKreluB (c : Ctl) (d a : Opnd) (s : State) : Host.Outcome State Fault Refusal :=
  bwd (.kreluB c d a) d a .none false false 2 s (bwd1 bwdRelu)
/-- `kmax.f` (R188). -/
def execKmaxF (c : Ctl) (d a b : Opnd) (s : State) : Host.Outcome State Fault Refusal :=
  fwd2 (.kmaxF c d a b) d a b 1 s fun _ p q => some (fwdMax p q)
/-- `kmax.b` (R193). -/
def execKmaxB (c : Ctl) (d a b : Opnd) (s : State) : Host.Outcome State Fault Refusal :=
  bwd (.kmaxB c d a b) d a b false true 2 s bwdMax
/-- `kmin.f` (R188). -/
def execKminF (c : Ctl) (d a b : Opnd) (s : State) : Host.Outcome State Fault Refusal :=
  fwd2 (.kminF c d a b) d a b 1 s fun _ p q => some (fwdMin p q)
/-- `kmin.b` (R193). -/
def execKminB (c : Ctl) (d a b : Opnd) (s : State) : Host.Outcome State Fault Refusal :=
  bwd (.kminB c d a b) d a b false true 2 s bwdMin
/-- `kscale.f` (R188). -/
def execKscaleF (c : Ctl) (d a b : Opnd) (s : State) : Host.Outcome State Fault Refusal :=
  fwd2 (.kscaleF c d a b) d a b 1 s fun f p q => some (fwdMul f p q)
/-- `kscale.b` (R193): the scalar is not written. -/
def execKscaleB (c : Ctl) (d a b : Opnd) (s : State) : Host.Outcome State Fault Refusal :=
  bwd (.kscaleB c d a b) d a b false false 2 s bwdScale

/-- `kmac.f` (R190). Where mask bit 0 is clear it writes no result, and its thread waits as if it did (entry 49). -/
def execKmacF (c : Ctl) (d a b : Opnd) (s : State) : Host.Outcome State Fault Refusal :=
  issue (.kmacF c d a b) s fun x => do
    let t ← kTags none (x.kUse 1 a ++ x.kUse 2 b)
    let x ← x.claim (kCycles 2 t)
    let (va, x) ← x.kSrc t 1 a
    let (vb, x) ← x.kSrc t 2 b
    let (old, x) ← x.vec 3 d
    let r := kMacF t x.mask old.data va vb
    match r.1 with
    | some w => pure ((x.raise r.2).setVec d ⟨w, t⟩)
    | none => pure { (x.raise r.2) with wrote := true }

/-- `kmac.b` (R194). -/
def execKmacB (c : Ctl) (d a b : Opnd) (s : State) : Host.Outcome State Fault Refusal :=
  issue (.kmacB c d a b) s fun x => do
    let t ← kTags none (x.kUse 0 d ++ x.kUse 1 a ++ x.kUse 2 b)
    let x ← x.claim (kCycles 4 t)
    let (va, x) ← x.kSrc t 1 a
    let (vb, x) ← x.kSrc t 2 b
    let (vd, x) ← x.kSrc t 3 d
    let r := kMacB t x.mask x.th.npth.toNat vd va vb (x.oldWide a) (x.oldWide b)
    pure ((x.raise r.2.2).setPair a ⟨r.1, t⟩ b ⟨r.2.1, t⟩)

/-! ### Sets and bounds (R195 to R199) -/

/-- `kcap` (R195). -/
def execKcap (c : Ctl) (d a b : Opnd) (s : State) : Host.Outcome State Fault Refusal :=
  fwd2 (.kcap c d a b) d a b 1 s fun _ p q => cap p q

/-- `khull` (R195): an empty operand contributes nothing. -/
def execKhull (c : Ctl) (d a b : Opnd) (s : State) : Host.Outcome State Fault Refusal :=
  issue (.khull c d a b) s fun x => do
    let t ← kTags none (x.kUse 1 a ++ x.kUse 2 b)
    let x ← x.claim (kCycles 1 t)
    let (va, x) ← x.kSrc t 1 a
    let (vb, x) ← x.kSrc t 2 b
    let r (j : Nat) : IVal := hull (va.read t j).1 (vb.read t j).1
    let fl := kFlags t x.mask fun j =>
      flagIf ((va.read t j).2 || (vb.read t j).2) Flags.iv ||| flagIf (r j).isNone Flags.em
    pure ((x.raise fl).setVec d ⟨kMap t x.mask (x.oldWide d) r, t⟩)

/-- `kmk` (R196). -/
def execKmk (c : Ctl) (part : Bool) (d a b : Opnd) (s : State) : Host.Outcome State Fault Refusal :=
  issue (.kmk c part d a b) s fun x => do
    let ta := x.tagOf 0 a
    x.setPass true [⟨1, a, 0, fun t => t == 7 || t == 8⟩, ⟨2, b, 0, fun t => t == ta⟩]
    let t : Tag := if ta = 7 then 1 else 2
    let x ← x.claim (kCycles 1 t)
    let (va, x) ← x.vec 1 a
    let (vb, x) ← x.vec 2 b
    let n := Lane.lanes t
    let w := Lane.bw t
    let e (j : Nat) : Nat := (if part then n else 0) + j
    let r (j : Nat) : IVal × Bool := readPair (Lane.fmt t) (lane w va.data (e j)) (lane w vb.data (e j))
    let fl := kFlags t x.mask fun j => flagIf (r j).2 Flags.iv ||| flagIf (r j).1.isNone Flags.em
    pure ((x.raise fl).setVec d ⟨kMap t x.mask (x.oldWide d) fun j => (r j).1, t⟩)

/-- One value per lane written into a vector (R197). -/
def bounds (i : Instr) (part : Bool) (d a : Opnd) (s : State) (f : Fmt → IVal → Nat) : Host.Outcome State Fault Refusal :=
  issue i s fun x => do
    let t ← kTags none (x.kUse 1 a)
    let x ← x.claim (kCycles 1 t)
    let (va, x) ← x.kSrc t 1 a
    let (old, x) ← x.vec 3 d
    let n := Lane.lanes t
    let w := Lane.bw t
    let lo := if part then n else 0
    let r := ofLanes w ((List.range (2048 / w)).map fun e =>
      if lo ≤ e ∧ e < lo + n ∧ x.mask.getLsbD (e - lo) then f (Lane.fmt t) (va.read t (e - lo)).1
      else lane w old.data e)
    let fl := kFlags t x.mask fun j => flagIf (va.read t j).2 Flags.iv
    pure ((x.raise fl).setVec d ⟨r, if t = 1 then 7 else 8⟩)

/-- `klo` (R197). -/
def execKlo (c : Ctl) (part : Bool) (d a : Opnd) (s : State) : Host.Outcome State Fault Refusal :=
  bounds (.klo c part d a) part d a s fun f p => (pairBits f p).1
/-- `khi` (R197). -/
def execKhi (c : Ctl) (part : Bool) (d a : Opnd) (s : State) : Host.Outcome State Fault Refusal :=
  bounds (.khi c part d a) part d a s fun f p => (pairBits f p).2
/-- `kmid` (R197). -/
def execKmid (c : Ctl) (part : Bool) (d a : Opnd) (s : State) : Host.Outcome State Fault Refusal :=
  bounds (.kmid c part d a) part d a s midBits
/-- `kwid` (R197). -/
def execKwid (c : Ctl) (part : Bool) (d a : Opnd) (s : State) : Host.Outcome State Fault Refusal :=
  bounds (.kwid c part d a) part d a s widBits

/-- `ksplit` (R198): where D and A are one register it receives A's value (R182). -/
def execKsplit (c : Ctl) (d a : Opnd) (s : State) : Host.Outcome State Fault Refusal :=
  issue (.ksplit c d a) s fun x => do
    let t ← kTags none (x.kUse 1 a)
    let x ← x.claim (kCycles 1 t)
    let (va, x) ← x.kSrc t 1 a
    let r (j : Nat) : IVal × IVal := splitLane (Lane.fmt t) (va.read t j).1
    let fl := kFlags t x.mask fun j => flagIf (va.read t j).2 Flags.iv ||| flagIf (va.read t j).1.isNone Flags.em
    let wd := kMap t x.mask (x.oldWide d) fun j => (r j).1
    let wa := kMap t x.mask (x.oldWide a) fun j => (r j).2
    pure ((x.raise fl).setPair d ⟨wd, t⟩ a ⟨wa, t⟩)

/-- `kstat` on a register of tag 1 or 2 (R199). -/
def statWord (t : Tag) (mask : Word) (a : KSrc) : Word :=
  BitVec.ofNat 64 ((List.range (Lane.lanes t)).foldl (fun acc j =>
    if mask.getLsbD j then match (a.read t j).1 with
      | none => acc + 2 ^ j
      | some b => if beqv b.lo b.hi then acc + 2 ^ (32 + j) else acc
    else acc) 0)

/-- `kstat` (R199). -/
def execKstat (c : Ctl) (d a : Opnd) (s : State) : Host.Outcome State Fault Refusal :=
  issue (.kstat c d a) s fun x => do
    if x.tagOf 0 a = 0 then do
      x.queues [] [d]
      let x ← x.claim 1
      let (_, x) ← x.vec 1 a
      pure (x.setInt d 0)
    else do
      let t ← kTags none (x.kUse 1 a)
      x.queues [] [d]
      let x ← x.claim (kCycles 1 t)
      let (va, x) ← x.kSrc t 1 a
      let fl := kFlags t x.mask fun j => flagIf (va.read t j).2 Flags.iv
      pure ((x.raise fl).setInt d (statWord t x.mask va))

/-! ### Comparison and membership (R200 to R202) -/

/-- The m register a field names. -/
def mIndex (o : Opnd) : Fin 8 :=
  match o with
  | .m n => n
  | _ => 0

/-- A verdict per lane written into an m register. -/
def verdicts (i : Instr) (d a b : Opnd) (s : State) (f : Box → Box → Tri) : Host.Outcome State Fault Refusal :=
  issue i s fun x => do
    let t ← kTags none (x.kUse 1 a ++ x.kUse 2 b)
    x.queues [a, b] []
    let x ← x.claim (kCycles 1 t)
    let (va, x) ← x.kSrc t 1 a
    let (vb, x) ← x.kSrc t 2 b
    let n := mIndex d
    let r := triMap (Lane.lanes t) (x.mask.getLsbD ·) x.th.mregs[n] fun j =>
      match (va.read t j).1, (vb.read t j).1 with
      | some p, some q => f p q
      | _, _ => .false
    let fl := kFlags t x.mask fun j => flagIf ((va.read t j).2 || (vb.read t j).2) Flags.iv
    pure ((x.raise fl).writeM n r)

/-- `kcmp.f` (R200). -/
def execKcmpF (c : Ctl) (cond : Cond) (d a b : Opnd) (s : State) : Host.Outcome State Fault Refusal :=
  verdicts (.kcmpF c cond d a b) d a b s (cmpBox cond)

/-- `kin` (R202). -/
def execKin (c : Ctl) (d a b : Opnd) (s : State) : Host.Outcome State Fault Refusal :=
  verdicts (.kin c d a b) d a b s fun p q =>
    if ble q.lo p.lo && ble p.hi q.hi then .true else if (cap p q).isNone then .false else .unknown

/-- The lane of `kcmp.b` (R201): the narrowed pair, and the pair as it was where the requirement is UNKNOWN, be an operand empty
or ill-formed there (entry 49). -/
def required (cond : Cond) (want : Tri) (p q : IVal) : IVal × IVal :=
  match want, p, q with
  | .unknown, p, q => (p, q)
  | .true, some a, some b => let r := enforce cond a b; bothOrNone r.1 r.2
  | .false, some a, some b => let r := enforce (Cond.negate cond) a b; bothOrNone r.1 r.2
  | _, _, _ => (none, none)

/-- `kcmp.b` (R201). -/
def execKcmpB (c : Ctl) (cond : Cond) (d a b : Opnd) (s : State) : Host.Outcome State Fault Refusal :=
  issue (.kcmpB c cond d a b) s fun x => do
    let t ← kTags none (x.kUse 1 a ++ x.kUse 2 b)
    x.queues [b] []
    let x ← x.claim (kCycles 2 t)
    let (va, x) ← x.kSrc t 1 a
    let (vb, x) ← x.kSrc t 2 b
    let m := x.th.mregs[mIndex d]
    let wb := match b with
      | .k _ => true
      | _ => false
    let act (j : Nat) : Bool := triLane m j != .unknown
    let r (j : Nat) : IVal × IVal := required cond (triLane m j) (va.read t j).1 (vb.read t j).1
    let n := x.th.npth.toNat
    let fl := kFlags t x.mask fun j =>
      let (p, q) := r j
      flagIf ((va.read t j).2 || (vb.read t j).2) Flags.iv
        ||| flagIf (act j && (p.isNone || (wb && q.isNone))) Flags.em
        ||| flagIf (act j && (progress (va.read t j).1 p n || (wb && progress (vb.read t j).1 q n))) Flags.np
    let on : Word := BitVec.ofNat 64 ((List.range 64).foldr (fun j acc => (x.mask.getLsbD j && act j).toNat + 2 * acc) 0)
    let y := x.raise fl
    let na : VReg := ⟨kMap t on (x.oldWide a) fun j => (r j).1, t⟩
    pure (if wb then y.setPair a na b ⟨kMap t on (x.oldWide b) fun j => (r j).2, t⟩ else y.setVec a na)

/-! ### Moves, constants and memory (R203, R204) -/

/-- The bits of the enabled lanes of a register of tag 1 or 2. -/
def kMask (t : Tag) (mask : Word) : Wide :=
  ofPairs t ((List.range (Lane.lanes t)).map fun j =>
    if mask.getLsbD j then (2 ^ Lane.bw t - 1, 2 ^ Lane.bw t - 1) else (0, 0))

/-- `kmov` (R203). -/
def execKmov (c : Ctl) (d a : Opnd) (s : State) : Host.Outcome State Fault Refusal :=
  issue (.kmov c d a) s fun x => do
    let t := x.tagOf 0 a
    if 2 < t.toNat then .error (.trap (eFormat 1 t.toNat) none)
    else do
      let x ← x.claim (kCycles 1 t)
      let (va, x) ← x.vec 1 a
      let m := if t = 0 then BitVec.allOnes 2048 else kMask t x.mask
      pure (x.setVec d ⟨(va.data &&& m) ||| (x.oldWide d &&& ~~~m), t⟩)

/-- The constants of `kset` (R203). -/
def kConst (n : Nat) : IVal :=
  match n with
  | 0 => none
  | 1 => some Box.entire
  | 2 => some Box.zero
  | 3 => some Box.nonneg
  | _ => some ⟨.inf true, .zero false⟩

/-- `kset` (R203). -/
def execKset (c : Ctl) (d a b : Opnd) (s : State) : Host.Outcome State Fault Refusal :=
  issue (.kset c d a b) s fun x => do
    let (t, x) ← x.int 1 a
    let (n, x) ← x.int 2 b
    let tag : Tag := t.setWidth 4
    let x ← x.claim (kCycles 1 tag)
    if tag = 0 then pure (x.setVec d .zero)
    else pure (x.setVec d ⟨kMap tag x.mask (x.oldWide d) fun _ => kConst n.toNat, tag⟩)

/-- Whether byte `k` of a register of tag 1 or 2 lies in an enabled lane (R204). -/
def kByteOn (t : Tag) (mask : Word) (k : Nat) : Bool := mask.getLsbD (k / (if t.toNat = 2 then 16 else 8))

/-- The 8-byte parts of the enabled lanes of a register of tag 1 or 2. A failing part reports its lane (R68, R85, R204). -/
def kUnits (t : Tag) (mask : Word) : List VUnit :=
  (imageUnits 256 8 (kByteOn t mask)).map fun u => { u with num := if t.toNat = 2 then u.num / 2 else u.num }

/-- `kld` (R204): D keeps its tag. -/
def execKld (c : Ctl) (d : Opnd) (r : MemRef) (s : State) : Host.Outcome State Fault Refusal :=
  issue (.kld c d r) s fun x => do
    let t ← kTags none (x.kUse 0 d)
    let (o, x) ← x.offset r
    let (old, x) ← x.vec 3 d
    x.loadUnits r.seg o (kUnits t x.mask) (kByteOn t x.mask) d t old.data

/-- `kst` (R204). -/
def execKst (c : Ctl) (d : Opnd) (r : MemRef) (s : State) : Host.Outcome State Fault Refusal :=
  issue (.kst c d r) s fun x => do
    let t ← kTags none (x.kUse 0 d)
    let (o, x) ← x.offset r
    x.storeUnits r.seg o (kUnits t x.mask) (kByteOn t x.mask) fun x => do
      let (v, x) ← x.vec 3 d
      pure (v.data, x)

/-! ### Three-valued logic (R205) -/

/-- A lane of `mlog`. -/
def mlogLane (fn : MlogFn) (a b : Tri) : Tri :=
  match fn with
  | .and => Tri.and a b
  | .or => Tri.or a b
  | .not => Tri.not a
  | .imp => Tri.or (Tri.not a) b
  | .eqv => Tri.eqv a b
  | .tstFalse | .tstTrue | .tstUnk => a

/-- The value a test names. -/
def mlogTest (fn : MlogFn) : Option Tri :=
  match fn with
  | .tstFalse => some .false
  | .tstTrue => some .true
  | .tstUnk => some .unknown
  | .and | .or | .not | .imp | .eqv => none

/-- `mlog` (R205). -/
def execMlog (c : Ctl) (fn : MlogFn) (d a b : Opnd) (s : State) : Host.Outcome State Fault Refusal :=
  issue (.mlog c fn d a b) s fun x => do
    let x ← x.claim 1
    let ma := x.th.mregs[mIndex a]
    let mb := x.th.mregs[mIndex b]
    match mlogTest fn, d with
    | some v, .p n =>
      let old := Iss.predOf x.th n
      let w : Word := BitVec.ofNat 64 ((List.range 64).foldr (fun j acc =>
        (if x.mask.getLsbD j then decide (triLane ma j = v) else old.getLsbD j).toNat + 2 * acc) 0)
      pure (x.writeP n w)
    | _, _ =>
      let n := mIndex d
      pure (x.writeM n (triMap 64 (x.mask.getLsbD ·) x.th.mregs[n] fun j => mlogLane fn (triLane ma j) (triLane mb j)))

end Sys2Proof.Machine
end

