-- ==== Sys2Proof/Machine/Requests.lean ====
section
/-! DEFINITION. Events of a core's own traffic: requests at their homes and their answers (R137, R231, R253), publications
(R332), deposits (R223, R224), the end of an `idle` (R246), power (R22, R227) and the patrol scrubber (R228). -/

namespace Sys2Proof.Machine

/-! ### Requests (R137, R231, R253) -/

/-- A write of a publication performed: its core sees it as its own, and the publications that waited for it alone are complete
(R332). -/
def entryDone (s : State) (id : Nat) (r : Req) (loc n : Nat) : State :=
  let c := coreOf r.key
  settlePubs ((syncSnap s c loc n).updCore c fun k => { k with inFlight := k.inFlight.filter fun e => e.1 != id }) id

/-- A write of a job or a subscription performed (R264, R266). -/
def jobWriteDone (s : State) (u : Nat × Nat × BitVec 32) : State :=
  let (cl, q, seq) := u
  if q < 8 then updJob s cl q seq fun j => { j with pendingWrites := j.pendingWrites - 1 }
  else
    s.updCluster cl fun k => { k with subs := k.subs.map fun e =>
      (e.1, if e.1 = q - 8 then
        { e.2 with writes := e.2.writes.set seq.toNat (e.2.writes.getD seq.toNat 0 - 1) } else e.2) }

/-- The cycle in which the request of the event that is executed first reached its home: the second number of an event that
tries again, whose third is the turn at its banks that comes next (R216, R280). -/
def firstTry (s : State) : Nat := s.args.getD 1 s.cyc

/-- What follows the performance of a request: its answer sets out, or what waits for its write learns of it. A held one
is tried again. -/
def afterHome (s : State) (id : Nat) : State :=
  match s.reqs.get? id with
  | none => s
  | some r =>
    if r.held then later 1 .heldWritePerform [id, firstTry s] s
    else match r.kind with
      | .write loc bytes pub job =>
        let s1 := { s with reqs := s.reqs.erase id }
        let s2 := if pub.isSome then entryDone s1 id r loc bytes.length else s1
        match job with
        | some u => jobWriteDone s2 u
        | none => s2
      | .read _ | .atomic .. | .fe .. | .tagRead _ | .tagWrite .. =>
        match r.instr with
        | some (.qld ..) => trip .qldDataArrival [id] s
        | _ => trip .remoteAccessReply [id] s

/-- The accesses to host memory that a request makes (R428). -/
def noteAts (s : State) (r : Req) : State := r.places.foldl (fun s p => noteHost s p.1) s

/-- Whether a request reads host memory, and so holds a tag of the host port while it is outstanding (R427). -/
def Req.hostRead (r : Req) : Bool :=
  match r.kind with
  | .read ps => ps.any fun p => (match homeOf p.1 with
      | .host .. => true
      | .core .. | .vault .. | .hbm _ | .cellar _ | .other => false)
  | .atomic .. | .fe .. | .tagRead _ | .tagWrite .. | .write .. => false

/-- Whether 4,096 reads of host memory that were made earlier are outstanding (R427). -/
def tagsTaken (s : State) (id : Nat) (r : Req) : Bool :=
  r.hostRead && decide (4096 ≤ (s.reqs.filter fun e => decide (e.1 < id) && e.2.hostRead).length)

/-- Whether a request must wait for another: an earlier write or atomic of its core to the same place, an earlier read of its core
that still lacks a byte it writes, or a write that is ordered before it (R332, R336). -/
def mustFollow (s : State) (r : Req) : Bool :=
  (r.ordered && (ownComing s (coreOf r.key) r.order r.spots
      || s.reqs.any fun e => coreOf e.2.key == coreOf r.key && decide (e.2.order < r.order)
        && shares (e.2.gaps.map fun g => (g.1, 1)) r.spots))
    || owed s r.agent r.after r.spots

/-- What a request needs of banks at its home: all but what it reads of its core's own store (R216, R280). -/
def Req.away (r : Req) : List (Nat × Nat) := r.places.filter fun p => homeOf p.1 != .core (coreOf r.key) (p.1 % 2 ^ 17)

/-- A request performed once it is its turn and its banks are free; else it tries again by `ev`. One that a tile holds takes no bank
(R216, R253, R280, R332). -/
def tryHome (s : State) (id : Nat) (r : Req) (ev : Instr) : State :=
  if mustFollow s r || tagsTaken s id r then later 1 ev [id, firstTry s] s
  else if r.heldNow s id then afterHome (performReq s id r) id
  else match takeTurns s r.away (s.args.getD 2 0) with
    | .done s1 => fillGaps (afterHome (performReq (noteAts s1 r) id r) id)
    | .next s1 k => later 1 ev [id, firstTry s, k] s1

/-- `ARRIVAL_AT_HOME` (R137, R332). -/
def execArrivalAtHome (s : State) : Host.Outcome State Fault Refusal :=
  match s.args with
  | id :: _ => match s.reqs.get? id with
    | some r => .next (if r.performed then s else tryHome s id r .arrivalAtHome)
    | none => .next s
  | [] => .next s

/-- `HELD_WRITE_PERFORM` (R253). -/
def execHeldWritePerform (s : State) : Host.Outcome State Fault Refusal :=
  match s.args with
  | id :: _ => match s.reqs.get? id with
    | some r => .next (if r.held then tryHome s id r .heldWritePerform else s)
    | none => .next s
  | [] => .next s

/-- Whether bytes of a request are still to come: from the banks of its core's own store, or from an atomic of its core that is
under way (R216, R336). -/
def Req.lacks (s : State) (id : Nat) (r : Req) : Bool :=
  !r.gaps.isEmpty || ((s.core (coreOf r.key)).own.any fun a => a.id == id) || (match r.kind with
    | .read _ => false
    | .atomic .. | .fe .. | .tagRead _ | .tagWrite .. | .write .. => !r.performed)

/-- The value that fills a queue entry which a request has reserved. -/
def Req.entryValue (r : Req) : VReg :=
  match r.dst with
  | some w => wideResult r.data w
  | none => ⟨((reqResults r).headD 0).setWidth 2048, 0⟩

/-- A load that no event has taken to its home, from the own vault, meets the colours there now (R137, R142). -/
def Req.atReply (s : State) (r : Req) : Req :=
  match r.kind with
  | .read ps =>
    if r.performed then r
    else
      let far := ps.filter fun p => homeOf p.1 != .core (coreOf r.key) (p.1 % 2 ^ 17)
      { r with failed := r.failed.orElse fun _ => far.findSome? fun p => r.tagTest s (reqCtag s r) p.1 p.2 }
  | .atomic .. | .fe .. | .tagRead _ | .tagWrite .. | .write .. => r

/-- `REMOTE_ACCESS_REPLY` (R137): it waits for bytes that are still to come, and for a cycle in which the banks of its result are
free (R213). A reserved queue entry is filled even where its thread is gone (R219). -/
def execRemoteAccessReply (s : State) : Host.Outcome State Fault Refusal :=
  match s.args with
  | [id] => match s.reqs.get? id with
    | some r =>
      let waits := match s.thread? r.key with
        | some t => t.outstanding == some id
        | none => false
      let r := r.atReply s
      if r.lacks s id then .next (later 1 .remoteAccessReply [id] s)
      else match takeBanks s (coreOf r.key) (if waits && r.trap?.isNone then Req.banks s r else []) with
        | none => .next (later 1 .remoteAccessReply [id] s)
        | some s1 => match r.qdest with
          | some q =>
            if waits then .next (answer s1 id r)
            else .next (fillEntry (answer s1 id r) q r.entryValue (if r.poison then some (r.da.setWidth 64) else none))
          | none => .next (answer s1 id r)
    | none => .next s
  | _ => .next s

/-- `QLD_DATA_ARRIVAL` (R231). -/
def execQldDataArrival (s : State) : Host.Outcome State Fault Refusal :=
  match s.args with
  | [id] => match s.reqs.get? id with
    | some r =>
      if r.lacks s id then .next (later 1 .qldDataArrival [id] s)
      else
        let s1 := { s with reqs := s.reqs.erase id }
        match r.qdest with
        | some q => .next (fillEntry s1 q (entryOf r.data) (if r.poison then some (r.da.setWidth 64) else none))
        | none => .next s1
    | none => .next s
  | _ => .next s

/-! ### Publications (R332) -/

/-- What waited for a publication goes on. An atomic of the own core store or vault has its place there, and entries that a forced
publication held back enter the buffer now (R137, R174). -/
def afterPub (s : State) (id : Nat) : After → State
  | .resume key refresh =>
    let late (e : BufEntry) : BufEntry := if e.slot = slotOf key then { e with enters := max e.enters s.cyc } else e
    let s1 := (resume s key id).updCore (coreOf key) fun k => { k with buffer := k.buffer.map late }
    if refresh then refreshCore s1 (coreOf key) [] else s1
  | .send req =>
    if s.cores.any fun e => e.2.own.any fun a => a.id == req then s else trip .arrivalAtHome [req] s
  | .waitArrive l g i => later 1 .waitArrival [l, g, i] s
  | .job cl q seq => updJob s cl q seq fun j => { j with pub := none }
  | .packet c seq => launchPacket s c seq
  | .fabric op => sendFabric s op
  | .retire l g => later 0 .groupRetire [l, g] s
  | .nothing => s

/-- `PUBLICATION_COMPLETE` (R332). -/
def execPublicationComplete (s : State) : Host.Outcome State Fault Refusal :=
  match s.args with
  | [id] => match s.pubs.get? id with
    | some p =>
      if p.waits.isEmpty then .next (afterPub { s with pubs := s.pubs.erase id } id p.after) else .next s
    | none => .next s
  | _ => .next s

/-! ### Deposits (R223, R224, R239) -/

/-- Whether a register lies in a thread's windows. -/
def RegName.inside (t : Thread) : RegName → Bool
  | .g n => decide (n < t.gSize)
  | .v n => decide (n < t.nv)
  | .k n => decide (n < t.nk)
  | .p n | .m n => decide (n < 8)

/-- A deposited value in its register; a deposit to p0 is discarded (R69, R223). -/
def depositWrite (s : State) (key : Nat) (t : Thread) (d : Deposit) : State :=
  match d.reg with
  | .g n => Iss.putG s d.core (t.gBase + n) (d.val.setWidth 64)
  | .v n => Iss.putW s d.core (t.wBase + n) ⟨d.val, d.tag⟩
  | .k n => Iss.putW s d.core (t.wBase + ceil8 t.nv + n) ⟨d.val, d.tag⟩
  | .p n => s.updThread key fun t => Iss.setPred t (Fin.ofNat 8 n) (d.val.setWidth 64)
  | .m n => s.updThread key fun t => { t with mregs := t.mregs.set (Fin.ofNat 8 n) (d.val.setWidth 128) }

/-- A thread a deposit reached: an `idle` of it ends, and a result still outstanding will not replace the deposit (R224,
R246). -/
def depositSeen (cyc : Nat) (r : RegName) (t : Thread) : Thread :=
  let t1 := if t.outstanding.isSome then { t with deposited := r :: t.deposited } else t
  if t1.idle.isSome then { t1 with idle := none, st := .ready, readyAt := max t1.readyAt (cyc + 1) } else t1

/-- Whether a deposit is meant for a thread (R223). -/
def Deposit.hits (d : Deposit) (t : Thread) : Bool := t.ctag == d.ctag && t.group == d.group

/-- A deposit for the parked owner of a lent slot, whose g0 to g7 are in its fault frame (R223, R323). -/
def depositFrame (s : State) (key : Nat) (x : SlotSt) (t : Thread) (d : Deposit) : State :=
  match d.reg with
  | .g n =>
    if n < 8 then s.setSlot key { x with frame := listSet x.frame n (d.val.setWidth 64) }
    else Iss.putG s d.core (t.gBase + n) (d.val.setWidth 64)
  | .v n => Iss.putW s d.core (t.wBase + n) ⟨d.val, d.tag⟩
  | .k n => Iss.putW s d.core (t.wBase + ceil8 t.nv + n) ⟨d.val, d.tag⟩
  | .p n => s.setSlot key { x with lent := some (Iss.setPred t (Fin.ofNat 8 n) (d.val.setWidth 64)) }
  | .m n => s.setSlot key { x with lent := some { t with mregs := t.mregs.set (Fin.ofNat 8 n) (d.val.setWidth 128) } }

/-- The thread a deposit reaches: the one in its slot, or the parked owner of that slot. Where both have its tag and its group it is the
one in the slot (R223, R323; entry 62). -/
inductive Target where
  | running (t : Thread)
  | owner (x : SlotSt) (t : Thread)
  | none

def depositTarget (s : State) (key : Nat) (d : Deposit) : Target :=
  match s.thread? key, (s.slot key).lent with
  | some t, o =>
    if d.hits t then .running t
    else match o with
      | some w => if d.hits w then .owner (s.slot key) w else .none
      | none => .none
  | none, _ => .none

/-- A deposit that is dropped is counted for its launch (R239). -/
def dropDeposit (s : State) (d : Deposit) : State :=
  s.updCore d.core fun k => { k with dropped := k.dropped.put 0 d.launch (min (k.dropped.getD d.launch 0 + 1) (2 ^ 32 - 1)) }

/-- A deposit lands. One whose flit was lost is not written: its target traps at its next issue (R239). -/
def landDeposit (s : State) (d : Deposit) : State :=
  let key := slotKey d.core d.slot
  let err : Option (Nat × Word) := some (6, BitVec.ofNat 64 d.srcCore)
  if d.lost then
    let s1 := countUe s (clusterOf d.core) 6 (d.core % 8)
    match depositTarget s1 key d with
    | .running _ => s1.updThread key fun t => { t with machineErr := err }
    | .owner x t => s1.setSlot key { x with lent := some { t with machineErr := err } }
    | .none => s1
  else match depositTarget s key d with
    | .running t => if d.reg.inside t then (depositWrite s key t d).updThread key (depositSeen s.cyc d.reg) else dropDeposit s d
    | .owner x t => if d.reg.inside t then depositFrame s key x t d else dropDeposit s d
    | .none => dropDeposit s d

/-- A deposit whose flit arrives: a corrected error is counted and delays nothing, and another loses it (R239, R424). -/
def takeDeposit (s : State) (id : Nat) (d : Deposit) : State :=
  let s1 := dropErr s (.deposit id)
  match errAt s (.deposit id) with
  | some true => landDeposit s1 { d with lost := true }
  | some false => landDeposit (countCe s1 (clusterOf d.core)) d
  | none => landDeposit s d

/-- `DEPOSIT_LANDING` (R223). -/
def execDepositLanding (s : State) : Host.Outcome State Fault Refusal :=
  match s.args with
  | [_, _, id] => match s.deposits.get? id with
    | some d => .next (takeDeposit { s with deposits := s.deposits.erase id } id d)
    | none => .next s
  | _ => .next s

/-! ### `idle` and power (R22, R227, R246) -/

/-- `IDLE_EXPIRY` (R246). -/
def execIdleExpiry (s : State) : Host.Outcome State Fault Refusal :=
  match s.args with
  | [c, j] => .next (s.updThread (slotKey c j) fun t =>
      if t.idle = some s.cyc then { t with idle := none, st := .ready, readyAt := max t.readyAt (s.cyc + 1) } else t)
  | _ => .next s

/-- `VECTOR_UNIT_GATE` (R22): a lane instruction that issues in this cycle keeps the unit awake. -/
def execVectorUnitGate (s : State) : Host.Outcome State Fault Refusal :=
  match s.args with
  | [c] => .next (s.updCore c fun k => if k.laneAt = some s.cyc then k else { k with vecGated := true, vecWakeAt := none })
  | _ => .next s

/-- `VECTOR_UNIT_WAKE` (R22). -/
def execVectorUnitWake (s : State) : Host.Outcome State Fault Refusal :=
  match s.args with
  | [c] => .next (s.updCore c fun k =>
      if k.vecWakeAt = some s.cyc then { k with vecGated := false, vecWakeAt := none } else k)
  | _ => .next s

/-- Whether a core is empty and quiet: no slot in use, no arrival, no buffered store, nothing outstanding (R227). -/
def coreQuiet (s : State) (c : Nat) : Bool :=
  let k := s.core c
  coreEmpty s c && k.arrivals.isEmpty && k.spill.isEmpty && k.buffer.isEmpty && k.inFlight.isEmpty && k.own.isEmpty
    && !(s.reqs.any fun r => coreOf r.2.key == c)

/-- `CORE_GATE` (R227). -/
def execCoreGate (s : State) : Host.Outcome State Fault Refusal :=
  match s.args with
  | [c] =>
    let k := s.core c
    if k.power = .active ∧ coreQuiet s c ∧ k.idleSince + 64 ≤ s.cyc then .next (s.setCore c { k with power := .gated })
    else .next s
  | _ => .next s

/-- `CORE_WAKE_COMPLETE` (R227). -/
def execCoreWakeComplete (s : State) : Host.Outcome State Fault Refusal :=
  match s.args with
  | [c] => match (s.core c).power with
    | .waking since =>
      .next (if since + 24 ≤ s.cyc then s.updCore c fun k => { k with power := .active, idleSince := s.cyc } else s)
    | .active | .gated => .next s
  | _ => .next s

/-! ### The patrol scrubber (R228) -/

/-- The bank of a core that a storage element lies in: core and bank. -/
def siteBank : ErrSite → Option (Nat × Nat)
  | .gfile c e => some (c, gBank e)
  | .wfile c e => some (c, wBank e)
  | .memWord w | .fullBit w => (match homeOf (8 * w) with
      | .core c off => some (c, csBank off)
      | _ => none)
  | .granTag g => (match homeOf (64 * g) with
      | .core c off => some (c, csBank off)
      | _ => none)
  | .queue .. | .pred .. | .acc .. | .tile .. | .code .. | .job .. | .deposit _ => none

/-- Scrubs of correctable errors that are not yet due some time: each comes within 2^24 cycles (R228). -/
def armScrubs (s : State) : State :=
  s.errs.foldl (fun s e =>
    if e.2 ∨ (siteBank e.1).isNone ∨ s.pending.any (fun p => p.ev == .patrolScrub e.1) then s
    else later (1 + Config.latency s.fresh % 2 ^ 23) (.patrolScrub e.1) [] { s with fresh := s.fresh + 1 }) s

/-- `PATROL_SCRUB` (R228): a correctable error is corrected and counted, in a cycle its bank is idle. -/
def execPatrolScrub (site : ErrSite) (s : State) : Host.Outcome State Fault Refusal :=
  match siteBank site with
  | none => .next s
  | some (c, b) =>
    if (s.core c).banks.contains (b, s.cyc) then .next (later 1 (.patrolScrub site) [] s)
    else if errAt s site = some false then .next (countCe (dropErr s site) (clusterOf c))
    else .next s

end Sys2Proof.Machine
end

