-- ==== Sys2Proof/Machine/Dispatch.lean ====
section
/-! DEFINITION. The meaning of every instruction and event: one arm per constructor. -/

namespace Sys2Proof.Machine

/-- Executes one instruction of the thread `State.cur` names, or one event. -/
def exec (i : Instr) (s : State) : Host.Outcome State Fault Refusal :=
  match i with
  | .nop c => Sys2Proof.Machine.execNop c s
  | .mov c w u d a => Sys2Proof.Machine.execMov c w u d a s
  | .movi c w u d b => Sys2Proof.Machine.execMovi c w u d b s
  | .add c w u st d a b => Sys2Proof.Machine.execAdd c w u st d a b s
  | .sub c w u st d a b => Sys2Proof.Machine.execSub c w u st d a b s
  | .mul c w u st d a b => Sys2Proof.Machine.execMul c w u st d a b s
  | .mulh c w u d a b => Sys2Proof.Machine.execMulh c w u d a b s
  | .div c w u d a b => Sys2Proof.Machine.execDiv c w u d a b s
  | .rem c w u d a b => Sys2Proof.Machine.execRem c w u d a b s
  | .min c w u d a b => Sys2Proof.Machine.execMin c w u d a b s
  | .max c w u d a b => Sys2Proof.Machine.execMax c w u d a b s
  | .abs c w st d a => Sys2Proof.Machine.execAbs c w st d a s
  | .and c d a b => Sys2Proof.Machine.execAnd c d a b s
  | .or c d a b => Sys2Proof.Machine.execOr c d a b s
  | .xor c d a b => Sys2Proof.Machine.execXor c d a b s
  | .andn c d a b => Sys2Proof.Machine.execAndn c d a b s
  | .shl c w d a b => Sys2Proof.Machine.execShl c w d a b s
  | .shr c w d a b => Sys2Proof.Machine.execShr c w d a b s
  | .sar c w d a b => Sys2Proof.Machine.execSar c w d a b s
  | .rot c w d a b => Sys2Proof.Machine.execRot c w d a b s
  | .clz c w d a => Sys2Proof.Machine.execClz c w d a s
  | .ctz c w d a => Sys2Proof.Machine.execCtz c w d a s
  | .popc c w d a => Sys2Proof.Machine.execPopc c w d a s
  | .bext c d a b => Sys2Proof.Machine.execBext c d a b s
  | .bins c d a b => Sys2Proof.Machine.execBins c d a b s
  | .ext c w u d a b => Sys2Proof.Machine.execExt c w u d a b s
  | .sel c n d a b => Sys2Proof.Machine.execSel c n d a b s
  | .cmp c w u cond d a b => Sys2Proof.Machine.execCmp c w u cond d a b s
  | .plog c tt d a b => Sys2Proof.Machine.execPlog c tt d a b s
  | .pmov c d a => Sys2Proof.Machine.execPmov c d a s
  | .lea c n d a b => Sys2Proof.Machine.execLea c n d a b s
  | .fadd c fmt rnd d a b => Sys2Proof.Machine.execFadd c fmt rnd d a b s
  | .fsub c fmt rnd d a b => Sys2Proof.Machine.execFsub c fmt rnd d a b s
  | .fmul c fmt rnd d a b => Sys2Proof.Machine.execFmul c fmt rnd d a b s
  | .fma c fmt rnd d a b => Sys2Proof.Machine.execFma c fmt rnd d a b s
  | .fdiv c fmt rnd d a b => Sys2Proof.Machine.execFdiv c fmt rnd d a b s
  | .fsqrt c fmt rnd d a => Sys2Proof.Machine.execFsqrt c fmt rnd d a s
  | .fmin c fmt d a b => Sys2Proof.Machine.execFmin c fmt d a b s
  | .fmax c fmt d a b => Sys2Proof.Machine.execFmax c fmt d a b s
  | .fabs c fmt d a => Sys2Proof.Machine.execFabs c fmt d a s
  | .fneg c fmt d a => Sys2Proof.Machine.execFneg c fmt d a s
  | .fcmp c fmt cond d a b => Sys2Proof.Machine.execFcmp c fmt cond d a b s
  | .fcvt c k rnd sat d a => Sys2Proof.Machine.execFcvt c k rnd sat d a s
  | .fclass c fmt d a => Sys2Proof.Machine.execFclass c fmt d a s
  | .frnd c fmt rnd d a => Sys2Proof.Machine.execFrnd c fmt rnd d a s
  | .br c b => Sys2Proof.Machine.execBr c b s
  | .brr c a => Sys2Proof.Machine.execBrr c a s
  | .call c d b => Sys2Proof.Machine.execCall c d b s
  | .ret c a => Sys2Proof.Machine.execRet c a s
  | .loop c d b => Sys2Proof.Machine.execLoop c d b s
  | .exit c => Sys2Proof.Machine.execExit c s
  | .spawn c mig d a b => Sys2Proof.Machine.execSpawn c mig d a b s
  | .join c a => Sys2Proof.Machine.execJoin c a s
  | .slot c d => Sys2Proof.Machine.execSlot c d s
  | .ld c size u d r => Sys2Proof.Machine.execLd c size u d r s
  | .st c size d r => Sys2Proof.Machine.execSt c size d r s
  | .ldfe c d r => Sys2Proof.Machine.execLdfe c d r s
  | .stfe c d r => Sys2Proof.Machine.execStfe c d r s
  | .ldfp c d r => Sys2Proof.Machine.execLdfp c d r s
  | .chk c d r => Sys2Proof.Machine.execChk c d r s
  | .lseg c d a => Sys2Proof.Machine.execLseg c d a s
  | .stag c d r => Sys2Proof.Machine.execStag c d r s
  | .ltag c d r => Sys2Proof.Machine.execLtag c d r s
  | .aop c op wide ord d r => Sys2Proof.Machine.execAop c op wide ord d r s
  | .acas c wide ord d r => Sys2Proof.Machine.execAcas c wide ord d r s
  | .ald c wide ord d r => Sys2Proof.Machine.execAld c wide ord d r s
  | .ast c wide ord d r => Sys2Proof.Machine.execAst c wide ord d r s
  | .pub c => Sys2Proof.Machine.execPub c s
  | .refresh c => Sys2Proof.Machine.execRefresh c s
  | .phase c => Sys2Proof.Machine.execPhase c s
  | .pref c r => Sys2Proof.Machine.execPref c r s
  | .vadd c rnd sat d a b => Sys2Proof.Machine.execVadd c rnd sat d a b s
  | .vsub c rnd sat d a b => Sys2Proof.Machine.execVsub c rnd sat d a b s
  | .vmul c rnd sat d a b => Sys2Proof.Machine.execVmul c rnd sat d a b s
  | .vfma c rnd sat d a b => Sys2Proof.Machine.execVfma c rnd sat d a b s
  | .vmin c d a b => Sys2Proof.Machine.execVmin c d a b s
  | .vmax c d a b => Sys2Proof.Machine.execVmax c d a b s
  | .vabs c sat d a => Sys2Proof.Machine.execVabs c sat d a s
  | .vneg c sat d a => Sys2Proof.Machine.execVneg c sat d a s
  | .vrcp c rnd sat d a => Sys2Proof.Machine.execVrcp c rnd sat d a s
  | .vrsqrt c rnd sat d a => Sys2Proof.Machine.execVrsqrt c rnd sat d a s
  | .vexp2 c rnd sat d a => Sys2Proof.Machine.execVexp2 c rnd sat d a s
  | .vlog2 c rnd sat d a => Sys2Proof.Machine.execVlog2 c rnd sat d a s
  | .vdiv c rnd sat d a b => Sys2Proof.Machine.execVdiv c rnd sat d a b s
  | .vsqrt c rnd sat d a => Sys2Proof.Machine.execVsqrt c rnd sat d a s
  | .vand c d a b => Sys2Proof.Machine.execVand c d a b s
  | .vor c d a b => Sys2Proof.Machine.execVor c d a b s
  | .vxor c d a b => Sys2Proof.Machine.execVxor c d a b s
  | .vshl c d a b => Sys2Proof.Machine.execVshl c d a b s
  | .vshr c ar d a b => Sys2Proof.Machine.execVshr c ar d a b s
  | .vcmp c cond d a b => Sys2Proof.Machine.execVcmp c cond d a b s
  | .vsel c n d a b => Sys2Proof.Machine.execVsel c n d a b s
  | .vcvt c tag rnd sat part d a => Sys2Proof.Machine.execVcvt c tag rnd sat part d a s
  | .vbfp c tag rnd sat part d a => Sys2Proof.Machine.execVbfp c tag rnd sat part d a s
  | .vunbfp c tag rnd sat part d a => Sys2Proof.Machine.execVunbfp c tag rnd sat part d a s
  | .vperm c d a b => Sys2Proof.Machine.execVperm c d a b s
  | .vbcast c d a b => Sys2Proof.Machine.execVbcast c d a b s
  | .vext c d a b => Sys2Proof.Machine.execVext c d a b s
  | .vins c d a b => Sys2Proof.Machine.execVins c d a b s
  | .vred c op rnd sat d a => Sys2Proof.Machine.execVred c op rnd sat d a s
  | .vscan c op rnd sat d a => Sys2Proof.Machine.execVscan c op rnd sat d a s
  | .vdot c rnd sat d a b => Sys2Proof.Machine.execVdot c rnd sat d a b s
  | .vld c tag d r => Sys2Proof.Machine.execVld c tag d r s
  | .vst c d r => Sys2Proof.Machine.execVst c d r s
  | .vldx c tag d r => Sys2Proof.Machine.execVldx c tag d r s
  | .vstx c d r => Sys2Proof.Machine.execVstx c d r s
  | .vtag c tag d a => Sys2Proof.Machine.execVtag c tag d a s
  | .vgtag c d a => Sys2Proof.Machine.execVgtag c d a s
  | .vmov c d a => Sys2Proof.Machine.execVmov c d a s
  | .vclamp c d a b => Sys2Proof.Machine.execVclamp c d a b s
  | .kaddF c d a b => Sys2Proof.Machine.execKaddF c d a b s
  | .kaddB c d a b => Sys2Proof.Machine.execKaddB c d a b s
  | .ksubF c d a b => Sys2Proof.Machine.execKsubF c d a b s
  | .ksubB c d a b => Sys2Proof.Machine.execKsubB c d a b s
  | .kmulF c d a b => Sys2Proof.Machine.execKmulF c d a b s
  | .kmulB c d a b => Sys2Proof.Machine.execKmulB c d a b s
  | .kdivF c d a b => Sys2Proof.Machine.execKdivF c d a b s
  | .kdivB c d a b => Sys2Proof.Machine.execKdivB c d a b s
  | .kfmaF c d a b => Sys2Proof.Machine.execKfmaF c d a b s
  | .kfmaB c d a b => Sys2Proof.Machine.execKfmaB c d a b s
  | .knegF c d a => Sys2Proof.Machine.execKnegF c d a s
  | .knegB c d a => Sys2Proof.Machine.execKnegB c d a s
  | .kabsF c d a => Sys2Proof.Machine.execKabsF c d a s
  | .kabsB c d a => Sys2Proof.Machine.execKabsB c d a s
  | .ksqrF c d a => Sys2Proof.Machine.execKsqrF c d a s
  | .ksqrB c d a => Sys2Proof.Machine.execKsqrB c d a s
  | .ksqrtF c d a => Sys2Proof.Machine.execKsqrtF c d a s
  | .ksqrtB c d a => Sys2Proof.Machine.execKsqrtB c d a s
  | .kexpF c d a => Sys2Proof.Machine.execKexpF c d a s
  | .kexpB c d a => Sys2Proof.Machine.execKexpB c d a s
  | .klogF c d a => Sys2Proof.Machine.execKlogF c d a s
  | .klogB c d a => Sys2Proof.Machine.execKlogB c d a s
  | .kreluF c d a => Sys2Proof.Machine.execKreluF c d a s
  | .kreluB c d a => Sys2Proof.Machine.execKreluB c d a s
  | .kmaxF c d a b => Sys2Proof.Machine.execKmaxF c d a b s
  | .kmaxB c d a b => Sys2Proof.Machine.execKmaxB c d a b s
  | .kminF c d a b => Sys2Proof.Machine.execKminF c d a b s
  | .kminB c d a b => Sys2Proof.Machine.execKminB c d a b s
  | .kscaleF c d a b => Sys2Proof.Machine.execKscaleF c d a b s
  | .kscaleB c d a b => Sys2Proof.Machine.execKscaleB c d a b s
  | .kmacF c d a b => Sys2Proof.Machine.execKmacF c d a b s
  | .kmacB c d a b => Sys2Proof.Machine.execKmacB c d a b s
  | .kcap c d a b => Sys2Proof.Machine.execKcap c d a b s
  | .khull c d a b => Sys2Proof.Machine.execKhull c d a b s
  | .kmk c part d a b => Sys2Proof.Machine.execKmk c part d a b s
  | .klo c part d a => Sys2Proof.Machine.execKlo c part d a s
  | .khi c part d a => Sys2Proof.Machine.execKhi c part d a s
  | .kmid c part d a => Sys2Proof.Machine.execKmid c part d a s
  | .kwid c part d a => Sys2Proof.Machine.execKwid c part d a s
  | .ksplit c d a => Sys2Proof.Machine.execKsplit c d a s
  | .kcmpF c cond d a b => Sys2Proof.Machine.execKcmpF c cond d a b s
  | .kcmpB c cond d a b => Sys2Proof.Machine.execKcmpB c cond d a b s
  | .kin c d a b => Sys2Proof.Machine.execKin c d a b s
  | .kstat c d a => Sys2Proof.Machine.execKstat c d a s
  | .kld c d r => Sys2Proof.Machine.execKld c d r s
  | .kst c d r => Sys2Proof.Machine.execKst c d r s
  | .kmov c d a => Sys2Proof.Machine.execKmov c d a s
  | .kset c d a b => Sys2Proof.Machine.execKset c d a b s
  | .mlog c fn d a b => Sys2Proof.Machine.execMlog c fn d a b s
  | .qld c d r => Sys2Proof.Machine.execQld c d r s
  | .qst c d r => Sys2Proof.Machine.execQst c d r s
  | .qcnt c d a => Sys2Proof.Machine.execQcnt c d a s
  | .qclr c d a => Sys2Proof.Machine.execQclr c d a s
  | .borrow c d a => Sys2Proof.Machine.execBorrow c d a s
  | .bret c => Sys2Proof.Machine.execBret c s
  | .xmov c d a => Sys2Proof.Machine.execXmov c d a s
  | .sendr c d a b => Sys2Proof.Machine.execSendr c d a b s
  | .sendw c a b => Sys2Proof.Machine.execSendw c a b s
  | .send c a b => Sys2Proof.Machine.execSend c a b s
  | .mcast c d a b => Sys2Proof.Machine.execMcast c d a b s
  | .migrate c r => Sys2Proof.Machine.execMigrate c r s
  | .wait c => Sys2Proof.Machine.execWait c s
  | .mma c sat mq d a b => Sys2Proof.Machine.execMma c sat mq d a b s
  | .mmac c sat mq d a b => Sys2Proof.Machine.execMmac c sat mq d a b s
  | .mzero c mq d a b => Sys2Proof.Machine.execMzero c mq d a b s
  | .mrd c sat mq d a b => Sys2Proof.Machine.execMrd c sat mq d a b s
  | .mwr c mq d a b => Sys2Proof.Machine.execMwr c mq d a b s
  | .tdef c n d a b => Sys2Proof.Machine.execTdef c n d a b s
  | .trel c a => Sys2Proof.Machine.execTrel c a s
  | .tstat c d a => Sys2Proof.Machine.execTstat c d a s
  | .twait c a => Sys2Proof.Machine.execTwait c a s
  | .cpy c mq d a b => Sys2Proof.Machine.execCpy c mq d a b s
  | .jpoll c d a => Sys2Proof.Machine.execJpoll c d a s
  | .jwait c d a => Sys2Proof.Machine.execJwait c d a s
  | .qfence c d a => Sys2Proof.Machine.execQfence c d a s
  | .tsub c d a b => Sys2Proof.Machine.execTsub c d a b s
  | .put c d a => Sys2Proof.Machine.execPut c d a s
  | .puts c d a => Sys2Proof.Machine.execPuts c d a s
  | .get c d a => Sys2Proof.Machine.execGet c d a s
  | .cwait c d a b => Sys2Proof.Machine.execCwait c d a b s
  | .cread c d a => Sys2Proof.Machine.execCread c d a s
  | .cadd c d a b => Sys2Proof.Machine.execCadd c d a b s
  | .trap c a => Sys2Proof.Machine.execTrap c a s
  | .brk c => Sys2Proof.Machine.execBrk c s
  | .xrd c d a => Sys2Proof.Machine.execXrd c d a s
  | .xwr c d a => Sys2Proof.Machine.execXwr c d a s
  | .cyc c d => Sys2Proof.Machine.execCyc c d s
  | .cycDeadline c d a => Sys2Proof.Machine.execCycDeadline c d a s
  | .idle c a => Sys2Proof.Machine.execIdle c a s
  | .patrolScrub site => Sys2Proof.Machine.execPatrolScrub site s
  | .pageEntryChange change => Sys2Proof.Machine.execPageEntryChange change s
  | .pageMigrate ctag vpn last tier frame => Sys2Proof.Machine.execPageMigrate ctag vpn last tier frame s
  | .groupPlace l pos lead places => Sys2Proof.Machine.execGroupPlace l pos lead places s
  | .qkick queue value => Sys2Proof.Machine.execQkick queue value s
  | .qbase queue value => Sys2Proof.Machine.execQbase queue value s
  | .qctl queue value => Sys2Proof.Machine.execQctl queue value s
  | .cap die value => Sys2Proof.Machine.execCap die value s
  | .registerWrite place offset value => Sys2Proof.Machine.execRegisterWrite place offset value s
  | .tempUpdate die temp => Sys2Proof.Machine.execTempUpdate die temp s
  | .restore pid targets => Sys2Proof.Machine.execRestore pid targets s
  | .contextTagReside core ctag evict => Sys2Proof.Machine.execContextTagReside core ctag evict s
  | .windowRegister ctag n win onFabricPlace => Sys2Proof.Machine.execWindowRegister ctag n win onFabricPlace s
  | .boot romVersion monitor policy => Sys2Proof.Machine.execBoot romVersion monitor policy s
  | .doeAttestation fnum nonce => Sys2Proof.Machine.execDoeAttestation fnum nonce s
  | .doeIdeKm fnum object => Sys2Proof.Machine.execDoeIdeKm fnum object s
  | .bar2Write fnum offset bytes => Sys2Proof.Machine.execBar2Write fnum offset bytes s
  | .linkFlitReceive port flit => Sys2Proof.Machine.execLinkFlitReceive port flit s
  | .fabricPutArrival msg => Sys2Proof.Machine.execFabricPutArrival msg s
  | .fabricGetArrival msg => Sys2Proof.Machine.execFabricGetArrival msg s
  | .fabricGetData op bytes => Sys2Proof.Machine.execFabricGetData op bytes s
  | .descriptorCreate ctag index seg => Sys2Proof.Machine.execDescriptorCreate ctag index seg s
  | .routeTableWrite mod mask => Sys2Proof.Machine.execRouteTableWrite mod mask s
  | .spanFreezeEnd => Sys2Proof.Machine.execSpanFreezeEnd s
  | .publicationComplete => Sys2Proof.Machine.execPublicationComplete s
  | .remoteAccessReply => Sys2Proof.Machine.execRemoteAccessReply s
  | .qldDataArrival => Sys2Proof.Machine.execQldDataArrival s
  | .depositLanding => Sys2Proof.Machine.execDepositLanding s
  | .idleExpiry => Sys2Proof.Machine.execIdleExpiry s
  | .vectorUnitGate => Sys2Proof.Machine.execVectorUnitGate s
  | .vectorUnitWake => Sys2Proof.Machine.execVectorUnitWake s
  | .coreGate => Sys2Proof.Machine.execCoreGate s
  | .coreWakeComplete => Sys2Proof.Machine.execCoreWakeComplete s
  | .coreReset => Sys2Proof.Machine.execCoreReset s
  | .heldWritePerform => Sys2Proof.Machine.execHeldWritePerform s
  | .waitArrival => Sys2Proof.Machine.execWaitArrival s
  | .marverFire => Sys2Proof.Machine.execMarverFire s
  | .barrierRelease => Sys2Proof.Machine.execBarrierRelease s
  | .gafferStep => Sys2Proof.Machine.execGafferStep s
  | .gafferRecordRead => Sys2Proof.Machine.execGafferRecordRead s
  | .walkProbe => Sys2Proof.Machine.execWalkProbe s
  | .pagerComplete => Sys2Proof.Machine.execPagerComplete s
  | .pagerDecline => Sys2Proof.Machine.execPagerDecline s
  | .packetHeadArrival => Sys2Proof.Machine.execPacketHeadArrival s
  | .packetEndArrival => Sys2Proof.Machine.execPacketEndArrival s
  | .abortFlitArrival => Sys2Proof.Machine.execAbortFlitArrival s
  | .partialPacketTimeout => Sys2Proof.Machine.execPartialPacketTimeout s
  | .packetAdmit => Sys2Proof.Machine.execPacketAdmit s
  | .spillMove => Sys2Proof.Machine.execSpillMove s
  | .replyAccept => Sys2Proof.Machine.execReplyAccept s
  | .replyAdmit => Sys2Proof.Machine.execReplyAdmit s
  | .replyRefuse => Sys2Proof.Machine.execReplyRefuse s
  | .replyBounce => Sys2Proof.Machine.execReplyBounce s
  | .replyFree => Sys2Proof.Machine.execReplyFree s
  | .retentionResendTimeout => Sys2Proof.Machine.execRetentionResendTimeout s
  | .admitResend => Sys2Proof.Machine.execAdmitResend s
  | .flitAgeDiscard => Sys2Proof.Machine.execFlitAgeDiscard s
  | .linkFlitCrcFail => Sys2Proof.Machine.execLinkFlitCrcFail s
  | .remoteFeRequest => Sys2Proof.Machine.execRemoteFeRequest s
  | .feParkTimeout => Sys2Proof.Machine.execFeParkTimeout s
  | .replyRetry => Sys2Proof.Machine.execReplyRetry s
  | .feRetryResend => Sys2Proof.Machine.execFeRetryResend s
  | .matrixJobStart => Sys2Proof.Machine.execMatrixJobStart s
  | .matrixJobEnd => Sys2Proof.Machine.execMatrixJobEnd s
  | .matrixJobComplete => Sys2Proof.Machine.execMatrixJobComplete s
  | .copyJobStart => Sys2Proof.Machine.execCopyJobStart s
  | .bytesLand => Sys2Proof.Machine.execBytesLand s
  | .copyJobComplete => Sys2Proof.Machine.execCopyJobComplete s
  | .qfenceComplete => Sys2Proof.Machine.execQfenceComplete s
  | .subscriptionTileStart => Sys2Proof.Machine.execSubscriptionTileStart s
  | .storerWritebackComplete => Sys2Proof.Machine.execStorerWritebackComplete s
  | .packetLaunch => Sys2Proof.Machine.execPacketLaunch s
  | .packetGraph => Sys2Proof.Machine.execPacketGraph s
  | .packetWait => Sys2Proof.Machine.execPacketWait s
  | .waitPacketPoll => Sys2Proof.Machine.execWaitPacketPoll s
  | .packetSignal => Sys2Proof.Machine.execPacketSignal s
  | .packetCancel => Sys2Proof.Machine.execPacketCancel s
  | .scoreboardEnter => Sys2Proof.Machine.execScoreboardEnter s
  | .groupRelease => Sys2Proof.Machine.execGroupRelease s
  | .priorityAge => Sys2Proof.Machine.execPriorityAge s
  | .groupStart => Sys2Proof.Machine.execGroupStart s
  | .groupRetire => Sys2Proof.Machine.execGroupRetire s
  | .groupCancel => Sys2Proof.Machine.execGroupCancel s
  | .launchComplete => Sys2Proof.Machine.execLaunchComplete s
  | .jctl => Sys2Proof.Machine.execJctl s
  | .powerWindow => Sys2Proof.Machine.execPowerWindow s
  | .thermalEventClear => Sys2Proof.Machine.execThermalEventClear s
  | .haltRequest => Sys2Proof.Machine.execHaltRequest s
  | .haltTakeEffect => Sys2Proof.Machine.execHaltTakeEffect s
  | .haltPacketTimeout => Sys2Proof.Machine.execHaltPacketTimeout s
  | .restoreIssueResume => Sys2Proof.Machine.execRestoreIssueResume s
  | .lazyRegionSave => Sys2Proof.Machine.execLazyRegionSave s
  | .partitionAssign => Sys2Proof.Machine.execPartitionAssign s
  | .schedulerCoreError => Sys2Proof.Machine.execSchedulerCoreError s
  | .standbyFailure => Sys2Proof.Machine.execStandbyFailure s
  | .doeDiscovery => Sys2Proof.Machine.execDoeDiscovery s
  | .bar2Read => Sys2Proof.Machine.execBar2Read s
  | .atsInvalidation => Sys2Proof.Machine.execAtsInvalidation s
  | .linkReplayTimeout => Sys2Proof.Machine.execLinkReplayTimeout s
  | .fabricAck => Sys2Proof.Machine.execFabricAck s
  | .fabricOpTimeout => Sys2Proof.Machine.execFabricOpTimeout s
  | .arrivalAtHome => Sys2Proof.Machine.execArrivalAtHome s
  | .copyLastTileRead => Sys2Proof.Machine.execCopyLastTileRead s
  | .codeBufferLoadComplete => Sys2Proof.Machine.execCodeBufferLoadComplete s
  | .routerParityDiscard => Sys2Proof.Machine.execRouterParityDiscard s
  | .coreResetComplete => Sys2Proof.Machine.execCoreResetComplete s

end Sys2Proof.Machine
end

