-- ==== Sys2Proof/Machine/Cycle.lean ====
section
/-! DEFINITION. What happens in one cycle, and in which order (R210 to R215, R247, R254, R297, R303): the events that are due,
the threads that issue, fetch, the engines' advance, and the conditions that make further events due. -/

namespace Sys2Proof.Machine

/-! ### The order of events within a cycle -/

/-- Rank of an event taken before the cycle's instructions; none for one taken after them. Steps 1 to 3 of R297 and the
releases come in that order. -/
def earlyRank : Instr → Option Nat
  | .powerWindow => some 0
  | .haltTakeEffect => some 1
  | .restoreIssueResume => some 2
  | .vectorUnitWake | .coreWakeComplete => some 3
  | .spanFreezeEnd => some 4
  | .marverFire => some 5
  | .gafferStep => some 6
  | .waitArrival => some 7
  | .barrierRelease | .idleExpiry => some 8
  | .scoreboardEnter => some 9
  | .groupRelease => some 10
  | .priorityAge | .packetLaunch | .packetGraph | .packetWait | .packetSignal | .packetCancel | .waitPacketPoll => some 11
  | _ => none

/-- Rank of an event taken after the instructions: a partition's change comes before a placement (R426), and that before an
admission (R247). -/
def lateRank : Instr → Nat
  | .depositLanding => 0
  | .partitionAssign .. => 1
  | .groupPlace .. => 2
  | .packetEndArrival => 4
  | .packetAdmit => 5
  | _ => 3

/-- Order of a request's turn at its home among those of a cycle; `t` is the cycle it first arrived in. At a core store it is the
order of R216, in a vault that of R280, and elsewhere that of R346; a kick is ordered by its partition's function (R407). -/
def homeKey (s : State) (id t : Nat) : Nat :=
  match s.reqs.get? id with
  | none => 0
  | some r =>
    let loc := (r.places.headD (0, 0)).1
    let job (cl q : Nat) : Nat := 64 * cl + q
    match s.kickPages.get? (loc / 2 ^ 17), r.kind with
    | some q, _ => 2 * ((queuePart s q).map fun p => p.2.vfn).getD 0 + 1
    | none, .write _ _ _ (some (cl, q, _)) => (match homeOf loc with
        | .vault cl' _ => if cl' = cl then 2 ^ 101 + job cl q else 2 ^ 102 + t * 2 ^ 24 + job cl q
        | .core _ _ | .hbm _ | .cellar _ | .host _ _ | .other => 2 ^ 101 + job cl q)
    | none, _ => match homeOf loc with
      | .core _ _ => t * 2 ^ 24 + r.key
      | .vault cl _ => (if clusterOf (coreOf r.key) = cl then 0 else 2 ^ 102) + t * 2 ^ 24 + r.key
      | .hbm _ | .cellar _ | .host _ _ | .other => r.key

/-- Order among events of one rank: deposits by sending core and slot (R223), packets by source core (R375), placements by
effective priority, then start, then queue (R397), kicks by function, host before device (R407), and requests as their homes
serve them. Smaller comes first; equal ones keep the order they were made in. -/
def tieKey (s : State) (p : Pending) : Nat :=
  match p.ev, p.args with
  | .depositLanding, [c, j, _] => slotKey c j
  | .packetEndArrival, [id] => (match s.packets.get? id with
      | some q => q.body.src
      | none => 0)
  | .groupPlace l _ _ _, _ => (match s.launch? l with
      | some x => effective s (s.launches.length + 1) l * 2 ^ 80 + x.startedAt * 2 ^ 16 + x.queue
      | none => 0)
  | .registerWrite (.bar0 fnum) _ _, _ => 2 * fnum
  | .qkick q _, _ => 2 * ((queuePart s q).map fun p => p.2.vfn).getD 0
  | .arrivalAtHome, id :: r | .heldWritePerform, id :: r => homeKey s id (r.headD p.at_)
  | .remoteFeRequest, id :: r => (match s.packets.get? id with
      | some q => (r.headD p.at_) * 2 ^ 24 + 64 * q.body.src + (q.body.fe.map fun f => f.2.2.2).getD 0
      | none => 0)
  | .bytesLand, cl :: unit :: _ => 2 ^ 101 + 64 * cl + unit
  | _, _ => 0

/-- Place of an event in the order of its cycle. -/
def dueKey (s : State) (early : Bool) (p : Pending) : Option (Nat × Nat) :=
  if s.cyc < p.at_ then none
  else match earlyRank p.ev, early with
    | some r, true => some (r, tieKey s p)
    | none, true => none
    | _, false => some (lateRank p.ev, tieKey s p)

/-- The first due event: its key, the event, and the list without it. -/
def firstDue (s : State) (early : Bool) : List Pending → Option ((Nat × Nat) × Pending × List Pending)
  | [] => none
  | p :: r =>
    match dueKey s early p, firstDue s early r with
    | none, none => none
    | none, some (k, q, rest) => some (k, q, p :: rest)
    | some k, none => some (k, p, r)
    | some k, some (k', q, rest) =>
      if k'.1 < k.1 ∨ (k'.1 = k.1 ∧ k'.2 < k.2) then some (k', q, p :: rest) else some (k, p, r)

/-! ### Fetch and issue (R13, R28, R74, R210, R282) -/

/-- A word the manual leaves open: one past the kernel's code but inside its segment. -/
def openWord (s : State) : InstrWord :=
  BitVec.ofNat 96 ((Config.freeWord s.fresh).toNat + 2 ^ 64 * (Config.freeWord (s.fresh + 1)).toNat)

/-- The code buffer entry of a launch on a cluster. -/
def codeOf (s : State) (cl l : Nat) : Option CodeBuf := (s.cluster cl).code.find? fun b => b.launch == l

/-- An error of a code buffer met by a fetch: a correctable one is corrected and counted, another poisons the buffer (R282). -/
def codeErrors (s : State) (cl l : Nat) : State :=
  match errAt s (.code cl l) with
  | some true =>
    (countUe s cl 7 0xFF).updCluster cl fun k => { k with
      code := k.code.map fun b => if b.launch = l then { b with poisoned := true } else b }
  | some false => countCe (dropErr s (.code cl l)) cl
  | none => s

/-- The checks of a fetch (R13, R74, R282). -/
def fetchCheck (t : Thread) (b : CodeBuf) : Option Trap :=
  let off := 12 * t.pc.toNat
  let second := BitVec.ofNat 64 off
  if t.cseg.kind = .null ∨ t.cseg.limit.toNat < off + 12 ∨ 2 ^ 48 < off + 12 then some (eBounds (detail 8 2 0 0) second)
  else if !t.cseg.x then some (eRights (detail 8 2 0 0) second)
  else if b.xn.contains ((t.cseg.base.toNat + off) % 2 ^ 56 / 2 ^ 17) ∨ b.xn.contains ((t.cseg.base.toNat + off + 11) % 2 ^ 56 / 2 ^ 17)
    then some (eRights (detail 8 2 0 17) second)
  else if b.poisoned then some (eMachine 7 0)
  else none

/-- What a thread has to issue. -/
inductive Fetched where
  | trap (x : Trap)
  | instr (i : Instr)
  /-- the kernel is not in the code buffer -/
  | wait
  deriving DecidableEq, Repr

/-- The word at a thread's PC. -/
def fetchWord (s : State) (b : CodeBuf) (t : Thread) : InstrWord := b.words.getD t.pc.toNat (openWord s)

/-- The instruction at a thread's PC, or its trap (R28, R82). -/
def fetch (s : State) (core : Nat) (t : Thread) : Fetched :=
  match codeOf s (clusterOf core) t.launch with
  | none => .wait
  | some b =>
    if !b.loaded then .wait
    else match fetchCheck t b with
      | some x => .trap x
      | none => match decode (fetchWord s b t) with
        | .ok i => .instr i
        | .error e => .trap ⟨0x01, e.detail, 0⟩

/-- An error a thread reports at its next issue: a lost deposit, or its predicates or status (R228, R239). -/
def issueError (s : State) (key : Nat) (t : Thread) : Option Trap :=
  match t.machineErr with
  | some (why, second) => some (eMachine why second)
  | none =>
    match errAt s (.pred (coreOf key) (slotOf key)) with
    | some true => some (eMachine 4 0)
    | some false | none => none

/-- The cycle up to which a packet's acquire takes in what the host wrote: at fence scope 5, its start (R343, R389). -/
def hostUpTo (fence startedAt : Nat) : Nat := if fence = 5 then startedAt + 1 else 0

/-- What a group's start is ordered after: the groups that have retired and, at fence scope 5 of its packet or of its graph's, what the
host wrote before that started (R340, R343, R389). -/
def startKnow (s : State) (l : Nat) : Know :=
  match s.launch? l with
  | some x =>
    let g := match x.graph.bind fun g => s.graphs.get? g.1 with
      | some g => hostUpTo g.fence g.startedAt
      | none => 0
    match max g (hostUpTo x.fence x.startedAt) with
    | 0 => s.done
    | n + 1 => s.done.set hostAgent (n + 1)
  | none => s.done

/-- What precedes an issue: the refresh of the first issue of a group on its core (R331), and errors counted. -/
def prepare (s : State) (key : Nat) (t : Thread) : State :=
  let c := coreOf key
  let s1 := { s with cur := key, turn := c + 1 }
  let s2 := match s1.group? t.launch t.group with
    | some y =>
      if y.unissued.contains c then
        refreshCore (s1.setGroup t.launch t.group { y with unissued := y.unissued.filter (· != c) }) c (startKnow s1 t.launch)
      else s1
    | none => s1
  let s3 := codeErrors s2 (clusterOf c) t.launch
  match errAt s3 (.pred c (slotOf key)) with
  | some true => countUe (dropErr s3 (.pred c (slotOf key))) (clusterOf c) 4 (c % 8)
  | some false | none => s3

/-- A correctable error of a thread's predicates or status delays its issue by 2 cycles (R228). -/
def predDelay (s : State) (key : Nat) : Bool := errAt s (.pred (coreOf key) (slotOf key)) == some false

/-- The delay of a corrected error of predicates or status: for a timed instruction it is a stall of its span (R228, R302). -/
def delayIssue (s : State) (key : Nat) (f : Fetched) : State :=
  let t := match f with
    | .instr i => (i.ctl.map (·.t)).getD false
    | .trap _ | .wait => false
  let s1 := countCe (dropErr s (.pred (coreOf key) (slotOf key))) (clusterOf (coreOf key))
  (holdThread s1 key t .correction).updThread key fun t => { t with readyAt := s.cyc + 2 }

/-- One issue of a thread: a trap it has to report, the instruction at its PC, or nothing. -/
def runThread (s : State) (key : Nat) (t : Thread) : Host.Outcome State Fault Refusal :=
  let s1 := prepare s key t
  match issueError s key t with
  | some x => .next (takeTrap s1 key x)
  | none =>
    if predDelay s key then .next (delayIssue s1 key (fetch s1 (coreOf key) t))
    else match fetch s1 (coreOf key) t with
      | .trap x => .next (takeTrap s1 key x)
      | .instr i => exec i s1
      | .wait => .next s1

/-- Whether a group's threads may issue: it has started, and is neither frozen nor halted (R217, R303, R403). -/
def groupIssues (s : State) (l g : Nat) : Bool :=
  !s.halted l && (match s.group? l g with
    | some y => y.st == .running && y.started && y.freeze.isNone
    | none => false)

/-- Whether the current cycle is an issue cycle of a thread's slot, on a core that issues (R208, R209, R227). -/
def slotTurn (s : State) (key : Nat) : Bool :=
  let c := coreOf key
  slotOf key == s.cyc % s.rotLen c && coreActive s c && decide ((s.core c).rotFrom ≤ s.cyc)

/-- Whether a thread is at a point at which it could issue (R82, R210). -/
def threadReady (s : State) (t : Thread) : Bool :=
  (t.st == .ready || t.st == .blocked) && t.cause != some .record && t.idle.isNone && t.outstanding.isNone && decide (t.readyAt ≤ s.cyc)

/-- Whether a thread tries to issue in the current cycle. -/
def issues (s : State) (key : Nat) (t : Thread) : Bool := slotTurn s key && threadReady s t && groupIssues s t.launch t.group

/-! ### Stalls of timed spans (R302, R303) -/

/-- Whether a timed instruction's result is late: its nominal cycle has come and it still holds the thread. -/
def resultLate (s : State) (t : Thread) : Bool :=
  (match t.nominal with
    | some n => decide (n ≤ s.cyc)
    | none => false) && (decide (s.cyc < t.readyAt) || t.outstanding.isSome) && (t.st == .ready || t.st == .blocked)

/-- The state after a thread of an unfrozen span tries to issue and stalls; none where it does not stall. -/
def stallOf (s : State) (key : Nat) (t : Thread) : Option State :=
  if resultLate s t then some (freezeSpan s t.launch t.group key)
  else if !threadReady s t then none
  else match runThread s key t with
    | .next s1 => if s1.frozen t.launch t.group then some s1 else none
    | .fault _ | .refused _ => none

/-- One turn of a cycle in which a span does not issue: a thread of the span that would stall is noted, and any other thread's
instruction takes effect. -/
def spanTurn (l g : Nat) (r : List Nat × State) (key : Nat) : List Nat × State :=
  match r.2.thread? key with
  | none => r
  | some t =>
    if t.launch = l ∧ t.group = g then (if (stallOf r.2 key t).isSome then r.1 ++ [key] else r.1, r.2)
    else if issues r.2 key t then (match runThread r.2 key t with
      | .next s => (r.1, s)
      | .fault _ | .refused _ => r)
    else r

/-- The threads of a span that stall in this cycle, each judged at its core's turn, after what the lower cores of other groups issue
in it. -/
def spanStalls (s : State) (l g : Nat) : List Nat :=
  (((s.threads.map (·.1)).filter (slotTurn s)).foldl (spanTurn l g) ([], s)).1

/-- A group's span frozen, where one of its threads stalls in this cycle: the stalled threads wait together (R303). A stall that only
an instruction of the span itself makes, in the same cycle, is found as it happens (entry 57). -/
def freezeGroup (s : State) (l g : Nat) : State :=
  if s.timed l && groupIssues s l g then (spanStalls s l g).foldl (fun s key => freezeSpan s l g key) s else s

/-- The stalls of a cycle, found before anything issues in it. -/
def findStalls (s : State) : State := s.groups.foldl (fun s e => freezeGroup s (e.1 / 2 ^ 24) (e.1 % 2 ^ 24)) s

/-- Whether this is a cycle in which a thread of a frozen span stalls: that of the stall or a whole number of rotations later. It tries
to issue at its core's turn, and what its try sets going stands (R303). -/
def triesStalled (s : State) (key : Nat) (t : Thread) : Bool :=
  slotTurn s key && threadReady s t && !resultLate s t && !s.halted t.launch && (match s.group? t.launch t.group with
    | some y => (match y.freeze with
        | some (c, ks, _) => (s.cyc - c) % s.rotLen (coreOf key) == 0 && ks.contains key
        | none => false)
    | none => false)

/-- A stalled thread's try to issue. It does not issue: a lower core's instruction of this cycle may have removed what it waits
for, and then its try leaves nothing. -/
def tryStalled (s : State) (key : Nat) (t : Thread) : State :=
  match runThread s key t with
  | .next s1 => if (s1.thread? key).any fun u => u.pc == t.pc && u.st == .blocked && u.cause != some .record then s1 else { s with turn := coreOf key + 1 }
  | .fault _ | .refused _ => { s with turn := coreOf key + 1 }

/-- The next thread to issue, or to try, in this cycle: cores in ascending number, from `State.turn` on (R320). -/
def nextIssue (s : State) : Option (Nat × Thread) :=
  s.threads.find? fun e => decide (s.turn ≤ coreOf e.1) && (issues s e.1 e.2 || triesStalled s e.1 e.2)

/-- Whether a stalled thread could issue now, were its span not frozen. -/
def couldIssue (s : State) (l g key : Nat) : Bool :=
  let s1 := s.updGroup l g fun y => { y with freeze := none }
  match s1.thread? key with
  | none => true
  | some t =>
    if t.launch ≠ l ∨ t.group ≠ g then true
    else if resultLate s1 t ∨ t.outstanding.isSome then false
    else !threadReady s1 t || (stallOf s1 key t).isNone

/-- A freeze about to be looked at again: whether all of its stalled threads can issue (R303). -/
def noteClear (s : State) : List Nat → State
  | [l, g] => match s.group? l g with
    | some y => match y.freeze with
      | some (c, ks, _) =>
        s.setGroup l g { y with freeze := some (c, ks, ks.all (couldIssue s l g)) }
      | none => s
    | none => s
  | _ => s

/-! ### Events of a cycle -/

/-- An event taken. -/
def runEvent (s : State) (p : Pending) : Host.Outcome State Fault Refusal :=
  let s1 := match p.ev with
    | .spanFreezeEnd => noteClear s p.args
    | _ => s
  exec p.ev { s1 with args := p.args }

/-- Events made due in the current cycle. -/
def due (s : State) (ps : List (Instr × List Nat)) : State :=
  { s with pending := s.pending ++ ps.map fun p => ⟨s.cyc, p.1, p.2⟩ }

/-! ### The end of a cycle: cores -/

/-- The queues of a core freed of their owner (R219). -/
def freeQueues (s : State) (c : Nat) : State :=
  let k := s.core c
  match k.qOwner with
  | none => s
  | some o =>
    let bound := (threadsOn s c).any fun t => t.2.ctag == o
    let whole := k.queues.all fun q => q.2.ents.all fun e => match e.present with
      | some t => decide (t ≤ s.cyc)
      | none => false
    if bound || !whole then s
    else
      let clear (n : Nat) (q : Queue) : Queue :=
        { q with head := BitVec.ofNat 4 ((q.head.toNat + q.ents.length) % Iss.queueDepth n), ents := [] }
      s.setCore c { k with qOwner := none, queues := k.queues.map fun (n, q) => (n, clear n q) }

/-- The count of R22: cycles in which every occupied slot has its deep-idle state set. -/
def countDeep (s : State) (c : Nat) : State :=
  let k := s.core c
  let ts := (threadsOn s c).filter fun t => t.1 < s.rotLen c
  let all := !ts.isEmpty && ts.all fun t => t.2.status.getLsbD 14
  if !all then (if k.deepSince.isSome then s.setCore c { k with deepSince := none } else s)
  else match k.deepSince with
    | none => s.setCore c { k with deepSince := some s.cyc }
    | some t => if t + 15 = s.cyc ∧ !k.vecGated then later 1 .vectorUnitGate [c] s else s

/-- The count of R227, and gating at its end; a core with a retained packet is not gated (R373). -/
def countIdle (s : State) (c : Nat) : State :=
  let k := s.core c
  if k.power ≠ .active ∨ k.resetting then s
  else if !(coreQuiet s c && k.retained.isEmpty) then s.setCore c { k with idleSince := s.cyc + 1 }
  else if k.idleSince + 64 ≤ s.cyc then due s [(.coreGate, [c])]
  else s

/-- Operations that wait for a word and have been sent or parked, where they can proceed after the cycle's writes (R140, R253). -/
def pollParked (s : State) (c : Nat) : State :=
  (((s.core c).feWait.filter fun w => w.body.isSome || w.req.isSome).map (·.loc)).eraseDups.foldl (fun s loc => afterFe s c loc) s

/-- Admissions that can be tried, and the kernel an arrival waits for (R282, R375). -/
def pollArrivals (s : State) (c : Nat) : State :=
  let k := s.core c
  match oldestArrival (k.arrivals ++ k.spill) with
  | none => s
  | some a =>
    let s1 := if packetDead s a.body || codeLoaded s (clusterOf c) a.body.launch then s else loadCode s (clusterOf c) a.body.launch
    if (admitOldest s1 c).isSome then
      due s1 ((k.arrivals.filter fun x => x.ended.isSome).map fun _ => (Instr.packetAdmit, [c]))
    else s1

/-- A core that holds a slot has one in the coming cycle too (R209). -/
def noteBusy (s : State) (c : Nat) : State :=
  if coreEmpty s c then s else s.updCore c fun k => { k with busy := some (s.cyc + 1) }

def closeCore (s : State) (c : Nat) : State :=
  acceptEnded (countIdle (countDeep (noteBusy s c) c) c) c

/-! ### The end of a cycle: clusters -/

/-- The accumulators of a cluster freed of their owner (R257). -/
def freeAccs (s : State) (cl : Nat) : State :=
  let k := s.cluster cl
  match k.accOwner with
  | none => s
  | some o =>
    let bound := (List.range 8).any fun i => (threadsOn s (8 * cl + i)).any fun t => t.2.ctag == o
    if bound || k.accs.any fun a => a.2.lcnt != 0 then s
    else s.setCluster cl { k with accOwner := none, accs := [] }

/-- What the job queues and subscriptions of a cluster make due (R259, R264, R266). -/
def clusterDue (s : State) (cl : Nat) : List (Instr × List Nat) :=
  let k := s.cluster cl
  let matrix := if k.engine.isNone ∧ (nextMatrix s cl).isSome then [(Instr.matrixJobStart, [cl])] else []
  let copies := [4, 5, 6, 7].flatMap fun q =>
    (if (startable s cl q).isSome then [(Instr.copyJobStart, [cl, q])] else [])
    ++ (match (s.jobQueue cl q).jobs with
      | j :: _ =>
        if j.phase = .ended ∧ j.pendingWrites = 0 ∧ j.kind.writes?.isNone then [(Instr.copyJobComplete, [cl, q])] else []
      | [] => [])
  let subs := k.subs.flatMap fun e => e.2.writes.filterMap fun w =>
    if w.2 = 0 then some (Instr.storerWritebackComplete, [cl, e.1, w.1]) else none
  matrix ++ copies ++ subs

def closeCluster (s : State) (cl : Nat) : State :=
  let s1 := applyChanges (retryMisses s cl) cl
  due s1 (clusterDue s1 cl)

/-! ### The end of a cycle: groups and launches -/

/-- Groups that may retire and launches that may complete (R393, R401, R423). -/
def workDue (s : State) : List (Instr × List Nat) :=
  let groups := s.groups.filterMap fun e =>
    let l := e.1 / 2 ^ 24
    let g := e.1 % 2 ^ 24
    if e.2.st = .running ∧ (e.2.started ∨ e.2.cancelled) ∧ (e.2.cancelled ∨ !s.halted l) ∧ groupDone s l g e.2 then
      some (Instr.groupRetire, [l, g]) else none
  let ended := s.launches.filterMap fun e => if launchDone s e.1 e.2 ∧ mayEnd s e.2 then some e.1 else none
  let held := s.sched.held.filterMap fun d => match d with
    | .launch l => if ended.contains l then some (Instr.launchComplete, [l]) else none
    | .signal q => if (signalTurn s q).isSome then some (Instr.packetSignal, [q]) else none
  groups ++ held ++ (ended.filter fun l => !s.sched.held.contains (.launch l)).map fun l => (Instr.launchComplete, [l])

def fencesDue (s : State) : List (Instr × List Nat) :=
  s.fences.filterMap fun f => if fenceReady s f.2 then some (Instr.qfenceComplete, [f.2.cluster, f.1]) else none

/-- The admissions that the instructions and events of a cycle leave possible: queues and accumulators that have lost their owner are
free first (R219, R257, R375). -/
def admitting (s : State) : State :=
  let s1 := s.cores.foldl (fun s c => freeQueues s c.1) s
  let s2 := s1.clusters.foldl (fun s c => freeAccs s c.1) s1
  s2.cores.foldl (fun s c => pollArrivals s c.1) s2

/-- What the state at the end of a cycle makes due in it, after its trap records, in ascending core and slot (R86). -/
def closing (s : State) : State :=
  let s0 := flushTraps (s.cores.foldl (fun s c => pollParked s c.1) s)
  let s1 := s0.cores.foldl (fun s c => closeCore s c.1) s0
  let s2 := armScrubs (s1.clusters.foldl (fun s c => closeCluster s c.1) s1)
  due s2 (fencesDue s2 ++ workDue s2)

/-- The accesses of every core to its own store that fall in this cycle performed (R216). -/
def ownCycles (s : State) : State := s.cores.foldl (fun s c => ownCycle s c.1) s

/-! ### The matrix engine's cycle (R278, R280, R416) -/

/-- Whether a thread of the cluster holds a grant on a core-store or vault bank in this cycle. -/
def banksTaken (s : State) (cl : Nat) : Bool :=
  ((s.cluster cl).banks.any fun b => b.2 == s.cyc)
    || (List.range 8).any fun i => (s.core (8 * cl + i)).banks.any fun b => decide (16 ≤ b.1) && b.2 == s.cyc

/-- Whether the engine of a cluster may advance a job now: it is within its allowance or inside a chunk, and no higher class has
taken a bank it needs. An `mrd` needs those of its row `ran`, all in this cycle (R278); which banks another job reads is open
(entry 61). -/
def mayAdvance (s : State) (cl ran : Nat) (kind : JobKind) (inChunk : Bool) : Bool × State :=
  if !(inChunk || decide ((s.cluster cl).eact < engineAllowance s cl)) then (false, s)
  else match kind with
    | .mrd _ h _ => (match takeEngineRow s cl h ran with
        | some s1 => (true, s1)
        | none => (false, s))
    | .mma .. | .mzero .. | .mwr .. | .cpy .. | .fence .. =>
      if banksTaken s cl then (!Config.freeBit s.fresh, { s with fresh := s.fresh + 1 }) else (true, s)

/-- Whether a core's vector unit is occupied in this cycle; one whose user a freeze or a halt holds is not (R303, R305, R416). -/
def vectorBusy (s : State) (k : CoreSt) : Bool :=
  decide (s.cyc < k.vecFree) && !s.frozen k.vecUser.1 k.vecUser.2 && !s.halted k.vecUser.1

/-- The vector cycles of a cluster counted for its window (R416). -/
def countVector (s : State) (cl : Nat) : State :=
  let n := (s.cores.filter fun e => clusterOf e.1 == cl && vectorBusy s e.2).length
  if n = 0 then s else s.updCluster cl fun k => { k with vact := k.vact + n }

def countVectors (s : State) : State := ((s.cores.map fun c => clusterOf c.1).eraseDups).foldl countVector s

/-- One cycle of a cluster's engine. The job of a halted launch goes back to its queue at a chunk boundary (R283). -/
def advanceEngine (s : State) (cl : Nat) : State :=
  match runningJob s cl with
  | none => s
  | some (r, j) =>
    let ran := r.total - r.left
    let c := (jobTime s cl j.kind).2
    let inChunk := ran % c != 0
    if r.left = 0 ∨ s.cyc < r.since then s
    else if s.halted j.launch && !inChunk && !j.canc then
      (updJob s cl r.queue r.seq fun j => { j with phase := .queued, ran := ran }).updCluster cl fun k => { k with engine := none }
    else
      let (go, s1) := mayAdvance s cl ran j.kind inChunk
      if !go then s1
      else
        let s2 := s1.updCluster cl fun k => { k with
          engine := some { r with left := r.left - 1 }, eact := k.eact + 1 }
        let s3 := match j.kind with
          | .mrd .. => later 1 .bytesLand [cl, r.queue, ran, r.seq.toNat, 1] s2
          | .mma .. | .mzero .. | .mwr .. | .cpy .. | .fence .. => s2
        if r.left = 1 then arm 1 .matrixJobEnd [cl] s3 else s3

/-! ### The start of a cycle -/

/-- What the barrier unit of a group does in the coming cycle (R293, R297). -/
def barrierDue (l g : Nat) (y : Group) : List (Instr × List Nat) :=
  let fires := y.barrier.entries.filterMap fun e =>
    if y.barrier.complete e.2 then some (Instr.marverFire, [l, g, e.1]) else none
  fires ++ (if y.barrier.canStep then [(Instr.gafferStep, [l, g])] else [])

/-- Whether an ageing step of R397 falls in this cycle. -/
def ageDue (s : State) (x : Launch) : Bool :=
  x.st == .ready && (match x.readySince with
    | some t => decide (t < s.cyc) && (s.cyc - t) % ageStep == 0
    | none => false)

/-- What a launch makes due: its scoreboard, its releases and its ageing (R397, R400). -/
def launchDue (s : State) (l : Nat) (x : Launch) : List (Instr × List Nat) :=
  if x.st ≠ .ready ∨ x.halted then []
  else
    let enter := if x.next < x.order.length ∧ x.cnt < 65536 ∧ !x.cancelled then [(Instr.scoreboardEnter, [l])] else []
    let window := (List.range (x.next - x.head)).map (· + x.head)
    let release := window.filterMap fun pos => match x.order[pos]? with
      | some g => if releasable s l g then some (Instr.groupRelease, [l, pos]) else none
      | none => none
    enter ++ release ++ (if ageDue s x then [(Instr.priorityAge, [l])] else [])

/-- What the hub does with a queue: a signal's write, packets that were cancelled unread, and the packet at `QREAD` (R387, R389,
R393). -/
def queueDue (s : State) (q : Nat) : List (Instr × List Nat) :=
  let write := if (signalTurn s q).isSome then [(Instr.packetSignal, [q])] else []
  let dead := (s.hq q).started.filterMap fun e => match e.2 with
    | .cancelled => some (Instr.packetLaunch, [q, e.1])
    | .launch _ | .graph _ | .wait .. | .waited _ | .signal .. | .complete => none
  let read := match readable s q with
    | some (i, bs) => (match packetEvent bs with
        | .packetSignal => [(Instr.packetSignal, [q, i])]
        | ev => [(ev, [q])])
    | none => []
  write ++ dead ++ read

/-- The page of a slot that the hub is to read, posted to the pager where it is absent (R321, R388). -/
def postSlot (s : State) (q : Nat) : State :=
  let h := s.hq q
  match queueTag s q with
  | some ctag =>
    if aheadOf s q ≠ 0 ∧ hubStarts s ∧ (slotBytes s q h.qread.toNat).isNone then
      postMissing s ctag (h.qbase.toNat + 256 * (h.qread.toNat % 2 ^ h.log)) 256
    else s
  | none => s

/-- Completions held for a take-over that are no longer due, dropped (R423). -/
def pruneHeld (s : State) : State :=
  let still (d : Due) : Bool := match d with
    | .launch l => (s.launch? l).any fun x => launchDone s l x && mayEnd s x
    | .signal q => (signalTurn s q).isSome
  { s with sched := { s.sched with held := s.sched.held.filter still } }

/-- What the state at the start of a cycle makes due in it. -/
def opening (s : State) : State :=
  let s1 := s.launches.foldl (fun s e => scoreHead 65536 s e.1) (pruneHeld s)
  let s2 := s1.hqueues.foldl (fun s e => if schedulerUp s then stepDone e.2.started.length s e.1 else s) s1
  let live := s2.groups.filter fun e => e.2.st == .running && !s2.halted (e.1 / 2 ^ 24)
  let s3 := live.foldl (fun s e => gafferPrefetch s (e.1 / 2 ^ 24) (e.1 % 2 ^ 24)) s2
  let s4 := s2.hqueues.foldl (fun s e => postSlot s e.1) s3
  due s4 ((live.flatMap fun e => barrierDue (e.1 / 2 ^ 24) (e.1 % 2 ^ 24) e.2)
    ++ (s2.launches.flatMap fun e => launchDue s2 e.1 e.2) ++ s2.hqueues.flatMap fun e => queueDue s2 e.1)

/-- The next cycle: the cycle's activity is counted, the engines have advanced, and `x.cyc` counts on (R79, R416). -/
def newCycle (s : State) : State :=
  let s1 := s.clusters.foldl (fun s c => advanceEngine s c.1) (countVectors s)
  opening { s1 with cyc := s1.cyc + 1, phase := .early, turn := 0 }

/-! ### One step -/

/-- An event that is due, or else the next phase. -/
def eventOr (s : State) (early : Bool) (rest : State) : Host.Outcome State Fault Refusal :=
  match firstDue s early s.pending with
  | some (_, p, l) => runEvent { s with pending := l } p
  | none => .next rest

/-- One step: an event, an instruction, or the next phase of the cycle. -/
def stepOnce (s : State) : Host.Outcome State Fault Refusal :=
  match s.phase with
  | .early => eventOr s true { (findStalls s) with phase := .issue, turn := 0 }
  | .issue => match nextIssue s with
    | some (key, t) => if issues s key t then runThread s key t else .next (tryStalled s key t)
    | none => .next { (ownCycles s) with phase := .late }
  | .late => eventOr s false { (admitting s) with phase := .admission }
  | .admission => eventOr s false { (closing s) with phase := .close }
  | .close => eventOr s false (newCycle s)

/-! ### A word to be fetched next -/

/-- The word at a thread's PC replaced in its code buffer. -/
def setCode (s : State) (core : Nat) (t : Thread) (w : InstrWord) : State :=
  s.updCluster (clusterOf core) fun k => { k with code := k.code.map fun b =>
    if b.launch = t.launch then
      { b with words := (b.words ++ List.replicate (t.pc.toNat + 1 - b.words.length) 0).set t.pc.toNat w, loaded := true
               poisoned := false }
    else b }

/-- A thread that stands for one a launch would place: on core 0, in the slot whose issue cycle this is, with a code segment
that holds its word. -/
def loadedThread (s : State) : Thread :=
  { blankThread false 0 128 0 32 16 (s.core 0).rot with
    cseg := { Segment.null with limit := 12, x := true, kind := .code, colour := 1 }
    launch := 0, readyAt := s.cyc }

/-- A launch of one thread with nothing else. -/
def loadedLaunch : Launch where
  st := .ready
  queue := 0
  index := 0
  graph := none
  job := 0
  pid := 0
  ctag := 0
  header := ⟨1, 128, 32, 16, 0, 1, 1, 3, false, false, 0, 0, 1, 0⟩
  headerAddr := 0
  grid := (1, 1, 1)
  dims := 1
  priority := 16
  scope := 4
  fence := 0
  policy := 0
  barrierIdx := none
  deps := []
  sweep := (0, 0, 0)
  segs := List.replicate 8 none
  sigAddr := 0
  sigValue := 0
  ringAddr := 0
  ringLog := 4
  coreImage := (0, 0)
  vaultImage := (0, 0)
  recAddr := 0
  privileged := false
  order := [0]
  next := 1
  head := 0
  cnt := 1
  retired := 0
  cancelledGroups := 0
  cancelled := false
  refusal := 0
  trapsWritten := 0
  trapsLost := 0
  lostPackets := 0
  effPriority := 16
  readySince := none
  startedAt := 0
  begun := true
  halted := false
  doomed := false

/-- The launch, the group, the code buffer and the thread that a word needs to be fetched where no thread is about to issue
(entry 7). -/
def loadWord (s : State) (w : InstrWord) : State :=
  let key := slotKey 0 (s.cyc % s.rotLen 0)
  let y : Group := { Group.fresh with
    st := .running, started := true, places := [⟨0, 0, slotOf key⟩], held := [0], unissued := [] }
  let s1 := { s with
    phase := .issue
    turn := 0
    launches := s.launches.set 0 loadedLaunch
    groups := s.groups.set (groupKey 0 0) y
    errs := s.errs.filter fun e => e.1 != ErrSite.pred 0 (slotOf key) && e.1 != ErrSite.code 0 0
    threads := s.threads.set key (loadedThread s) }
  let s2 := s1.updCore 0 fun k => { k with power := .active, resetting := false, rotFrom := min k.rotFrom s.cyc }
  s2.updCluster 0 fun k => { k with code := ⟨0, [w], [], true, false⟩ :: k.code.filter fun b => b.launch != 0 }

/-- A state whose next step fetches and runs a word: the thread about to issue finds it at its PC, and where none is about to,
one is put there. -/
def placeWord (s : State) (w : InstrWord) : State :=
  let ready : Option (Nat × Thread) := match s.phase with
    | .issue => (nextIssue s).filter fun e => issues s e.1 e.2
    | .early | .late | .admission | .close => none
  match ready with
  | some (key, t) =>
    let open_ : Bool := match codeOf s (clusterOf (coreOf key)) t.launch with
      | some b => (fetchCheck t b).isNone
      | none => false
    if issueError s key t = none ∧ !predDelay s key ∧ open_ then setCode s (coreOf key) t w else loadWord s w
  | none => loadWord s w

end Sys2Proof.Machine
end

