-- ==== Sys2Proof/Safety.lean ====
section
/-! DEFINITION. The words claims about the machine are stated in: an instruction that issues, the operands it reads, what its
result must be, and what it leaves unchanged. -/

namespace Sys2Proof.Machine

/-! ### An instruction that issues (R17, R19, R28) -/

/-- An instruction of the thread that `State.cur` names, as its body meets it. -/
def issueState (i : Instr) (c : Ctl) (t : Thread) (s : State) : Iss :=
  ⟨s, s.cur, t, i, c.t, guardMask t c (Instr.lane i), none, 7, [], [], false, [], [], 0, 0, none,
    false, none, false, .ready⟩

/-- A thread instruction passes what comes before its operands: a thread issues, every register it names lies in the thread's
windows (R17), and its guard enables it (R19). -/
abbrev Issues (i : Instr) (s : State) (c : Ctl) (t : Thread) : Prop :=
  i.ctl = some c ∧ s.thread? s.cur = some t ∧ windowTrap t i = none ∧ guardMask t c (Instr.lane i) ≠ 0

/-- The instruction completed: its thread is READY and waits for nothing, where a trap leaves it STOPPED and a wait leaves its
cause (R82). -/
abbrev Completed (s : State) (key : Nat) : Prop :=
  match s.thread? key with
  | some t => t.st = .ready ∧ t.cause = none
  | none => False

/-- One integer source A is read, with value `va`; `y` is the instruction after that. The queues allow it (R18, R220). -/
abbrev Source1 (x : Iss) (d a : Opnd) (va : Word) (y : Iss) : Prop :=
  x.queues [a] [d] = .ok () ∧ x.int 1 a = .ok (va, y)

/-- The integer sources A and B are read in that order. -/
abbrev Source2 (x : Iss) (d a b : Opnd) (va vb : Word) (y : Iss) : Prop :=
  x.queues [a, b] [d] = .ok () ∧ ∃ x1, x.int 1 a = .ok (va, x1) ∧ x1.int 2 b = .ok (vb, y)

/-- The integer sources A, B and D of an instruction that reads D. -/
abbrev Source3 (x : Iss) (d a b : Opnd) (va vb vd : Word) (y : Iss) : Prop :=
  x.queues [a, b, d] [d] = .ok () ∧ ∃ x1 x2, x.int 1 a = .ok (va, x1) ∧ x1.int 2 b = .ok (vb, x2) ∧ x2.int 3 d = .ok (vd, y)

/-! ### Integer results, from the rules' own words (R88, R117, R119 to R122) -/

/-- The low `n` bits of a value as a number, signed unless `u`. -/
def lowInt (u : Bool) (n : Nat) (v : Word) : Int := if u then ((v.setWidth n).toNat : Int) else (v.setWidth n).toInt

/-- The least and the greatest number of `n` bits. -/
def leastInt (u : Bool) (n : Nat) : Int := if u then 0 else -(2 ^ (n - 1))
def greatestInt (u : Bool) (n : Nat) : Int := if u then 2 ^ n - 1 else 2 ^ (n - 1) - 1

/-- `r` holds the exact result `z` fitted to `n` bits, saturated where `sat` says so and else modulo 2^n, and widened to 64 bits
(R88, R117). -/
def FitsAs (sat u : Bool) (n : Nat) (z : Int) (r : Word) : Prop :=
  (if sat then lowInt u n r = max (leastInt u n) (min (greatestInt u n) z)
   else ((2 : Int) ^ n ∣ lowInt u n r - z) ∧ leastInt u n ≤ lowInt u n r ∧ lowInt u n r ≤ greatestInt u n)
  ∧ r = (if u then (r.setWidth n).setWidth 64 else (r.setWidth n).signExtend 64)

/-- The low `n` bits of a value, the others cleared. -/
def lowBits (n : Nat) (v : Word) : Word := (v.setWidth n).setWidth 64

/-! ### What an instruction that only computes leaves unchanged -/

/-- The operands that an instruction writes. -/
def dests (i : Instr) : List Opnd :=
  match i with
  | .kaddB _ _ a b | .ksubB _ _ a b | .kmulB _ _ a b | .kdivB _ _ a b | .kfmaB _ _ a b | .kmaxB _ _ a b | .kminB _ _ a b
  | .kmacB _ _ a b | .kcmpB _ _ _ a b => [a, b]
  | .knegB _ _ a | .kabsB _ _ a | .ksqrB _ _ a | .ksqrtB _ _ a | .kexpB _ _ a | .klogB _ _ a | .kreluB _ _ a
  | .kscaleB _ _ a _ => [a]
  | .ksplit _ d a => [d, a]
  | _ => match i.operands with
    | some (d, _, _) => [d]
    | none => []

/-- General-file entries among some operands of a thread. -/
def gTargets (key : Nat) (t : Thread) (os : List Opnd) : List Nat :=
  os.filterMap fun o => match o with
    | .g n => some (gKey (coreOf key) (t.gBase + n.val))
    | .bg n => some (gKey (coreOf key) (t.bBase + n.val))
    | _ => none

/-- Wide-file entries among some operands of a thread. -/
def wTargets (key : Nat) (t : Thread) (os : List Opnd) : List Nat :=
  os.filterMap fun o => match o with
    | .v n => some (wKey (coreOf key) (t.wBase + n.val))
    | .k n => some (wKey (coreOf key) (t.wBase + ceil8 t.nv + n.val))
    | _ => none

/-- The operand fields of an instruction. -/
def fields (i : Instr) : List Opnd :=
  match i.operands with
  | some (d, a, b) => [d, a, b]
  | none => []

/-- Instructions that only compute: they read and write registers and queues, and nothing else of the machine. -/
def registerOnly (i : Instr) : Bool :=
  match i with
  | .nop .. | .mov .. | .movi .. | .add .. | .sub .. | .mul .. | .mulh .. | .div .. | .rem .. | .min .. | .max .. | .abs ..
  | .and .. | .or .. | .xor .. | .andn .. | .shl .. | .shr .. | .sar .. | .rot .. | .clz .. | .ctz .. | .popc .. | .bext ..
  | .bins .. | .ext .. | .sel .. | .cmp .. | .plog .. | .pmov .. | .lea ..
  | .fadd .. | .fsub .. | .fmul .. | .fma .. | .fdiv .. | .fsqrt .. | .fmin .. | .fmax .. | .fabs .. | .fneg .. | .fcmp ..
  | .fcvt .. | .fclass .. | .frnd ..
  | .br .. | .brr .. | .call .. | .ret .. | .loop .. | .join .. | .slot ..
  | .vadd .. | .vsub .. | .vmul .. | .vfma .. | .vmin .. | .vmax .. | .vabs .. | .vneg .. | .vrcp .. | .vrsqrt .. | .vexp2 ..
  | .vlog2 .. | .vdiv .. | .vsqrt .. | .vand .. | .vor .. | .vxor .. | .vshl .. | .vshr .. | .vcmp .. | .vsel .. | .vcvt ..
  | .vbfp .. | .vunbfp .. | .vperm .. | .vbcast .. | .vext .. | .vins .. | .vred .. | .vscan .. | .vdot .. | .vtag .. | .vgtag ..
  | .vmov .. | .vclamp ..
  | .kaddF .. | .kaddB .. | .ksubF .. | .ksubB .. | .kmulF .. | .kmulB .. | .kdivF .. | .kdivB .. | .kfmaF .. | .kfmaB ..
  | .knegF .. | .knegB .. | .kabsF .. | .kabsB .. | .ksqrF .. | .ksqrB .. | .ksqrtF .. | .ksqrtB .. | .kexpF .. | .kexpB ..
  | .klogF .. | .klogB .. | .kreluF .. | .kreluB .. | .kmaxF .. | .kmaxB .. | .kminF .. | .kminB .. | .kscaleF .. | .kscaleB ..
  | .kmacF .. | .kmacB .. | .kcap .. | .khull .. | .kmk .. | .klo .. | .khi .. | .kmid .. | .kwid .. | .ksplit .. | .kcmpF ..
  | .kcmpB .. | .kin .. | .kstat .. | .kmov .. | .kset .. | .mlog ..
  | .qcnt .. | .qclr .. | .xmov .. | .xrd .. | .cyc .. | .cycDeadline .. => true
  | _ => false

/-- What an instruction that only computes leaves unchanged, from `s` to `s'`, where `t` is its thread in `s`: all of memory
and every other part of the machine, every register it does not write, every other thread, every other core and cluster. -/
structure RegFrame (i : Instr) (c : Ctl) (t : Thread) (s s' : State) : Prop where
  /-- only these fields change; memory, the network, launches, contexts and time stand -/
  rest : s' = { s with threads := s'.threads, gfile := s'.gfile, wfile := s'.wfile, cores := s'.cores,
                       clusters := s'.clusters, errs := s'.errs }
  general : ∀ e, e ∉ gTargets s.cur t (dests i) → s'.gfile.getD e 0 = s.gfile.getD e 0
  wide : ∀ e, e ∉ wTargets s.cur t (dests i) → s'.wfile.getD e .zero = s.wfile.getD e .zero
  others : ∀ k, k ≠ s.cur → s'.thread? k = s.thread? k
  thread : ∀ t', s'.thread? s.cur = some t' →
    t' = { t with pc := t'.pc, preds := t'.preds, mregs := t'.mregs, status := t'.status, st := .ready, cause := none,
                  readyAt := t'.readyAt, parkedOn := none, nominal := t'.nominal, outstanding := t'.outstanding,
                  deposited := t'.deposited, popped := t'.popped }
    ∧ (∀ n : Fin 8, .p n ∉ dests i → t'.preds[n] = t.preds[n])
    ∧ (∀ n : Fin 8, .m n ∉ dests i → t'.mregs[n] = t.mregs[n])
    ∧ ∃ f : Flags, t'.status = deepIdle (orFlags t.status f) c.d (Instr.lane i)
  cores : ∀ k, k ≠ coreOf s.cur → s'.core k = s.core k
  core : s'.core (coreOf s.cur) = { s.core (coreOf s.cur) with
    queues := (s'.core (coreOf s.cur)).queues, banks := (s'.core (coreOf s.cur)).banks
    laneAt := (s'.core (coreOf s.cur)).laneAt, vecFree := (s'.core (coreOf s.cur)).vecFree
    vecUser := (s'.core (coreOf s.cur)).vecUser }
  queues : ∀ q, q ∉ Iss.queuesOf (fields i) → s'.queue (coreOf s.cur) q = s.queue (coreOf s.cur) q
  clusters : ∀ k, k ≠ clusterOf (coreOf s.cur) → s'.cluster k = s.cluster k
  cluster : s'.cluster (clusterOf (coreOf s.cur)) =
    { s.cluster (clusterOf (coreOf s.cur)) with err := (s'.cluster (clusterOf (coreOf s.cur))).err }
  errs : ∀ e ∈ s'.errs, e ∈ s.errs

/-! ### Memory that the machine writes by itself -/

/-- A byte of a cluster's trace ring, which lies at offsets 0x2F_0000 to 0x2F_FFFF of its vault (R281, R348): a write of a traced
launch puts its record there. -/
def InTraceRing (k : Nat) : Prop := ∃ cl off, off < 0x10000 ∧ k = vaultLoc cl (0x2F0000 + off)

/-! ### Replies in the network -/

/-- A reply sent: it stands in the network, and either reaches its source within 1,024 cycles, with its number after the numbers
it carries, or is discarded for its age (R370, R372). -/
def ReplySent (s : State) (ev : Instr) (args : List Nat) : Prop :=
  ∃ id, s.packets.has id = true ∧ ∃ e ∈ s.pending,
    (e.ev = ev ∧ e.args = args ++ [id] ∧ s.cyc < e.at_ ∧ e.at_ ≤ s.cyc + 1024)
      ∨ (e.ev = .flitAgeDiscard ∧ e.args = [id, 0] ∧ e.at_ = s.cyc + 1025)

/-! ### Streamers -/

/-- The bytes of a tile's elements, each of whole bytes, that a descriptor maps into its tensor and of which none is refused have been
sent to their homes, as writes of unit `u` (R264, R266). -/
def SendsWindow (s s' : State) (cl h : Nat) (x : StreamJob) (u : Nat × Nat × BitVec 32) : Prop :=
  let t := s.tile cl h
  let w := Tag.bits t.fmt / 8
  let ds := x.desc
  ∀ r c b loc, r < t.rows → c < t.cols → b < w → 0 ≤ ds.row0 + r → ds.row0 + r < ds.erows → 0 ≤ ds.col0 + c →
    ds.col0 + c < ds.ecols →
    let off := ds.o0 + (ds.row0 + r).toNat * ds.stride + (ds.col0 + c).toNat * w
    (∀ b', b' < w → ∃ loc', findByte s cl x.core x.ctag x.seg true x.declined (off + b') = .at_ loc') →
    findByte s cl x.core x.ctag x.seg true x.declined (off + b) = .at_ loc →
    ∃ p ∈ s'.reqs, ∃ l bs, p.2.kind = .write l bs none (some u) ∧ l ≤ loc
      ∧ bs[loc - l]? = some (some (readByte s (t.at_ cl (r * t.pitch + c * w + b))))

/-- A tile of whole bytes that is no block-floating-point tile. -/
def PlainTile (t : Tile) : Prop := t.isBfp = false ∧ Tag.bits t.fmt % 8 = 0

/-! ### Tables of results -/

/-- Integer arithmetic of two sources: signedness, saturation, width, operands, and the exact result (R119). -/
def arithCase (i : Instr) : Option (Bool × Bool × Width × Opnd × Opnd × Opnd × (Int → Int → Int)) :=
  match i with
  | .add _ w u st d a b => some (st, u, w, d, a, b, fun x y => x + y)
  | .sub _ w u st d a b => some (st, u, w, d, a, b, fun x y => x - y)
  | .mul _ w u st d a b => some (st, u, w, d, a, b, fun x y => x * y)
  | .mulh _ w u d a b => some (false, u, w, d, a, b, fun x y => x * y / 2 ^ wbits w)
  | .min _ w u d a b => some (false, u, w, d, a, b, fun x y => if x ≤ y then x else y)
  | .max _ w u d a b => some (false, u, w, d, a, b, fun x y => if x ≤ y then y else x)
  | _ => none

/-- Bitwise instructions of two sources: operands and the result (R119, R125). -/
def bitCase (i : Instr) : Option (Opnd × Opnd × Opnd × (Word → Word → Word)) :=
  match i with
  | .and _ d a b => some (d, a, b, fun x y => x &&& y)
  | .or _ d a b => some (d, a, b, fun x y => x ||| y)
  | .xor _ d a b => some (d, a, b, fun x y => x ^^^ y)
  | .andn _ d a b => some (d, a, b, fun x y => x &&& ~~~y)
  | .lea _ n d a b => some (d, a, b, fun x y => x + y * 2 ^ n.toNat)
  | .plog _ t d a b => some (d, a, b, fun x y =>
      BitVec.ofFnLE fun j : Fin 64 => t.getLsbD ((if x.getLsbD j then 2 else 0) + (if y.getLsbD j then 1 else 0)))
  | _ => none

/-- Shifts: operands and the result of the value and the count (R121). -/
def shiftCase (i : Instr) : Option (Opnd × Opnd × Opnd × (Word → Nat → Word)) :=
  match i with
  | .shl _ w d a b => some (d, a, b, fun x n => lowBits (wbits w) (x <<< n))
  | .shr _ w d a b => some (d, a, b, fun x n => lowBits (wbits w) x >>> n)
  | .sar _ w d a b => some (d, a, b, fun x n => ((x.setWidth (wbits w)).sshiftRight n).signExtend 64)
  | .rot _ w d a b => some (d, a, b, fun x n => ((x.setWidth (wbits w)).rotateLeft n).setWidth 64)
  | _ => none

/-- Whether a condition holds of two integers (R124). -/
def intHolds (c : Cond) (x y : Int) : Bool :=
  match c with
  | .eq => x == y
  | .ne => x != y
  | .lt => decide (x < y)
  | .le => decide (x ≤ y)
  | .gt => decide (y < x)
  | .ge => decide (y ≤ x)
  | .uo => false
  | .ord => true

/-- What a comparison writes (R124): all ones or zero into a predicate, 1 or 0 elsewhere. -/
def verdict (d : Opnd) (b : Bool) : Word :=
  match d, b with
  | .p _, true => BitVec.allOnes 64
  | _, true => 1
  | _, false => 0

/-! ### Floating point, by exact rationals (R91 to R97) -/

/-- The rational `m · 2^e`. -/
def scaledBy (m : Nat) (e : Int) : ℚ := m * 2 ^ e

/-- The value of a finite datum. -/
def valueOf (x : XVal) : Option ℚ :=
  match x with
  | .zero _ => some 0
  | .num x => some (if x.neg then -(scaledBy x.m x.e) else scaledBy x.m x.e)
  | .nan _ | .inf _ => none

/-- `j` is the integer that a rounding mode takes for the magnitude `z` of a value of sign `neg` (R94). -/
def RoundsTo (mode : RMode) (neg : Bool) (z : ℚ) (j : Nat) : Prop :=
  let down := (j : ℚ) ≤ z ∧ z < j + 1
  let up := z ≤ j ∧ (j : ℚ) < z + 1
  match mode with
  | .rtz => down
  | .rdn => if neg then up else down
  | .rup => if neg then down else up
  | .rne => |z - j| ≤ 1 / 2 ∧ (|z - j| = 1 / 2 → j % 2 = 0)
  | .rna => |z - j| ≤ 1 / 2 ∧ (|z - j| = 1 / 2 → z < j)

/-- A real `z` other than 0 held as far as rounding can see: its sign, and a magnitude of at least 64 bits where it is cut. The
condition on the magnitude is given as a test `le` of a rational against `|z|`. -/
def Holds (x : Ex) (neg : Bool) (le eq : ℚ → Prop) : Prop :=
  x.neg = neg ∧ 0 < x.m ∧ le (scaledBy x.m x.e) ∧ ¬ le (scaledBy (x.m + 1) x.e)
    ∧ (x.st = false ↔ eq (scaledBy x.m x.e)) ∧ (x.st = true → 2 ^ 64 ≤ x.m)

/-- Float operations of two sources with one rounding: format, rounding, operands, and the exact operation (R126). -/
def floatCase (i : Instr) : Option (FFmt × Rnd × Opnd × Opnd × Opnd × (RMode → XVal → XVal → XVal × Flags)) :=
  match i with
  | .fadd _ f r d a b => some (f, r, d, a, b, fun m x y => xadd m x y)
  | .fsub _ f r d a b => some (f, r, d, a, b, fun m x y => xadd m x y.negate)
  | .fmul _ f r d a b => some (f, r, d, a, b, fun _ x y => xmul x y)
  | .fdiv _ f r d a b => some (f, r, d, a, b, fun _ x y => xdiv x y)
  | _ => none

/-- The value of the low bits of a register in a format (R117). -/
def readF (f : FFmt) (v : Word) : XVal := (fmtOf f).decode (v.toNat % 2 ^ (fmtOf f).bits)

/-! ### Vectors -/

/-- The signed value of the low `b` bits of an element. -/
def elemInt (b x : Nat) : Int := (BitVec.ofNat b x).toInt

/-- `r` holds an exact result in `b` bits, clamped where `sat` says so and else modulo 2^b (R88). -/
def FitsElem (sat : Bool) (b : Nat) (z : Int) (r : Nat) : Prop :=
  r < 2 ^ b ∧ if sat then elemInt b r = max (leastInt false b) (min (greatestInt false b) z) else (2 : Int) ^ b ∣ elemInt b r - z

/-- Instructions that compute D element by element: operands, whether D is read, the tags accepted, the cycles of the unit, and
the element from the status, the tag and the elements of A, B and D (R155 to R159, R162). -/
def laneCase (i : Instr) :
    Option (Opnd × Opnd × Opnd × Bool × (Tag → Bool) × Nat × (BitVec 32 → Tag → Nat → Nat → Nat → Nat × Flags)) :=
  match i with
  | .vadd _ r st d a b => some (d, a, b, false, Tag.isNum, 1, fun w t x y z => numElem opAdd t (roundOf w r) st x y z)
  | .vsub _ r st d a b => some (d, a, b, false, Tag.isNum, 1, fun w t x y z => numElem opSub t (roundOf w r) st x y z)
  | .vmul _ r st d a b => some (d, a, b, false, Tag.isNum, 1, fun w t x y z => numElem opMul t (roundOf w r) st x y z)
  | .vfma _ r st d a b => some (d, a, b, true, Tag.isNum, 1, fun w t x y z => numElem opFma t (roundOf w r) st x y z)
  | .vmin _ d a b => some (d, a, b, false, Tag.isNum, 1, fun _ t x y _ => minmaxElem false t x y)
  | .vmax _ d a b => some (d, a, b, false, Tag.isNum, 1, fun _ t x y _ => minmaxElem true t x y)
  | .vabs _ st d a => some (d, a, .none, false, Tag.isNum, 1, fun _ t x _ _ => signElem false t st x)
  | .vneg _ st d a => some (d, a, .none, false, Tag.isNum, 1, fun _ t x _ _ => signElem true t st x)
  | .vrcp _ r st d a => some (d, a, .none, false, Tag.isFlt, 4, fun w t x _ _ => writeF t.fmt (roundOf w r) st (xrcp (t.fmt.decode x)))
  | .vrsqrt _ r st d a => some (d, a, .none, false, Tag.isFlt, 4, fun w t x _ _ => writeF t.fmt (roundOf w r) st (xrsqrt (t.fmt.decode x)))
  | .vexp2 _ r st d a => some (d, a, .none, false, Tag.isFlt, 4, fun w t x _ _ => writeF t.fmt (roundOf w r) st (xexp2 (t.fmt.decode x)))
  | .vlog2 _ r st d a => some (d, a, .none, false, Tag.isFlt, 4, fun w t x _ _ => writeF t.fmt (roundOf w r) st (xlog2 (t.fmt.decode x)))
  | .vsqrt _ r st d a => some (d, a, .none, false, Tag.isFlt, 4, fun w t x _ _ => writeF t.fmt (roundOf w r) st (xsqrt (t.fmt.decode x)))
  | .vdiv _ r st d a b => some (d, a, b, false, Tag.isFlt, 4,
      fun w t x y _ => writeF t.fmt (roundOf w r) st (xdiv (t.fmt.decode x) (t.fmt.decode y)))
  | .vand _ d a b => some (d, a, b, false, Tag.isBit, 1, fun _ _ x y _ => (x &&& y, 0))
  | .vor _ d a b => some (d, a, b, false, Tag.isBit, 1, fun _ _ x y _ => (x ||| y, 0))
  | .vxor _ d a b => some (d, a, b, false, Tag.isBit, 1, fun _ _ x y _ => (x ^^^ y, 0))
  | .vshl _ d a b => some (d, a, b, false, Tag.isInt, 1, fun _ t x y _ => ((BitVec.ofNat t.bits x <<< y).toNat, 0))
  | .vshr _ ar d a b => some (d, a, b, false, Tag.isInt, 1, fun _ t x y _ =>
      ((if ar then (BitVec.ofNat t.bits x).sshiftRight y else BitVec.ofNat t.bits x >>> y).toNat, 0))
  | .vclamp _ d a b => some (d, a, b, true, Tag.isNum, 1, fun _ t x y z =>
      let m := minmaxElem true t z x
      let r := minmaxElem false t m.1 y
      (r.1, m.2 ||| r.2))
  | _ => none

/-- A source of an element computation is read: a vector's tag is not looked at here. -/
abbrev Sources (x : Iss) (a b : Opnd) (va vb : Src) (y : Iss) : Prop := ∃ x1, x.src 1 a = .ok (va, x1) ∧ x1.src 2 b = .ok (vb, y)

/-- The reduction tree of R112 over `2^k` elements given as a function. -/
def treeOf (f : Nat → Nat → Nat) : Nat → (Nat → Nat) → Nat
  | 0, g => g 0
  | k + 1, g => treeOf f k fun j => f (g j) (g (j + 2 ^ k))

/-- The values after `k` levels of that tree over `2^n` elements. -/
def treeLevel (f : Nat → Nat → Nat) (n : Nat) : Nat → (Nat → Nat) → Nat → Nat
  | 0, g, j => g j
  | k + 1, g, j => f (treeLevel f n k g j) (treeLevel f n k g (j + 2 ^ (n - k - 1)))

/-- The scan of R113, `k` levels from distance `d`. -/
def scanOf (f : Nat → Nat → Nat) : Nat → Nat → (Nat → Nat) → Nat → Nat
  | 0, _, g => g
  | k + 1, d, g => scanOf f k (2 * d) fun j => if j < d then g j else f (g (j - d)) (g j)

/-- The checks of a permutation pass: A and B are numbers, and B's tag is the integer tag of A's width (R151, R166). A queue's
entry is looked at where it can be popped. -/
abbrev PermutePasses (x : Iss) (d a b : Opnd) (t : Tag) : Prop :=
  let seen := x.entriesSeen [a, b]
  x.formatRun seen (Iss.tagUses d a b false anyTag Tag.isNum Tag.isNum) (some ⟨1, a, 0, anyTag⟩) []
      (fun f => x.agreePass seen (Tag.intTag f) [⟨2, b, Iss.popsBefore [a] b, anyTag⟩]) = .ok ()
    ∧ x.queues [a, b] [d] = .ok () ∧ x.tagOf 0 a = t

/-! ### Intervals -/

/-- Forward forms of one interval: operands, cycles and the lane's result (R186, R188). -/
def kForward1 (i : Instr) : Option (Opnd × Opnd × Nat × (Fmt → Box → IVal)) :=
  match i with
  | .knegF _ d a => some (d, a, 1, fun _ p => some (fwdNeg p))
  | .kabsF _ d a => some (d, a, 1, fun _ p => some (fwdAbs p))
  | .ksqrF _ d a => some (d, a, 2, fun f p => some (fwdSqr f p))
  | .ksqrtF _ d a => some (d, a, 4, fwdSqrt)
  | .kexpF _ d a => some (d, a, 4, fun f p => some (fwdExp f p))
  | .klogF _ d a => some (d, a, 4, fwdLog)
  | .kreluF _ d a => some (d, a, 1, fun _ p => some (fwdRelu p))
  | _ => none

/-- Forward forms of two operands (R186, R188, R189, R195). -/
def kForward2 (i : Instr) : Option (Opnd × Opnd × Opnd × Nat × (Fmt → Box → Box → IVal)) :=
  match i with
  | .kaddF _ d a b => some (d, a, b, 1, fun f p q => some (fwdAdd f p q))
  | .ksubF _ d a b => some (d, a, b, 1, fun f p q => some (fwdSub f p q))
  | .kmulF _ d a b => some (d, a, b, 2, fun f p q => some (fwdMul f p q))
  | .kdivF _ d a b => some (d, a, b, 4, fwdDiv)
  | .kmaxF _ d a b => some (d, a, b, 1, fun _ p q => some (fwdMax p q))
  | .kminF _ d a b => some (d, a, b, 1, fun _ p q => some (fwdMin p q))
  | .kscaleF _ d a b => some (d, a, b, 1, fun f p q => some (fwdMul f p q))
  | .kcap _ d a b => some (d, a, b, 1, fun _ p q => cap p q)
  | _ => none

/-- Backward forms: operands, whether B is written, cycles and the lane's narrowed pair (R186, R191 to R193). -/
def kBackward (i : Instr) : Option (Opnd × Opnd × Opnd × Bool × Nat × (Fmt → Box → Box → Box → Box → IVal × IVal)) :=
  match i with
  | .kaddB _ d a b => some (d, a, b, true, 2, bwdAdd)
  | .ksubB _ d a b => some (d, a, b, true, 2, bwdSub)
  | .kmulB _ d a b => some (d, a, b, true, 4, bwdMul)
  | .kdivB _ d a b => some (d, a, b, true, 8, bwdDiv)
  | .kmaxB _ d a b => some (d, a, b, true, 2, bwdMax)
  | .kminB _ d a b => some (d, a, b, true, 2, bwdMin)
  | .kscaleB _ d a b => some (d, a, b, false, 2, bwdScale)
  | .knegB _ d a => some (d, a, .none, false, 2, bwd1 bwdNeg)
  | .kabsB _ d a => some (d, a, .none, false, 2, bwd1 bwdAbs)
  | .ksqrB _ d a => some (d, a, .none, false, 4, bwd1 bwdSqr)
  | .ksqrtB _ d a => some (d, a, .none, false, 8, bwd1 bwdSqrt)
  | .kexpB _ d a => some (d, a, .none, false, 8, bwd1 bwdExp)
  | .klogB _ d a => some (d, a, .none, false, 8, bwd1 bwdLog)
  | .kreluB _ d a => some (d, a, .none, false, 2, bwd1 bwdRelu)
  | _ => none

/-- A register whose enabled lanes are written with intervals, with the others of `old` kept (R107, R183). -/
def KLanes (t : Tag) (mask : Word) (old r : Wide) (f : Nat → IVal) : Prop :=
  ∀ j, j < Lane.lanes t → rawPair t r j = if mask.getLsbD j then pairBits (Lane.fmt t) (f j) else rawPair t old j

/-- The flags of an interval instruction, ORed over the enabled lanes: IV, EM and NP, and no other (R78, R181). -/
def KFlagged (t : Tag) (mask : Word) (fl : Flags) (ill empty moved : Nat → Bool) : Prop :=
  let some_ (p : Nat → Bool) : Prop := ∃ j, j < Lane.lanes t ∧ mask.getLsbD j = true ∧ p j = true
  (fl.getLsbD 7 = true ↔ some_ ill) ∧ (fl.getLsbD 6 = true ↔ some_ empty) ∧ (fl.getLsbD 5 = true ↔ some_ moved)
    ∧ ∀ k, k ≠ 5 → k ≠ 6 → k ≠ 7 → fl.getLsbD k = false

/-- A rational lies at or above, or at or below, a bound. -/
def AtLeast (x : XVal) (q : ℚ) : Prop := x = .inf true ∨ ∃ v, valueOf x = some v ∧ v ≤ q
def AtMost (x : XVal) (q : ℚ) : Prop := x = .inf false ∨ ∃ v, valueOf x = some v ∧ q ≤ v

/-- A rational lies in an interval. -/
def InBox (q : ℚ) (b : Box) : Prop := AtLeast b.lo q ∧ AtMost b.hi q
def InIVal (q : ℚ) (i : IVal) : Prop := ∃ b, i = some b ∧ InBox q b

/-- A real lies in an interval. -/
def HoldsReal (r : ℝ) (b : Box) : Prop :=
  (b.lo = .inf true ∨ ∃ v : ℚ, valueOf b.lo = some v ∧ (v : ℝ) ≤ r) ∧ (b.hi = .inf false ∨ ∃ v : ℚ, valueOf b.hi = some v ∧ r ≤ (v : ℝ))

/-- The fixed-point enclosure of an exponential or a logarithm of a datum is fine enough to be truncated at one of the precisions it is
tried at. -/
def ExpSettles (x : XVal) : Prop :=
  ∀ y, x = .num y → y.log2 < 13 → -70 ≤ y.log2 → ∃ k, k < 5 ∧ (y.expAt (256 * 2 ^ k)).isSome = true
def LogSettles (x : XVal) : Prop :=
  ∀ y, x = .num y → y.neg = false → y.cmp ⟨false, 1, 0, false⟩ ≠ .eq → ∃ k, k < 5 ∧ (y.lnAt (320 * 2 ^ k)).isSome = true

/-- An interval whose bounds are data of a format. -/
def BoxOf (f : Fmt) (b : Box) : Prop := ∃ l h, b = ⟨f.decode l, f.decode h⟩

/-- Whether a condition holds of two rationals. -/
def ratHolds (c : Cond) (x y : ℚ) : Prop :=
  match c with
  | .eq => x = y
  | .ne => x ≠ y
  | .lt => x < y
  | .le => x ≤ y
  | .gt => y < x
  | .ge => y ≤ x
  | .uo => False
  | .ord => True

end Sys2Proof.Machine
end

