-- ==== Sys2Proof/Certificates/Slice0/Obligations.lean ====
section
/-! DEFINITION. Statements about the machine, for the provers. -/

open Sys2Proof Sys2Proof.Machine

/-! ### Words, steps and traps -/

/-- The word of a well-formed thread instruction decodes to that instruction: no operand, guard, hint or variant is lost. -/
def Obligations.EncodedInstructionDecodesBack : Prop :=
  ∀ (i : Instr) (w : InstrWord), i.wellFormed = true → encode i = some w → decode w = .ok i

/-- A word that decodes is the encoding of the instruction it decodes to, and that instruction is well-formed. -/
def Obligations.DecodedWordEncodesBack : Prop :=
  ∀ (w : InstrWord) (i : Instr), decode w = .ok i → encode i = some w ∧ i.wellFormed = true

/-- Words that the spec writes out bit by bit decode to the instructions they stand for. -/
def Obligations.SpecWordsDecode : Prop :=
  let c : Ctl := ⟨false, 0, false, false⟩
  decode 0x0409C00000000500005FFFF9 = .ok (.add ⟨true, 4, false, false⟩ .i32 false true (.g 5) (.g 5) (.imm 0x1FFF9))
  ∧ decode 0x03000008000009123456789A = .ok (.movi c .i64 false (.g 9) (.wide 0x123456789A))
  ∧ decode 0x3400000000000100000FFFFD = .ok (.loop c (.g 1) (.imm 0x1FFFD))
  ∧ decode 0x4102080200000700003E0028 = .ok (.st ⟨false, 0, true, false⟩ .s4 (.g 7) ⟨2, .g 3, .imm 40⟩)
  ∧ decode 0x4922000100000500002E0008 = .ok (.aop c .add false .rel (.g 5) ⟨1, .g 2, .imm 8⟩)
  ∧ decode 0x630028000200032000120002 = .ok (.vfma ⟨false, 2, true, false⟩ .dyn false (.v 3) (.v 1) (.v 2))
  ∧ decode 0xA85100000600094000400006 = .ok (.kcmpB c .ge (.m 1) (.k 4) (.g 6))
  ∧ decode 0xB7000000000004000090000C = .ok (.sendr c (.g 4) (.g 9) (.g 12))
  ∧ decode 0xC0000001800007C100000006 = .ok (.mma c true 1 (.g 7) (.acc 0) (.g 6))
  ∧ decode 0xD300000000000A00009E4000 = .ok (.cwait c (.g 10) (.g 9) (.imm 0x4000))
  ∧ decode 0xE2000000000001C000400000 = .ok (.xrd c (.g 1) (.x .rank))

/-- Every word that decodes has an assigned opcode, zero in the reserved hints and a rounding code below 6; an unassigned
opcode, the zero word and the word of ones are refused by name (R22, R23, R28, R55). -/
def Obligations.DecodingRejects : Prop :=
  decode 0 = .error .zeroWord ∧ decode (BitVec.allOnes 96) = .error .onesWord
  ∧ (∀ w : InstrWord, w ≠ 0 → w ≠ BitVec.allOnes 96 → assignedOp (w.extractLsb' 88 8) = false →
      decode w = .error .unassignedOp)
  ∧ ∀ (w : InstrWord) (i : Instr), decode w = .ok i →
      assignedOp (w.extractLsb' 88 8) = true ∧ w.extractLsb' 68 6 = 0 ∧ (w.extractLsb' 60 3).toNat < 6

/-- A step of a thread that issues: where the word at its PC decodes, the step is that instruction's meaning, after what precedes
an issue (the thread is named by `cur`, the turn moves on to the next core); where the word is illegal, the thread traps with
E_ILLOP and the detail of the first failed check. -/
def Obligations.StepRunsTheDecodedInstruction : Prop :=
  ∀ (s : State) (key : Nat) (t : Thread) (b : CodeBuf),
    s.phase = .issue → nextIssue s = some (key, t) → issues s key t = true → issueError s key t = none → predDelay s key = false →
    codeOf (prepare s key t) (clusterOf (coreOf key)) t.launch = some b → b.loaded = true → fetchCheck t b = none →
    (prepare s key t).cur = key ∧ (prepare s key t).turn = coreOf key + 1
    ∧ (∀ i, decode (fetchWord (prepare s key t) b t) = .ok i → step s = exec i (prepare s key t))
    ∧ ∀ e, decode (fetchWord (prepare s key t) b t) = .error e →
        step s = .next (takeTrap (prepare s key t) key ⟨0x01, e.detail, 0⟩)

/-- A fetch beyond the code segment traps with E_BOUNDS, segment 8, access fetch, and the byte offset as second detail. A
thread instruction that names a register outside its thread's windows traps with E_WINDOW, whatever its guard: the kind,
the field and the index of the first such register are the detail. -/
def Obligations.FetchAndWindowTraps : Prop :=
  (∀ (s : State) (key : Nat) (t : Thread) (b : CodeBuf),
     s.phase = .issue → nextIssue s = some (key, t) → issues s key t = true → issueError s key t = none → predDelay s key = false →
     codeOf (prepare s key t) (clusterOf (coreOf key)) t.launch = some b → b.loaded = true →
     (t.cseg.kind = .null ∨ t.cseg.limit.toNat < 12 * t.pc.toNat + 12) →
     step s = .next (takeTrap (prepare s key t) key
       (eBounds (detail 8 2 0 0) (BitVec.ofNat 64 (12 * t.pc.toNat)))))
  ∧ (∀ (i : Instr) (c : Ctl) (s : State) (t : Thread) (n : Named), i.ctl = some c → s.thread? s.cur = some t →
       (Instr.named i).find? (outside t) = some n → exec i s = .next (takeTrap s s.cur (eWindow n.kind n.field n.index)))

/-- A disabled instruction steps its PC and nothing else of the machine moves: memory, registers, predicates, queues, clusters
and every other thread stand, and of the status only the deep-idle bit follows the hint D or a lane instruction. -/
def Obligations.DisabledInstructionOnlySteps : Prop :=
  ∀ (i : Instr) (c : Ctl) (s : State) (t : Thread), i.ctl = some c → s.thread? s.cur = some t → windowTrap t i = none →
    guardMask t c (Instr.lane i) = 0 → ∃ s', exec i s = .next s'
      ∧ s'.thread? s.cur = some { t with
          pc := t.pc + 1, status := deepIdle t.status c.d (Instr.lane i), st := .ready, cause := none
          readyAt := s.cyc + 1, parkedOn := none, nominal := none }
      ∧ s' = { s with threads := s'.threads, cores := s'.cores }
      ∧ (∀ k, k ≠ s.cur → s'.thread? k = s.thread? k)
      ∧ (∀ k, k ≠ coreOf s.cur → s'.core k = s.core k)
      ∧ s'.core (coreOf s.cur) = { s.core (coreOf s.cur) with laneAt := (s'.core (coreOf s.cur)).laneAt }

/-- Taking a trap ends its thread's issue with the PC at the instruction: until its record is written it waits for that, and
then it is STOPPED. Its registers stay readable: no register file, predicate or status changes, an open packet is gone,
no other thread and no byte of memory is touched, and its record is due in this cycle. The 64-byte trap record: each
field of the record holds what the spec says it holds. A trap record goes into the next place of its launch's ring, with
its valid byte, where the consumer left room; a record that would overwrite one that is not consumed is counted as lost
and memory stands. A record waits while a page of the ring is absent, is moved, or is held by a tile (log entry 47).
Records of one cycle are written in an order that does not depend on when in the cycle their threads trapped. -/
def Obligations.TrapsAndTheirRecords : Prop :=
  (∀ (s : State) (key : Nat) (t : Thread) (x : Trap), s.thread? key = some t →
     (takeTrap s key x).thread? key = some { t with
       st := .blocked, cause := some .record, outstanding := none, idle := none, machineErr := none, nominal := none
       packet := none }
     ∧ (takeTrap s key x).gfile = s.gfile ∧ (takeTrap s key x).wfile = s.wfile
     ∧ (∀ k, k ≠ key → (takeTrap s key x).thread? k = s.thread? k)
     ∧ (takeTrap s key x).cyc = s.cyc ∧ (takeTrap s key x).mem = s.mem
     ∧ (takeTrap s key x).trapOut = s.trapOut ++ [(key, t.launch, t.group, trapRecord s key t x)])
  ∧ (∀ (s : State) (key : Nat) (t : Thread) (x : Trap) (l : Launch), s.launch? t.launch = some l →
       let r := trapRecord s key t x
       let f (at_ n : Nat) : Nat := ofBytes ((r.drop at_).take n)
       r.length = 63
       ∧ f 0 4 = l.job % 2 ^ 32 ∧ f 4 4 = t.launch % 2 ^ 32
       ∧ f 8 4 = (coords l.grid t.group).1 % 2 ^ 32 ∧ f 12 4 = (coords l.grid t.group).2.1 % 2 ^ 32
       ∧ f 16 4 = (coords l.grid t.group).2.2 % 2 ^ 32
       ∧ f 20 2 = clusterOf (coreOf key) % 2 ^ 16 ∧ f 22 1 = coreOf key % 8 ∧ f 23 1 = slotOf key
       ∧ f 24 4 = t.pc.toNat ∧ f 28 2 = x.cause % 2 ^ 16 ∧ f 32 4 = x.detail.toNat ∧ f 36 8 = x.second.toNat
       ∧ f 44 2 = t.rank % 2 ^ 16 ∧ f 48 8 = s.cyc % 2 ^ 64)
  ∧ ((∀ (s : State) (k g : Nat) (bytes bs : List Byte) (l : Launch), s.launch? k = some l →
       let place := l.ringAddr.toNat + 64 * (l.trapsWritten % 2 ^ l.ringLog)
       daBytes s l.ctag (l.ringAddr.toNat - 64) 4 = some bs →
       let room : Prop := (l.trapsWritten - ofBytes bs) % 2 ^ 32 < 2 ^ l.ringLog
       (∀ loc, room → hubReaches s l.ctag place 64 = true → daLoc s l.ctag place = some loc → place % 64 = 0 → bytes.length = 63 →
         ∃ s', writeTrapRecord s k g bytes = some s'
           ∧ readBytes s' loc 64 = bytes ++ [lapParity l.trapsWritten l.ringLog]
           ∧ (∀ a, a < loc ∨ loc + 64 ≤ a → readByte s' a = readByte s a)
           ∧ ∃ l', s'.launch? k = some l' ∧ l'.trapsWritten = l.trapsWritten + 1 ∧ l'.trapsLost = l.trapsLost)
       ∧ (¬ room → ∃ s', writeTrapRecord s k g bytes = some s' ∧ s'.mem = s.mem
           ∧ ∃ l', s'.launch? k = some l' ∧ l'.trapsWritten = l.trapsWritten ∧ l'.trapsLost = l.trapsLost + 1)
       ∧ (room → hubReaches s l.ctag place 64 = false → writeTrapRecord s k g bytes = none))
     ∧ (∀ (s : State) (k g : Nat) (bytes : List Byte) (l : Launch), s.launch? k = some l →
         daBytes s l.ctag (l.ringAddr.toNat - 64) 4 = none → writeTrapRecord s k g bytes = none)
     ∧ ∀ (s : State) (out : List (Nat × Nat × Nat × List Byte)), out.Perm s.trapOut → (s.trapOut.map (·.1)).Nodup →
         flushTraps { s with trapOut := out } = flushTraps s)

/-- The machine right after reset: no thread, nothing written in memory, no page, no launch, the queues at zero with
disabled rings, every die's cap at 2,048, the first power window 256 cycles ahead. The values the spec does not give are
the model's (log entry 3). The memory of the machine right after reset has the canonical form. -/
def Obligations.ResetState : Prop :=
  (State.reset.cyc = 0 ∧ State.reset.threads = [] ∧ State.reset.launches = [] ∧ State.reset.groups = []
   ∧ (∀ a, readByte State.reset a = unwritten) ∧ (∀ k, State.reset.core k = .reset) ∧ (∀ k, State.reset.cluster k = .reset)
   ∧ (∀ q, (State.reset.hq q).qkick = 0 ∧ (State.reset.hq q).qread = 0 ∧ (State.reset.hq q).qdone = 0
       ∧ (State.reset.hq q).qign = 0 ∧ (State.reset.hq q).en = false)
   ∧ (CoreSt.reset.spawns = 0 ∧ CoreSt.reset.qOwner = none ∧ CoreSt.reset.tags = [] ∧ CoreSt.reset.retained = [])
   ∧ (ClusterSt.reset.tiles = [] ∧ ClusterSt.reset.accs = [] ∧ ClusterSt.reset.accOwner = none)
   ∧ DieSt.reset.cap = 2048 ∧ DieSt.reset.ecap = 2048
   ∧ State.reset.contexts = [] ∧ State.reset.partitions = [] ∧ ⟨256, .powerWindow, []⟩ ∈ State.reset.pending)
  ∧ (Memory.wf State.reset.mem)

/-! ### Integer instructions -/

/-- The integer source forms. A general or a borrowed register reads its entry of the general file; a poisoned entry traps
instead, and a correctable one is corrected and counted. An immediate is sign-extended. A predicate reads its bits, p0
as all ones. A queue gives the data of its oldest entry, which leaves the queue. Reading changes nothing else but the
bank accesses noted for the issue. Where an integer result goes: a general or borrowed register's entry, whose error
mark ends; a predicate, but for p0, which discards it; a queue, as an entry whose data is the result and whose tag is 0,
reserved at the issue. Every other entry of the file and every other predicate stands. The wide source and result forms:
a vector register lies at its index from the base of the thread's wide window, an interval register after the vector
window rounded up to 8; a poisoned entry traps. A wide queue gives and takes whole entries with their tags. The queue
rules of an instruction: naming any queue while its core's queues belong to another context is E_RIGHTS with the queue
as detail; otherwise it issues only if each source queue holds the entries it pops and each destination queue has room
after those pops, and waits without effect if not. -/
def Obligations.OperandsReadAndWrite : Prop :=
  (∀ (x : Iss) (stage : Nat),
     (∀ (o : Opnd) (e : Nat), ((∃ n, o = .g n ∧ e = x.th.gBase + n.val) ∨ ∃ n, o = .bg n ∧ e = x.th.bBase + n.val) →
       (errAt x.s (.gfile x.core e) = none → ∃ y, x.int stage o = .ok (x.s.gfile.getD (gKey x.core e) 0, y)
         ∧ y = { x with stages := y.stages })
       ∧ (errAt x.s (.gfile x.core e) = some false → ∃ y, x.int stage o = .ok (x.s.gfile.getD (gKey x.core e) 0, y)
         ∧ errAt y.s (.gfile x.core e) = none ∧ y.s = countCe (dropErr x.s (.gfile x.core e)) x.cl
         ∧ y = { x with s := y.s, stages := y.stages, extra := x.extra + 2 })
       ∧ (errAt x.s (.gfile x.core e) = some true → x.int stage o = .error (.trap (eMachine 1 0)
         (some fun s => countUe s x.cl 1 (x.core % 8)))))
     ∧ (∀ v, x.int stage (.imm v) = .ok (v.signExtend 64, x))
     ∧ (∀ v, x.int stage (.wide v) = .ok (v.signExtend 64, x))
     ∧ x.int stage (.p 0) = .ok (BitVec.allOnes 64, x)
     ∧ (∀ n : Fin 8, n ≠ 0 → x.int stage (.p n) = .ok (x.th.preds[n], x))
     ∧ (∀ (n : Fin 16) (e : QEntry) (r : List QEntry), (x.s.queue x.core n.val).ents = e :: r → e.poison = none →
         errAt x.s (.queue x.core n.val e.seq) = none →
         ∃ y, x.int stage (.q n) = .ok (e.val.data.setWidth 64, y) ∧ y = { x with s := y.s }
           ∧ (y.s.queue x.core n.val).ents = r
           ∧ (∀ q, q ≠ n.val → y.s.queue x.core q = x.s.queue x.core q)
           ∧ y.s = { x.s with cores := y.s.cores } ∧ ∀ k, k ≠ x.core → y.s.core k = x.s.core k))
  ∧ (∀ (x : Iss) (v : Word),
       (∀ (o : Opnd) (e : Nat), ((∃ n, o = .g n ∧ e = x.th.gBase + n.val) ∨ ∃ n, o = .bg n ∧ e = x.th.bBase + n.val) →
         let y := x.setInt o v
         y.s.gfile.getD (gKey x.core e) 0 = v ∧ (∀ k, k ≠ gKey x.core e → y.s.gfile.getD k 0 = x.s.gfile.getD k 0)
         ∧ errAt y.s (.gfile x.core e) = none ∧ y.wrote = true ∧ y.th = x.th ∧ y.pushes = x.pushes
         ∧ y.s = { x.s with gfile := y.s.gfile, errs := y.s.errs })
       ∧ (x.setInt (.p 0) v).th = x.th
       ∧ (∀ n : Fin 8, n ≠ 0 → (x.setInt (.p n) v).th = { x.th with preds := x.th.preds.set n v } ∧ (x.setInt (.p n) v).s = x.s)
       ∧ ∀ n : Fin 16, x.setInt (.q n) v = { x with pushes := x.pushes ++ [(n.val, ⟨v.setWidth 2048, 0⟩)], wrote := true })
  ∧ (∀ (x : Iss) (stage : Nat) (v : VReg),
       (∀ (o : Opnd) (e : Nat), ((∃ n, o = .v n ∧ e = x.th.wBase + n.val)
           ∨ ∃ n, o = .k n ∧ e = x.th.wBase + (x.th.nv + 7) / 8 * 8 + n.val) →
         (errAt x.s (.wfile x.core e) = none → ∃ y, x.vec stage o = .ok (x.s.wfile.getD (wKey x.core e) .zero, y)
           ∧ y = { x with stages := y.stages })
         ∧ (errAt x.s (.wfile x.core e) = some true → x.vec stage o = .error (.trap (eMachine 2 0)
           (some fun s => countUe s x.cl 2 (x.core % 8))))
         ∧ (x.setVec o v).s.wfile.getD (wKey x.core e) .zero = v
         ∧ (∀ k, k ≠ wKey x.core e → (x.setVec o v).s.wfile.getD k .zero = x.s.wfile.getD k .zero)
         ∧ (x.setVec o v).s = { x.s with wfile := (x.setVec o v).s.wfile, errs := (x.setVec o v).s.errs })
       ∧ (∀ (n : Fin 16) (e : QEntry) (r : List QEntry), (x.s.queue x.core n.val).ents = e :: r → e.poison = none →
           errAt x.s (.queue x.core n.val e.seq) = none →
           ∃ y, x.vec stage (.q n) = .ok (e.val, y) ∧ (y.s.queue x.core n.val).ents = r)
       ∧ ∀ n : Fin 16, x.setVec (.q n) v = { x with pushes := x.pushes ++ [(n.val, v)], wrote := true })
  ∧ (∀ (x : Iss) (srcs dsts : List Opnd),
       let a := Iss.queuesOf srcs
       let b := Iss.queuesOf dsts
       let popped (q : Nat) : Nat := (a.filter fun p => p == q).length
       (a ++ b = [] → x.queues srcs dsts = .ok ())
       ∧ (∀ q r, a ++ b = q :: r → (x.s.core x.core).qOwner ≠ some x.th.ctag →
           x.queues srcs dsts = .error (.trap (eRights (detail (0x10 + q) 6 0 3) 0) none))
       ∧ ((x.s.core x.core).qOwner = some x.th.ctag →
           ((∀ q ∈ a, popped q ≤ Iss.filled x.s (x.s.queue x.core q))
               ∧ (∀ q ∈ b, (x.s.queue x.core q).ents.length - popped q < if q < 12 then 16 else 4) →
             x.queues srcs dsts = .ok ())
           ∧ (¬ ((∀ q ∈ a, popped q ≤ Iss.filled x.s (x.s.queue x.core q))
               ∧ (∀ q ∈ b, (x.s.queue x.core q).ents.length - popped q < if q < 12 then 16 else 4)) →
             x.queues srcs dsts = .error (.hold .queue x.s))))

/-- What the completion of an instruction does: the PC goes to the target or the next word, flags are ORed into the status, the
deep-idle bit follows the hints, the thread takes the state the instruction left it in, entries are pushed in order, and the
thread issues again only after its result is written. Memory and every other thread and core stand. -/
def Obligations.CompletionStepsTheThread : Prop :=
  ∀ (x : Iss) (c : Ctl), x.gone = false →
    let s' := x.finish c
    (∃ t', s'.thread? x.key = some t'
      ∧ t' = { x.th with
          pc := x.npc.getD (x.th.pc + 1), status := deepIdle (x.th.status ||| x.flags.setWidth 32) c.d (Instr.lane x.i)
          st := x.st, cause := none, outstanding := x.remote, deposited := [], parkedOn := none
          popped := if x.remote.isSome then x.th.popped else none, readyAt := t'.readyAt, nominal := t'.nominal }
      ∧ (x.wrote = false → t'.readyAt = x.s.cyc + 1)
      ∧ (x.wrote = true → x.s.cyc + x.lat + x.extra < t'.readyAt)
      ∧ (x.wrote = true → x.stages = [] → x.writes = [] → t'.readyAt = x.s.cyc + x.lat + x.extra + 1))
    ∧ (∀ q, (s'.queue x.core q).ents.map (·.val)
        = (x.s.queue x.core q).ents.map (·.val) ++ (x.pushes.filter fun p => p.1 == q).map (·.2))
    ∧ s' = { x.s with threads := s'.threads, cores := s'.cores, pending := s'.pending }
    ∧ (∀ k, k ≠ x.key → s'.thread? k = x.s.thread? k)
    ∧ (∀ k, k ≠ x.core → s'.core k = x.s.core k)

/-- An instruction that only computes leaves unchanged everything but its destinations, its own queues, its flags and its PC:
all of memory, every register it does not name as a destination, every other thread, core and cluster. -/
def Obligations.ComputingLeavesTheRestUnchanged : Prop :=
  ∀ (i : Instr) (c : Ctl) (s s' : State) (t : Thread), registerOnly i = true → i.ctl = some c → s.thread? s.cur = some t →
    exec i s = .next s' → Completed s' s.cur → RegFrame i c t s s'

/-- `add`, `sub`, `mul`, `mulh`, `min` and `max`: with both sources read, the instruction completes and writes the exact
result fitted to its width, wrapped or saturated, and widened. `mov`, `movi` and `abs`: with the source read, the
instruction completes and writes the source, or its magnitude, fitted to its width and widened. `abs` of the least
number wraps to itself or saturates to the greatest. `div` and `rem`: the quotient rounds toward zero and the remainder
takes the sign of A; a zero divisor gives all ones and A; the least number by −1 gives itself and 0 (the quotient
wraps). The result comes 16 cycles later at 64 bits and 8 at 32. -/
def Obligations.ArithmeticResults : Prop :=
  (∀ (i : Instr) (s : State) (c : Ctl) (t : Thread) (sat u : Bool) (w : Width) (d a b : Opnd) (f : Int → Int → Int)
     (va vb : Word) (y : Iss), arithCase i = some (sat, u, w, d, a, b, f) → Issues i s c t →
     Source2 (issueState i c t s) d a b va vb y →
     ∃ r, FitsAs sat u (wbits w) (f (lowInt u (wbits w) va) (lowInt u (wbits w) vb)) r
       ∧ exec i s = .next ((y.setInt d r).finish c))
  ∧ ((∀ (s : State) (c : Ctl) (t : Thread) (w : Width) (u : Bool) (d a : Opnd) (va : Word) (y : Iss),
       Issues (.mov c w u d a) s c t → Source1 (issueState (.mov c w u d a) c t s) d a va y →
       ∃ r, FitsAs false u (wbits w) (lowInt u (wbits w) va) r ∧ exec (.mov c w u d a) s = .next ((y.setInt d r).finish c))
     ∧ (∀ (s : State) (c : Ctl) (t : Thread) (w : Width) (u : Bool) (d b : Opnd) (vb : Word) (y : Iss),
       Issues (.movi c w u d b) s c t → (issueState (.movi c w u d b) c t s).queues [] [d] = .ok () →
       (issueState (.movi c w u d b) c t s).int 2 b = .ok (vb, y) →
       ∃ r, FitsAs false u (wbits w) (lowInt u (wbits w) vb) r ∧ exec (.movi c w u d b) s = .next ((y.setInt d r).finish c))
     ∧ (∀ (s : State) (c : Ctl) (t : Thread) (w : Width) (sat : Bool) (d a : Opnd) (va : Word) (y : Iss),
       Issues (.abs c w sat d a) s c t → Source1 (issueState (.abs c w sat d a) c t s) d a va y →
       ∃ r, FitsAs sat false (wbits w) |lowInt false (wbits w) va| r
         ∧ exec (.abs c w sat d a) s = .next ((y.setInt d r).finish c)))
  ∧ (∀ (s : State) (c : Ctl) (t : Thread) (w : Width) (u : Bool) (d a b : Opnd) (va vb : Word) (y : Iss),
       let n := wbits w
       let p := lowInt u n va
       let q := lowInt u n vb
       let late := if w = .i64 then 23 else if w = .i32 then 15 else 7
       (Issues (.div c w u d a b) s c t → Source2 (issueState (.div c w u d a b) c t s) d a b va vb y →
         ∃ r, FitsAs false u n (if q = 0 then -1 else p.tdiv q) r
           ∧ exec (.div c w u d a b) s = .next (({ y.setInt d r with lat := late } : Iss).finish c))
       ∧ (Issues (.rem c w u d a b) s c t → Source2 (issueState (.rem c w u d a b) c t s) d a b va vb y →
         ∃ r, FitsAs false u n (if q = 0 then p else p.tmod q) r
           ∧ exec (.rem c w u d a b) s = .next (({ y.setInt d r with lat := late } : Iss).finish c)))

/-- `and`, `or`, `xor`, `andn`, `lea` and `plog` write their 64-bit result; `pmov` writes its source; `sel` reads both
sources and writes A where bit 0 of its predicate is set, B where it is clear. `clz`, `ctz` and `popc` count in the low
bits of A, with the width for a zero source of `clz` and `ctz`; `ext` writes item B mod (64/w) of A, widened. `cmp`
writes the truth of its condition, all ones or zero into a predicate and 1 or 0 elsewhere; `nop` completes and writes
nothing. -/
def Obligations.BitwiseCountAndCompareResults : Prop :=
  ((∀ (i : Instr) (s : State) (c : Ctl) (t : Thread) (d a b : Opnd) (f : Word → Word → Word) (va vb : Word) (y : Iss),
     bitCase i = some (d, a, b, f) → Issues i s c t → Source2 (issueState i c t s) d a b va vb y →
     exec i s = .next ((y.setInt d (f va vb)).finish c))
   ∧ (∀ (s : State) (c : Ctl) (t : Thread) (d a : Opnd) (va : Word) (y : Iss), Issues (.pmov c d a) s c t →
     Source1 (issueState (.pmov c d a) c t s) d a va y → exec (.pmov c d a) s = .next ((y.setInt d va).finish c))
   ∧ (∀ (s : State) (c : Ctl) (t : Thread) (n : BitVec 3) (d a b : Opnd) (va vb : Word) (y : Iss),
     Issues (.sel c n d a b) s c t → Source2 (issueState (.sel c n d a b) c t s) d a b va vb y →
     exec (.sel c n d a b) s = .next ((y.setInt d
       (if n = 0 ∨ (t.preds[n.toNat]).getLsbD 0 = true then va else vb)).finish c)))
  ∧ (∀ (s : State) (c : Ctl) (t : Thread) (w : Width) (u : Bool) (d a b : Opnd) (va vb : Word) (y : Iss),
       let n := wbits w
       (Issues (.clz c w d a) s c t → Source1 (issueState (.clz c w d a) c t s) d a va y →
         ∃ k, k ≤ n ∧ (∀ j, j < k → va.getLsbD (n - 1 - j) = false) ∧ (k < n → va.getLsbD (n - 1 - k) = true)
           ∧ exec (.clz c w d a) s = .next ((y.setInt d (BitVec.ofNat 64 k)).finish c))
       ∧ (Issues (.ctz c w d a) s c t → Source1 (issueState (.ctz c w d a) c t s) d a va y →
         ∃ k, k ≤ n ∧ (∀ j, j < k → va.getLsbD j = false) ∧ (k < n → va.getLsbD k = true)
           ∧ exec (.ctz c w d a) s = .next ((y.setInt d (BitVec.ofNat 64 k)).finish c))
       ∧ (Issues (.popc c w d a) s c t → Source1 (issueState (.popc c w d a) c t s) d a va y →
         exec (.popc c w d a) s = .next ((y.setInt d (BitVec.ofNat 64 ((List.range n).countP va.getLsbD))).finish c))
       ∧ (Issues (.ext c w u d a b) s c t → Source2 (issueState (.ext c w u d a b) c t s) d a b va vb y →
         ∃ r, FitsAs false u n (lowInt u n (va >>> (n * (vb.toNat % (64 / n))))) r
           ∧ exec (.ext c w u d a b) s = .next ((y.setInt d r).finish c)))
  ∧ ((∀ (s : State) (c : Ctl) (t : Thread) (w : Width) (u : Bool) (k : Cond) (d a b : Opnd) (va vb : Word) (y : Iss),
       Issues (.cmp c w u k d a b) s c t → Source2 (issueState (.cmp c w u k d a b) c t s) d a b va vb y →
       exec (.cmp c w u k d a b) s = .next ((y.setInt d
         (verdict d (intHolds k (lowInt u (wbits w) va) (lowInt u (wbits w) vb)))).finish c))
     ∧ ∀ (s : State) (c : Ctl) (t : Thread), Issues (.nop c) s c t →
       exec (.nop c) s = .next ((issueState (.nop c) c t s).finish c))

/-- Shifts and rotates read the count as all 64 bits of B: `shl`, `shr` and `rot` zero-extend their result and `sar`
sign-extends it; a count of the width or more gives 0, or copies of the sign for `sar`; `rot` takes the count modulo the
width. -/
def Obligations.ShiftResults : Prop :=
  ∀ (i : Instr) (s : State) (c : Ctl) (t : Thread) (d a b : Opnd) (f : Word → Nat → Word) (va vb : Word) (y : Iss),
    shiftCase i = some (d, a, b, f) → Issues i s c t → Source2 (issueState i c t s) d a b va vb y →
    exec i s = .next ((y.setInt d (f va vb.toNat)).finish c)

/-- `bext` and `bins` take the position from B[5:0] and the length, at most 64, from B[14:8]. `bext` writes that field of A at
bit 0; `bins` writes the low bits of A into that field of D, and every other bit of D stands. -/
def Obligations.BitFieldResults : Prop :=
  ∀ (s : State) (c : Ctl) (t : Thread) (d a b : Opnd) (va vb vd : Word) (y : Iss),
    let pos := (vb.extractLsb' 0 6).toNat
    let len := min (vb.extractLsb' 8 7).toNat 64
    (Issues (.bext c d a b) s c t → Source2 (issueState (.bext c d a b) c t s) d a b va vb y →
      ∃ r : Word, (∀ j, j < 64 → r.getLsbD j = (decide (j < len) && va.getLsbD (pos + j)))
        ∧ exec (.bext c d a b) s = .next ((y.setInt d r).finish c))
    ∧ (Issues (.bins c d a b) s c t → Source3 (issueState (.bins c d a b) c t s) d a b va vb vd y →
      ∃ r : Word, (∀ j, j < 64 → r.getLsbD j = if pos ≤ j ∧ j < pos + len then va.getLsbD (j - pos) else vd.getLsbD j)
        ∧ exec (.bins c d a b) s = .next ((y.setInt d r).finish c))

/-! ### Floating point -/

/-- `fadd`, `fsub`, `fmul`, `fdiv`, `fma` and `fsqrt` read the low bits of their sources in their format, perform one exact
operation, round once in the instruction's mode, zero-extend the encoding and raise the operation's and the rounding's flags.
A division or root of `f64` comes 16 cycles later, of `f32` 8. What the exact operations give, `ExactAndInvalidOperations` says; how they
are rounded, `RoundingIsCorrect`. -/
def Obligations.FloatArithmeticRoundsOnce : Prop :=
  let late (f : FFmt) : Nat := if f = .f64 then 23 else if f = .f32 then 15 else 7
  (∀ (i : Instr) (s : State) (c : Ctl) (t : Thread) (f : FFmt) (r : Rnd) (d a b : Opnd)
    (op : RMode → XVal → XVal → XVal × Flags) (va vb : Word) (y : Iss), floatCase i = some (f, r, d, a, b, op) →
    Issues i s c t → Source2 (issueState i c t s) d a b va vb y →
    let m := roundOf t.status r
    let w := writeF (fmtOf f) m false (op m (readF f va) (readF f vb))
    exec i s = .next (({ (y.raise w.2).setInt d (BitVec.ofNat 64 w.1) with
      lat := match i with | .fdiv .. => late f | _ => 7 } : Iss).finish c))
  ∧ (∀ (s : State) (c : Ctl) (t : Thread) (f : FFmt) (r : Rnd) (d a b : Opnd) (va vb vd : Word) (y : Iss),
    Issues (.fma c f r d a b) s c t → Source3 (issueState (.fma c f r d a b) c t s) d a b va vb vd y →
    let m := roundOf t.status r
    let w := writeF (fmtOf f) m false (xfma m (readF f va) (readF f vb) (readF f vd))
    exec (.fma c f r d a b) s = .next (((y.raise w.2).setInt d (BitVec.ofNat 64 w.1)).finish c))
  ∧ (∀ (s : State) (c : Ctl) (t : Thread) (f : FFmt) (r : Rnd) (d a : Opnd) (va : Word) (y : Iss),
    Issues (.fsqrt c f r d a) s c t → Source1 (issueState (.fsqrt c f r d a) c t s) d a va y →
    let w := writeF (fmtOf f) (roundOf t.status r) false (xsqrt (readF f va))
    exec (.fsqrt c f r d a) s = .next (({ (y.raise w.2).setInt d (BitVec.ofNat 64 w.1) with lat := late f } : Iss).finish c))

/-- The exact operations on finite data: a sum, a product and a product plus a third have the value of the rationals (a
fused product is not rounded before the sum), and a quotient and a root are held to at least 64 bits with a mark where
they are cut. A zero sum of operands of opposite sign is −0 only when rounding down; a zero product or quotient takes
the product of the signs. None raises a flag. Invalid operations and NaN operands give a NaN, and raise `NV` where the
operation is invalid or an operand is a signalling NaN, also beside a quiet NaN addend; a division of a nonzero number
by zero gives an infinity and raises `DZ`; an infinity that is valid passes. -/
def Obligations.ExactAndInvalidOperations : Prop :=
  (∀ (m : RMode) (a b d : XVal) (p q r : ℚ), valueOf a = some p → valueOf b = some q → valueOf d = some r →
     (valueOf (xadd m a b).1 = some (p + q) ∧ (xadd m a b).2 = 0)
     ∧ ((xadd m a b).1.isZero → (xadd m a b).1.sgn = if a.isZero ∧ b.isZero ∧ a.sgn = b.sgn then a.sgn else m == .rdn)
     ∧ (valueOf (xmul a b).1 = some (p * q) ∧ (xmul a b).1.sgn = (a.sgn != b.sgn) ∧ (xmul a b).2 = 0)
     ∧ (valueOf (xfma m a b d).1 = some (p * q + r) ∧ (xfma m a b d).2 = 0)
     ∧ (p ≠ 0 → q ≠ 0 → (∀ x, a = .num x → x.st = false) → (∀ x, b = .num x → x.st = false) →
         ∃ x, xdiv a b = (.num x, 0) ∧ Holds x (a.sgn != b.sgn) (· ≤ |p / q|) (· = |p / q|))
     ∧ (a.isZero → q ≠ 0 → xdiv a b = (.zero (a.sgn != b.sgn), 0))
     ∧ (0 < p → (∀ x, a = .num x → x.st = false) →
         ∃ x, xsqrt a = (.num x, 0) ∧ Holds x false (fun z => z * z ≤ p) (fun z => z * z = p))
     ∧ (a.isZero → xsqrt a = (.zero a.sgn, 0)))
  ∧ (∀ (m : RMode) (a b d : XVal) (x : Ex) (n k : Bool),
       (a.isNan ∨ b.isNan →
         xadd m a b = (.nan false, if a.isSig ∨ b.isSig then Flags.nv else 0)
         ∧ xmul a b = (.nan false, if a.isSig ∨ b.isSig then Flags.nv else 0)
         ∧ xdiv a b = (.nan false, if a.isSig ∨ b.isSig then Flags.nv else 0))
       ∧ xadd m (.inf n) (.inf n) = (.inf n, 0) ∧ xadd m (.inf n) (.inf !n) = (.nan false, Flags.nv)
       ∧ xmul (.inf n) (.zero k) = (.nan false, Flags.nv) ∧ xmul (.zero k) (.inf n) = (.nan false, Flags.nv)
       ∧ xmul (.inf n) (.inf k) = (.inf (n != k), 0) ∧ xmul (.inf n) (.num x) = (.inf (n != x.neg), 0)
       ∧ (xfma m (.inf n) (.zero k) d).1 = .nan false ∧ (xfma m (.inf n) (.zero k) d).2 = Flags.nv
       ∧ ((xmul a b).1 = .nan false → (xfma m a b d).1 = .nan false)
       ∧ xdiv (.zero n) (.zero k) = (.nan false, Flags.nv) ∧ xdiv (.inf n) (.inf k) = (.nan false, Flags.nv)
       ∧ xdiv (.num x) (.zero k) = (.inf (x.neg != k), Flags.dz) ∧ xdiv (.inf n) (.zero k) = (.inf (n != k), 0)
       ∧ xdiv (.num x) (.inf k) = (.zero (x.neg != k), 0)
       ∧ xsqrt (.inf true) = (.nan false, Flags.nv) ∧ xsqrt (.inf false) = (.inf false, 0)
       ∧ (x.neg = true → xsqrt (.num x) = (.nan false, Flags.nv)) ∧ xsqrt (.nan n) = (.nan false, if n then Flags.nv else 0)
       ∧ ∀ (f : Fmt) (sat : Bool) (fl : Flags), writeF f m sat (.nan n, fl) = (f.nanBits, fl))

/-- Rounding is correct in every format and mode: an exact value, and any value that lies between two held magnitudes of 64 bits or
more and is marked as cut, is rounded to a multiple of the unit in the last place of its
binade, or of the least binade, by the mode; the result encodes that multiple, unless it is beyond the greatest finite number,
which gives an infinity or the greatest number as the mode and saturation say, and `OF` and `NX`. `NX` is raised exactly when
the value changed; `UF` never without `NX`. -/
def Obligations.RoundingIsCorrect : Prop :=
  ∀ (f : Fmt) (mode : RMode) (sat : Bool) (x : Ex) (v : ℚ), f ∈ [Fmt.f16, Fmt.b16, Fmt.f32, Fmt.f64] → 0 < x.m →
    (x.st = false → v = scaledBy x.m x.e) →
    (x.st = true → 2 ^ 64 ≤ x.m ∧ scaledBy x.m x.e < v ∧ v < scaledBy (x.m + 1) x.e) →
    let e := max x.log2 f.emin
    let unit : ℚ := 2 ^ (e - f.p + 1)
    let z := v / unit
    let r := roundEx f mode sat x
    ∃ j : Nat, RoundsTo mode x.neg z j
      ∧ (if f.emax < e ∨ (e = f.emax ∧ j = 2 ^ f.p) then
          r.2 = Flags.of ||| Flags.nx
          ∧ f.decode r.1 = (if sat = false ∧ (mode = .rne ∨ mode = .rna ∨ (mode = .rdn ∧ x.neg = true) ∨ (mode = .rup ∧ x.neg = false))
              then .inf x.neg else f.decode (f.maxBits x.neg))
        else
          valueOf (f.decode r.1) = some (if x.neg then -(j * unit) else j * unit) ∧ (f.decode r.1).sgn = x.neg
          ∧ (r.2 &&& Flags.nx = Flags.nx ↔ z ≠ j) ∧ (r.2 = 0 ∨ r.2 = Flags.nx ∨ r.2 = Flags.nx ||| Flags.uf))

/-- `fmin` and `fmax`: −0 lies below +0; of a NaN and a number the number is the result, of two NaNs the canonical NaN; a
signalling NaN raises `NV`, and nothing else a flag. -/
def Obligations.FloatMinMaxResults : Prop :=
  ∀ (isMax : Bool) (s : State) (c : Ctl) (t : Thread) (f : FFmt) (d a b : Opnd) (va vb : Word) (y : Iss),
    let i : Instr := if isMax then .fmax c f d a b else .fmin c f d a b
    Issues i s c t → Source2 (issueState i c t s) d a b va vb y →
    let p := readF f va
    let q := readF f vb
    let bitsOf (v : Word) : Word := lowBits (fmtOf f).bits v
    ∃ r, exec i s = .next (((y.raise (if p.isSig ∨ q.isSig then Flags.nv else 0)).setInt d r).finish c)
      ∧ (p.isNan → q.isNan → r = BitVec.ofNat 64 (fmtOf f).nanBits)
      ∧ (p.isNan → ¬ q.isNan → r = bitsOf vb) ∧ (¬ p.isNan → q.isNan → r = bitsOf va)
      ∧ (¬ p.isNan → ¬ q.isNan → (r = bitsOf va ∨ r = bitsOf vb)
          ∧ (p = .zero true → q = .zero false → r = if isMax then bitsOf vb else bitsOf va)
          ∧ (p = .zero false → q = .zero true → r = if isMax then bitsOf va else bitsOf vb)
          ∧ (p = .inf isMax → r = bitsOf vb) ∧ (p = .inf (!isMax) → r = bitsOf va)
          ∧ (∀ u v, valueOf p = some u → valueOf q = some v → u < v → r = if isMax then bitsOf vb else bitsOf va)
          ∧ (∀ u v, valueOf p = some u → valueOf q = some v → v < u → r = if isMax then bitsOf va else bitsOf vb))

/-- `fcmp`: a NaN operand makes the comparison unordered, and the zeros compare equal; a signalling NaN raises `NV` under
every condition, a quiet one under the four relations. `fabs` and `fneg` clear and invert the sign bit and copy every
other bit; `fclass` sets one bit, by the class; none of the three raises a flag. `fcvt` and `frnd`. Float to float
rounds into the destination, with a NaN canonical and `NV` for a signalling one. Float to integer rounds first and
judges the range on the rounded integer: outside it, the nearest limit and `NV` alone; inside it, `NX` where the value
changed; a NaN gives 0 and `NV`. Integer to float rounds the integer. `frnd` rounds to an integral value of its format,
and an infinity or a zero stands. -/
def Obligations.FloatComparesAndConversions : Prop :=
  ((∀ (s : State) (c : Ctl) (t : Thread) (f : FFmt) (k : Cond) (d a b : Opnd) (va vb : Word) (y : Iss),
     Issues (.fcmp c f k d a b) s c t → Source2 (issueState (.fcmp c f k d a b) c t s) d a b va vb y →
     let p := readF f va
     let q := readF f vb
     let relation : Bool := k = .lt ∨ k = .le ∨ k = .gt ∨ k = .ge
     let fl : Flags := if p.isSig ∨ q.isSig ∨ (relation ∧ (p.isNan ∨ q.isNan)) then Flags.nv else 0
     ∃ r : Bool, exec (.fcmp c f k d a b) s = .next (((y.raise fl).setInt d (verdict d r)).finish c)
       ∧ (p.isNan ∨ q.isNan → r = decide (k = .ne ∨ k = .uo))
       ∧ (∀ u v, valueOf p = some u → valueOf q = some v → (r = true ↔ match k with
           | .eq => u = v | .ne => u ≠ v | .lt => u < v | .le => u ≤ v | .gt => v < u | .ge => v ≤ u
           | .uo => False | .ord => True))
       ∧ (∀ n : Bool, p = .inf n → ¬ q.isNan → q ≠ .inf n → (r = true ↔ match k with
           | .eq | .uo => False | .ne | .ord => True | .lt | .le => n = true | .gt | .ge => n = false))
       ∧ (∀ n : Bool, q = .inf n → ¬ p.isNan → p ≠ .inf n → (r = true ↔ match k with
           | .eq | .uo => False | .ne | .ord => True | .lt | .le => n = false | .gt | .ge => n = true))
       ∧ (∀ n : Bool, p = .inf n → q = .inf n → r = decide (k = .eq ∨ k = .le ∨ k = .ge ∨ k = .ord)))
   ∧ (∀ (s : State) (c : Ctl) (t : Thread) (f : FFmt) (d a : Opnd) (va : Word) (y : Iss),
     let n := (fmtOf f).bits
     (Issues (.fabs c f d a) s c t → Source1 (issueState (.fabs c f d a) c t s) d a va y →
       exec (.fabs c f d a) s = .next ((y.setInt d (lowBits (n - 1) va)).finish c))
     ∧ (Issues (.fneg c f d a) s c t → Source1 (issueState (.fneg c f d a) c t s) d a va y →
       exec (.fneg c f d a) s = .next ((y.setInt d (lowBits n va ^^^ (1 <<< (n - 1)))).finish c))
     ∧ (Issues (.fclass c f d a) s c t → Source1 (issueState (.fclass c f d a) c t s) d a va y →
       let v := va.toNat % 2 ^ n
       let sub : Bool := v / 2 ^ (fmtOf f).fbits % 2 ^ (fmtOf f).ebits = 0
       ∃ k : Nat, exec (.fclass c f d a) s = .next ((y.setInt d (1 <<< k)).finish c)
         ∧ (match readF f va with
             | .inf neg => k = if neg then 0 else 7
             | .zero neg => k = if neg then 3 else 4
             | .nan sig => k = if sig then 8 else 9
             | .num x => k = if x.neg then (if sub then 2 else 1) else (if sub then 5 else 6)))))
  ∧ (∀ (s : State) (c : Ctl) (t : Thread) (rnd : Rnd) (sat : Bool) (d a : Opnd) (va : Word) (y : Iss),
       let m := roundOf t.status rnd
       (∀ (src dst : FFmt), Issues (.fcvt c (.ff src dst) rnd sat d a) s c t →
         Source1 (issueState (.fcvt c (.ff src dst) rnd sat d a) c t s) d a va y →
         let p := readF src va
         let w := writeF (fmtOf dst) m sat (p, if p.isSig then Flags.nv else 0)
         exec (.fcvt c (.ff src dst) rnd sat d a) s = .next (((y.raise w.2).setInt d (BitVec.ofNat 64 w.1)).finish c))
       ∧ (∀ (src : FFmt) (u : Bool), Issues (.fcvt c (.fi src u) rnd sat d a) s c t →
         Source1 (issueState (.fcvt c (.fi src u) rnd sat d a) c t s) d a va y →
         ∃ (r : Word) (fl : Flags), exec (.fcvt c (.fi src u) rnd sat d a) s = .next (((y.raise fl).setInt d r).finish c)
           ∧ (match readF src va with
             | .nan _ => r = 0 ∧ fl = Flags.nv
             | .inf neg => lowInt u 64 r = (if neg then leastInt u 64 else greatestInt u 64) ∧ fl = Flags.nv
             | .zero _ => r = 0 ∧ fl = 0
             | .num x => ∃ j : Nat, RoundsTo m x.neg (scaledBy x.m x.e) j ∧
                 let z : Int := if x.neg then -(j : Int) else j
                 lowInt u 64 r = max (leastInt u 64) (min (greatestInt u 64) z)
                 ∧ fl = if z < leastInt u 64 ∨ greatestInt u 64 < z then Flags.nv
                     else if scaledBy x.m x.e = j then 0 else Flags.nx))
       ∧ (∀ (dst : FFmt) (u : Bool), Issues (.fcvt c (.fromInt dst u) rnd sat d a) s c t →
         Source1 (issueState (.fcvt c (.fromInt dst u) rnd sat d a) c t s) d a va y →
         ∃ (x : XVal), valueOf x = some (lowInt u 64 va : ℚ) ∧ (x.isZero → x.sgn = false) ∧
           let w := writeF (fmtOf dst) m sat (x, 0)
           exec (.fcvt c (.fromInt dst u) rnd sat d a) s = .next (((y.raise w.2).setInt d (BitVec.ofNat 64 w.1)).finish c))
       ∧ (∀ f : FFmt, Issues (.frnd c f rnd d a) s c t → Source1 (issueState (.frnd c f rnd d a) c t s) d a va y →
         ∃ (r : Word) (fl : Flags), exec (.frnd c f rnd d a) s = .next (((y.raise fl).setInt d r).finish c)
           ∧ (match readF f va with
             | .nan sig => r = BitVec.ofNat 64 (fmtOf f).nanBits ∧ fl = if sig then Flags.nv else 0
             | .inf _ | .zero _ => r = lowBits (fmtOf f).bits va ∧ fl = 0
             | .num x => ∃ j : Nat, RoundsTo m x.neg (scaledBy x.m x.e) j
                 ∧ valueOf (readF f r) = some (if x.neg then -(j : ℚ) else j) ∧ (readF f r).sgn = x.neg
                 ∧ fl = if scaledBy x.m x.e = j then 0 else Flags.nx)))

/-! ### Control flow -/

/-- `br`, `brr`, `call`, `ret` and `loop`: a relative target is the instruction's PC plus the operand, an absolute one the
operand. A target from 0 to 2^32 − 1 is taken; any other traps with E_BOUNDS, segment 8, access fetch, and the target as
second detail. `call` writes the PC plus 1; `loop` decrements D and goes on to the next instruction where it becomes 0.
`exit` frees its slot from the next cycle on, or gives a lent slot back to its parked owner; it returns an outstanding
borrow, whose lender's slot is free 8 cycles later, and no longer retains an open packet; its barrier unit knows that
the member has exited. Memory and every other thread stand. -/
def Obligations.ControlFlow : Prop :=
  (∀ (s : State) (c : Ctl) (t : Thread) (d a b : Opnd) (off n : Word) (y : Iss),
     let goes (i : Instr) (target : Int) (after : BitVec 32 → Iss) : Prop :=
       (∀ p : BitVec 32, (p.toNat : Int) = target → exec i s = .next ((after p).finish c))
       ∧ (target < 0 ∨ 2 ^ 32 ≤ target →
         exec i s = .next (takeTrap s s.cur (eBounds (detail 8 2 0 0) (BitVec.ofInt 64 target))))
     (Issues (.br c b) s c t → (issueState (.br c b) c t s).int 2 b = .ok (off, y) →
       goes (.br c b) (t.pc.toNat + off.toInt) fun p => { y with npc := some p })
     ∧ (Issues (.brr c a) s c t → (issueState (.brr c a) c t s).queues [a] [] = .ok () →
       (issueState (.brr c a) c t s).int 1 a = .ok (off, y) →
       goes (.brr c a) (t.pc.toNat + off.toInt) fun p => { y with npc := some p })
     ∧ (Issues (.call c d b) s c t → (issueState (.call c d b) c t s).int 2 b = .ok (off, y) →
       goes (.call c d b) (t.pc.toNat + off.toInt) fun p =>
         ({ y with npc := some p } : Iss).setInt d ((t.pc + 1).setWidth 64))
     ∧ (Issues (.ret c a) s c t → (issueState (.ret c a) c t s).queues [a] [] = .ok () →
       (issueState (.ret c a) c t s).int 1 a = .ok (off, y) → goes (.ret c a) off.toInt fun p => { y with npc := some p })
     ∧ (∀ x, Issues (.loop c d b) s c t → (issueState (.loop c d b) c t s).int 2 b = .ok (off, x) → x.int 3 d = .ok (n, y) →
       (n = 1 → exec (.loop c d b) s = .next ((y.setInt d 0).finish c))
       ∧ (n ≠ 1 → goes (.loop c d b) (t.pc.toNat + off.toInt) fun p =>
           ({ y with npc := some p } : Iss).setInt d (n - 1))))
  ∧ (∀ (s : State) (c : Ctl) (t : Thread), Issues (.exit c) s c t →
       let key := s.cur
       ∃ s', exec (.exit c) s = .next s' ∧ s'.mem = s.mem ∧ (∀ k, k ≠ key → s'.thread? k = s.thread? k)
         ∧ s'.thread? key = (s.slot key).lent
         ∧ ((s.slot key).lent = none → (s'.slot key).freeFrom = s.cyc + 1 ∧ s'.gfile = s.gfile ∧ s'.wfile = s.wfile)
         ∧ ((s.slot key).lent ≠ none → (s'.slot key).lent = none)
         ∧ (t.status.getLsbD 13 = true → slotKey (coreOf key) t.lender ≠ key →
             (s'.slot (slotKey (coreOf key) t.lender)).withheld = false
             ∧ (s'.slot (slotKey (coreOf key) t.lender)).freeFrom = s.cyc + 8)
         ∧ (∀ p, t.packet = some p → ∀ r ∈ (s'.core (coreOf key)).retained, r.body.seq ≠ p.seq)
         ∧ (∀ g, s.group? t.launch t.group = some g → t.rank < g.barrier.mcount → t.handle = none →
             ∃ g', s'.group? t.launch t.group = some g' ∧ t.rank ∈ g'.barrier.exited))

/-- `spawn` writes all ones where the group has 512 live threads, or where no free slot or no free windows are found;
otherwise a thread is created in the lowest such slot and D is the handle, the new spawn count · 64 plus the slot. The
new thread has the issuer's code, context, launch and group, its segments (a migratory one only the first two), the PC
A, B in g0, zero in every other register, and the lowest rank not below the declared count that no live thread of the
group holds, parked owners of lent slots and migrants in flight among them. Memory stands. `join` waits while its handle
names a live thread in that slot of this core that its group spawned, also one that is parked with its slot lent, and
completes at once on anything else; `slot` writes the map of slots that are free, within the rotation length and
admissible to the thread. -/
def Obligations.ThreadsAreCreatedAndJoined : Prop :=
  (∀ (s : State) (c : Ctl) (t : Thread) (mig : Bool) (d a b : Opnd) (va vb : Word) (y : Iss),
     Issues (.spawn c mig d a b) s c t → Source2 (issueState (.spawn c mig d a b) c t s) d a b va vb y →
     let sizes := windowSizes y.s t.launch mig
     let room := lowestSlot y.s y.core t.ctag t.launch t.group
     let places := findWindows y.s y.core sizes.1 sizes.2.1 sizes.2.2
     (512 ≤ liveThreads y.s t.launch t.group ∨ room = none ∨ places = none →
       exec (.spawn c mig d a b) s = .next ((y.setInt d (BitVec.allOnes 64)).finish c))
     ∧ (∀ j gb wb, liveThreads y.s t.launch t.group < 512 → room = some j → places = some (gb, wb) → ∃ s2 n,
       exec (.spawn c mig d a b) s = .next ((({ y with s := s2 } : Iss).setInt d
         (BitVec.ofNat 64 (((y.s.core y.core).spawns + 1).toNat * 64 + j))).finish c)
       ∧ (s2.core y.core).spawns = (y.s.core y.core).spawns + 1 ∧ s2.mem = s.mem
       ∧ s2.thread? (slotKey y.core j) = some n
       ∧ (va.toNat < 2 ^ 32 → n.pc = va.setWidth 32) ∧ n.cseg = t.cseg ∧ n.ctag = t.ctag ∧ n.launch = t.launch
       ∧ n.group = t.group ∧ n.st = .ready ∧ n.readyAt = s.cyc + 8 ∧ n.status = (if mig then 0x1200 else 0x200)
       ∧ (∀ k : Fin 8, n.segs[k] = if mig ∧ 2 ≤ k.val then .null else t.segs[k]) ∧ (∀ k : Fin 8, n.preds[k] = 0)
       ∧ n.gBase = gb ∧ n.gSize = sizes.1 ∧ n.wBase = wb ∧ n.nv = sizes.2.1 ∧ n.nk = sizes.2.2
       ∧ s2.gfile.getD (gKey y.core gb) 0 = vb
       ∧ (∀ k, 0 < k → k < sizes.1 → s2.gfile.getD (gKey y.core (gb + k)) 0 = 0)
       ∧ (∀ k, k < (sizes.2.1 + 7) / 8 * 8 + (sizes.2.2 + 7) / 8 * 8 → s2.wfile.getD (wKey y.core (wb + k)) .zero = .zero)
       ∧ declared y.s t.launch ≤ n.rank ∧ n.rank ∉ liveRanks y.s t.launch t.group
       ∧ (∀ e ∈ y.s.threads, e.2.launch = t.launch → e.2.group = t.group → e.2.rank ≠ n.rank)
       ∧ (∀ r, declared y.s t.launch ≤ r → r < n.rank → r ∈ liveRanks y.s t.launch t.group)))
  ∧ ((∀ (s : State) (c : Ctl) (t : Thread) (a : Opnd) (h : Word) (y : Iss), Issues (.join c a) s c t →
       (issueState (.join c a) c t s).queues [a] [] = .ok () → (issueState (.join c a) c t s).int 1 a = .ok (h, y) →
       let at_ := slotKey (coreOf s.cur) (h.toNat % 64)
       let lives := ∃ o, (s.thread? at_ = some o ∨ (s.slot at_).lent = some o) ∧ o.handle = some h
         ∧ o.launch = t.launch ∧ o.group = t.group
       (lives → exec (.join c a) s = .next (holdThread s s.cur c.t .join))
       ∧ (¬ lives → exec (.join c a) s = .next (y.finish c)))
     ∧ (∀ (s : State) (c : Ctl) (t : Thread) (d : Opnd), Issues (.slot c d) s c t →
       (issueState (.slot c d) c t s).queues [] [d] = .ok () →
       let k := coreOf s.cur
       ∃ r : Word, exec (.slot c d) s = .next (((issueState (.slot c d) c t s).setInt d r).finish c)
         ∧ ∀ j, j < 64 → r.getLsbD j = (decide (j < s.rotLen k) && slotFree s (slotKey k j) && resident s k t.ctag
             && !spanForeign s k t.launch t.group)))

/-! ### Memory -/

/-- The first checks of an access through a segment, for every kind of access: a null segment, a negative offset or an end
beyond the limit is E_BOUNDS with cause 0 and the offset as second detail; a segment of another kind or without the
right is E_RIGHTS. An access that passes the whole path lies within the limit, has its rights, is within reach and
aligned, and its pieces are the bytes from the segment's device address on. A window address is checked in order: bits
that must be zero (E_BOUNDS), a core or cluster outside the thread's partition (E_RIGHTS), and the offsets of a vault in
the system region or the larder (E_RIGHTS). -/
def Obligations.AddressChecks : Prop :=
  (∀ (x : Iss) (g : Segment) (w : Want),
     (g.kind = .null ∨ w.o < 0 ∨ (g.limit.toNat : Int) < w.o + w.n →
       path x g w = .error (.trap (eBounds (detail w.seg w.kind.code w.lane 0) (BitVec.ofInt 64 w.o)) none))
     ∧ (g.kind ≠ .null → 0 ≤ w.o → w.o + w.n ≤ (g.limit.toNat : Int) →
         g.kind = .barrier ∨ (g.kind = .code ∧ w.kind ≠ .fetch) ∨ w.kind.allowed g.r g.w g.x g.t = false →
       path x g w = .error (.trap (eRights (detail w.seg w.kind.code w.lane 0) (BitVec.ofInt 64 w.o)) none))
     ∧ (∀ ps, path x g w = .ok ps →
         g.kind ≠ .null ∧ 0 ≤ w.o ∧ w.o + w.n ≤ (g.limit.toNat : Int) ∧ w.kind.allowed g.r g.w g.x g.t = true
         ∧ segDa g x.core w.o.toNat % w.align = 0 ∧ (∀ p ∈ ps, w.reach.ok (whereOf x.core p.da) = true)
         ∧ (ps.map fun p => (p.da, p.len)) = pieces g x.core (w.n / 2 ^ 17 + 2) w.o.toNat w.n
         ∧ (∀ p ∈ ps, (isWindow p.da = true → p.loc = p.da ∧ p.page = none)
             ∧ (isWindow p.da = false → ∃ e, p.page = some e ∧ cached x.s x.cl x.th.ctag p.da = some e
                 ∧ (w.kind = .load → e.r = true) ∧ (w.kind = .store → e.w = true) ∧ (w.kind = .atomic → e.r = true ∧ e.w = true)))))
  ∧ (∀ (s : State) (ctag : BitVec 16) (w : Want) (cl off : Nat), cl < 2 ^ 11 → off < 2 ^ 22 →
       let inside : Bool := off < 0x270000
       (s.inPart ctag cl = false → windowCheck s ctag w (0xFE * 2 ^ 48 + cl * 2 ^ 22 + off) =
         .error (.trap (eRights (detail w.seg w.kind.code w.lane 13) (BitVec.ofInt 64 w.o)) none))
       ∧ (s.inPart ctag cl = true → windowCheck s ctag w (0xFE * 2 ^ 48 + cl * 2 ^ 22 + off) =
           if inside then .ok () else .error (.trap (eRights (detail w.seg w.kind.code w.lane 14) (BitVec.ofInt 64 w.o)) none))
       ∧ (∀ z, 0 < z → z < 2 ^ 15 → windowCheck s ctag w (0xFE * 2 ^ 48 + z * 2 ^ 33 + cl * 2 ^ 22 + off) =
           .error (.trap (eBounds (detail w.seg w.kind.code w.lane 12) (BitVec.ofInt 64 w.o)) none))
       ∧ (∀ k o, k < 2 ^ 14 → o < 2 ^ 17 →
           windowCheck s ctag w (0xFF * 2 ^ 48 + k * 2 ^ 17 + o) =
             (if s.inPart ctag (k / 8) then .ok () else
               .error (.trap (eRights (detail w.seg w.kind.code w.lane 13) (BitVec.ofInt 64 w.o)) none))
           ∧ ∀ z, 0 < z → z < 2 ^ 17 → windowCheck s ctag w (0xFF * 2 ^ 48 + z * 2 ^ 31 + k * 2 ^ 17 + o) =
             .error (.trap (eBounds (detail w.seg w.kind.code w.lane 12) (BitVec.ofInt 64 w.o)) none)))

/-- A load whose path is clear issues as a request that its thread waits for, and writes no register yet. Its bytes in the
own core store are read there from issue + 5 on, each part in its bank's cycle; the others are those its core sees at
issue. The result comes in issue + 7 from the own core store, in issue + 11 or later from the own vault, and by a trip
from elsewhere. Memory stands. What a plain read outside the own core store returns: the core's own later stores over
the words of its snapshot. A word that is not in the snapshot is taken into it, as memory holds it now or as an earlier
write left it; and a write that is ordered before the core's reads, or is the core's own, hides what it overwrote, as
does a value that the core has read before or that it knows another to have read. The accesses of a core to its own
store are performed in their cycles and not before: where nothing that it must follow is under way, a read then gives
its request the bytes memory holds, and notes whether a granule has another colour than its segment, and a store writes
its bytes and, outside the trace rings, no other. -/
def Obligations.LoadsReadMemory : Prop :=
  (∀ (s : State) (c : Ctl) (t : Thread) (size : Size) (u : Bool) (d : Opnd) (r : MemRef) (o : Int) (ps : List Part) (x : Iss),
     let i : Instr := .ld c size u d r
     let k := coreOf s.cur
     let id := s.nextId
     Issues i s c t → (issueState i c t s).queues [] [d] = .ok () → (issueState i c t s).offset r = .ok (o, x) →
     x.access r o size.bytes .load .plain 1 = .ok ps →
     ∃ s' t' q, exec i s = .next s' ∧ s'.mem = s.mem ∧ s'.gfile = s.gfile ∧ s'.wfile = s.wfile
       ∧ (∀ j, j ≠ s.cur → s'.thread? j = s.thread? j)
       ∧ s'.thread? s.cur = some t' ∧ t'.outstanding = some id ∧ t'.pc = t.pc + 1
       ∧ s'.reqs.get? id = some q ∧ q.key = s.cur ∧ q.instr = some i ∧ q.kind = .read (spans ps) ∧ q.data.length = size.bytes
       ∧ (∀ pre p post, ps = pre ++ p :: post → whereOf k p.da = .ownCore → ∀ j, j < p.len →
           ∃ a ∈ (s'.core k).own, a.id = id ∧ s.cyc + 5 ≤ a.at_ ∧ ∃ l n m, a.act = .read l n m
             ∧ l ≤ p.loc + j ∧ p.loc + j < l + n ∧ m + (p.loc + j - l) = (pre.map (·.len)).sum + j)
       ∧ (∀ p, ps = [p] → whereOf k p.da ≠ .ownCore → s.errs = [] →
           q.data = (readVisible x.s k p.loc p.len).1 ∧ q.poison = false)
       ∧ ∃ e ∈ s'.pending, e.args = [id] ∧ (match x.place ps with
           | .ownCore => e.ev = .remoteAccessReply ∧ s.cyc + 7 ≤ e.at_
           | .ownVault => e.ev = .remoteAccessReply ∧ s.cyc + 11 ≤ e.at_
           | .otherCore | .otherVault | .paged => e.ev = .arrivalAtHome ∧ s.cyc < e.at_))
  ∧ ((∀ (s : State) (c loc n : Nat), (∀ off, homeOf loc ≠ .core c off) →
       let r := readVisible s c loc n
       let k := s.core c
       r.1.length = n ∧ r.2 = { s with cores := r.2.cores, fresh := r.2.fresh } ∧ (∀ j, j ≠ c → r.2.core j = s.core j)
       ∧ r.2.core c = { k with snap := (r.2.core c).snap }
       ∧ ∀ j, j < n → ∃ v, let w := (loc + j) / 8
           (r.2.core c).snap.get? w = some v
           ∧ r.1[j]? = some (overlay (k.inFlight.map (·.2) ++ k.buffer) (loc + j) (byteOf v.1 ((loc + j) % 8)))
           ∧ (∀ v', k.snap.get? w = some v' → v = v')
           ∧ (k.snap.get? w = none → v = (memWord s.mem w, s.past.length)
               ∨ v ∈ olderWords c k.know w (max (k.seen.getD w 0) (k.know.getD (readKey w) 0)) s.past s.past.length
                   (memWord s.mem w)))
     ∧ ∀ (c w lo : Nat) (know : Know) (past : List Past) (now : Word) (e : Word × Nat),
       e ∈ olderWords c know w lo past past.length now → lo ≤ e.2 ∧ e.2 < past.length
         ∧ ∀ k p, k < past.length - e.2 → past[k]? = some p → p.loc < 8 * w + 8 → 8 * w < p.loc + p.len → p.floor c know = false)
  ∧ (∀ (s : State) (c : Nat) (a : OwnAcc), (s.core c).own = [a] →
       let s' := ownCycle s c
       (s.cyc < a.at_ → s' = s)
       ∧ (∀ loc n i q, a.at_ = s.cyc → a.waits s c [] = false → a.act = .read loc n i → s.reqs.get? a.id = some q → s.errs = [] →
           (∀ e ∈ s.reqs, e.2.gaps = []) →
           (s'.core c).own = [] ∧ s'.mem = s.mem
           ∧ s'.reqs.get? a.id = some { q with
               data := putAt q.data i (readBytes s loc n)
               failed := q.failed.orElse fun _ => q.tagTest s (reqCtag s q) loc n })
       ∧ (∀ loc da bs kind ph, a.at_ = s.cyc → a.waits s c [] = false → a.act = .write loc da bs kind ph → (s'.core c).own = []
           ∧ ∀ b, ¬ InTraceRing b →
             readByte s' b = if loc ≤ b ∧ b < loc + bs.length then bs.getD (b - loc) 0 else readByte s b))

/-- A store writes no byte of memory in its issue cycle. What lies in the own core store is stored there in issue + 7 or
later: the low bytes of D, or of D and the register after it, at the pieces of its address, and nothing outside them.
What lies elsewhere enters the store buffer, after what the buffer held, over exactly its own bytes. A store that finds
too little room publishes the buffer first: all that it held is on its way, the store's entries alone are in it, and the
thread issues no more until that publication is complete. General and wide registers and every other thread stand. The
bytes of D that a store takes: the low bytes of its value, or both registers' for 16 bytes. The entries of a store hold
exactly its bytes at its pieces: over any byte below them they show the stored byte inside the pieces and that byte
outside. -/
def Obligations.Stores : Prop :=
  (∀ (s : State) (c : Ctl) (t : Thread) (size : Size) (d : Opnd) (r : MemRef) (o : Int) (ps : List Part) (bs : List Byte)
     (x y : Iss), let i : Instr := .st c size d r
     let k := coreOf s.cur
     Issues i s c t → (issueState i c t s).queues [d] [] = .ok () → (issueState i c t s).offset r = .ok (o, x) →
     x.access r o size.bytes .store .plain 1 = .ok ps → x.tileHold ps = .ok () → x.storeValue size d = .ok (bs, y) →
     ∃ s' new, exec i s = .next s' ∧ s'.mem = s.mem ∧ s'.gfile = s.gfile ∧ s'.wfile = s.wfile
       ∧ (∀ j, j ≠ s.cur → s'.thread? j = s.thread? j) ∧ bs.length = size.bytes
       ∧ (s'.core k).own = (s.core k).own ++ new
       ∧ (∀ a ∈ new, s.cyc + 7 ≤ a.at_ ∧ ∃ l da ws kind ph, a.act = .write l da ws kind ph
           ∧ ∃ p ∈ ps, whereOf k p.da = .ownCore ∧ p.loc ≤ l ∧ l + ws.length ≤ p.loc + p.len)
       ∧ (∀ pre p post, ps = pre ++ p :: post → whereOf k p.da = .ownCore → ∀ j, j < p.len →
           ∃ a ∈ new, ∃ l da ws kind ph, a.act = .write l da ws kind ph ∧ l ≤ p.loc + j ∧ p.loc + j < l + ws.length
             ∧ ws.getD (p.loc + j - l) 0 = bs.getD ((pre.map (·.len)).sum + j) 0)
       ∧ ((s.core k).buffer.length + 2 * ps.length ≤ 64 → ∃ es, (s'.core k).buffer = (s.core k).buffer ++ es
           ∧ (∀ a b, (∀ p ∈ ps, whereOf k p.da ≠ .ownCore → a < p.loc ∨ p.loc + p.len ≤ a) → overlay es a b = b)
           ∧ (ps.Pairwise (fun p q => p.loc + p.len ≤ q.loc ∨ q.loc + q.len ≤ p.loc) →
               ∀ pre p post, ps = pre ++ p :: post → whereOf k p.da ≠ .ownCore → ∀ j, j < p.len → ∀ b,
                 overlay es (p.loc + j) b = bs.getD ((pre.map (·.len)).sum + j) 0))
       ∧ ∀ p, ps = [p] → whereOf k p.da ≠ .ownCore → 64 < (s.core k).buffer.length + (y.entries [p] (bs.map some)).length →
           (s'.core k).buffer = (y.entries [p] (bs.map some)).map (fun e => { e with phase := (s.core k).phase + 1 })
           ∧ (s'.core k).inFlight.map (·.2) = (s.core k).inFlight.map (·.2) ++ (s.core k).buffer
           ∧ (s'.core k).phase = (s.core k).phase + 1
           ∧ ∃ t', s'.thread? s.cur = some t' ∧ t'.outstanding.isSome = true)
  ∧ (∀ (x : Iss) (size : Size) (d : Opnd),
       (size ≠ .s16 → ∀ v y, x.int 3 d = .ok (v, y) → x.storeValue size d = .ok (toBytes size.bytes v.toNat, y))
       ∧ (∀ n v w y z, d = .g n → x.readG 3 (x.th.gBase + n.val) = .ok (v, y) → y.readG 3 (y.th.gBase + (n.val + 1)) = .ok (w, z) →
           x.storeValue .s16 d = .ok (toBytes 8 v.toNat ++ toBytes 8 w.toNat, z))
       ∧ ∀ n k, ofBytes (toBytes n k) = k % 2 ^ (8 * n) ∧ (toBytes n k).length = n)
  ∧ (∀ (x : Iss) (p : Part) (bs : List Byte) (a : Nat) (b : Byte), bs.length = p.len →
       overlay (x.entries [p] (bs.map some)) a b = if p.loc ≤ a ∧ a < p.loc + p.len then bs.getD (a - p.loc) 0 else b)

/-- Full-empty operations on the own core store, with nothing parked and nothing under way there. One whose word has the
state it wants issues, and its result comes in issue + 7; one whose word has the other state waits, and is noted as
waiting. Where an issued operation reaches its word, `ldfe` and `ldfp` read it and `ldfe` leaves it empty, and `stfe`
stores D and leaves it full; one that meets the other state waits there. No other word's bit changes, and outside the
trace rings no other byte. An atomic on the own core store or vault issues as a request that is performed there in issue
+ 7 or later, and whose answer the thread waits for. Performed at a home whose granule has the colour its segment asks
for, an atomic takes the old value back; memory holds the operation's new value, or stands for `ald` and a failed
`acas`; outside the trace rings no other byte changes, and the full-empty bits stand. One that meets another colour
there is marked as failed, and no byte changes. The answer of a request writes its result into D and lets its thread go
on: for `ld` the little-endian bytes, sign-extended or under `.u` zero-extended, and into D and the register after it
for 16 bytes; for the atomics the old value, a 4-byte one sign-extended except of `umax`. A register that a deposit
reached meanwhile keeps the deposit. An acquire refreshes the core, which then knows what the value read carried.
Answered poison, and an access that met another colour at its home, trap with the PC at the instruction, and an entry
that it had popped from a queue stands at that queue's head again. -/
def Obligations.FullEmptyAndAtomicOperations : Prop :=
  ((∀ (s : State) (c : Ctl) (t : Thread) (d : Opnd) (r : MemRef) (o : Int) (p : Part) (x y : Iss) (v : Word),
     let k := coreOf s.cur
     let turn (i : Instr) (op : FeOp) (v : Word) : Prop :=
       x.place [p] = .ownCore → (s.core k).feWait = [] → (s.core k).own = [] →
       (isFull s p.loc = op.wants → ∃ s' t' q, exec i s = .next s' ∧ s'.mem = s.mem ∧ s'.full = s.full
           ∧ s'.thread? s.cur = some t' ∧ t'.outstanding = some s.nextId ∧ t'.pc = t.pc + 1
           ∧ s'.reqs.get? s.nextId = some q ∧ q.kind = .fe p.loc op v ∧ q.instr = some i ∧ q.key = s.cur
           ∧ (∃ a ∈ (s'.core k).own, a.id = s.nextId ∧ a.act = .home p.loc 8 ∧ s.cyc + 7 ≤ a.at_)
           ∧ ∃ e ∈ s'.pending, e.ev = .remoteAccessReply ∧ e.args = [s.nextId] ∧ s.cyc + 7 ≤ e.at_)
       ∧ (isFull s p.loc ≠ op.wants → ∃ s', exec i s = .next s' ∧ s'.mem = s.mem ∧ s'.full = s.full
           ∧ (∃ t', s'.thread? s.cur = some t' ∧ t'.cause = some .fullEmpty ∧ t'.pc = t.pc)
           ∧ ∃ w ∈ (s'.core k).feWait, w.loc = p.loc ∧ w.op = op ∧ w.slot = some (slotOf s.cur))
     let load (i : Instr) (op : FeOp) : Prop :=
       Issues i s c t → (issueState i c t s).queues [] [d] = .ok () → (issueState i c t s).offset r = .ok (o, x) →
       x.access r o 8 .load .fullEmpty 8 = .ok [p] → turn i op 0
     load (.ldfe c d r) .ldfe ∧ load (.ldfp c d r) .ldfp
     ∧ (Issues (.stfe c d r) s c t → (issueState (.stfe c d r) c t s).queues [d] [] = .ok () →
       (issueState (.stfe c d r) c t s).offset r = .ok (o, x) → x.access r o 8 .store .fullEmpty 8 = .ok [p] →
       x.tileHold [p] = .ok () → x.int 3 d = .ok (v, y) → turn (.stfe c d r) .stfe v))
   ∧ ∀ (s : State) (c id loc : Nat) (q : Req) (op : FeOp) (v : Word), q.kind = .fe loc op v → s.reqs.get? id = some q →
     (s.core c).feWait = [] → s.errs = [] →
     let s' := reachFe s c id q loc op
     (isFull s loc = op.wants → (∃ q', s'.reqs.get? id = some q' ∧ q'.performed = true ∧ ofBytes q'.data = readNum s loc 8)
       ∧ isFull s' loc = (match op with | .ldfe => false | .ldfp | .stfe => true)
       ∧ (∀ a, a / 8 ≠ loc / 8 → isFull s' a = isFull s a)
       ∧ ∀ b, ¬ InTraceRing b → readByte s' b =
           if op = .stfe ∧ loc ≤ b ∧ b < loc + 8 then (toBytes 8 v.toNat).getD (b - loc) 0 else readByte s b)
     ∧ (isFull s loc ≠ op.wants → s'.mem = s.mem ∧ s'.full = s.full
         ∧ ∃ w, (s'.core c).feWait = [w] ∧ w.loc = loc ∧ w.op = op ∧ w.req = some id))
  ∧ ((∀ (s : State) (c : Ctl) (t : Thread) (d : Opnd) (r : MemRef) (wide : Bool) (ord : Order) (p : Part) (x y : Iss),
       let n := if wide then 8 else 4
       let k := coreOf s.cur
       let asks (i : Instr) (vals : List Word) : Prop :=
         (y.place [p] = .ownCore ∨ y.place [p] = .ownVault) →
         ∃ s' t' q, exec i s = .next s' ∧ s'.mem = s.mem ∧ s'.full = s.full
           ∧ s'.thread? s.cur = some t' ∧ t'.outstanding = some s.nextId ∧ t'.pc = t.pc + 1
           ∧ s'.reqs.get? s.nextId = some q ∧ q.kind = .atomic p.loc n vals ∧ q.key = s.cur ∧ q.instr = some i
           ∧ (∃ a ∈ (s'.core k).own, a.id = s.nextId ∧ a.act = .home p.loc n ∧ s.cyc + 7 ≤ a.at_)
           ∧ ∃ e ∈ s'.pending, e.ev = .remoteAccessReply ∧ e.args = [s.nextId] ∧ s.cyc + 7 ≤ e.at_
       (∀ op v, let i : Instr := .aop c op wide ord d r
         Issues i s c t → (issueState i c t s).queues [d] [d] = .ok () → (issueState i c t s).atomPath n r true = .ok ([p], x) →
         x.int 3 d = .ok (v, y) → asks i [v])
       ∧ (∀ (m : Fin 128) v w z, let i : Instr := .acas c wide ord (.g m) r
         d = .g m → Issues i s c t → (issueState i c t s).atomPath n r true = .ok ([p], x) →
         x.readG 3 (x.gEntry m.val) = .ok (v, z) → z.readG 3 (z.gEntry (m.val + 1)) = .ok (w, y) → asks i [v, w])
       ∧ (let i : Instr := .ald c wide ord d r
         x = y → Issues i s c t → (issueState i c t s).queues [] [d] = .ok () →
         (issueState i c t s).atomPath n r false = .ok ([p], x) → asks i [])
       ∧ (∀ v, let i : Instr := .ast c wide ord d r
         Issues i s c t → (issueState i c t s).queues [d] [] = .ok () → (issueState i c t s).atomPath n r true = .ok ([p], x) →
         x.int 3 d = .ok (v, y) → asks i [v]))
     ∧ ∀ (s : State) (id loc n : Nat) (q : Req) (i : Instr) (vals : List Word), q.kind = .atomic loc n vals → q.instr = some i →
       (n = 4 ∨ n = 8) → s.kickPages.get? (loc / 2 ^ 17) = none → s.errs = [] → tileHoldsBut s (pubJob s id) loc n = false →
       let s' := performReq s id q
       (∀ f, q.tagTest s (reqCtag s q) loc n = some f → s'.mem = s.mem ∧ s'.full = s.full
           ∧ ∃ q', s'.reqs.get? id = some q' ∧ q'.failed = some f ∧ q'.performed = true)
       ∧ (q.tagTest s (reqCtag s q) loc n = none →
       let old := readNum s loc n
       let low (v : Word) : Nat := v.toNat % 2 ^ (8 * n)
       let sgn (j : Nat) : Int := if j < 2 ^ (8 * n - 1) then (j : Int) else (j : Int) - 2 ^ (8 * n)
       let leaves (new : Nat) : Prop := ∀ b, ¬ InTraceRing b →
         readByte s' b = if loc ≤ b ∧ b < loc + n then (toBytes n new).getD (b - loc) 0 else readByte s b
       (∃ q', s'.reqs.get? id = some q' ∧ q'.data = toBytes n old ∧ q'.performed = true ∧ q'.poison = q.poison)
       ∧ s'.full = s.full
       ∧ (∀ c op wide ord d r v, i = .aop c op wide ord d r → vals = [v] → leaves (match op with
           | .add => (old + low v) % 2 ^ (8 * n) | .swp => low v | .and => old &&& low v | .or => old ||| low v
           | .xor => old ^^^ low v | .umax => max old (low v)
           | .min => if sgn old ≤ sgn (low v) then old else low v | .max => if sgn (low v) ≤ sgn old then old else low v))
       ∧ (∀ c wide ord d r v w, i = .acas c wide ord d r → vals = [v, w] → leaves (if old = low v then low w else old))
       ∧ (∀ c wide ord d r, i = .ald c wide ord d r → leaves old)
       ∧ (∀ c wide ord d r v, i = .ast c wide ord d r → vals = [v] → leaves (low v))))
  ∧ (∀ (s : State) (id : Nat) (q : Req) (t : Thread) (i : Instr), q.instr = some i → s.thread? q.key = some t →
       t.outstanding = some id → q.qdest = none → q.dst = none →
       let k := coreOf q.key
       let old := ofBytes q.data
       let value : Word := match i with
         | .aop _ .umax .. => BitVec.ofNat 64 old
         | _ => if q.data.length = 8 then BitVec.ofNat 64 old else (BitVec.ofNat 32 old).signExtend 64
       let traps (x : Trap) : Prop := answer s id q =
         takeTrap ((unpop { s with reqs := s.reqs.erase id } k t).setThread q.key { t with pc := t.pc - 1, popped := none }) q.key x
       (∀ f, q.failed = some f → traps (eTag f.1 f.2))
       ∧ (q.failed = none → q.poison = true → traps (eMachine 5 (q.da.setWidth 64)))
       ∧ (∀ n e, t.popped = some (n, e) → ((unpop s k t).queue k n).ents = e :: (s.queue k n).ents
           ∧ ∀ j, j ≠ n → (unpop s k t).queue k j = s.queue k j)
       ∧ (t.popped = none → unpop s k t = s)
       ∧ (q.failed = none → q.poison = false → (∃ t', (answer s id q).thread? q.key = some t' ∧ t'.outstanding = none ∧ s.cyc < t'.readyAt ∧ t'.pc = t.pc)
           ∧ (answer s id q).reqs = s.reqs.erase id ∧ (answer s id q).mem = s.mem
           ∧ (∀ n c size u r, i = .ld c size u (.g n) r → t.deposited = [] → q.data.length = size.bytes →
               let g (j : Nat) : Word := (answer s id q).gfile.getD (gKey k (t.gBase + n.val + j)) 0
               if size = .s16 then g 0 = BitVec.ofNat 64 (ofBytes (q.data.take 8)) ∧ g 1 = BitVec.ofNat 64 (ofBytes (q.data.drop 8))
               else g 0 = if u then BitVec.ofNat 64 old else (BitVec.ofNat (8 * size.bytes) old).signExtend 64)
           ∧ (∀ n c op wide ord r, (i = .aop c op wide ord (.g n) r ∨ i = .acas c wide ord (.g n) r ∨ i = .ald c wide ord (.g n) r) →
               t.deposited.contains (.g n.val) = false → (q.data.length = 8 ∨ q.data.length = 4) →
               (answer s id q).gfile.getD (gKey k (t.gBase + n.val)) 0 = value)
           ∧ (∀ n c op wide ord r, i = .aop c op wide ord (.g n) r → t.deposited.contains (.g n.val) = true →
               (answer s id q).gfile.getD (gKey k (t.gBase + n.val)) 0 = s.gfile.getD (gKey k (t.gBase + n.val)) 0)
           ∧ (∀ c op wide d r, i = .aop c op wide .acq d r ∨ i = .aop c op wide .ar d r →
               ((answer s id q).core k).snap = []
               ∧ ∀ a ph, Know.has q.got a ph = true → Know.has ((answer s id q).core k).know a ph = true)))

/-- `lseg` copies a descriptor of the context's table into a segment register, with its index; an index at or beyond the
table's size is E_BOUNDS with access 5, a reserved kind and, for an unprivileged launch, an entry of colour 0 are
E_RIGHTS. `stag` and `ltag` on a granule of the own core store or vault issue as a request that is performed there in
issue + 7 or later. A value of `stag` above 15 and, through a coloured segment, another colour than the segment's are
E_TAG with causes 1 and 2 and change no tag. Performed, `stag` sets the granule's colour as the context sees it, and
`ltag` reads it without comparing it; no byte outside the trace rings, no full-empty bit and no other granule's tag
changes. `chk` never traps beyond its decoding: outside the limit or another kind of segment, D is 0; inside, bit 0 is
set, bits 1 and 2 are the rights R and W, bit 4 says whether `ld` reaches the address, and bit 3 is set for colour 0 or
where a granule in a window has the segment's colour, never for a paged address under a colour. The colour of a granule
comes with the answer of a request that reads its tag. -/
def Obligations.SegmentsAndTags : Prop :=
  (∀ (s : State) (c : Ctl) (t : Thread) (n : Fin 8) (a : Opnd) (i : Word) (y : Iss) (ctx : Context),
     let ins : Instr := .lseg c (.s n) a
     Issues ins s c t → (issueState ins c t s).queues [a] [] = .ok () → (issueState ins c t s).int 1 a = .ok (i, y) →
     s.contexts.get? t.ctag.toNat = some ctx →
     let e := ctx.descs.getD i.toNat .null
     let fails (x : Trap) : Prop := exec ins s = .next (takeTrap s s.cur x)
     (ctx.sdtSize ≤ i.toNat → fails (eBounds (detail n.val 5 0 0) i))
     ∧ (i.toNat < ctx.sdtSize → e.kind = .res6 ∨ e.kind = .res7 → fails (eRights (detail n.val 5 0 1) i))
     ∧ (i.toNat < ctx.sdtSize → e.kind ≠ .res6 → e.kind ≠ .res7 → e.colour = 0 → privileged s t.launch = false →
         fails (eRights (detail n.val 5 0 0) i))
     ∧ (i.toNat < ctx.sdtSize → e.kind ≠ .res6 → e.kind ≠ .res7 → (e.colour ≠ 0 ∨ privileged s t.launch = true) →
         ∃ s', exec ins s = .next s' ∧ Completed s' s.cur ∧ s'.mem = s.mem ∧ ∃ t', s'.thread? s.cur = some t'
           ∧ t'.segs[n] = { e with index := BitVec.ofNat 12 i.toNat } ∧ ∀ k : Fin 8, k ≠ n → t'.segs[k] = t.segs[k]))
  ∧ ((∀ (s : State) (c : Ctl) (t : Thread) (d : Opnd) (r : MemRef) (o : Int) (p : Part) (x y : Iss) (v : Word),
       let k := coreOf s.cur
       let own (z : Iss) : Prop := z.place [p] = .ownCore ∨ z.place [p] = .ownVault
       let asks (i : Instr) (kind : ReqKind) : Prop := ∃ s' t' q, exec i s = .next s' ∧ s'.mem = s.mem ∧ s'.gtags = s.gtags
         ∧ s'.thread? s.cur = some t' ∧ t'.outstanding = some s.nextId ∧ t'.pc = t.pc + 1
         ∧ s'.reqs.get? s.nextId = some q ∧ q.kind = kind ∧ q.key = s.cur ∧ q.instr = some i ∧ q.da = BitVec.ofNat 56 p.da
         ∧ (∃ a ∈ (s'.core k).own, a.id = s.nextId ∧ a.act = .home p.loc 64 ∧ s.cyc + 7 ≤ a.at_)
         ∧ ∃ e ∈ s'.pending, e.ev = .remoteAccessReply ∧ e.args = [s.nextId] ∧ s.cyc + 7 ≤ e.at_
       (Issues (.stag c d r) s c t → (issueState (.stag c d r) c t s).queues [d] [] = .ok () →
         (issueState (.stag c d r) c t s).offset r = .ok (o, x) → x.access r o 64 .tagset .plain 64 = .ok [p] →
         x.int 3 d = .ok (v, y) →
         let colour := t.segs[r.seg].colour
         let why (cause : Nat) : Trap :=
           eTag (detail r.seg.val 4 ((y.colourOf p).toNat + 16 * colour.toNat) cause) (BitVec.ofInt 64 o)
         (16 ≤ v.toNat → exec (.stag c d r) s = .next (takeTrap s s.cur (why 1)))
         ∧ (v.toNat < 16 → colour ≠ 0 → v.setWidth 4 ≠ colour → exec (.stag c d r) s = .next (takeTrap s s.cur (why 2)))
         ∧ (v.toNat < 16 → (colour = 0 ∨ v.setWidth 4 = colour) → own y → asks (.stag c d r) (.tagWrite p.loc (v.setWidth 4))))
       ∧ (Issues (.ltag c d r) s c t → (issueState (.ltag c d r) c t s).queues [] [d] = .ok () →
         (issueState (.ltag c d r) c t s).offset r = .ok (o, x) →
         path x x.th.segs[r.seg] { Want.scalar r.seg o 64 .load .plain 64 with colour := false } = .ok [p] → own x →
         asks (.ltag c d r) (.tagRead p.loc)))
     ∧ ∀ (s : State) (id loc : Nat) (q : Req),
       let s' := performReq s id q
       ((∃ v, q.kind = .tagWrite loc v) ∨ q.kind = .tagRead loc →
         (∀ g, g ≠ loc / 64 → s'.gtags.getD g 0 = s.gtags.getD g 0) ∧ s'.full = s.full
         ∧ (∀ b, ¬ InTraceRing b → readByte s' b = readByte s b)
         ∧ ∃ q', s'.reqs.get? id = some q' ∧ q'.performed = true
           ∧ (q.kind = .tagRead loc → s'.gtags = s.gtags
               ∧ q'.data = [BitVec.ofNat 8 (granuleColour s (reqCtag s q) loc q.da.toNat 0).toNat]))
       ∧ ∀ v, q.kind = .tagWrite loc v → ((∃ c off, homeOf loc = .core c off) ∨ ∃ cl off, homeOf loc = .vault cl off) →
           granuleColour s' (reqCtag s q) loc q.da.toNat 0 = v)
  ∧ (∀ (s : State) (c : Ctl) (t : Thread) (d : Opnd) (r : MemRef) (o : Int) (y : Iss), let i : Instr := .chk c d r
       Issues i s c t → (issueState i c t s).offset r = .ok (o, y) →
       let g := t.segs[r.seg]
       let da := segDa g (coreOf s.cur) o.toNat
       let inside := 0 ≤ o ∧ o < (g.limit.toNat : Int) ∧ (g.kind = .memory ∨ g.kind = .core ∨ g.kind = .vault)
       (¬ inside → exec i s = .next ((y.setInt d 0).finish c))
       ∧ (inside → isWindow da = false → exec i s = .next ((y.setInt d (BitVec.ofNat 64
           (1 + 2 * g.r.toNat + 4 * g.w.toNat + if g.colour = 0 then 8 else 0))).finish c))
       ∧ (inside → isWindow da = true → windowCheck y.s t.ctag ⟨0, o, 1, .load, .plain, 1, 0, false, fun _ => none⟩ da = .ok () →
           (whereOf (coreOf s.cur) da = .ownCore ∨ whereOf (coreOf s.cur) da = .ownVault) →
           ∃ s' t' q, exec i s = .next s' ∧ s'.mem = s.mem ∧ s'.gtags = s.gtags
             ∧ s'.thread? s.cur = some t' ∧ t'.outstanding = some s.nextId ∧ t'.pc = t.pc + 1
             ∧ s'.reqs.get? s.nextId = some q ∧ q.kind = .tagRead (da / 64 * 64) ∧ q.key = s.cur ∧ q.instr = some i
             ∧ ∀ colour : BitVec 4, reqResults { q with data := [BitVec.ofNat 8 colour.toNat] } =
               [BitVec.ofNat 64 (1 + 2 * g.r.toNat + 4 * g.w.toNat + 16 + if g.colour = 0 ∨ colour = g.colour then 8 else 0)]))

/-- `pub`, `refresh`, `phase` and `pref`. `pub` and `phase` begin a new phase of their core. Where nothing is buffered and nothing is
under way they complete at once; else every entry of the buffer sets out for its home and the thread waits until all that the core
has issued is performed. `refresh`, and `phase` after its publication, discard the core's snapshot, and no later read returns less
than the snapshot held. `pref` completes whatever its operands, writes no register and touches no memory. -/
def Obligations.PublicationInstructions : Prop :=
  ∀ (s : State) (c : Ctl) (t : Thread), let k := coreOf s.cur
    let idle : Prop := (s.core k).buffer = [] ∧ underWay s k = []
    let sends (i : Instr) : Prop := ∃ s' t', exec i s = .next s' ∧ (s'.core k).buffer = []
      ∧ (s'.core k).inFlight.map (·.2) = (s.core k).inFlight.map (·.2) ++ (s.core k).buffer
      ∧ (s'.core k).phase = (s.core k).phase + 1
      ∧ s'.thread? s.cur = some t' ∧ (t'.outstanding = none ↔ idle) ∧ t'.st = .ready ∧ t'.pc = t.pc + 1 ∧ s'.mem = s.mem
    let refreshed (s' : State) : Prop := (s'.core k).snap = []
      ∧ ∀ w v, (s.core k).snap.get? w = some v → v.2 ≤ (s'.core k).seen.getD w 0
    (Issues (.pub c) s c t → sends (.pub c))
    ∧ (Issues (.refresh c) s c t → ∃ s', exec (.refresh c) s = .next s' ∧ refreshed s' ∧ Completed s' s.cur ∧ s'.mem = s.mem
        ∧ (s'.core k).buffer = (s.core k).buffer)
    ∧ (Issues (.phase c) s c t → sends (.phase c) ∧ (idle → ∃ s', exec (.phase c) s = .next s' ∧ refreshed s'
        ∧ Completed s' s.cur ∧ s'.mem = s.mem))
    ∧ (∀ r o y, Issues (.pref c r) s c t → (issueState (.pref c r) c t s).offset r = .ok (o, y) →
        ∃ s', exec (.pref c r) s = .next s' ∧ Completed s' s.cur ∧ s'.mem = s.mem ∧ s'.gfile = s.gfile ∧ s'.wfile = s.wfile
          ∧ s'.gtags = s.gtags ∧ s'.full = s.full)

/-! ### Vectors -/

/-- The operands of a vector instruction are checked against its set of tags in the order D (where it reads D), A, B, and
then for agreement in the order D, B with the format, which is the tag of A where A is a vector, else of B, else of D.
The first that fails is E_FORMAT with its field and the tag found. (Operands in registers: of a queue, its entry's tag
is checked once it is known to be there.) The vector unit serves one instruction at a time: an instruction that needs it
for `k` cycles waits while it wakes or serves another, and otherwise holds it for `k` cycles, with its result `6 + k`
cycles after issue. In each cycle a cluster counts its cores whose unit is held, but for those whose unit serves a group
that is frozen or halted. -/
def Obligations.VectorFormatsAndUnit : Prop :=
  (∀ (x : Iss) (readsD : Bool) (set : Tag → Bool) (nd na nb : Fin 32) (sa sb : Fin 128),
     let tag (n : Fin 32) : Tag := (x.s.wfile.getD (wKey x.core (x.th.wBase + n.val)) .zero).tag
     let bad (field : Nat) (t : Tag) : Except Stop Tag := .error (.trap (eFormat field t.toNat) none)
     (x.oneFormat (.v nd) (.v na) (.v nb) readsD set =
       if readsD = true ∧ set (tag nd) = false then bad 0 (tag nd)
       else if set (tag na) = false then bad 1 (tag na)
       else if set (tag nb) = false then bad 2 (tag nb)
       else if readsD = true ∧ tag nd ≠ tag na then bad 0 (tag nd)
       else if tag nb ≠ tag na then bad 2 (tag nb)
       else .ok (tag na))
     ∧ (x.oneFormat (.v nd) (.v na) (.g sb) readsD set =
       if readsD = true ∧ set (tag nd) = false then bad 0 (tag nd)
       else if set (tag na) = false then bad 1 (tag na)
       else if readsD = true ∧ tag nd ≠ tag na then bad 0 (tag nd)
       else .ok (tag na))
     ∧ (x.oneFormat (.v nd) (.g sa) (.v nb) readsD set =
       if readsD = true ∧ set (tag nd) = false then bad 0 (tag nd)
       else if set (tag nb) = false then bad 2 (tag nb)
       else if readsD = true ∧ tag nd ≠ tag nb then bad 0 (tag nd)
       else .ok (tag nb))
     ∧ (x.oneFormat (.v nd) (.g sa) (.g sb) true set =
       if set (tag nd) = false then bad 0 (tag nd) else .ok (tag nd)))
  ∧ ((∀ (x : Iss) (k : Nat), let cs := x.s.core x.core
       (cs.vecGated = false → x.s.cyc < cs.vecFree → x.claim k = .error (.hold .vectorBusy x.s))
       ∧ (cs.vecGated = false → cs.vecFree ≤ x.s.cyc → ∃ y, x.claim k = .ok y ∧ y.lat = 6 + k
           ∧ (y.s.core x.core).vecFree = x.s.cyc + k ∧ (y.s.core x.core).vecUser = (x.th.launch, x.th.group)
           ∧ y = { x with s := y.s, lat := y.lat } ∧ y.s = { x.s with cores := y.s.cores })
       ∧ (cs.vecGated = true → ∃ s', x.claim k = .error (.hold .vectorWake s') ∧ (s'.core x.core).vecWakeAt.isSome
           ∧ (cs.vecWakeAt = none → (s'.core x.core).vecWakeAt = some (x.s.cyc + 8)
               ∧ ∃ p ∈ s'.pending, p.ev = .vectorUnitWake ∧ p.at_ = x.s.cyc + 8)))
     ∧ ∀ (s : State) (cl : Nat), ((countVector s cl).cluster cl).vact = (s.cluster cl).vact
       + (s.cores.filter fun e => clusterOf e.1 == cl && decide (s.cyc < e.2.vecFree)
           && !s.frozen e.2.vecUser.1 e.2.vecUser.2 && !s.halted e.2.vecUser.1).length)

/-- The element operations by tag: integer elements are signed, computed exactly and then wrapped or clamped; float elements
are the scalar operations, rounded once; minimum, maximum, magnitude and negation as their rules say. Special operands
of reciprocals, reciprocal roots, exponentials and logarithms, and the exact cases 1.0, 2^a for an integral a and log2
of a power of two. -/
def Obligations.ElementOperations : Prop :=
  (∀ (t : Tag) (m : RMode) (sat : Bool) (a b d : Nat), a < 2 ^ t.bits → b < 2 ^ t.bits → d < 2 ^ t.bits →
     let n := t.bits
     let v := elemInt n
     (t.isInt = true → n = 8 * 2 ^ (t.toNat - 1)
       ∧ (∀ op z, (op = opAdd ∧ z = v a + v b) ∨ (op = opSub ∧ z = v a - v b) ∨ (op = opMul ∧ z = v a * v b)
           ∨ (op = opFma ∧ z = v a * v b + v d) → FitsElem sat n z (numElem op t m sat a b d).1 ∧ (numElem op t m sat a b d).2 = 0)
       ∧ v (minmaxElem false t a b).1 = min (v a) (v b) ∧ v (minmaxElem true t a b).1 = max (v a) (v b)
       ∧ FitsElem sat n |v a| (signElem false t sat a).1 ∧ FitsElem sat n (-v a) (signElem true t sat a).1
       ∧ ∀ k, cmpElem k t a b = (intHolds k (v a) (v b), 0))
     ∧ (t.isFlt = true → n = t.fmt.bits
       ∧ numElem opAdd t m sat a b d = writeF t.fmt m sat (xadd m (t.fmt.decode a) (t.fmt.decode b))
       ∧ numElem opSub t m sat a b d = writeF t.fmt m sat (xadd m (t.fmt.decode a) (t.fmt.decode b).negate)
       ∧ numElem opMul t m sat a b d = writeF t.fmt m sat (xmul (t.fmt.decode a) (t.fmt.decode b))
       ∧ numElem opFma t m sat a b d = writeF t.fmt m sat (xfma m (t.fmt.decode a) (t.fmt.decode b) (t.fmt.decode d))
       ∧ signElem false t sat a = (a % 2 ^ (n - 1), 0) ∧ signElem true t sat a = (a ^^^ 2 ^ (n - 1), 0)
       ∧ minmaxElem false t a b = fminmax false t.fmt a b ∧ minmaxElem true t a b = fminmax true t.fmt a b
       ∧ ∀ k, cmpElem k t a b = fcompare k (t.fmt.decode a) (t.fmt.decode b)))
  ∧ (let one : Ex := ⟨false, 1, 0, false⟩
     (∀ n, xrcp (.zero n) = (.inf n, Flags.dz) ∧ xrcp (.inf n) = (.zero n, 0) ∧ xrsqrt (.zero n) = (.inf n, Flags.dz)
       ∧ xexp2 (.zero n) = (.num one, 0) ∧ xlog2 (.zero n) = (.inf true, Flags.dz))
     ∧ xrsqrt (.inf false) = (.zero false, 0) ∧ xrsqrt (.inf true) = (.nan false, Flags.nv)
     ∧ xexp2 (.inf false) = (.inf false, 0) ∧ xexp2 (.inf true) = (.zero false, 0)
     ∧ xlog2 (.inf false) = (.inf false, 0) ∧ xlog2 (.inf true) = (.nan false, Flags.nv)
     ∧ (∀ x : Ex, x.neg = true → xrsqrt (.num x) = (.nan false, Flags.nv) ∧ xlog2 (.num x) = (.nan false, Flags.nv))
     ∧ (∀ (k : Nat) (neg : Bool), 0 < k → k < 4096 →
         valueOf (xexp2 (.num ⟨neg, k, 0, false⟩)).1 = some (2 ^ (if neg then -(k : Int) else k)))
     ∧ (∀ (k : Nat) (e : Int), valueOf (xlog2 (.num ⟨false, 2 ^ k, e, false⟩)).1 = some ((k + e : Int) : ℚ)
         ∧ (xlog2 (.num ⟨false, 2 ^ k, e, false⟩)).2 = 0)
     ∧ (∀ x : Ex, x.neg = false → 0 < x.m → x.st = false → ∃ y, xrsqrt (.num x) = (.num y, 0)
         ∧ Holds y false (fun z => z * z * scaledBy x.m x.e ≤ 1) (fun z => z * z * scaledBy x.m x.e = 1)))

/-- Vector instructions that compute element by element complete, with the result's tag the format: each enabled element is the
operation of the elements of A, B and D, each other element keeps D's old bits (zero in a pushed entry), and the flags are those
of the enabled elements. -/
def Obligations.LanewiseResults : Prop :=
  ∀ (i : Instr) (s : State) (c : Ctl) (t : Thread) (d a b : Opnd) (readsD : Bool) (set : Tag → Bool) (base : Nat)
    (f : BitVec 32 → Tag → Nat → Nat → Nat → Nat × Flags) (tag : Tag) (x1 x2 y : Iss) (va vb : Src) (vd : VReg),
    laneCase i = some (d, a, b, readsD, set, base, f) → Issues i s c t →
    (issueState i c t s).oneFormat d a b readsD set = .ok tag →
    (issueState i c t s).claim (if tag = 4 ∨ tag = 8 then 2 * base else base) = .ok x1 → Sources x1 a b va vb x2 →
    (if readsD then x2.vec 3 d = .ok (vd, y) else y = x2) → set tag = true →
    ∃ (w : Wide) (fl : Flags), exec i s = .next (((y.raise fl).setVec d ⟨w, tag⟩).finish c)
      ∧ (let res (j : Nat) := f t.status tag (va.elem tag j) (vb.elem tag j) (lane tag.bits vd.data j)
        (∀ j, j < 2048 / tag.bits → lane tag.bits w j =
          if elemOn tag y.mask j then (res j).1 % 2 ^ tag.bits else lane tag.bits (y.oldWide d) j)
        ∧ ∀ k, fl.getLsbD k = true ↔ ∃ j, j < 2048 / tag.bits ∧ elemOn tag y.mask j = true ∧ (res j).2.getLsbD k = true)

/-- `vcmp` into a predicate writes, for each enabled bit, whether the condition holds for every element that bit guards, and
zero in bits 32 to 63 for 64-bit elements; into a vector, all ones or zero in each enabled element, with the integer tag
of the width. `vsel` takes each enabled element from A where the predicate's bit guards it, from B otherwise. `vcvt` and
`vunbfp` convert the elements that the part names into the destination's tag; other enabled elements of a wider
destination keep what D holds. `vbfp` packs 32 elements into each block that the part names and the block's guard
enables. A part out of range is E_FORMAT on field 1. A block of BFPm: a NaN among the values makes a NaN block; else its
exponent is that of the greatest finite magnitude, within 0 to 254, and each mantissa is its value over the block's
unit, rounded in the mode and clamped to m bits; infinities take the limits. -/
def Obligations.VectorComparesAndConversions : Prop :=
  (∀ (s : State) (c : Ctl) (t : Thread) (k : Cond) (n : BitVec 3) (d a b : Opnd) (tag : Tag) (x1 y : Iss) (va vb : Src),
     let w := tag.bits
     let cycles := if tag = 4 ∨ tag = 8 then 2 else 1
     (let i : Instr := .vcmp c k d a b
       let el (j : Nat) : Bool × Flags := cmpElem k tag (va.elem tag j) (vb.elem tag j)
       Issues i s c t → (issueState i c t s).oneFormat d a b false Tag.isNum = .ok tag →
       (issueState i c t s).claim cycles = .ok x1 → Sources x1 a b va vb y → tag.isNum = true →
       ∃ fl : Flags, (∀ q, fl.getLsbD q = true ↔ ∃ j, j < 2048 / w ∧ elemOn tag y.mask j = true ∧ (el j).2.getLsbD q = true)
         ∧ (∀ m, d = .p m → ∃ r : Word, exec i s = .next (((y.raise fl).writeP m r).finish c)
             ∧ ∀ j, j < 64 → r.getLsbD j =
               if w = 64 ∧ 32 ≤ j then false
               else if y.mask.getLsbD j then decide (∀ e, e < 2048 / w → guardOf w e = j → (el e).1 = true)
               else (if m = 0 then true else t.preds[m].getLsbD j))
         ∧ ((∀ m, d ≠ .p m) → ∃ r : Wide, exec i s = .next (((y.raise fl).setVec d ⟨r, tag.intTag⟩).finish c)
             ∧ ∀ j, j < 2048 / w → lane w r j =
               if elemOn tag y.mask j then (if (el j).1 then 2 ^ w - 1 else 0) else lane w (y.oldWide d) j))
     ∧ (let i : Instr := .vsel c n d a b
       Issues i s c t → (issueState i c t s).oneFormat d a b false Tag.isBit = .ok tag →
       (issueState i c t s).claim cycles = .ok x1 → Sources x1 a b va vb y → tag.isBit = true →
       ∃ r : Wide, exec i s = .next ((y.setVec d ⟨r, tag⟩).finish c) ∧ ∀ j, j < 2048 / w → lane w r j =
         if elemOn tag y.mask j then
           (if n = 0 ∨ (t.preds[n.toNat]).getLsbD (guardOf w j) = true then va.elem tag j else vb.elem tag j)
         else lane w (y.oldWide d) j))
  ∧ (∀ (s : State) (c : Ctl) (t : Thread) (tag : Tag) (rnd : Rnd) (sat : Bool) (part : BitVec 2) (d a : Opnd) (ta : Tag)
       (x1 x2 y : Iss) (va vd : VReg), let p := part.toNat
       let us (set : Tag → Bool) := Iss.tagUses d a .none false anyTag set anyTag
       let reads : Prop := x1.vec 1 a = .ok (va, x2) ∧ x2.vec 3 d = .ok (vd, y)
       let cycles (u v : Tag) := if u = 4 ∨ u = 8 ∨ v = 4 ∨ v = 8 then 2 else 1
       let refuses (i : Instr) (parts : Nat) : Prop := ∀ k : Fin 32, a = .v k → Issues i s c t →
         (s.wfile.getD (wKey (coreOf s.cur) (t.wBase + k.val)) .zero).tag = ta → parts ≤ p →
         exec i s = .next (takeTrap s s.cur (eFormat 1 ta.toNat))
       let converts (i : Instr) (set : Tag → Bool) (parts : Nat) (pick : Nat → Option Nat) (el : Nat → Nat × Flags) : Prop :=
         Issues i s c t → p < parts →
         (∀ more, more ta = .ok () →
           (issueState i c t s).formats [a, d] [d] (us set) (some ⟨1, a, 0, anyTag⟩) [] more = .ok ta) →
         (issueState i c t s).claim (cycles ta tag) = .ok x1 → reads →
         ∃ (r : Wide) (fl : Flags), exec i s = .next (((y.raise fl).setVec d ⟨r, tag⟩).finish c)
           ∧ (∀ j, j < 2048 / tag.bits → lane tag.bits r j = if elemOn tag y.mask j then
               (match pick j with
                 | some q => (el q).1 % 2 ^ tag.bits
                 | none => lane tag.bits vd.data j) else lane tag.bits (y.oldWide d) j)
           ∧ ∀ k, fl.getLsbD k = true ↔ ∃ j q, j < 2048 / tag.bits ∧ elemOn tag y.mask j = true ∧ pick j = some q
               ∧ (el q).2.getLsbD k = true
       let nA := 2048 / ta.bits
       let nD := 2048 / tag.bits
       (tag.isNum = true → ta.isNum = true → refuses (.vcvt c tag rnd sat part d a) (if nD ≤ nA then nA / nD else nD / nA))
       ∧ (tag.isFlt = true → ta.isBfp = true → refuses (.vunbfp c tag rnd sat part d a) (if tag = 7 then 1 else 2))
       ∧ (tag.isBfp = true → ta.isFlt = true → refuses (.vbfp c tag rnd sat part d a) (if ta = 7 then 1 else 2))
       ∧ (tag.isNum = true → ta.isNum = true → converts (.vcvt c tag rnd sat part d a) Tag.isNum (if nD ≤ nA then nA / nD else nD / nA)
         (fun j => if nD ≤ nA then some (p * nD + j) else if p * nA ≤ j ∧ j < p * nA + nA then some (j - p * nA) else none)
         fun q => cvtElem ta tag (roundOf t.status rnd) sat (lane ta.bits va.data q))
       ∧ (tag.isFlt = true → ta.isBfp = true → converts (.vunbfp c tag rnd sat part d a) Tag.isBfp (if tag = 7 then 1 else 2)
         (fun j => if tag = 7 then some j else if tag = 8 then some (32 * p + j)
           else if 64 * p ≤ j ∧ j < 64 * p + 64 then some (j - 64 * p) else none)
         fun q =>
           let v := bfpVal (ta.toNat - 7) (blockExp va.data (q / 32)) (lane (ta.toNat - 7) va.data q)
           writeF tag.fmt (roundOf t.status rnd) sat (v, if v.isSig then Flags.nv else 0))
       ∧ (let i : Instr := .vbfp c tag rnd sat part d a
         let m := tag.toNat - 7
         let first (b : Nat) : Option Nat :=
           if ta = 7 then some (32 * b) else if ta = 8 then (if b = p then some 0 else none) else some (64 * p + 32 * b)
         let block (b : Nat) := toBfp m (roundOf t.status rnd) ((List.range 32).map fun j =>
           ta.fmt.decode (lane ta.bits va.data ((first b).getD 0 + j)))
         tag.isBfp = true → ta.isFlt = true → Issues i s c t → p < (if ta = 7 then 1 else 2) →
         (∀ more, more ta = .ok () → (issueState i c t s).formats [a, d] [d] (us Tag.isFlt) (some ⟨1, a, 0, anyTag⟩) [] more = .ok ta) →
         (issueState i c t s).claim (if ta = 8 then 2 else 1) = .ok x1 → reads →
         let kept : Wide := match d with | .q _ => vd.data &&& enabledBits tag y.mask | _ => vd.data
         ∃ (r : Wide) (fl : Flags), exec i s = .next (((y.raise fl).setVec d ⟨r, tag⟩).finish c)
           ∧ (∀ b, b < 2 → (first b).isSome = true → y.mask.getLsbD (32 * b) = true →
               blockExp r b = (block b).1 ∧ ∀ j, j < 32 → lane m r (32 * b + j) = ((block b).2.1.getD j 0) % 2 ^ m)
           ∧ (∀ b, b < 2 → (first b = none ∨ y.mask.getLsbD (32 * b) = false) →
               blockExp r b = blockExp kept b ∧ ∀ j, j < 32 → lane m r (32 * b + j) = lane m kept (32 * b + j))
           ∧ wideBits r (64 * m) (2032 - 64 * m) = 0))
  ∧ (∀ (m : Nat) (mode : RMode) (xs : List XVal), 2 ≤ m → m ≤ 8 →
       (∀ x ∈ xs, ∀ y, x = .num y → y.st = false ∧ 0 < y.m) →
       let r := toBfp m mode xs
       (xs.any XVal.isNan = true → r.1 = 255 ∧ r.2.1 = xs.map (fun _ => 0) ∧ r.2.2 = if xs.any XVal.isSig then Flags.nv else 0)
       ∧ (xs.any XVal.isNan = false → r.1 ≤ 254 ∧ r.2.1.length = xs.length
         ∧ (∀ y : Ex, XVal.num y ∈ xs → y.log2 + 127 ≤ (r.1 : Int) ∨ r.1 = 254)
         ∧ (0 < r.1 → ∃ y : Ex, XVal.num y ∈ xs ∧ (y.log2 + 127 = (r.1 : Int) ∨ (r.1 = 254 ∧ 254 < y.log2 + 127)))
         ∧ ∀ (j v : Nat), r.2.1[j]? = some v → ∃ x : XVal, xs[j]? = some x ∧ v < 2 ^ m
           ∧ (match (x : XVal) with
             | .inf n => elemInt m v = if n then -(2 ^ (m - 1)) else 2 ^ (m - 1) - 1
             | .num y => ∃ k : Nat, RoundsTo mode y.neg (scaledBy y.m y.e / (2 : ℚ) ^ ((r.1 : Int) - 127 - ((m : Int) - 2))) k
                 ∧ elemInt m v = max (-(2 ^ (m - 1))) (min (2 ^ (m - 1) - 1) (if y.neg then -(k : Int) else k))
             | _ => v = 0))
       ∧ ∀ (e mant : Nat), (e = 255 → bfpVal m e mant = .nan false)
         ∧ (e ≠ 255 → valueOf (bfpVal m e mant) = some ((elemInt m mant : ℚ) * (2 : ℚ) ^ ((e : Int) - 127 - ((m : Int) - 2)))))

/-- `vperm`, `vbcast`, `vmov`, `vtag` and `vgtag`: elements are taken by the indices of B modulo the count, or all from one
element or scalar; `vmov` and `vtag` copy the bits their mask reaches; `vgtag` writes the tag and does not read the
data. `vext` and `vins` at an index of a register: an integer element or mantissa is sign-extended, a float or raw one
zero-extended; index 64 of a BFP register is its two exponents. An index out of range reads 0 and inserts nothing; an
element whose guard is clear is neither read nor written. -/
def Obligations.VectorMovesAndExtracts : Prop :=
  (∀ (s : State) (c : Ctl) (t : Thread) (d a b : Opnd) (tag u : Tag) (x1 x2 y : Iss) (va vb vd : VReg) (n : Word) (sv : Src),
     let cycles := if tag = 4 ∨ tag = 8 then 2 else 1
     let each (old : Wide) (mask : Word) (r : Wide) (f : Nat → Nat) : Prop :=
       ∀ j, j < 2048 / tag.bits → lane tag.bits r j = if elemOn tag mask j then f j else lane tag.bits old j
     let x (i : Instr) := issueState i c t s
     let copied (v : Tag) : VReg :=
       ⟨(written v va.data &&& enabledBits v y.mask) ||| (y.oldWide d &&& ~~~enabledBits v y.mask), v⟩
     (let i : Instr := .vperm c d a b;
       Issues i s c t → PermutePasses (x i) d a b tag → (x i).claim cycles = .ok x1 → x1.vec 1 a = .ok (va, x2) →
       x2.vec 2 b = .ok (vb, y) → tag.isNum = true → ∃ r, exec i s = .next ((y.setVec d ⟨r, tag⟩).finish c)
         ∧ each (y.oldWide d) y.mask r fun j => lane tag.bits va.data (lane tag.bits vb.data j % (2048 / tag.bits)))
     ∧ (let i : Instr := .vbcast c d a b
       Issues i s c t → Iss.isWide a = true → (x i).oneFormat d a b false Tag.isBit = .ok tag → (x i).claim cycles = .ok x1 →
       x1.vec 1 a = .ok (va, x2) → x2.int 2 b = .ok (n, y) → tag.isBit = true →
       ∃ r, exec i s = .next ((y.setVec d ⟨r, tag⟩).finish c)
         ∧ each (y.oldWide d) y.mask r fun _ => lane tag.bits va.data (n.toNat % (2048 / tag.bits)))
     ∧ (let i : Instr := .vbcast c d a .none
       Issues i s c t → Iss.isWide a = false → (x i).oneFormat d a .none true Tag.isNum = .ok tag → (x i).claim cycles = .ok x1 →
       x1.src 1 a = .ok (sv, x2) → x2.vec 3 d = .ok (vd, y) → tag.isNum = true →
       ∃ r, exec i s = .next ((y.setVec d ⟨r, tag⟩).finish c) ∧ each (y.oldWide d) y.mask r fun _ => sv.elem tag 0 % 2 ^ tag.bits)
     ∧ (let i : Instr := .vmov c d a
       Issues i s c t → (x i).oneFormat d a .none false anyTag = .ok tag → (x i).claim cycles = .ok x1 →
       x1.vec 1 a = .ok (va, y) → exec i s = .next ((y.setVec d (copied tag)).finish c))
     ∧ (let i : Instr := .vtag c u d a
       Issues i s c t → (x i).oneFormat d a .none false anyTag = .ok tag → (x i).vec 1 a = .ok (va, y) →
       exec i s = .next ((y.setVec d (copied u)).finish c))
     ∧ (let i : Instr := .vgtag c d a
       Issues i s c t → (x i).queues [a] [d] = .ok () →
       (∀ k, a = .v k → exec i s = .next (((x i).setInt d (((s.wfile.getD (wKey (coreOf s.cur) (t.wBase + k.val)) .zero).tag).setWidth 64)).finish c))
       ∧ ∀ q, a = .q q → (x i).pop q.val false = .ok (va, y) → exec i s = .next ((y.setInt d (va.tag.setWidth 64)).finish c))
     ∧ (∀ v : Tag, v.isBfp = false → ∀ (mask : Word) (j : Nat), j < 2048 / v.bits →
       lane v.bits (enabledBits v mask) j = if elemOn v mask j then 2 ^ v.bits - 1 else 0))
  ∧ (∀ (s : State) (c : Ctl) (t : Thread) (d a b : Opnd) (tag : Tag) (x1 x2 y z : Iss) (va : VReg) (n : Word) (sv : Src),
       let cycles := if tag = 4 ∨ tag = 8 then 2 else 1
       let exps : Bool := tag.isBfp && n == 64
       let count := if tag.isBfp then 65 else 2048 / tag.bits
       let at_ := if exps then 2032 else tag.bits * n.toNat
       let width := if exps then 16 else tag.bits
       let on (m : Word) : Bool :=
         if exps then m.getLsbD 0 || m.getLsbD 32
         else if tag.isBfp then m.getLsbD (32 * (n.toNat / 32)) else elemOn tag m n.toNat
       (let i : Instr := .vext c d a b;
         Issues i s c t → (issueState i c t s).oneFormat .none a .none false anyTag = .ok tag →
         (issueState i c t s).queues [a, b] [d] = .ok () → (issueState i c t s).claim cycles = .ok x1 → x1.vec 1 a = .ok (va, x2) →
         x2.int 2 b = .ok (n, y) →
         (count ≤ n.toNat → exec i s = .next ((y.setInt d 0).finish c))
         ∧ (n.toNat < count → on y.mask = false → exec i s = .next (y.finish c))
         ∧ (n.toNat < count → on y.mask = true → ∃ r : Word, exec i s = .next ((y.setInt d r).finish c)
             ∧ r.toNat % 2 ^ width = wideBits va.data at_ width
             ∧ r = if tag.isInt || (tag.isBfp && !exps) then (r.setWidth width).signExtend 64 else (r.setWidth width).setWidth 64))
       ∧ (let i : Instr := .vins c d a b
         let new : Nat := match sv with
           | .number q => if tag.isFlt then sv.elem tag 0 else (BitVec.ofInt 64 q).toNat
           | .scalar v => v.toNat
           | .vec .. => 0
         Issues i s c t → (issueState i c t s).formats [a, b, d] [d] (Iss.tagUses d .none .none true anyTag anyTag anyTag)
           (some ⟨0, d, 0, anyTag⟩) [] noMore = .ok tag → Iss.isWide a = false →
         (issueState i c t s).claim cycles = .ok x1 → x1.src 1 a = .ok (sv, x2) → x2.int 2 b = .ok (n, y) →
         y.vec 3 d = .ok (va, z) →
         ∃ r : Wide, exec i s = .next ((z.setVec d
             ⟨match d with | .q _ => written tag r &&& enabledBits tag z.mask | _ => r, tag⟩).finish c)
           ∧ (count ≤ n.toNat ∨ on z.mask = false → r = va.data)
           ∧ (n.toNat < count → on z.mask = true → exps = false →
               wideBits r at_ width = new % 2 ^ width ∧ ∀ q, q < at_ ∨ at_ + width ≤ q → r.getLsbD q = va.data.getLsbD q)
           ∧ (exps = true → (∀ q, q < 2032 → r.getLsbD q = va.data.getLsbD q)
               ∧ ∀ e, e < 2 → blockExp r e = if z.mask.getLsbD (32 * e) then new / 2 ^ (8 * e) % 256 else blockExp va.data e)))

/-- `vred` reduces by the fixed tree, each disabled element entering as the operation's identity; an integer result is
sign-extended, a float one zero-extended, and the flags are those of every pairing. `vscan` is the inclusive scan by
levels, and disabled elements of D stand; its flags are those of the enabled positions. A pairing is the sum fitted or
rounded once, the minimum or maximum, or the bits combined; the identities are 0, or −0 for floats, the greatest and the
least value, all ones, and 0. A logical operation on floats is E_FORMAT. `vdot` adds exact chunks of 16 consecutive
enabled products to the accumulator in D, in order: for integer tags exactly into 64 bits, wrapped or clamped per chunk,
for float tags rounded once per chunk, in F64 for F64 and in F32 otherwise. A chunk of finite products is their exact
sum; an exact zero is −0 only where every product is. -/
def Obligations.ReductionsScansAndDotProducts : Prop :=
  (∀ (s : State) (c : Ctl) (t : Thread) (op : RedOp) (rnd : Rnd) (sat : Bool) (d a : Opnd) (tag : Tag) (x1 y : Iss) (va : VReg),
     let n := 2048 / tag.bits
     let logic : Bool := op = .and ∨ op = .or ∨ op = .xor
     let f (p q : Nat) : Nat := (redOp op tag (roundOf t.status rnd) sat p q).1
     let g (mask : Word) (j : Nat) : Nat := if elemOn tag mask j then lane tag.bits va.data j else redIdent op tag
     let ok (i : Instr) : Prop := Issues i s c t ∧ tag.isNum = true ∧ (issueState i c t s).redFormat op d a = .ok tag
       ∧ (issueState i c t s).claim (if tag = 4 ∨ tag = 8 then 4 else 2) = .ok x1 ∧ x1.vec 1 a = .ok (va, y)
     (ok (.vred c op rnd sat d a) → ∃ (fl : Flags) (r : Word), exec (.vred c op rnd sat d a) s = .next (((y.raise fl).setInt d r).finish c)
       ∧ r.toNat % 2 ^ tag.bits = treeOf f (Nat.log2 n) (g y.mask) ∧ (tag.isInt = true → fl = 0)
       ∧ (∀ q, fl.getLsbD q = true ↔ ∃ k j, k < Nat.log2 n ∧ j < 2 ^ (Nat.log2 n - k - 1)
           ∧ (redOp op tag (roundOf t.status rnd) sat (treeLevel f (Nat.log2 n) k (g y.mask) j)
               (treeLevel f (Nat.log2 n) k (g y.mask) (j + 2 ^ (Nat.log2 n - k - 1)))).2.getLsbD q = true)
       ∧ r = if tag.isFlt then (r.setWidth tag.bits).setWidth 64 else (r.setWidth tag.bits).signExtend 64)
     ∧ (ok (.vscan c op rnd sat d a) → ∃ (fl : Flags) (r : Wide),
       exec (.vscan c op rnd sat d a) s = .next (((y.raise fl).setVec d ⟨r, tag⟩).finish c) ∧ (tag.isInt = true → fl = 0)
       ∧ (∀ q, fl.getLsbD q = true ↔ ∃ k j, k < Nat.log2 n ∧ j < n ∧ 2 ^ k ≤ j ∧ elemOn tag y.mask j = true
           ∧ (redOp op tag (roundOf t.status rnd) sat (scanOf f k 1 (g y.mask) (j - 2 ^ k)) (scanOf f k 1 (g y.mask) j)).2.getLsbD q = true)
       ∧ ∀ j, j < n → lane tag.bits r j =
         if elemOn tag y.mask j then scanOf f (Nat.log2 n) 1 (g y.mask) j else lane tag.bits (y.oldWide d) j)
     ∧ (∀ k : Fin 32, let i : Instr := .vred c op rnd sat d (.v k)
       Issues i s c t → (issueState i c t s).queues [] [d] = .ok () →
       (s.wfile.getD (wKey (coreOf s.cur) (t.wBase + k.val)) .zero).tag = tag →
       (tag.isNum = false ∨ (logic = true ∧ tag.isFlt = true)) → exec i s = .next (takeTrap s s.cur (eFormat 1 tag.toNat)))
     ∧ (tag.isInt = true → ∀ p q, p < 2 ^ tag.bits → q < 2 ^ tag.bits →
       (op = .add → FitsElem sat tag.bits (elemInt tag.bits p + elemInt tag.bits q) (f p q) ∧ redIdent op tag = 0)
       ∧ (op = .min → elemInt tag.bits (f p q) = min (elemInt tag.bits p) (elemInt tag.bits q) ∧ f p (redIdent op tag) = p)
       ∧ (op = .max → elemInt tag.bits (f p q) = max (elemInt tag.bits p) (elemInt tag.bits q) ∧ f p (redIdent op tag) = p)
       ∧ (op = .and → f p q = p &&& q ∧ f p (redIdent op tag) = p) ∧ (op = .or → f p q = p ||| q ∧ redIdent op tag = 0)
       ∧ (op = .xor → f p q = p ^^^ q ∧ redIdent op tag = 0))
     ∧ (tag.isFlt = true → ∀ p q, p < 2 ^ tag.bits → q < 2 ^ tag.bits →
       let m := roundOf t.status rnd
       (op = .add → redOp op tag m sat p q = writeF tag.fmt m sat (xadd m (tag.fmt.decode p) (tag.fmt.decode q))
         ∧ tag.fmt.decode (redIdent op tag) = .zero true)
       ∧ (op = .min → redOp op tag m sat p q = fminmax false tag.fmt p q ∧ tag.fmt.decode (redIdent op tag) = .inf false)
       ∧ (op = .max → redOp op tag m sat p q = fminmax true tag.fmt p q ∧ tag.fmt.decode (redIdent op tag) = .inf true)))
  ∧ ((∀ (s : State) (c : Ctl) (t : Thread) (rnd : Rnd) (sat : Bool) (d a b : Opnd) (tag : Tag) (x1 x2 x3 y : Iss) (va vb : VReg)
       (acc : Word), let i : Instr := .vdot c rnd sat d a b
       let us := Iss.tagUses .none a b false anyTag dotTag dotTag
       Issues i s c t → tag.isNum = true → tag ≠ 4 →
       (issueState i c t s).formats [a, b, d] [d] us (some ⟨1, a, 0, anyTag⟩) (us.filter fun u => u.field != 1) noMore = .ok tag →
       (issueState i c t s).claim (if tag = 8 then 4 else 2) = .ok x1 → x1.vec 1 a = .ok (va, x2) → x2.vec 2 b = .ok (vb, x3) →
       x3.int 3 d = .ok (acc, y) →
       let on := (List.range (2048 / tag.bits)).filter fun j => elemOn tag y.mask j
       let m := roundOf t.status rnd
       let chunk (k : Nat) := (on.drop (16 * k)).take 16
       ∃ (fl : Flags) (r : Word), exec i s = .next (((y.raise fl).setInt d r).finish c)
         ∧ (tag.isInt = true → fl = 0 ∧ ∃ g : Nat → Int, g 0 = acc.toInt ∧ r.toInt = g ((on.length + 15) / 16) ∧ ∀ k,
             let z := g k + ((chunk k).map fun j => elemInt tag.bits (lane tag.bits va.data j) * elemInt tag.bits (lane tag.bits vb.data j)).sum
             if sat then g (k + 1) = max (leastInt false 64) (min (greatestInt false 64) z)
             else (2 : Int) ^ 64 ∣ g (k + 1) - z ∧ leastInt false 64 ≤ g (k + 1) ∧ g (k + 1) ≤ greatestInt false 64)
         ∧ (tag.isFlt = true → let f := if tag = 8 then Fmt.f64 else Fmt.f32
             ∃ g : Nat → Nat, g 0 = acc.toNat % 2 ^ f.bits ∧ r.toNat = g ((on.length + 15) / 16) ∧ ∀ k,
               g (k + 1) = (addChunk f m sat (g k) (chunkSum ((chunk k).map fun j =>
                 (tag.fmt.decode (lane tag.bits va.data j), tag.fmt.decode (lane tag.bits vb.data j))))).1))
     ∧ ∀ (ps : List (XVal × XVal × ℚ × ℚ)), (∀ p ∈ ps, valueOf p.1 = some p.2.2.1 ∧ valueOf p.2.1 = some p.2.2.2) →
         let ch := chunkSum (ps.map fun p => (p.1, p.2.1))
         valueOf ch.1 = some ((ps.map fun p => p.2.2.1 * p.2.2.2).sum) ∧ ch.2 = 0
         ∧ (ch.1.isZero = true → (ch.1.sgn = true ↔ ∀ p ∈ ps, (xmul p.1 p.2.1).1 = .zero true)))

/-! ### Intervals and vector memory -/

/-- Forward interval forms, `kfma.f` and `khull` among them: each enabled lane is written with the outward rounded result of
the lanes read, empty where an operand is empty (`khull` takes the other), each other lane stands; IV tells of an
ill-formed operand, EM of an empty result. Backward interval forms write each enabled lane of A, and of B where they
narrow it, with the narrowed pair, or with empty where a source is empty; D is not written. Where A and B are one
register it takes B's value. NP tells of progress under the thread's threshold, EM of an empty lane. -/
def Obligations.IntervalResults : Prop :=
  (∀ (i : Instr) (s : State) (c : Ctl) (t : Thread) (d a b : Opnd) (base : Nat) (tag : Tag) (x1 x2 x3 y : Iss) (va vb vc : KSrc),
     let x := issueState i c t s
     let cycles := if tag = 2 then 2 * base else base
     let f := Lane.fmt tag
     let writes (r : Nat → IVal) (ill : Nat → Bool) : Prop := ∃ (w : Wide) (fl : Flags),
       exec i s = .next (((y.raise fl).setVec d ⟨w, tag⟩).finish c) ∧ KLanes tag y.mask (y.oldWide d) w r
         ∧ KFlagged tag y.mask fl ill (fun j => (r j).isNone) fun _ => false
     let ra (j : Nat) := va.read tag j
     let rb (j : Nat) := vb.read tag j
     let rc (j : Nat) := vc.read tag j
     Issues i s c t → (tag = 1 ∨ tag = 2) → x.claim cycles = .ok x1 → x1.kSrc tag 1 a = .ok (va, x2) →
     (∀ g, kForward1 i = some (d, a, base, g) → kTags none (x.kUse 1 a) = .ok tag → y = x2 →
       writes (fun j => (ra j).1.bind (g f)) fun j => (ra j).2)
     ∧ (x2.kSrc tag 2 b = .ok (vb, x3) → kTags none (x.kUse 1 a ++ x.kUse 2 b) = .ok tag →
       (∀ g, kForward2 i = some (d, a, b, base, g) → x.queues [b] [] = .ok () → y = x3 →
         writes (fun j => (ra j).1.bind fun p => (rb j).1.bind fun q => g f p q) fun j => (ra j).2 || (rb j).2)
       ∧ (i = .khull c d a b → base = 1 → y = x3 → writes (fun j => hull (ra j).1 (rb j).1) fun j => (ra j).2 || (rb j).2))
     ∧ (i = .kfmaF c d a b → base = 2 → x2.kSrc tag 2 b = .ok (vb, x3) → x3.kSrc tag 3 (companion d) = .ok (vc, y) →
       kTags none (x.kUse 0 (companion d) ++ x.kUse 1 a ++ x.kUse 2 b) = .ok tag →
       writes (fun j => (ra j).1.bind fun p => (rb j).1.bind fun q => (rc j).1.map fun r => fwdFma f p q r)
         fun j => (ra j).2 || (rb j).2 || (rc j).2))
  ∧ (∀ (i : Instr) (s : State) (c : Ctl) (t : Thread) (d a b cm : Opnd) (wb : Bool) (base : Nat) (tag : Tag) (x1 x2 x3 x4 y : Iss)
       (va vb vd vc : KSrc) (g : Fmt → Box → Box → Box → Box → IVal × IVal),
       let x := issueState i c t s
       let fma : Prop := i = .kfmaB c d a b ∧ wb = true ∧ base = 4 ∧ g = bwdFma ∧ cm = companion d ∧ x4.kSrc tag 3 cm = .ok (vc, y)
       let plain : Prop := kBackward i = some (d, a, b, wb, base, g) ∧ cm = .none ∧ y = x4
       let entire (r : IVal × Bool) (present : Prop) [Decidable present] : IVal × Bool := if present then r else (some Box.entire, false)
       let rb (j : Nat) := entire (vb.read tag j) (b ≠ .none)
       let rc (j : Nat) := entire (vc.read tag j) (cm ≠ .none)
       let pair (j : Nat) : IVal × IVal := match (vd.read tag j).1, (va.read tag j).1, (rb j).1, (rc j).1 with
         | some p, some q, some r, some u => g (Lane.fmt tag) p q r u
         | _, _, _, _ => (none, none)
       let n := t.npth.toNat
       (fma ∨ plain) → Issues i s c t → (tag = 1 ∨ tag = 2) →
       kTags none (x.kUse 0 d ++ x.kUse 0 cm ++ x.kUse 1 a ++ x.kUse 2 b) = .ok tag → x.queues [b] [] = .ok () →
       x.claim (if tag = 2 then 2 * base else base) = .ok x1 → x1.kSrc tag 1 a = .ok (va, x2) →
       (if b = .none then x3 = x2 else x2.kSrc tag 2 b = .ok (vb, x3)) → x3.kSrc tag 3 d = .ok (vd, x4) →
       ∃ (w v : Wide) (fl : Flags),
         exec i s = .next ((if wb then (y.raise fl).setPair a ⟨w, tag⟩ b ⟨v, tag⟩ else (y.raise fl).setVec a ⟨w, tag⟩).finish c)
         ∧ KLanes tag y.mask (y.oldWide a) w (fun j => (pair j).1) ∧ (wb = true → KLanes tag y.mask (y.oldWide b) v fun j => (pair j).2)
         ∧ KFlagged tag y.mask fl (fun j => (vd.read tag j).2 || (va.read tag j).2 || (rb j).2 || (rc j).2)
             (fun j => (pair j).1.isNone || (wb && (pair j).2.isNone))
             fun j => progress (va.read tag j).1 (pair j).1 n || (wb && progress (rb j).1 (pair j).2 n))

/-- The forward forms enclose: the result of any two points of the operands lies in the result interval, for sums, differences,
products, quotients by a nonzero point, fused products, negation, magnitude, squares, roots, rectification, maxima and minima;
intersection keeps exactly the common points, and the hull every point of both. The exponential and the logarithm of a point lie in
theirs, where the model's enclosure of each bound settles at one of the five precisions it is tried at. -/
def Obligations.ForwardFormsEnclose : Prop :=
  ∀ (f : Fmt) (a b d : Box) (x y z : ℚ), (f = .f32 ∨ f = .f64) → BoxOf f a → BoxOf f b → BoxOf f d → InBox x a → InBox y b →
    InBox z d →
    InBox (x + y) (fwdAdd f a b) ∧ InBox (x - y) (fwdSub f a b) ∧ InBox (x * y) (fwdMul f a b)
    ∧ InBox (x * y + z) (fwdFma f a b d) ∧ (y ≠ 0 → InIVal (x / y) (fwdDiv f a b))
    ∧ InBox (-x) (fwdNeg a) ∧ InBox |x| (fwdAbs a) ∧ InBox (x * x) (fwdSqr f a)
    ∧ (∀ r, 0 ≤ r → r * r = x → InIVal r (fwdSqrt f a))
    ∧ InBox (max x 0) (fwdRelu a) ∧ InBox (max x y) (fwdMax a b) ∧ InBox (min x y) (fwdMin a b)
    ∧ (ExpSettles a.lo → ExpSettles a.hi → HoldsReal (Real.exp x) (fwdExp f a))
    ∧ (0 < x → LogSettles a.lo → LogSettles a.hi →
        ∃ r, fwdLog f a = some r ∧ HoldsReal (Real.log x) r)
    ∧ (InBox x b ↔ InIVal x (cap a b)) ∧ InIVal x (hull (some a) (some b)) ∧ InIVal y (hull (some a) (some b))

/-- Backward narrowing loses no solution: points of the operands whose result lies in D stay in the narrowed operands; and the
narrowed operands are subsets of the old ones. -/
def Obligations.BackwardFormsKeepSolutions : Prop :=
  ∀ (f : Fmt) (a b d k : Box) (x y z u : ℚ), (f = .f32 ∨ f = .f64) → BoxOf f a → BoxOf f b → BoxOf f d → BoxOf f k →
    InBox x a → InBox y b → InBox z d → InBox u k →
    let keeps (r : IVal × IVal) : Prop := InIVal x r.1 ∧ InIVal y r.2
    (z = x + y → keeps (bwdAdd f d a b k)) ∧ (z = x - y → keeps (bwdSub f d a b k)) ∧ (z = x * y → keeps (bwdMul f d a b k))
    ∧ (y ≠ 0 → z = x / y → keeps (bwdDiv f d a b k)) ∧ (z = x * y + u → keeps (bwdFma f d a b k))
    ∧ (z = max x y → keeps (bwdMax f d a b k)) ∧ (z = min x y → keeps (bwdMin f d a b k))
    ∧ (z = x * y → InIVal x (bwdScale f d a b k).1)
    ∧ (z = -x → InIVal x (bwdNeg f d a)) ∧ (z = |x| → InIVal x (bwdAbs f d a)) ∧ (z = x * x → InIVal x (bwdSqr f d a))
    ∧ (0 ≤ z → z * z = x → InIVal x (bwdSqrt f d a)) ∧ (z = max x 0 → InIVal x (bwdRelu f d a))
    ∧ (∀ g ∈ [bwdAdd, bwdSub, bwdMul, bwdDiv, bwdFma, bwdMax, bwdMin], ∀ q,
        (InIVal q (g f d a b k).1 → InBox q a) ∧ (InIVal q (g f d a b k).2 → InBox q b))
    ∧ (∀ q, InIVal q (bwdScale f d a b k).1 → InBox q a)
    ∧ (∀ g ∈ [bwdNeg, bwdAbs, bwdSqr, bwdSqrt, bwdExp, bwdLog, bwdRelu], ∀ q, InIVal q (g f d a) → InBox q a)

/-- Intervals as they are written and read: an interval whose bounds are data of the format reads back as itself, with zero
bounds as +0, and the empty one as empty, neither ill-formed; a pair with a NaN, or with its bounds crossed, reads as
empty and ill-formed, but for the canonical empty pair. `kmk` builds intervals from two vectors of bounds; `klo`, `khi`,
`kmid` and `kwid` write one value for each lane into the part of a vector that they name and keep the rest of what it
held; `ksplit` writes the two halves of each lane at its midpoint; `kstat` writes which lanes are empty and which are
points. A midpoint is half the sum of the bounds, rounded to nearest even, or 0 and the limits where a bound is
infinite; a width is the difference rounded up, or infinity; an empty lane gives the canonical NaN. -/
def Obligations.IntervalsReadBackAndBounds : Prop :=
  (∀ f : Fmt, (f = .f32 ∨ f = .f64) →
     readPair f (pairBits f none).1 (pairBits f none).2 = (none, false)
     ∧ (∀ (b : Box) (q : ℚ), BoxOf f b → InBox q b →
         let plus (x : XVal) : XVal := if x.isZero then .zero false else x
         readPair f (pairBits f (some b)).1 (pairBits f (some b)).2 = (some ⟨plus b.lo, plus b.hi⟩, false))
     ∧ (∀ l h, ((f.decode l).isNan = true ∨ (f.decode h).isNan = true) → readPair f l h = (none, true))
     ∧ (∀ l h p q, valueOf (f.decode l) = some p → valueOf (f.decode h) = some q → q < p → readPair f l h = (none, true))
     ∧ (∀ l h, f.decode l = .inf false → f.decode h = .inf true → readPair f l h = (none, false)))
  ∧ (∀ (s : State) (c : Ctl) (t : Thread) (part : Bool) (d a b : Opnd) (tag : Tag) (x1 x2 y : Iss) (va : KSrc) (wa wb : VReg),
       let n := Lane.lanes tag
       let w := Lane.bw tag
       let f := Lane.fmt tag
       let ra (j : Nat) := va.read tag j
       let x (i : Instr) := issueState i c t s
       let cycles := if tag = 2 then 2 else 1
       let first := if part then n else 0
       (let i : Instr := .kmk c part d a b;
         Issues i s c t → (tag = 1 ∨ tag = 2) → (x i).tagOf 0 a = (if tag = 1 then 7 else 8) → (x i).tagOf 0 b = (x i).tagOf 0 a →
         (∃ m, a = .v m) → (∃ m, b = .v m) → (x i).claim cycles = .ok x1 → x1.vec 1 a = .ok (wa, x2) → x2.vec 2 b = .ok (wb, y) →
         let r (j : Nat) := readPair f (lane w wa.data (first + j)) (lane w wb.data (first + j))
         ∃ (v : Wide) (fl : Flags), exec i s = .next (((y.raise fl).setVec d ⟨v, tag⟩).finish c)
           ∧ KLanes tag y.mask (y.oldWide d) v (fun j => (r j).1)
           ∧ KFlagged tag y.mask fl (fun j => (r j).2) (fun j => (r j).1.isNone) fun _ => false)
       ∧ (∀ (i : Instr) (g : IVal → Nat), (i = .klo c part d a ∧ g = fun p => (pairBits f p).1)
           ∨ (i = .khi c part d a ∧ g = fun p => (pairBits f p).2) ∨ (i = .kmid c part d a ∧ g = midBits f)
           ∨ (i = .kwid c part d a ∧ g = widBits f) →
         Issues i s c t → (tag = 1 ∨ tag = 2) → kTags none ((x i).kUse 1 a) = .ok tag → (x i).claim cycles = .ok x1 →
         x1.kSrc tag 1 a = .ok (va, x2) → x2.vec 3 d = .ok (wa, y) →
         ∃ (v : Wide) (fl : Flags), exec i s = .next (((y.raise fl).setVec d ⟨v, if tag = 1 then 7 else 8⟩).finish c)
           ∧ (∀ e, e < 2048 / w → lane w v e = if first ≤ e ∧ e < first + n ∧ y.mask.getLsbD (e - first) = true
               then g (ra (e - first)).1 % 2 ^ w else lane w wa.data e)
           ∧ KFlagged tag y.mask fl (fun j => (ra j).2) (fun _ => false) fun _ => false)
       ∧ (let i : Instr := .ksplit c d a
         Issues i s c t → (tag = 1 ∨ tag = 2) → kTags none ((x i).kUse 1 a) = .ok tag → (x i).claim cycles = .ok x1 →
         x1.kSrc tag 1 a = .ok (va, y) →
         let half (j : Nat) : IVal × IVal := match (ra j).1 with
           | some p => (some ⟨p.lo, f.decode (midBits f (some p))⟩, some ⟨f.decode (midBits f (some p)), p.hi⟩)
           | none => (none, none)
         ∃ (v u : Wide) (fl : Flags), exec i s = .next (((y.raise fl).setPair d ⟨v, tag⟩ a ⟨u, tag⟩).finish c)
           ∧ KLanes tag y.mask (y.oldWide d) v (fun j => (half j).1) ∧ KLanes tag y.mask (y.oldWide a) u (fun j => (half j).2)
           ∧ KFlagged tag y.mask fl (fun j => (ra j).2) (fun j => (ra j).1.isNone) fun _ => false)
       ∧ (let i : Instr := .kstat c d a
         Issues i s c t → (x i).queues [] [d] = .ok () → (∃ m, a = .k m) →
         ((x i).tagOf 0 a = 0 → (x i).claim 1 = .ok x1 → x1.vec 1 a = .ok (wa, y) → exec i s = .next ((y.setInt d 0).finish c))
         ∧ ((tag = 1 ∨ tag = 2) → (x i).tagOf 0 a = tag → (x i).claim cycles = .ok x1 → x1.kSrc tag 1 a = .ok (va, y) →
             ∃ (r : Word) (fl : Flags), exec i s = .next (((y.raise fl).setInt d r).finish c)
               ∧ (∀ j, j < 32 → r.getLsbD j = (decide (j < n) && y.mask.getLsbD j && (ra j).1.isNone))
               ∧ (∀ j, j < 32 → r.getLsbD (32 + j) = (decide (j < n) && y.mask.getLsbD j
                   && (match (ra j).1 with | some p => beqv p.lo p.hi | none => false)))
               ∧ KFlagged tag y.mask fl (fun j => (ra j).2) (fun _ => false) fun _ => false))
       ∧ midBits f none = f.nanBits ∧ widBits f none = f.nanBits
       ∧ ∀ p : Box, BoxOf f p →
         let mid := midBits f (some p)
         let wid := widBits f (some p)
         let exactly (q : ℚ) (e : Ex) : Prop := e.st = false ∧ valueOf (.num e) = some q
         (p.lo.isInf = true → p.hi.isInf = true → mid = 0)
         ∧ (p.lo.isInf = true → p.hi.isInf = false → mid = f.maxBits true)
         ∧ (p.lo.isInf = false → p.hi.isInf = true → mid = f.maxBits false)
         ∧ (p.lo.isInf = true ∨ p.hi.isInf = true → wid = f.infBits false)
         ∧ ∀ l h, valueOf p.lo = some l → valueOf p.hi = some h →
           (l + h = 0 → mid = 0) ∧ (h = l → wid = 0)
           ∧ (l + h ≠ 0 → ∃ e, exactly ((l + h) / 2) e ∧ valueOf (f.decode mid) = valueOf (f.decode (roundEx f .rne false e).1))
           ∧ (h ≠ l → ∃ e, exactly (h - l) e ∧ wid = (roundEx f .rup false e).1))

/-- `kmac.f` sums the enabled lanes' products exactly, rounds the two sums outward once and writes lane 0 alone, and nothing
where mask bit 0 is clear; `kmac.b` narrows each enabled lane against the target and the sum of the others, and empties
every enabled lane where one is empty. The verdicts of `kcmp.f` and `kin` are right: a TRUE lane says that the relation
holds of every two points (every point of A lies in B), a FALSE lane that it holds of none. What `kcmp.b` enforces keeps
every two points that satisfy the relation. `kcmp.f`, `kin` and `mlog` write the lanes of an m register that their mask
enables, and a test of `mlog` the bits of a predicate; `kcmp.b` narrows A and an interval B by the lanes of its m
register, and leaves an UNKNOWN lane. `kmov` copies the enabled lanes with their tag (a raw register whole) and `kset`
writes a constant into each enabled lane; neither raises a flag. -/
def Obligations.IntervalVerdictsAndMoves : Prop :=
  (∀ (s : State) (c : Ctl) (t : Thread) (d a b : Opnd) (tag : Tag) (x1 x2 x3 y : Iss) (va vb vd : KSrc) (old : VReg),
     let f := Lane.fmt tag
     let reads (j : Nat) : IVal := (va.read tag j).1.bind fun p => (vb.read tag j).1.map fun q => mulExact p q
     let on := (List.range (Lane.lanes tag)).filter fun j => y.mask.getLsbD j
     let sum (js : List Nat) : IVal := if js.all fun j => (reads j).isSome then
         some (outward f ⟨(js.filterMap reads).foldl (fun z q => badd z q.lo) bzero, (js.filterMap reads).foldl (fun z q => badd z q.hi) bzero⟩)
       else none
     (let i : Instr := .kmacF c d a b; let x := issueState i c t s;
       Issues i s c t → (tag = 1 ∨ tag = 2) → kTags none (x.kUse 1 a ++ x.kUse 2 b) = .ok tag →
       x.claim (if tag = 2 then 4 else 2) = .ok x1 → x1.kSrc tag 1 a = .ok (va, x2) → x2.kSrc tag 2 b = .ok (vb, x3) →
       x3.vec 3 d = .ok (old, y) →
       (y.mask.getLsbD 0 = true → ∃ (w : Wide) (fl : Flags), exec i s = .next (((y.raise fl).setVec d ⟨w, tag⟩).finish c)
         ∧ KLanes tag 1 old.data w fun _ => sum on)
       ∧ (y.mask.getLsbD 0 = false → ∃ fl : Flags, exec i s = .next (({ y.raise fl with wrote := true } : Iss).finish c)))
     ∧ (let i : Instr := .kmacB c d a b; let x := issueState i c t s
       let target := (vd.read tag 0).1
       let lane (j : Nat) : IVal × IVal :=
         match target, sum (on.filter fun l => l != j), (va.read tag j).1, (vb.read tag j).1 with
         | some z, some r, some p, some q =>
           match capI (some p) (rdiv f (fwdSub f z r) q) with
           | some p' => (some p', capI (some q) (rdiv f (fwdSub f z r) p'))
           | none => (none, none)
         | _, _, _, _ => (none, none)
       let dead : Bool := target.isNone || on.any fun j => (lane j).1.isNone || (lane j).2.isNone
       Issues i s c t → (tag = 1 ∨ tag = 2) → kTags none (x.kUse 0 d ++ x.kUse 1 a ++ x.kUse 2 b) = .ok tag →
       x.claim (if tag = 2 then 8 else 4) = .ok x1 → x1.kSrc tag 1 a = .ok (va, x2) → x2.kSrc tag 2 b = .ok (vb, x3) →
       x3.kSrc tag 3 d = .ok (vd, y) →
       ∃ (w v : Wide) (fl : Flags), exec i s = .next (((y.raise fl).setPair a ⟨w, tag⟩ b ⟨v, tag⟩).finish c)
         ∧ KLanes tag y.mask (y.oldWide a) w (fun j => if dead then none else (lane j).1)
         ∧ KLanes tag y.mask (y.oldWide b) v fun j => if dead then none else (lane j).2))
  ∧ (∀ (f : Fmt) (a b : Box) (k : Cond) (x y : ℚ), (f = .f32 ∨ f = .f64) → BoxOf f a → BoxOf f b → InBox x a → InBox y b →
       (k ≠ .uo → k ≠ .ord → (cmpBox k a b = .true → ratHolds k x y) ∧ (cmpBox k a b = .false → ¬ ratHolds k x y)
         ∧ (ratHolds k x y → InIVal x (enforce k a b).1 ∧ InIVal y (enforce k a b).2)
         ∧ (ratHolds (Cond.negate k) x y ↔ ¬ ratHolds k x y)))
  ∧ (∀ (s : State) (c : Ctl) (t : Thread) (k : Cond) (a b : Opnd) (m ma : Fin 8) (tag : Tag) (x1 x2 y : Iss) (va vb : KSrc),
       let n := Lane.lanes tag
       let x (i : Instr) := issueState i c t s
       let ra (j : Nat) := va.read tag j
       let rb (j : Nat) := vb.read tag j
       let ill (j : Nat) : Bool := (ra j).2 || (rb j).2
       let verdict (i : Instr) (g : Box → Box → Tri) : Prop :=
         Issues i s c t → (tag = 1 ∨ tag = 2) → kTags none ((x i).kUse 1 a ++ (x i).kUse 2 b) = .ok tag →
         (x i).queues [a, b] [] = .ok () → (x i).claim (if tag = 2 then 2 else 1) = .ok x1 → x1.kSrc tag 1 a = .ok (va, x2) →
         x2.kSrc tag 2 b = .ok (vb, y) →
         ∃ (r : BitVec 128) (fl : Flags), exec i s = .next (((y.raise fl).writeM m r).finish c)
           ∧ (∀ j, j < 64 → r.extractLsb' (2 * j) 2 = if j < n ∧ y.mask.getLsbD j = true then
               BitVec.ofNat 2 (match (ra j).1, (rb j).1 with | some p, some q => g p q | _, _ => Tri.false).bits
             else t.mregs[m].extractLsb' (2 * j) 2)
           ∧ KFlagged tag y.mask fl ill (fun _ => false) fun _ => false
       verdict (.kcmpF c k (.m m) a b) (cmpBox k)
       ∧ verdict (.kin c (.m m) a b) (fun p q =>
           if ble q.lo p.lo ∧ ble p.hi q.hi then .true else if (cap p q).isNone then .false else .unknown)
       ∧ (let i : Instr := .kcmpB c k (.m m) a b
         let wb : Bool := match b with | .k _ => true | _ => false
         let want (j : Nat) : Tri := triLane t.mregs[m] j
         let pair (j : Nat) : IVal × IVal := match want j, (ra j).1, (rb j).1 with
           | .true, some p, some q => bothOrNone (enforce k p q).1 (enforce k p q).2
           | .false, some p, some q => bothOrNone (enforce (Cond.negate k) p q).1 (enforce (Cond.negate k) p q).2
           | _, _, _ => (none, none)
         Issues i s c t → (tag = 1 ∨ tag = 2) → kTags none ((x i).kUse 1 a ++ (x i).kUse 2 b) = .ok tag →
         (x i).queues [b] [] = .ok () → (x i).claim (if tag = 2 then 4 else 2) = .ok x1 → x1.kSrc tag 1 a = .ok (va, x2) →
         x2.kSrc tag 2 b = .ok (vb, y) →
         ∃ (w v : Wide) (fl : Flags),
           exec i s = .next ((if wb then (y.raise fl).setPair a ⟨w, tag⟩ b ⟨v, tag⟩ else (y.raise fl).setVec a ⟨w, tag⟩).finish c)
           ∧ (∀ j, j < n → rawPair tag w j = if y.mask.getLsbD j = true ∧ want j ≠ .unknown then pairBits (Lane.fmt tag) (pair j).1
               else rawPair tag (y.oldWide a) j)
           ∧ (wb = true → ∀ j, j < n → rawPair tag v j = if y.mask.getLsbD j = true ∧ want j ≠ .unknown
               then pairBits (Lane.fmt tag) (pair j).2 else rawPair tag (y.oldWide b) j))
       ∧ (∀ (fn : MlogFn) (g : Tri → Tri → Tri), let i : Instr := .mlog c fn (.m m) (.m ma) b
         (fn = .and ∧ g = Tri.and) ∨ (fn = .or ∧ g = Tri.or) ∨ (fn = .not ∧ g = fun p _ => p.not)
           ∨ (fn = .imp ∧ g = fun p q => Tri.or p.not q) ∨ (fn = .eqv ∧ g = Tri.eqv) →
         Issues i s c t → (x i).claim 1 = .ok y → ∃ r : BitVec 128, exec i s = .next ((y.writeM m r).finish c)
           ∧ ∀ j, j < 64 → r.extractLsb' (2 * j) 2 = if y.mask.getLsbD j = true then
               BitVec.ofNat 2 (g (triLane t.mregs[ma] j) (triLane t.mregs[mIndex b] j)).bits else t.mregs[m].extractLsb' (2 * j) 2)
       ∧ (∀ (fn : MlogFn) (v : Tri) (q : Fin 8), let i : Instr := .mlog c fn (.p q) (.m ma) .none
         (fn = .tstFalse ∧ v = .false) ∨ (fn = .tstTrue ∧ v = .true) ∨ (fn = .tstUnk ∧ v = .unknown) →
         Issues i s c t → (x i).claim 1 = .ok y → ∃ r : Word, exec i s = .next ((y.writeP q r).finish c)
           ∧ ∀ j, j < 64 → r.getLsbD j = if y.mask.getLsbD j = true then decide (triLane t.mregs[ma] j = v)
               else (if q = 0 then true else t.preds[q].getLsbD j)))
  ∧ (∀ (s : State) (c : Ctl) (t : Thread) (m : Fin 16) (d p q : Opnd) (tag : Tag) (x1 x2 y : Iss) (va : VReg) (v n : Word),
       let a : Opnd := .k m
       let x (i : Instr) := issueState i c t s
       (let i : Instr := .kmov c d a;
         Issues i s c t → (x i).tagOf 0 a = tag →
         (2 < tag.toNat → exec i s = .next (takeTrap s s.cur (eFormat 1 tag.toNat)))
         ∧ (tag.toNat ≤ 2 → (x i).claim (if tag = 2 then 2 else 1) = .ok x1 → x1.vec 1 a = .ok (va, y) →
             ∃ w : Wide, exec i s = .next ((y.setVec d ⟨w, tag⟩).finish c) ∧ (tag = 0 → w = va.data)
               ∧ (tag ≠ 0 → ∀ j, j < Lane.lanes tag → rawPair tag w j =
                   if y.mask.getLsbD j then rawPair tag va.data j else rawPair tag (y.oldWide d) j)))
       ∧ (let i : Instr := .kset c d p q
         let k : IVal := match n.toNat with
           | 0 => none | 1 => some ⟨.inf true, .inf false⟩ | 2 => some ⟨.zero false, .zero false⟩
           | 3 => some ⟨.zero false, .inf false⟩ | _ => some ⟨.inf true, .zero false⟩
         Issues i s c t → (x i).int 1 p = .ok (v, x1) → x1.int 2 q = .ok (n, x2) → tag = v.setWidth 4 → tag.toNat ≤ 2 →
         x2.claim (if tag = 2 then 2 else 1) = .ok y →
         ∃ w : Wide, exec i s = .next ((y.setVec d ⟨w, tag⟩).finish c) ∧ (tag = 0 → w = 0)
           ∧ (tag ≠ 0 → KLanes tag y.mask (y.oldWide d) w fun _ => k)))

/-- `vld`, `vldx` and `kld`, and `vst`, `vstx` and `kst`, with their units' paths clear. A load becomes a request for its
units that its thread waits for; it writes no register yet, and its result goes to the enabled bytes of D over what D
held; a unit of `kld` and `kst` is 8 bytes and reports its lane. A store writes no byte of memory in its issue cycle: in
the own core store its enabled bytes, and no other, are stored in issue + 7 or later; elsewhere exactly they enter the
store buffer, in issue + 7 or later. What a wide load leaves in its register: each byte read in its enabled place, every
other byte as it was, but for the pad bits of a BFP tag, which it writes 0 with any block. -/
def Obligations.VectorMemoryAccesses : Prop :=
  (∀ (s : State) (c : Ctl) (t : Thread) (d : Opnd) (r : MemRef) (o : Int) (us : List VUnit) (en : Nat → Bool) (ps : List Part)
     (x x0 y : Iss) (tag : Tag) (v vx : VReg),
     let k := coreOf s.cur
     let id := s.nextId
     let frame (s' : State) : Prop := s'.mem = s.mem ∧ s'.gfile = s.gfile ∧ s'.wfile = s.wfile
       ∧ ∀ j, j ≠ s.cur → s'.thread? j = s.thread? j
     let loads (i : Instr) (old : Wide) : Prop :=
       x.unitPaths r.seg o .load us = .ok ps →
       ∃ s' t' q, exec i s = .next s' ∧ frame s' ∧ s'.thread? s.cur = some t' ∧ t'.outstanding = some id ∧ t'.pc = t.pc + 1
         ∧ s'.reqs.get? id = some q ∧ q.key = s.cur ∧ q.instr = some i ∧ q.kind = .read (spans ps)
         ∧ q.dst = some ⟨us.flatMap fun u => (List.range u.size).map fun j => if en (u.byte + j) then some (u.byte + j) else none,
             old, tag⟩
         ∧ (∀ pre p post, ps = pre ++ p :: post → whereOf k p.da = .ownCore → ∀ j, j < p.len →
             ∃ a ∈ (s'.core k).own, a.id = id ∧ s.cyc + 5 ≤ a.at_ ∧ ∃ l n m, a.act = .read l n m
               ∧ l ≤ p.loc + j ∧ p.loc + j < l + n ∧ m + (p.loc + j - l) = (pre.map (·.len)).sum + j)
         ∧ (∀ p, ps = [p] → whereOf k p.da ≠ .ownCore → s.errs = [] →
             q.data = (readVisible x.s k p.loc p.len).1 ∧ q.poison = false)
         ∧ ∃ e ∈ s'.pending, e.args = [id] ∧ (match x.place ps with
             | .ownCore => e.ev = .remoteAccessReply ∧ s.cyc + 7 ≤ e.at_
             | .ownVault => e.ev = .remoteAccessReply ∧ s.cyc + 11 ≤ e.at_
             | .otherCore | .otherVault | .paged => e.ev = .arrivalAtHome ∧ s.cyc < e.at_)
     let apart : Prop := ps.Pairwise (fun p q => p.loc + p.len ≤ q.loc ∨ q.loc + q.len ≤ p.loc) ∧ ps.length = us.length
     let each (f : Nat → Nat → Prop) : Prop := ∀ (q : Nat) (u : VUnit) (p : Part) (j : Nat), us[q]? = some u → ps[q]? = some p →
       p.len = u.size → j < u.size → f (p.loc + j) (u.byte + j)
     let stores (i : Instr) : Prop :=
       x.unitPaths r.seg o .store us = .ok ps → x.tileHold ps = .ok () →
       ∃ s' new, exec i s = .next s' ∧ frame s' ∧ (s'.core k).own = (s.core k).own ++ new
         ∧ (x.place ps = .ownCore → (s'.core k).buffer = (s.core k).buffer
           ∧ (∀ a ∈ new, s.cyc + 7 ≤ a.at_ ∧ ∃ l da ws kind ph, a.act = .write l da ws kind ph
             ∧ ∀ b, l ≤ b → b < l + ws.length → ∃ p ∈ ps, p.loc ≤ b ∧ b < p.loc + p.len)
           ∧ (apart → each fun b g =>
               (en g = true → ∃ a ∈ new, ∃ l da ws kind ph, a.act = .write l da ws kind ph ∧ l ≤ b ∧ b < l + ws.length
                 ∧ ws.getD (b - l) 0 = imageByte v.data g)
               ∧ (en g = false → ∀ a ∈ new, ∀ l da ws kind ph, a.act = .write l da ws kind ph → b < l ∨ l + ws.length ≤ b)))
         ∧ (x.place ps ≠ .ownCore → new = [] ∧ ((s.core k).buffer.length + 2 * ps.length ≤ 64 →
             ∃ es, (s'.core k).buffer = (s.core k).buffer ++ es ∧ (∀ e ∈ es, s.cyc + 7 ≤ e.enters)
               ∧ (∀ a b, (∀ p ∈ ps, a < p.loc ∨ p.loc + p.len ≤ a) → overlay es a b = b)
               ∧ (apart → each fun a g => ∀ b, overlay es a b = if en g then imageByte v.data g else b)))
     let start (i : Instr) (dsts srcs : List Opnd) : Prop :=
       Issues i s c t ∧ (issueState i c t s).queues srcs dsts = .ok () ∧ (issueState i c t s).offset r = .ok (o, x)
     let u := gatherBytes tag
     let whole : Nat → Bool := fun j => x.mask.getLsbD (j / if tag = 2 then 16 else 8)
     let halves : List VUnit :=
       (imageUnits 256 8 whole).map fun u => { u with num := if tag = 2 then u.num / 2 else u.num }
     (start (.vld c tag d r) [d] [] → en = loadEn tag x.mask → us = imageUnits (imageBytes tag) (unitBytes tag) en →
       loads (.vld c tag d r) (written tag (x.oldWide d)))
     ∧ (start (.vst c d r) [] [d] → tag = x.tagOf 0 d →
       en = storeEn tag x.mask → us = imageUnits (imageBytes tag) (unitBytes tag) en → x.vec 3 d = .ok (v, y) → stores (.vst c d r))
     ∧ (Issues (.vldx c tag d r) s c t → (∃ m, d = .v m) →
       (issueState (.vldx c tag d r) c t s).tagOf 0 d = (if u = 8 then 4 else 3) →
       (issueState (.vldx c tag d r) c t s).offset r = .ok (o, x0) → x0.vec 3 d = .ok (vx, x) →
       en = (fun j => if tag.isBfp then blockOn tag x.mask j else x.mask.getLsbD (j / u)) →
       us = ((List.range (256 / u)).filter fun j => if tag.isBfp then x.mask.getLsbD 0 || x.mask.getLsbD 32 else x.mask.getLsbD j).map
         (gatherUnit u vx.data) → loads (.vldx c tag d r) vx.data)
     ∧ (∀ m : Fin 32, d = .v m → Issues (.vstx c d r) s c t → (issueState (.vstx c d r) c t s).offset r = .ok (o, x0) →
       tag = (issueState (.vstx c d r) c t s).tagOf 0 d →
       (s.wfile.getD (wKey (coreOf s.cur) (t.wBase + m.val + 1)) .zero).tag = (if u = 8 then 4 else 3) →
       x0.readW 3 (t.wBase + m.val + 1) = .ok (vx, x) → en = (fun j => x.mask.getLsbD (j / u)) →
       us = ((List.range (256 / u)).filter fun j => x.mask.getLsbD j).map (gatherUnit u vx.data) →
       x.readW 3 (t.wBase + m.val) = .ok (v, y) → stores (.vstx c d r))
     ∧ (∀ m : Fin 16, d = .k m → Issues (.kld c d r) s c t → (tag = 1 ∨ tag = 2) → (issueState (.kld c d r) c t s).tagOf 0 d = tag →
       (issueState (.kld c d r) c t s).offset r = .ok (o, x0) → x0.vec 3 d = .ok (v, x) → en = whole →
       us = halves → loads (.kld c d r) v.data)
     ∧ (∀ m : Fin 16, d = .k m → Issues (.kst c d r) s c t → (tag = 1 ∨ tag = 2) → (issueState (.kst c d r) c t s).tagOf 0 d = tag →
       (issueState (.kst c d r) c t s).offset r = .ok (o, x) → en = whole →
       us = halves → x.vec 3 d = .ok (v, y) → stores (.kst c d r)))
  ∧ (∀ (data : List Byte) (onto : List (Option Nat)) (old : Wide) (tag : Tag), data.length = onto.length →
       (onto.filterMap id).Nodup → (∀ k, some k ∈ onto → k < 256) →
       let r := wideResult data ⟨onto, old, tag⟩
       let pad (k : Nat) : Prop := tag.isBfp = true ∧ 8 * tag.mant ≤ k ∧ k < 254
       r.tag = tag
       ∧ (∀ (i k : Nat) (b : Byte), onto[i]? = some (some k) → data[i]? = some b → lane 8 r.data k = if pad k then 0 else b.toNat)
       ∧ (∀ k, k < 256 → some k ∉ onto → ¬ pad k → lane 8 r.data k = lane 8 old k)
       ∧ (∀ k, k < 256 → pad k → (∃ j, some j ∈ onto) → lane 8 r.data k = 0))

/-! ### Core and system instructions -/

/-- `qld`, `qst`, `qcnt` and `qclr`. `qld` reserves an entry at its issue and starts a request that names it, for the bytes
of its address; the thread goes on. The value comes in issue + 7 or later from the own core store, in issue + 11 or
later from the own vault, and by a trip from elsewhere. `qst` stores the popped entry's data, without its tag: in the
own core store in issue + 7 or later, elsewhere through the store buffer. `qcnt` gives `FILLED` and `HELD` and pops
nothing. `qclr` waits until every entry held is present, then empties the queue and gives the number discarded.
`borrow`, `bret` and `xmov`. `borrow` is refused to a migratory thread and to one that borrows already, and takes 8 to
128 registers in eights; without a slot or entries free it gives −1 and changes nothing; else the lowest free slot is
withheld, D is its number, and the borrowed entries are cleared. `bret` ends the loan: the slot and its entries are free
from 8 cycles later on; it does nothing without one. `sendr` sends the value of A, with its tag, to the register D names
of the thread in the slot B names, to land 4 cycles later in the own cluster and 4 + 2 · hops elsewhere; it writes no
register of its own core. A target outside the clusters of the sender's group is E_PART 1. -/
def Obligations.QueuesWindowsAndDeposits : Prop :=
  (∀ (s : State) (c : Ctl) (t : Thread) (n : Fin 16) (r : MemRef) (d : Opnd) (o : Int) (ps : List Part)
     (x y : Iss) (v : VReg), let k := coreOf s.cur
     let q := s.queue k n.val
     let size := if n.val < 12 then 8 else 256
     let align := if n.val < 12 then 8 else 64
     let id := s.nextId
     (Issues (.qld c (.q n) r) s c t → (issueState (.qld c (.q n) r) c t s).queues [] [.q n] = .ok () →
       (issueState (.qld c (.q n) r) c t s).offset r = .ok (o, x) → x.access r o size .load .everywhere align = .ok ps →
       ∃ s' e, ∃ p : Req, exec (.qld c (.q n) r) s = .next s' ∧ Completed s' s.cur ∧ s'.mem = s.mem
         ∧ (∃ t', s'.thread? s.cur = some t' ∧ t'.outstanding = none ∧ t'.pc = t.pc + 1)
         ∧ (s'.queue k n.val).ents = (x.s.queue k n.val).ents ++ [e] ∧ e.present = none
         ∧ s'.reqs.get? id = some p ∧ p.qdest = some (k, n.val, e.seq) ∧ p.dst = none ∧ p.kind = .read (spans ps)
         ∧ (∀ pre p post, ps = pre ++ p :: post → whereOf k p.da = .ownCore → ∀ j, j < p.len →
             ∃ a ∈ (s'.core k).own, a.id = id ∧ s.cyc + 5 ≤ a.at_ ∧ ∃ l n m, a.act = .read l n m
               ∧ l ≤ p.loc + j ∧ p.loc + j < l + n ∧ m + (p.loc + j - l) = (pre.map (·.len)).sum + j)
         ∧ (∀ w, ps = [w] → whereOf k w.da ≠ .ownCore → s.errs = [] →
             p.data = (readVisible x.s k w.loc w.len).1 ∧ p.poison = false)
         ∧ ∃ ev ∈ s'.pending, ev.args = [id] ∧ (match x.place ps with
             | .ownCore => ev.ev = .qldDataArrival ∧ s.cyc + 7 ≤ ev.at_
             | .ownVault => ev.ev = .qldDataArrival ∧ s.cyc + 11 ≤ ev.at_
             | .otherCore | .otherVault | .paged => ev.ev = .arrivalAtHome ∧ s.cyc < ev.at_))
     ∧ (Issues (.qst c (.q n) r) s c t → (issueState (.qst c (.q n) r) c t s).queues [.q n] [] = .ok () →
       (issueState (.qst c (.q n) r) c t s).offset r = .ok (o, x) → x.access r o size .store .everywhere align = .ok ps →
       x.tileHold ps = .ok () → x.pop n.val true = .ok (v, y) →
       let bs := toBytes size v.data.toNat
       ∃ s' new, exec (.qst c (.q n) r) s = .next s' ∧ Completed s' s.cur ∧ s'.mem = s.mem
         ∧ (s'.core k).own = (s.core k).own ++ new
         ∧ (∀ a ∈ new, s.cyc + 7 ≤ a.at_ ∧ ∃ l da ws kind ph, a.act = .write l da ws kind ph
             ∧ ∃ p ∈ ps, whereOf k p.da = .ownCore ∧ p.loc ≤ l ∧ l + ws.length ≤ p.loc + p.len)
         ∧ (∀ pre p post, ps = pre ++ p :: post → whereOf k p.da = .ownCore → ∀ j, j < p.len →
             ∃ a ∈ new, ∃ l da ws kind ph, a.act = .write l da ws kind ph ∧ l ≤ p.loc + j ∧ p.loc + j < l + ws.length
               ∧ ws.getD (p.loc + j - l) 0 = bs.getD ((pre.map (·.len)).sum + j) 0)
         ∧ ((s.core k).buffer.length + 16 + 2 * ps.length ≤ 64 → ∃ es, (s'.core k).buffer = (s.core k).buffer ++ es
             ∧ (∀ a b, (∀ p ∈ ps, whereOf k p.da ≠ .ownCore → a < p.loc ∨ p.loc + p.len ≤ a) → overlay es a b = b)
             ∧ (ps.Pairwise (fun p q => p.loc + p.len ≤ q.loc ∨ q.loc + q.len ≤ p.loc) →
                 ∀ pre p post, ps = pre ++ p :: post → whereOf k p.da ≠ .ownCore → ∀ j, j < p.len → ∀ b,
                   overlay es (p.loc + j) b = bs.getD ((pre.map (·.len)).sum + j) 0)))
     ∧ (let i : Instr := .qcnt c d (.q n)
       Issues i s c t → (s.core k).qOwner = some t.ctag → (issueState i c t s).queues [] [d] = .ok () →
       exec i s = .next (((issueState i c t s).setInt d (BitVec.ofNat 64 (Iss.filled s q + 256 * q.ents.length))).finish c))
     ∧ (let i : Instr := .qclr c d (.q n)
       Issues i s c t → (s.core k).qOwner = some t.ctag → (issueState i c t s).queues [] [d] = .ok () →
       (Iss.filled s q ≠ q.ents.length → exec i s = .next (holdThread s s.cur c.t .queueClear))
       ∧ (Iss.filled s q = q.ents.length → ∃ z : Iss,
           exec i s = .next ((z.setInt d (BitVec.ofNat 64 q.ents.length)).finish c) ∧ (z.s.queue k n.val).ents = []
           ∧ (∀ p, p ≠ n.val → z.s.queue k p = s.queue k p) ∧ z.s.mem = s.mem)))
  ∧ (∀ (s : State) (c : Ctl) (t : Thread) (d a : Opnd) (n : Word) (y : Iss), let k := coreOf s.cur
       (let i : Instr := .borrow c d a;
         Issues i s c t → Source1 (issueState i c t s) d a n y →
         (t.status.getLsbD 12 = true → exec i s = .next (takeTrap s s.cur (eRights (detail 0 7 0 5) 0)))
         ∧ (t.status.getLsbD 12 = false → t.status.getLsbD 13 = true →
             exec i s = .next (takeTrap s s.cur (eRights (detail 0 7 0 6) 0)))
         ∧ (t.status.getLsbD 12 = false → t.status.getLsbD 13 = false →
             (n.toNat < 8 ∨ 128 < n.toNat ∨ n.toNat % 8 ≠ 0 →
               exec i s = .next (takeTrap s s.cur (eBounds (detail 0 7 0 1) n)))
             ∧ (8 ≤ n.toNat → n.toNat ≤ 128 → n.toNat % 8 = 0 →
               (lendableSlot y.s k = none ∨ freeBase (gTaken y.s k) n.toNat 2048 = none →
                 exec i s = .next ((y.setInt d (BitVec.allOnes 64)).finish c))
               ∧ ∀ j e, lendableSlot y.s k = some j → freeBase (gTaken y.s k) n.toNat 2048 = some e → ∃ z : Iss,
                 exec i s = .next ((z.setInt d (BitVec.ofNat 64 j)).finish c) ∧ z.s.mem = s.mem
                 ∧ (z.s.slot (slotKey k j)).withheld = true
                 ∧ z.th = { t with status := t.status ||| 0x2000, lender := j, bBase := e, bSize := n.toNat }
                 ∧ (∀ p, p < n.toNat → z.s.gfile.getD (gKey k (e + p)) 0 = 0)
                 ∧ ∀ g, (∀ p, p < n.toNat → g ≠ gKey k (e + p)) → z.s.gfile.getD g 0 = s.gfile.getD g 0)))
       ∧ (∀ j e, lendableSlot s k = some j → freeBase (gTaken s k) n.toNat 2048 = some e →
           j < s.rotLen k ∧ slotFree s (slotKey k j) = true ∧ (∀ p, p < j → slotFree s (slotKey k p) = false)
           ∧ e % 8 = 0 ∧ (0 < n.toNat → e + n.toNat ≤ 2048)
           ∧ (0 < n.toNat → ∀ b ∈ gTaken s k, e + n.toNat ≤ b.1 ∨ b.1 + b.2 ≤ e))
       ∧ (let i : Instr := .bret c
         Issues i s c t →
         (t.status.getLsbD 13 = false → exec i s = .next ((issueState i c t s).finish c))
         ∧ (t.status.getLsbD 13 = true → ∃ s' t', exec i s = .next s' ∧ Completed s' s.cur ∧ s'.mem = s.mem
             ∧ s'.thread? s.cur = some t' ∧ t'.status.getLsbD 13 = false
             ∧ (s'.slot (slotKey k t.lender)).withheld = false ∧ (s'.slot (slotKey k t.lender)).freeFrom = s.cyc + 8
             ∧ (s'.slot (slotKey k t.lender)).loan = (t.bBase, t.bSize)))
       ∧ (let i : Instr := .xmov c d a
         Issues i s c t → Source1 (issueState i c t s) d a n y → exec i s = .next ((y.setInt d n).finish c)))
  ∧ (∀ (s : State) (c : Ctl) (t : Thread) (d a b : Opnd) (v : VReg) (w : Word) (x y : Iss), let i : Instr := .sendr c d a b
       let k := coreOf s.cur
       let dest := w.toNat % 2 ^ 14
       Issues i s c t → (issueState i c t s).queues [a, b] [] = .ok () → (issueState i c t s).depositValue d a = .ok (v, x) →
       x.int 2 b = .ok (w, y) →
       (dest / 8 ∉ s.span t.launch t.group (clusterOf k) →
         exec i s = .next (takeTrap s s.cur (ePart 1 (BitVec.ofNat 64 (dest / 8)))))
       ∧ (dest / 8 ∈ s.span t.launch t.group (clusterOf k) →
         let time := s.cyc + if dest / 8 = clusterOf k then 4 else 4 + 2 * hops (clusterOf k) (dest / 8)
         ∃ s' id, exec i s = .next s' ∧ Completed s' s.cur ∧ s'.mem = s.mem ∧ s'.gfile = s.gfile ∧ s'.wfile = s.wfile
           ∧ (∀ j, j ≠ s.cur → s'.thread? j = s.thread? j)
           ∧ s'.deposits.get? id = some ⟨k, slotOf s.cur, dest, w.toNat / 2 ^ 16 % 64, t.ctag, t.launch, t.group, depositReg d,
               v.data, v.tag, time, false⟩
           ∧ ⟨time, .depositLanding, [k, slotOf s.cur, id]⟩ ∈ s'.pending))

/-- `sendw` and `send`. Their checks come in order: B beyond 16,383, a destination outside the partition, a destination that
is not the open packet's, a 33rd word. `sendw` opens a packet with the core's next sequence number and a retention
entry, or appends its word; it waits for a retention entry, and for the injection port, whose room for the next word is
open (the model's choice: entry 18). `send` closes the packet with the handler PC; with nothing in the store buffer and
nothing under way its last flits leave at once, else when the publication is complete. The thread has no open packet
then. `migrate` and `mcast`. `migrate` is refused outside a migratory thread and with a packet open; on its own core it
only goes on; else the thread leaves its slot and its context of 12 words is retained as a packet to the owner core.
`mcast` refuses a bad origin and any target off the die or outside the partition before it sends anything, sends nothing
with an empty mask, waits for the core's last multicast, and else retains one copy of the 32 words for every bit of the
mask. -/
def Obligations.PacketsAndMigration : Prop :=
  (∀ (s : State) (c : Ctl) (t : Thread) (a b : Opnd) (v w : Word) (x y : Iss) (closes : Bool),
     let i : Instr := if closes then .send c a b else .sendw c a b
     let k := coreOf s.cur
     let dest := w.toNat
     let quiet : Prop := (s.core k).buffer = [] ∧ underWay s k = []
     let know := (boundary s k).1
     Issues i s c t → (issueState i c t s).queues [a, b] [] = .ok () → (issueState i c t s).int 1 a = .ok (v, x) →
     x.int 2 b = .ok (w, y) →
     let traps (e : Trap) : Prop := exec i s = .next (takeTrap s s.cur e)
     (16383 < dest → traps (eBounds (detail 0 8 0 3) 0))
     ∧ (dest ≤ 16383 → s.inPart t.ctag (dest / 8) = false → traps (ePart 2 (BitVec.ofNat 64 (dest / 8))))
     ∧ (dest ≤ 16383 → s.inPart t.ctag (dest / 8) = true →
       (∀ p, t.packet = some p →
         (p.dest ≠ dest → traps (eBounds (detail 0 8 0 2) 0))
         ∧ (p.dest = dest → closes = false → 32 ≤ p.words.length → traps (eBounds (detail 0 8 0 1) 0))
         ∧ (p.dest = dest → closes = false → p.words.length < 32 →
             ((s.core k).portFull = true → exec i s = .next (holdThread (drawPort s k) s.cur c.t .injection))
             ∧ ((s.core k).portFull = false → openNet s k p.seq = none → p.words.length = 6 →
               ∃ s', exec i s = .next s' ∧ ∃ e ∈ s'.packets, e.2.body.words = p.words ∧ e.2.closed = false
                 ∧ e.2.flits = [packetFlit e.2.body 0 false false])
             ∧ ((s.core k).portFull = false → ∃ s' t', exec i s = .next s' ∧ Completed s' s.cur
               ∧ s'.mem = s.mem ∧ s'.gfile = s.gfile ∧ s'.thread? s.cur = some t'
               ∧ t'.packet = some { p with words := p.words ++ [v] }))
         ∧ (p.dest = dest → closes = true → (∃ r ∈ (s.core k).retained, r.body.seq = p.seq) →
             let body : PktBody := ⟨.message, dest, k, p.seq, t.ctag, t.launch, t.group, p.words, v.setWidth 32, none, know⟩
             ∃ s' t', exec i s = .next s'
             ∧ Completed s' s.cur ∧ s'.mem = s.mem ∧ s'.gfile = s.gfile ∧ s'.thread? s.cur = some t' ∧ t'.packet = none
             ∧ (quiet → openNet s k p.seq = none → ∃ e ∈ s'.packets, e.2 = ⟨body, packetFlits body, [], true, false⟩)
             ∧ (¬ quiet → ∃ e ∈ s'.pubs, e.2.core = k ∧ e.2.after = .packet k p.seq)))
       ∧ (t.packet = none →
         (retentionFree y.s k = false → exec i s = .next (holdThread s s.cur c.t .retention))
         ∧ (retentionFree y.s k = true → closes = false → (s.core k).portFull = true →
             exec i s = .next (holdThread (drawPort s k) s.cur c.t .injection))
         ∧ (retentionFree y.s k = true → closes = false → (s.core k).portFull = false →
             ∃ s' t', exec i s = .next s' ∧ Completed s' s.cur ∧ s'.mem = s.mem
             ∧ s'.gfile = s.gfile ∧ s'.thread? s.cur = some t' ∧ t'.packet = some ⟨dest, (s.core k).seqCount.toNat, [v]⟩
             ∧ (s'.core k).seqCount = (s.core k).seqCount + 1
             ∧ ∃ r ∈ (s'.core k).retained, r.body.seq = (s.core k).seqCount.toNat ∧ r.body.dest = dest)
         ∧ (retentionFree y.s k = true → closes = true → ∃ s' t', exec i s = .next s' ∧ Completed s' s.cur ∧ s'.mem = s.mem
             ∧ s'.thread? s.cur = some t' ∧ t'.packet = none
             ∧ ∃ r ∈ (s'.core k).retained, r.body =
                 ⟨.message, dest, k, (s.core k).seqCount.toNat, t.ctag, t.launch, t.group, [], v.setWidth 32, none, know⟩))))
  ∧ ((∀ (s : State) (c : Ctl) (t : Thread) (r : MemRef) (o : Int) (p : Part) (ps : List Part) (y : Iss),
       let i : Instr := .migrate c r
       let k := coreOf s.cur
       Issues i s c t →
       (issueState i c t s).offset r = .ok (o, y) →
       let traps (f : BitVec 32 → Word → Trap) (cause : Nat) : Prop :=
         exec i s = .next (takeTrap s s.cur (f (detail r.seg.val 10 0 cause) (BitVec.ofInt 64 o)))
       (t.status.getLsbD 12 = false → traps eRights 1)
       ∧ (t.status.getLsbD 12 = true → t.packet ≠ none → traps eBounds 2)
       ∧ (t.status.getLsbD 12 = true → t.packet = none →
         path y t.segs[r.seg] { Want.scalar r.seg o 8 .load .everywhere 1 with
           tier := fun n => if n = 0 then none else some (10, 2) } = .ok (p :: ps) → 0 < p.len →
         let owner := ownerCore p.loc
         (s.inPart t.ctag (owner / 8) = false → exec i s = .next (takeTrap s s.cur (ePart 3 (BitVec.ofNat 64 (owner / 8)))))
         ∧ (s.inPart t.ctag (owner / 8) = true → owner = k → exec i s = .next (y.finish c))
         ∧ (s.inPart t.ctag (owner / 8) = true → owner ≠ k → retentionFree y.s k = true → t.rank < 512 →
           ∃ s' e, exec i s = .next s' ∧ s'.mem = s.mem ∧ s'.thread? s.cur = (s.slot s.cur).lent
             ∧ e ∈ (s'.core k).retained ∧ e.body.cls = .migration ∧ e.body.dest = owner ∧ e.body.src = k
             ∧ e.body.seq = (s.core k).seqCount.toNat ∧ e.body.words.length = 12
             ∧ (∀ n, n < 8 → e.body.words[n]? = some (y.s.gfile.getD (gKey k (t.gBase + n)) 0))
             ∧ (∃ w, e.body.words[8]? = some w ∧ w.extractLsb' 0 32 = t.pc + 1 ∧ w.extractLsb' 32 16 = (deepIdle t.status c.d false).setWidth 16
                 ∧ (∀ n : Fin 8, w.getLsbD (48 + n.val) = (n ≠ 0 && t.preds[n].getLsbD 0)) ∧ w.extractLsb' 56 8 = t.npth.setWidth 8)
             ∧ (∃ w, e.body.words[9]? = some w ∧ w.extractLsb' 0 16 = t.ferl ∧ w.extractLsb' 48 16 = t.cseg.index.setWidth 16)
             ∧ (∃ w, e.body.words[10]? = some w ∧ w.extractLsb' 0 16 = t.ctag ∧ (w.extractLsb' 16 16).toNat = t.rank
                 ∧ w.extractLsb' 32 32 = BitVec.ofNat 32 t.launch)
             ∧ e.body.words[11]? = some (BitVec.ofNat 64 t.group))))
     ∧ (∀ (s : State) (c : Ctl) (t : Thread) (d a b : Opnd) (va vb : Word) (v : VReg) (x y z : Iss),
       let i : Instr := .mcast c d a b
       let k := coreOf s.cur
       Issues i s c t → (issueState i c t s).queues [d, a, b] [] = .ok () → (issueState i c t s).int 1 a = .ok (va, x) →
       x.int 2 b = .ok (vb, y) →
       let origin := va.toNat / 8 % 2 ^ 11
       let row (j : Nat) : Nat := origin / 16 % 16 + j / 8
       let col (j : Nat) : Nat := origin % 16 + j % 8
       let cl (j : Nat) : Nat := 256 * (origin / 256) + 16 * row j + col j
       let good (j : Nat) : Prop := row j < 16 ∧ col j < 16 ∧ s.inPart t.ctag (cl j) = true
       (va.extractLsb' 14 18 ≠ 0 → exec i s = .next (takeTrap s s.cur (eBounds (detail 0 11 0 1) 0)))
       ∧ (va.extractLsb' 14 18 = 0 →
         (∀ j, vb.getLsbD j = true → ¬ good j → (∀ n, n < j → vb.getLsbD n = true → good n) →
           exec i s = .next (takeTrap s s.cur (ePart 4
             (if row j < 16 ∧ col j < 16 then BitVec.ofNat 64 (cl j) else BitVec.ofNat 64 (2 ^ 63 + j)))))
         ∧ ((∀ j, vb.getLsbD j = true → good j) →
           (vb = 0 → y.vec 3 d = .ok (v, z) → exec i s = .next (z.finish c))
           ∧ (vb ≠ 0 → castPending y.s k = true ∨ retentionFree y.s k = false →
               exec i s = .next (holdThread s s.cur c.t .retention))
           ∧ (vb ≠ 0 → castPending y.s k = false → retentionFree y.s k = true → y.vec 3 d = .ok (v, z) →
               ∃ s', exec i s = .next s' ∧ Completed s' s.cur ∧ s'.mem = s.mem ∧ s'.gfile = s.gfile
                 ∧ ∀ j, vb.getLsbD j = true → ∃ e ∈ (s'.core k).retained, e.body.cls = .multicast
                   ∧ e.body.dest = 8 * cl j + va.toNat % 8 ∧ e.body.src = k ∧ e.body.seq = (s.core k).seqCount.toNat
                   ∧ e.body.pc = va.extractLsb' 32 32 ∧ e.body.words.length = 32
                   ∧ ∀ n, n < 32 → e.body.words[n]? = some (v.data.extractLsb' (64 * n) 64))))))

/-- `trap`, `brk`, `xrd`, `xwr`, both forms of `cyc`, and `idle`. `trap` gives E_USER with A as detail, `brk` E_BREAK. `xrd` writes D with
the special register. `xwr` writes the flags and a legal rounding code of the status, or the 5 and 16 bits of `x.npth` and `x.ferl`.
`cyc` reads the counter, with A only once it has reached A. `idle` blocks its thread for A cycles, or until a deposit. -/
def Obligations.SystemInstructions : Prop :=
  ∀ (s : State) (c : Ctl) (t : Thread) (d a : Opnd) (v : Word) (y : Iss),
    let key := s.cur
    (Issues (.trap c a) s c t → (issueState (.trap c a) c t s).queues [a] [] = .ok () →
      (issueState (.trap c a) c t s).int 1 a = .ok (v, y) →
      exec (.trap c a) s = .next (takeTrap s s.cur ⟨0x0C, v.setWidth 32, v⟩))
    ∧ (Issues (.brk c) s c t → exec (.brk c) s = .next (takeTrap s s.cur ⟨0x0D, 0, 0⟩))
    ∧ (∀ r, let i : Instr := .xrd c d (.x r)
      let grid (f : (Nat × Nat × Nat) × (Nat × Nat × Nat) → Nat) (dflt : Nat) : Nat := match s.launch? t.launch with
        | some l => f (l.grid, coords l.grid t.group)
        | none => dflt
      Issues i s c t → (issueState i c t s).queues [] [d] = .ok () →
      exec i s = .next (((issueState i c t s).setInt d (match r with
        | .status => t.status.setWidth 64
        | .npth => t.npth.setWidth 64
        | .ferl => t.ferl.setWidth 64
        | .cyc => BitVec.ofNat 64 s.cyc
        | .rank => BitVec.ofNat 64 t.rank
        | .core => BitVec.ofNat 64 (key / 64)
        | .slot => BitVec.ofNat 64 (key % 64)
        | .wins => BitVec.ofNat 64 (t.gSize + 2 ^ 8 * t.nv + 2 ^ 16 * t.nk + 2 ^ 24 * t.rot)
        | .group => BitVec.ofNat 64 (grid (fun g => g.2.1) 0)
        | .group1 => BitVec.ofNat 64 (grid (fun g => g.2.2.1) 0)
        | .group2 => BitVec.ofNat 64 (grid (fun g => g.2.2.2) 0)
        | .grid => BitVec.ofNat 64 (grid (fun g => g.1.1) 1)
        | .grid1 => BitVec.ofNat 64 (grid (fun g => g.1.2.1) 1)
        | .grid2 => BitVec.ofNat 64 (grid (fun g => g.1.2.2) 1)
        | .ctag => t.ctag.setWidth 64
        | .cseg => BitVec.ofNat 64 (t.cseg.index.toNat + 2 ^ 12 * kindCode t.cseg.kind + 2 ^ 16 * t.cseg.limit.toNat))).finish c))
    ∧ (∀ r, let i : Instr := .xwr c (.x r) a
      Issues i s c t → (issueState i c t s).queues [a] [] = .ok () → (issueState i c t s).int 1 a = .ok (v, y) →
      ∃ s' t', exec i s = .next s' ∧ Completed s' s.cur ∧ s'.mem = s.mem ∧ s'.thread? s.cur = some t'
        ∧ (r = .npth → t'.npth = v.setWidth 5 ∧ t'.ferl = t.ferl)
        ∧ (r = .ferl → t'.ferl = v.setWidth 16 ∧ t'.npth = t.npth)
        ∧ (r = .status → t'.npth = t.npth ∧ t'.ferl = t.ferl ∧ t'.status.setWidth 9 = v.setWidth 9
            ∧ t'.status.extractLsb' 9 3 = (if 1 ≤ (v.extractLsb' 9 3).toNat ∧ (v.extractLsb' 9 3).toNat ≤ 5
                then v.extractLsb' 9 3 else t.status.extractLsb' 9 3)
            ∧ t'.status.extractLsb' 12 2 = t.status.extractLsb' 12 2))
    ∧ (let i : Instr := .cyc c d
      Issues i s c t → (issueState i c t s).queues [] [d] = .ok () →
      exec i s = .next (((issueState i c t s).setInt d (BitVec.ofNat 64 s.cyc)).finish c))
    ∧ (let i : Instr := .cycDeadline c d a
      Issues i s c t → Source1 (issueState i c t s) d a v y →
      (s.cyc < v.toNat → exec i s = .next (holdThread s s.cur c.t .deadline))
      ∧ (v.toNat ≤ s.cyc → exec i s = .next ((y.setInt d (BitVec.ofNat 64 s.cyc)).finish c)))
    ∧ (let i : Instr := .idle c a
      let n := v.toNat % 2 ^ 32
      Issues i s c t → (issueState i c t s).queues [a] [] = .ok () → (issueState i c t s).int 1 a = .ok (v, y) →
      ∃ s' t', exec i s = .next s' ∧ s'.mem = s.mem ∧ s'.gfile = s.gfile ∧ s'.thread? s.cur = some t' ∧ t'.st = .blocked
        ∧ t'.pc = t.pc + 1 ∧ t'.idle = some (if n = 0 then 0 else s.cyc + n)
        ∧ (n ≠ 0 → ⟨s.cyc + n, .idleExpiry, [coreOf s.cur, slotOf s.cur]⟩ ∈ s'.pending))

/-! ### Cluster, fabric and barrier -/

/-- `mma`, `mmac`, `mzero`, `mrd`, `mwr` and `cpy` enter a job at the end of their queue where it has room: D receives the
identifier, sequence number in bits 31 to 0 and queue in 34 to 32; the tiles read become DRAINING, the tile written
FILLING; the accumulator is locked for the queue, counts the job and takes the format of its new contents; memory, other
queues, tiles and accumulators stand. Where a job instruction does not enter: a migratory thread, an accumulator of
another context and a handle that is FREE or of another group trap, in that order (R277), where the second detail of 0
and the low byte chosen for the first are the model's choice (log entry 20); a tile that is not READY, a full queue and
a lock of another queue make it wait. -/
def Obligations.JobsAreEntered : Prop :=
  (∀ (s : State) (c : Ctl) (t : Thread) (sat keep : Bool) (d b : Opnd) (n : Fin 16) (mq : BitVec 2) (w w0 w1 w2 w3 : Word)
     (y z : Iss) (tag : Tag),
     let k := coreOf s.cur
     let cl := clusterOf k
     let ac := s.acc cl n.val
     let usable (h : Nat) : Prop := h ≤ 255 ∧ (s.tile cl h).st ≠ .free ∧ (s.tile cl h).group = t.group
       ∧ (s.tile cl h).launch = t.launch ∧ (baseTile s cl h).st = .ready
     let room (q : Nat) : Prop := (s.jobQueue cl q).jobs.length < 16
     let own : Prop := t.status.getLsbD 12 = false ∧ (s.cluster cl).accOwner = some t.ctag ∧ (ac.lcnt = 0 ∨ ac.lq = mq.toNat)
     let entered (i : Instr) (q : Nat) (kind : JobKind) (pubs : Bool) (reads : List Nat) (writes : Option Nat)
         (acc : Option (BitVec 4)) : Prop :=
       let jq := s.jobQueue cl q
       ∃ x : Iss, ∃ j : Job, exec i s = .next ((x.setInt d (BitVec.ofNat 64 ((jq.issued + 1).toNat + 2 ^ 32 * q))).finish c)
         ∧ x.s.mem = s.mem ∧ x.s.jobQueue cl q = { jq with issued := jq.issued + 1, jobs := jq.jobs ++ [j], know := j.know }
         ∧ j.seq = jq.issued + 1 ∧ j.kind = kind ∧ j.core = k ∧ j.slot = slotOf s.cur ∧ j.launch = t.launch
         ∧ j.group = t.group ∧ j.ctag = t.ctag ∧ j.phase = .queued
         ∧ (j.pub = none ↔ pubs = false ∨ ((s.core k).buffer = [] ∧ underWay s k = []))
         ∧ (∀ p, p ≠ q → x.s.jobQueue cl p = s.jobQueue cl p)
         ∧ (∀ h ∈ reads, (x.s.tile cl h).st = .draining) ∧ (∀ h, writes = some h → (x.s.tile cl h).st = .filling)
         ∧ (∀ h, h ∉ reads → writes ≠ some h → x.s.tile cl h = s.tile cl h)
         ∧ (∀ g, acc = some g → x.s.acc cl n.val = { ac with lq := q, lcnt := ac.lcnt + 1, atag := g })
         ∧ ∀ m, acc = none ∨ m ≠ n.val → x.s.acc cl m = s.acc cl m
     (let i : Instr := if keep then .mmac c sat mq d (.acc n) b else .mma c sat mq d (.acc n) b
       let ha := w.toNat % 256
       let hb := w.toNat / 256 % 256
       let ta := s.tile cl ha
       let tb := s.tile cl hb
       Issues i s c t → (issueState i c t s).queues [b] [d] = .ok () → own → (issueState i c t s).handleSrc b = .ok (w, y) →
       usable ha → usable hb → mmaTag ta.fmt tb.fmt = some tag → (keep = true → ac.atag = tag) →
       ta.rows ≤ 64 → tb.rows ≤ 64 → ta.cols = tb.cols → room mq.toNat →
       entered i mq.toNat (.mma keep sat n.val ha hb) true [baseHandle s cl ha, baseHandle s cl hb] none (some tag))
     ∧ (let i : Instr := .mzero c mq d (.acc n) b
       Issues i s c t → (issueState i c t s).queues [] [d] = .ok () → own → (issueState i c t s).int 2 b = .ok (w, y) →
       room mq.toNat → entered i mq.toNat (.mzero n.val (w.setWidth 4)) false [] none (some (w.setWidth 4)))
     ∧ (let i : Instr := .mrd c sat mq d (.acc n) b
       let tile := s.tile cl w.toNat
       Issues i s c t → (issueState i c t s).queues [b] [d] = .ok () → own → ac.atag ≠ 0 →
       (issueState i c t s).handleSrc b = .ok (w, y) → usable w.toNat → tile.gv = false → mrdOk ac.atag tile.fmt = true →
       tile.rows ≤ 64 → tile.cols ≤ 64 → room mq.toNat →
       entered i mq.toNat (.mrd n.val w.toNat sat) false [] (some w.toNat) (some ac.atag))
     ∧ (let i : Instr := .mwr c mq d (.acc n) b
       let tile := s.tile cl w.toNat
       Issues i s c t → (issueState i c t s).queues [b] [d] = .ok () → own → (issueState i c t s).handleSrc b = .ok (w, y) →
       usable w.toNat → mwrTag tile.fmt = some tag → tile.rows ≤ 64 → tile.cols ≤ 64 → room mq.toNat →
       entered i mq.toNat (.mwr n.val w.toNat) false [baseHandle s cl w.toNat] none (some tag))
     ∧ (∀ a, let i : Instr := .cpy c mq d a b
       let h := w.toNat % 256
       let out := w.getLsbD 8
       let ds := descOf w0 w1 w2 w3
       let q := 4 + mq.toNat
       Issues i s c t → (issueState i c t s).queues [a] [d] = .ok () → (issueState i c t s).handleSrc a = .ok (w, z) →
       z.descriptorWords b = .ok (w0, w1, w2, w3, y) → usable h → (s.tile cl h).gv = false →
       descLegal (s.tile cl h) w0 w3 ds = true → y.windowOk (s.tile cl h) out [ds] = .ok () → room q →
       entered i q (.cpy h out ds (t.segs.toList.getD ds.seg .null)) true (if out then [h] else [])
         (if out then none else some h) none)
     ∧ (∀ fa fb : BitVec 4, mmaTag fa fb = if 9 ≤ fa.toNat ∧ 9 ≤ fb.toNat then some 7
         else if (fa = 5 ∧ fb = 5) ∨ (fa = 6 ∧ fb = 6) then some 7 else if fa = 1 ∧ fb = 1 then some 3 else none))
  ∧ (∀ (s : State) (c : Ctl) (t : Thread) (sat : Bool) (d b : Opnd) (n : Fin 16) (mq : BitVec 2) (w : Word) (y : Iss) (i : Instr),
       let cl := clusterOf (coreOf s.cur)
       let ac := s.acc cl n.val
       let tile := s.tile cl w.toNat
       Issues i s c t → Iss.queuesOf [d, b] = [] →
       (i = .mma c sat mq d (.acc n) b ∨ i = .mmac c sat mq d (.acc n) b ∨ i = .mzero c mq d (.acc n) b
           ∨ i = .mrd c sat mq d (.acc n) b ∨ i = .mwr c mq d (.acc n) b →
         (t.status.getLsbD 12 = true → exec i s = .next (takeTrap s s.cur (eRights (detail n.val 9 0 5) 0)))
         ∧ (t.status.getLsbD 12 = false → (s.cluster cl).accOwner ≠ some t.ctag →
             exec i s = .next (takeTrap s s.cur (eRights (detail n.val 9 0 3) 0))))
       ∧ (i = .mrd c sat mq d (.acc n) b ∨ i = .mwr c mq d (.acc n) b → t.status.getLsbD 12 = false →
         (s.cluster cl).accOwner = some t.ctag → ac.atag ≠ 0 → (issueState i c t s).handleSrc b = .ok (w, y) →
         (255 < w.toNat ∨ tile.st = .free → exec i s = .next (takeTrap s s.cur (eBounds (detail w.toNat 9 0 4) 0)))
         ∧ (w.toNat ≤ 255 → tile.st ≠ .free → tile.group ≠ t.group ∨ tile.launch ≠ t.launch →
             exec i s = .next (takeTrap s s.cur (eRights (detail w.toNat 9 0 3) 0))))
       ∧ (i = .mwr c mq d (.acc n) b → t.status.getLsbD 12 = false → (s.cluster cl).accOwner = some t.ctag →
         (issueState i c t s).handleSrc b = .ok (w, y) → w.toNat ≤ 255 → tile.st ≠ .free → tile.group = t.group →
         tile.launch = t.launch →
         (mwrTag tile.fmt = none → exec i s = .next (takeTrap s s.cur (eFormat 2 tile.fmt.toNat)))
         ∧ (mwrTag tile.fmt ≠ none → 64 < tile.rows ∨ 64 < tile.cols →
             exec i s = .next (takeTrap s s.cur (eBounds (detail n.val 9 0 2) 0)))
         ∧ (mwrTag tile.fmt ≠ none → tile.rows ≤ 64 → tile.cols ≤ 64 →
             ((baseTile s cl w.toNat).st ≠ .ready → exec i s = .next (holdThread s s.cur c.t .tile))
             ∧ ((baseTile s cl w.toNat).st = .ready → 16 ≤ (s.jobQueue cl mq.toNat).jobs.length →
                 exec i s = .next (holdThread s s.cur c.t .jobQueue))
             ∧ ((baseTile s cl w.toNat).st = .ready → (s.jobQueue cl mq.toNat).jobs.length < 16 → ac.lcnt ≠ 0 → ac.lq ≠ mq.toNat →
                 exec i s = .next (holdThread s s.cur c.t .accumulator)))))

/-- `tdef`, `trel`, `tstat` and `twait`. `tdef` defines the lowest free entry for the thread's group, READY and whole, or a
gather view of a source, and writes its handle, or −1. `trel` and `twait` wait until the tile is READY; `twait`
refreshes its core. What `tdef`, `trel` and a loader's `tsub` change takes effect at the end of the cycle, as does the
end of a tile's last access; a view defined over a source that was released in that cycle stays FREE. `tstat` reports
the entry and clears `SEMEM`. `tsub`, `qfence`, `jpoll` and `jwait`. `tsub` takes a free subscription for READY slots,
which become EMPTY for a loader at the end of the cycle, or gives −1. `qfence` enters one entry in every queue of its
mask and gives the identifier of the lowest; an empty mask gives −1. `jpoll` gives the report of a job at once, `jwait`
once it is complete; a complete one refreshes the core. An identifier never issued is E_BOUNDS 10. -/
def Obligations.TilesSubscriptionsAndFences : Prop :=
  (∀ (s : State) (c : Ctl) (t : Thread) (n : BitVec 3) (d a b : Opnd) (va w : Word) (y : Iss),
     let k := coreOf s.cur
     let cl := clusterOf k
     let usable (h : Nat) : Prop := h ≤ 255 ∧ (s.tile cl h).st ≠ .free ∧ (s.tile cl h).group = t.group
       ∧ (s.tile cl h).launch = t.launch
     let defined (i : Instr) (f : Tile → Prop) : Prop :=
       (freeHandle s cl = none → exec i s = .next ((y.setInt d (BitVec.allOnes 64)).finish c))
       ∧ ∀ h, freeHandle s cl = some h → h < 256 ∧ s.tile cl h = .reset
         ∧ ∃ z : Iss, exec i s = .next ((z.setInt d (BitVec.ofNat 64 h)).finish c) ∧ z.s.mem = s.mem
           ∧ (∀ j, z.s.tile cl j = s.tile cl j) ∧ ∃ e, (z.s.cluster cl).changes = (s.cluster cl).changes ++ [.define h e]
           ∧ f e ∧ e.st = .ready ∧ e.group = t.group ∧ e.launch = t.launch
     (let i : Instr := .tdef c n d a b
       let g := t.segs[n.toNat]
       Issues i s c t → Source2 (issueState i c t s) d a b va w y →
       (w.getLsbD 4 = false →
         (shapeTile w = none → exec i s = .next (takeTrap s s.cur (eBounds (detail n.toNat 9 0 1) 0)))
         ∧ ∀ p, shapeTile w = some p →
           (va.toNat % 8 ≠ 0 → exec i s = .next (takeTrap s s.cur (eBounds (detail n.toNat 9 0 1) 0)))
           ∧ (va.toNat % 8 = 0 → g.kind ≠ .core → g.kind ≠ .vault →
               exec i s = .next (takeTrap s s.cur (eRights (detail n.toNat 9 0 7) 0)))
           ∧ (∀ ps, va.toNat % 8 = 0 → g.kind = .core ∨ g.kind = .vault →
               path y g { Want.scalar ⟨n.toNat, n.isLt⟩ va.toInt p.extent .store .plain 1 with tier := fun _ => none } = .ok ps →
               defined i fun e => e.gv = false ∧ e.fmt = w.setWidth 4 ∧ e.rows = (w.extractLsb' 8 13).toNat
                 ∧ e.cols = (w.extractLsb' 21 13).toNat ∧ e.pitch = (w.extractLsb' 34 20).toNat
                 ∧ e.expected = e.rows * (e.rowBytes + e.expBytes) ∧ e.arrived = e.expected ∧ e.inv = (g.kind == .vault)
                 ∧ e.sub = none ∧ e.at_ cl 0 = if g.kind = .vault then vaultLoc cl (segDa g k va.toNat % 2 ^ 22)
                   else coreLoc (8 * cl + k % 8) (segDa g k va.toNat % 2 ^ 17)))
       ∧ (w.getLsbD 4 = true → n = 0 → usable va.toNat → (s.tile cl va.toNat).gv = false →
           (s.tile cl va.toNat).fmt = 1 ∨ (s.tile cl va.toNat).fmt = 5 ∨ (s.tile cl va.toNat).fmt = 6 →
           ∀ v, viewTile w va.toNat (s.tile cl va.toNat) = some v →
           defined i fun e => e.gv = true ∧ e.src = va.toNat ∧ e.geom = w ∧ e.fmt = (s.tile cl va.toNat).fmt
             ∧ e.rows = (w.extractLsb' 41 7).toNat
             ∧ e.cols = ((w.extractLsb' 18 3).toNat + 1) * ((w.extractLsb' 21 3).toNat + 1) * (s.tile cl va.toNat).cols))
     ∧ (∀ p, shapeTile w = some p ↔
         p = { Tile.reset with
               st := .ready, fmt := w.setWidth 4, rows := (w.extractLsb' 8 13).toNat, cols := (w.extractLsb' 21 13).toNat
               pitch := (w.extractLsb' 34 20).toNat, expected := p.rows * (p.rowBytes + p.expBytes), arrived := p.expected }
         ∧ p.fmt ≠ 0 ∧ w.extractLsb' 5 3 = 0 ∧ w.extractLsb' 54 10 = 0 ∧ 1 ≤ p.rows ∧ p.rows ≤ 4096 ∧ 1 ≤ p.cols ∧ p.cols ≤ 4096
         ∧ (9 ≤ p.fmt.toNat → p.cols % 32 = 0) ∧ p.pitch % 8 = 0 ∧ p.rowBytes ≤ p.pitch)
     ∧ (let i : Instr := .trel c a
       Issues i s c t → (issueState i c t s).queues [a] [] = .ok () → (issueState i c t s).handleSrc a = .ok (w, y) →
       usable w.toNat →
       ((baseTile s cl w.toNat).st ≠ .ready → exec i s = .next (holdThread s s.cur c.t .tile))
       ∧ ((baseTile s cl w.toNat).st = .ready → ∃ s', exec i s = .next s' ∧ Completed s' s.cur ∧ s'.mem = s.mem
           ∧ (s'.cluster cl).changes = (s.cluster cl).changes ++ [.release w.toNat]))
     ∧ (∀ h, (s.tile cl h).st = .ready → (s.tile cl h).gv = false → (s.tile cl h).sub = none →
         (releaseTile s cl h).tile cl h = .reset ∧ (releaseTile s cl h).mem = s.mem
         ∧ ∀ j, j ≠ h → ¬ ((s.tile cl j).gv = true ∧ (s.tile cl j).src = h) → (releaseTile s cl h).tile cl j = s.tile cl j)
     ∧ (∀ ch, (s.cluster cl).changes = [ch] → (applyChanges s cl).mem = s.mem
         ∧ (∀ h e, ch = .define h e → ¬ (e.gv = true ∧ (s.tile cl e.src).st = .free) →
             ∀ j, (applyChanges s cl).tile cl j = if j = h then e else s.tile cl j)
         ∧ (∀ h e j, ch = .define h e → e.gv = true → (s.tile cl e.src).st = .free → (applyChanges s cl).tile cl j = s.tile cl j)
         ∧ (∀ h n know, ch = .ready h n know → (s.tile cl h).st = .filling ∨ (s.tile cl h).st = .draining → (s.tile cl h).job = n →
             ∀ j, (applyChanges s cl).tile cl j = if j = h then { s.tile cl h with st := .ready, job := 0, know := know } else s.tile cl j)
         ∧ (∀ h, ch = .release h → (baseTile s cl h).st ≠ .filling → (baseTile s cl h).st ≠ .draining →
             applyChanges s cl = releaseTile (s.updCluster cl fun m => { m with changes := [] }) cl h)
         ∧ ∀ h n i e, ch = .empty h n i → (s.cluster cl).subs.get? n = some e → (s.tile cl h).gv = false →
             (s.tile cl h).sub = some n → (s.tile cl h).st = .ready → ((applyChanges s cl).tile cl h).st = .empty
               ∧ ∀ j, j ≠ h → (applyChanges s cl).tile cl j = s.tile cl j)
     ∧ (let i : Instr := .tstat c d a
       let e := s.tile cl w.toNat
       let b := baseTile s cl w.toNat
       Issues i s c t → (issueState i c t s).queues [a] [d] = .ok () → (issueState i c t s).handleSrc a = .ok (w, y) →
       usable w.toNat → ∃ z : Iss, ∃ r : Word, exec i s = .next ((z.setInt d r).finish c) ∧ z.s.mem = s.mem
         ∧ (b.arrived < 2 ^ 24 → b.expected < 2 ^ 23 → e.sub.getD 0xFF < 256 →
             (r.extractLsb' 0 3).toNat = b.st.code ∧ r.getLsbD 3 = e.gv ∧ r.extractLsb' 4 4 = e.fmt
             ∧ (r.extractLsb' 8 8).toNat = e.sub.getD 0xFF ∧ (r.extractLsb' 16 24).toNat = b.arrived
             ∧ (r.extractLsb' 40 23).toNat = b.expected ∧ r.getLsbD 63 = (!e.gv && e.semem))
         ∧ z.s.tile cl w.toNat = { e with semem := false })
     ∧ (let i : Instr := .twait c a
       Issues i s c t → (issueState i c t s).queues [a] [] = .ok () → (issueState i c t s).handleSrc a = .ok (w, y) →
       usable w.toNat →
       ((baseTile s cl w.toNat).st ≠ .ready → exec i s = .next (holdThread s s.cur c.t .tile))
       ∧ ((baseTile s cl w.toNat).st = .ready → ∃ s', exec i s = .next s' ∧ Completed s' s.cur ∧ s'.mem = s.mem
           ∧ (s'.core k).snap = []
           ∧ (s'.core k).know = Know.join (Know.join (s.core k).know (s.core k).heard) (baseTile s cl w.toNat).know)))
  ∧ (∀ (s : State) (c : Ctl) (t : Thread) (d a b : Opnd) (w w0 w1 w2 w3 : Word) (x y : Iss),
       let k := coreOf s.cur
       let cl := clusterOf k
       (let i : Instr := .tsub c d a b
         let h0 := w.toNat % 256
         let n := (w.extractLsb' 8 5).toNat
         let count := (w.extractLsb' 16 16).toNat
         let storer := w.getLsbD 13
         let ds := descOf w0 w1 w2 w3
         let tile := s.tile cl h0
         Issues i s c t → (issueState i c t s).queues [a] [d] = .ok () → (issueState i c t s).handleSrc a = .ok (w, x) →
         x.descriptorWords b = .ok (w0, w1, w2, w3, y) → 2 ≤ n → n ≤ 16 → w.extractLsb' 14 2 = 0 → 1 ≤ count →
         (∀ h, h0 ≤ h → h < h0 + n → h ≤ 255 ∧ (s.tile cl h).st = .ready ∧ (s.tile cl h).group = t.group
           ∧ (s.tile cl h).launch = t.launch ∧ (s.tile cl h).gv = false ∧ (s.tile cl h).sub = none
           ∧ (s.tile cl h).fmt = tile.fmt ∧ (s.tile cl h).rows = tile.rows ∧ (s.tile cl h).cols = tile.cols) →
         descLegal tile w0 w3 ds = true → (tile.isBfp = true → count ≤ 1 ∨ (w.extractLsb' 48 16).toNat % 32 = 0) →
         y.windowOk tile storer [ds, ds.step (w.extractLsb' 32 16).toInt (w.extractLsb' 48 16).toInt (count - 1)] = .ok () →
         ((s.cluster cl).subs.freeKey 16 0 = none → exec i s = .next ((y.setInt d (BitVec.allOnes 64)).finish c))
         ∧ ∀ p, (s.cluster cl).subs.freeKey 16 0 = some p → ∃ z : Iss, ∃ e : Sub,
             exec i s = .next ((z.setInt d (BitVec.ofNat 64 p)).finish c) ∧ z.s.mem = s.mem
             ∧ (z.s.cluster cl).subs.get? p = some e ∧ e.h0 = h0 ∧ e.n = n ∧ e.storer = storer ∧ e.t = count ∧ e.desc = ds
             ∧ e.drow = (w.extractLsb' 32 16).toInt ∧ e.dcol = (w.extractLsb' 48 16).toInt
             ∧ (z.s.cluster cl).changes = (s.cluster cl).changes
                 ++ (if storer then [] else (List.range n).map fun j => TileChange.empty (h0 + j) p j)
             ∧ (∀ h, h0 ≤ h → h < h0 + n → z.s.tile cl h = { s.tile cl h with sub := some p })
             ∧ ∀ h, (h < h0 ∨ h0 + n ≤ h) → z.s.tile cl h = s.tile cl h)
       ∧ (let i : Instr := .qfence c d a
         let named (q : Nat) : Prop := q < 8 ∧ w.getLsbD q = true
         Issues i s c t → (issueState i c t s).queues [a] [d] = .ok () → (issueState i c t s).handleSrc a = .ok (w, y) →
         ((∀ q, ¬ named q) → exec i s = .next ((y.setInt d (BitVec.allOnes 64)).finish c))
         ∧ ((∃ q, named q ∧ 16 ≤ (s.jobQueue cl q).jobs.length) → exec i s = .next (holdThread s s.cur c.t .jobQueue))
         ∧ ((∀ q, named q → (s.jobQueue cl q).jobs.length < 16) → ∀ q0, named q0 → (∀ q, named q → q0 ≤ q) → ∃ z : Iss, ∃ id,
             exec i s = .next ((z.setInt d (BitVec.ofNat 64 (((s.jobQueue cl q0).issued + 1).toNat + 2 ^ 32 * q0))).finish c)
             ∧ z.s.mem = s.mem
             ∧ (∀ q, named q → ∃ j : Job, z.s.jobQueue cl q = { s.jobQueue cl q with
                 issued := (s.jobQueue cl q).issued + 1, jobs := (s.jobQueue cl q).jobs ++ [j], know := j.know } ∧ j.kind = .fence id)
             ∧ ∀ q, ¬ named q → z.s.jobQueue cl q = s.jobQueue cl q))
       ∧ (∀ wait : Bool, let i : Instr := if wait then .jwait c d a else .jpoll c d a
         let q := (w.extractLsb' 32 3).toNat
         let seq := w.setWidth 32
         let jq := s.jobQueue cl q
         Issues i s c t → (issueState i c t s).queues [a] [d] = .ok () → (issueState i c t s).handleSrc a = .ok (w, y) →
         (w.extractLsb' 35 29 ≠ 0 ∨ 2 ^ 31 ≤ (jq.issued - seq).toNat →
           exec i s = .next (takeTrap s s.cur (eBounds (detail (w.toNat % 256) 9 0 10) 0)))
         ∧ (w.extractLsb' 35 29 = 0 → (jq.issued - seq).toNat < 2 ^ 31 →
           ((∃ r ∈ jq.reports, r.seq = seq ∧ r.ctag ≠ t.ctag) →
             exec i s = .next (takeTrap s s.cur (eRights (detail (w.toNat % 256) 9 0 3) 0)))
           ∧ ((∀ r ∈ jq.reports, r.seq = seq → r.ctag = t.ctag) →
             (2 ^ 31 ≤ (jq.done - seq).toNat →
               (wait = true → exec i s = .next (holdThread s s.cur c.t .job))
               ∧ (wait = false → exec i s = .next ((y.setInt d 0).finish c)))
             ∧ ((jq.done - seq).toNat < 2 ^ 31 → ∃ z : Iss, ∃ v : Word, exec i s = .next ((z.setInt d v).finish c) ∧ z.s.mem = s.mem
                 ∧ (z.s.core k).snap = []
                 ∧ (z.s.core k).know = Know.join (Know.join (s.core k).know (s.core k).heard) (reportKnow jq seq)
                 ∧ ((∀ r ∈ jq.reports, r.seq ≠ seq) → v = 1)
                 ∧ ∀ r, jq.reports.find? (fun r => r.seq == seq) = some r → v = BitVec.ofNat 64 (3 + 256 * r.bits.toNat))))))

/-- `put`, `puts` and `get`: the checks of the descriptor, the window, its size and the tile in that order; then the
operation is issued: `LISS` rises by its length and D receives it, the operation is recorded, and it fails 2^24 cycles
later if nothing answers, or 7 cycles later without a route. With nothing to publish and nothing under way, an operation
on the own module sets out at once with the local bytes. Local memory out of reach is cause 6 (R442), with a second
detail of 0 (log entry 20), as in every trap of the chapter's own. Memory and every other counter stand. `cread`,
`cwait` and `cadd` on the counter of a selector: the checks of R442 in order; `cread` gives the value and refreshes the
core; `cwait` gives 1 and refreshes once the counter has reached B, gives 0 where an operation on the window failed
since it was first tried, and waits otherwise; `cadd` adds to a landing counter and gives the old value. The events of a
fabric operation. A put lands whole: every byte at its home, then `RC`, and for `puts` the tile's counter, and then the
acknowledgement; it waits while a page is absent or moved or a tile holds it, and a get's bytes wait for a tile; a get
changes no counter where it is served and raises `LC` where its bytes land; an acknowledgement raises `LC`; a timeout
raises `ERR`. What a counter carries to its reader grows with each increment. What answers an operation that is no
longer there is ignored. -/
def Obligations.FabricOperationsAndEvents : Prop :=
  ((∀ (s : State) (c : Ctl) (t : Thread) (kind : FabricKind) (d a : Opnd) (f : FabDesc) (y : Iss),
     let i : Instr := match kind with
       | .put => .put c d a
       | .puts => .puts c d a
       | .get => .get c d a
     Issues i s c t → (issueState i c t s).queues [] [d] = .ok () → (issueState i c t s).fabricDesc a = .ok (f, y) →
     let traps (e : Trap) : Prop := exec i s = .next (takeTrap s s.cur e)
     (windowOf s t.ctag f.win = none → traps (eBounds (detail f.win 12 0 3) 0))
     ∧ ∀ w, windowOf s t.ctag f.win = some w →
       let own : Prop := w.module = Config.moduleId
       let k := countersOf s t.ctag f.win
       (w.wsize.toNat < f.off + f.len → traps (eBounds (detail f.win 12 0 4) 0))
       ∧ (f.off + f.len ≤ w.wsize.toNat → kind = .puts →
           f.off / w.tsize.toNat ≠ (f.off + f.len - 1) / w.tsize.toNat → traps (eBounds (detail f.win 12 0 5) 0))
       ∧ (∀ ps, f.off + f.len ≤ w.wsize.toNat →
           (kind = .puts → f.off / w.tsize.toNat = (f.off + f.len - 1) / w.tsize.toNat) →
           path y t.segs[f.seg] { Want.scalar f.seg f.lo f.len (if kind = .get then .store else .load) .everywhere 1 with
             tier := fun n => if 2 ≤ n then some (12, 6) else none } = .ok ps →
           ∃ z : Iss, ∃ id, ∃ o : FabOp,
             exec i s = .next ((z.setInt d (k.liss + BitVec.ofNat 64 f.len)).finish c) ∧ z.s.mem = s.mem
             ∧ countersOf z.s t.ctag f.win = { k with
                 liss := k.liss + BitVec.ofNat 64 f.len
                 know := k.know.put [] 1 (Know.join (k.carries 1 0) (z.s.core (coreOf s.cur)).before) }
             ∧ (∀ g n, (g, n) ≠ (t.ctag, f.win) → n < 64 → f.win < 64 → countersOf z.s g n = countersOf s g n)
             ∧ z.s.fabops.get? id = some o ∧ o.kind = kind ∧ o.ctag = t.ctag ∧ o.win = f.win ∧ o.off = f.off ∧ o.len = f.len
             ∧ (o.locals_.map fun p => (p.1, p.2.2)) = ps.map (fun p => (p.loc, p.len))
             ∧ ⟨s.cyc + (if ¬ own ∧ s.routes.getD w.module.toNat 0 = 0 then 7 else 2 ^ 24), .fabricOpTimeout, [id]⟩ ∈ z.s.pending
             ∧ (own → kind = .get → ∃ e ∈ z.s.pending,
                 e.ev = .fabricGetArrival ⟨.get, Config.moduleId, id, t.ctag, f.win, f.off, f.len, []⟩)
             ∧ (own → kind ≠ .get → (s.core (coreOf s.cur)).buffer = [] → underWay s (coreOf s.cur) = [] → ∃ e ∈ z.s.pending,
                 e.ev = .fabricPutArrival ⟨kind, Config.moduleId, id, t.ctag, f.win, f.off, f.len,
                   o.locals_.flatMap fun p => readBytes s p.1 p.2.2⟩))
       ∧ (∀ e : Trap, f.off + f.len ≤ w.wsize.toNat →
           (kind = .puts → f.off / w.tsize.toNat = (f.off + f.len - 1) / w.tsize.toNat) →
           path y t.segs[f.seg] { Want.scalar f.seg f.lo f.len (if kind = .get then .store else .load) .everywhere 1 with
             tier := fun n => if 2 ≤ n then some (12, 6) else none } = .error (.trap e none) →
           let cause := (e.detail.extractLsb' 24 8).toNat
           let unreachable : Prop := (e.detail.extractLsb' 8 8).toNat = 12 ∨ (e.cause = 5 ∧ (cause = 13 ∨ cause = 14))
           (unreachable → traps (eRights (detail f.win 12 0 6) 0)) ∧ (¬ unreachable → traps e)))
   ∧ (∀ (x : Iss) (n : Fin 128), x.s.errs = [] →
     let r (j : Nat) : Word := x.s.gfile.getD (gKey x.core (x.th.gBase + (n.val + j))) 0
     let win := ((r 1).extractLsb' 48 6).toNat
     let len := ((r 2).extractLsb' 0 32).toNat
     let lo := ((r 0).extractLsb' 0 48).toNat
     let off := ((r 1).extractLsb' 0 48).toNat
     let zeros : Prop := (r 0).extractLsb' 51 13 = 0 ∧ (r 1).extractLsb' 54 10 = 0 ∧ (r 2).extractLsb' 32 32 = 0
     let sizes : Prop := 8 ≤ len ∧ len ≤ 2 ^ 24 ∧ lo % 8 = 0 ∧ off % 8 = 0 ∧ len % 8 = 0
     (¬ zeros → x.fabricDesc (.g n) = .error (.trap (eBounds (detail win 12 0 1) 0) none))
     ∧ (zeros → ¬ sizes → x.fabricDesc (.g n) = .error (.trap (eBounds (detail win 12 0 2) 0) none))
     ∧ (zeros → sizes → ∃ f y, x.fabricDesc (.g n) = .ok (f, y) ∧ f.lo = lo ∧ f.seg.val = ((r 0).extractLsb' 48 3).toNat
         ∧ f.off = off ∧ f.win = win ∧ f.len = len ∧ y = { x with stages := y.stages })))
  ∧ (∀ (s : State) (c : Ctl) (t : Thread) (d a b : Opnd) (v w : Word) (y : Iss) (i : Instr),
       let k := coreOf s.cur
       let n := v.toNat % 64
       let kind := (v.extractLsb' 6 3).toNat
       let tile := (v.extractLsb' 16 12).toNat
       let cs := countersOf s t.ctag n
       let value (x : Counters) : BitVec 64 := match kind with
         | 0 => x.lc
         | 1 => x.liss
         | 2 => x.rc
         | 3 => x.tc.getD tile 0
         | _ => x.err
       let zeros : Prop := v.extractLsb' 9 7 = 0 ∧ v.extractLsb' 28 36 = 0 ∧ kind ≤ 4
       let refreshed (z : Iss) : Prop := (z.s.core k).snap = []
         ∧ (z.s.core k).know = Know.join (Know.join (s.core k).know (s.core k).heard) (cs.carries kind tile)
       Issues i s c t →
       (i = .cread c d a ∧ Source1 (issueState i c t s) d a v y)
         ∨ ((i = .cwait c d a b ∨ i = .cadd c d a b) ∧ Source2 (issueState i c t s) d a b v w y) →
       let traps (e : Trap) : Prop := exec i s = .next (takeTrap s s.cur e)
       (¬ zeros → traps (eBounds (detail n 12 0 1) 0))
       ∧ (zeros → windowOf s t.ctag n = none → traps (eBounds (detail n 12 0 3) 0))
       ∧ (∀ e, zeros → windowOf s t.ctag n = some e →
         let inGrid : Prop := kind = 3 → tile < (e.grows.toNat + 1) * (e.gcols.toNat + 1)
         let home : Prop := kind = 2 ∨ kind = 3 → e.module = Config.moduleId
         let adds : Prop := i = .cadd c d a b → kind = 2 ∨ kind = 3
         (¬ inGrid → traps (eBounds (detail n 12 0 4) 0))
         ∧ (inGrid → ¬ (home ∧ adds) → traps (eRights (detail n 12 0 7) 0))
         ∧ (inGrid → home → adds →
           (i = .cread c d a → ∃ z : Iss, exec i s = .next ((z.setInt d (value cs)).finish c) ∧ refreshed z ∧ z.s.mem = s.mem)
           ∧ (i = .cwait c d a b →
             ((value cs - w).toNat < 2 ^ 63 →
               ∃ z : Iss, exec i s = .next ((z.setInt d 1).finish c) ∧ refreshed z ∧ z.s.mem = s.mem)
             ∧ (2 ^ 63 ≤ (value cs - w).toNat → (∃ e0, t.errSeen = some e0 ∧ e0 ≠ cs.err) →
               ∃ z : Iss, exec i s = .next ((z.setInt d 0).finish c) ∧ z.s.mem = s.mem)
             ∧ (2 ^ 63 ≤ (value cs - w).toNat → (∀ e0, t.errSeen = some e0 → e0 = cs.err) → ∃ s' t', exec i s = .next s'
                 ∧ s'.mem = s.mem ∧ s'.thread? s.cur = some t' ∧ t'.cause = some .counter ∧ t'.pc = t.pc
                 ∧ t'.errSeen = some cs.err))
           ∧ (i = .cadd c d a b → ∃ z : Iss, exec i s = .next ((z.setInt d (value cs)).finish c) ∧ z.s.mem = s.mem
               ∧ value (countersOf z.s t.ctag n) = value cs + w
               ∧ (countersOf z.s t.ctag n).lc = cs.lc ∧ (countersOf z.s t.ctag n).liss = cs.liss
               ∧ (countersOf z.s t.ctag n).err = cs.err
               ∧ (countersOf z.s t.ctag n).carries kind tile = Know.join (cs.carries kind tile) (s.core k).before
               ∧ ∀ j, kind ≠ 3 ∨ j ≠ tile → (countersOf z.s t.ctag n).tc.getD j 0 = cs.tc.getD j 0))))
  ∧ (∀ (s : State) (m : FabricMsg) (op : Nat) (f : FabOp) (bs : List Byte),
       let k := countersOf s m.ctag m.win
       let n := BitVec.ofNat 64 m.len
       (windowOf s m.ctag m.win = none → exec (.fabricPutArrival m) s = .next s ∧ exec (.fabricGetArrival m) s = .next s)
       ∧ (∀ w, windowOf s m.ctag m.win = some w → m.off + m.len ≤ w.wsize.toNat →
         let da := w.wbase.toNat + m.off
         (m.bytes.length = m.len → hubReaches s m.ctag da m.len = true → ∃ s', exec (.fabricPutArrival m) s = .next s'
           ∧ s'.mem = (daWrite s m.ctag (fabricWriter m.source m.op) da m.bytes).mem
           ∧ (countersOf s' m.ctag m.win).rc = k.rc + n
           ∧ (countersOf s' m.ctag m.win).lc = k.lc ∧ (countersOf s' m.ctag m.win).liss = k.liss
           ∧ (∀ j, (countersOf s' m.ctag m.win).tc.getD j 0
               = k.tc.getD j 0 + if m.kind = .puts ∧ j = m.off / w.tsize.toNat then n else 0)
           ∧ (countersOf s' m.ctag m.win).carries 2 0 = Know.join (k.carries 2 0) (landedKnow m.source m.op)
           ∧ (m.source = Config.moduleId → ∃ e ∈ s'.pending, e.args = [m.op] ∧ e.ev = .fabricAck))
         ∧ (∀ data, daBytes s m.ctag da m.len = some data → ∃ s', exec (.fabricGetArrival m) s = .next s' ∧ s'.mem = s.mem
             ∧ s'.counters = s.counters ∧ (m.source = Config.moduleId → ∃ e ∈ s'.pending, e.ev = .fabricGetData m.op data))
         ∧ (daBytes s m.ctag da m.len = none →
             exec (.fabricGetArrival m) s = .next (later 1 (.fabricGetArrival m) [] (postMissing s m.ctag da m.len)))
         ∧ (m.bytes.length = m.len → hubReaches s m.ctag da m.len = false →
             exec (.fabricPutArrival m) s = .next (later 1 (.fabricPutArrival m) [] (postMissing s m.ctag da m.len))))
       ∧ (s.fabops.get? op = none → exec (.fabricGetData op bs) s = .next s
           ∧ (s.args = [op] → exec .fabricAck s = .next s ∧ exec .fabricOpTimeout s = .next s))
       ∧ (s.fabops.get? op = some f →
         let k := countersOf s f.ctag f.win
         let len := BitVec.ofNat 64 f.len
         let landed (x : Counters) (kn : Know) : Counters := { x with
           lc := x.lc + len
           know := x.know.put [] 0 (Know.join (x.carries 0 0) kn) }
         let held : Bool := f.locals_.any fun p => tileHolds s p.1 p.2.2
         (f.kind = .get → held = true → exec (.fabricGetData op bs) s = .next (later 1 (.fabricGetData op bs) [] s))
         ∧ (f.kind = .get → held = false → ∃ s',
             exec (.fabricGetData op bs) s = .next s' ∧ s'.fabops = s.fabops.erase op
             ∧ countersOf s' f.ctag f.win = landed k (landedKnow Config.moduleId op)
             ∧ (∀ x, ¬ InTraceRing x → (∀ p ∈ f.locals_, x < p.1 ∨ p.1 + p.2.2 ≤ x) → readByte s' x = readByte s x)
             ∧ (f.locals_.Pairwise (fun p q => p.1 + p.2.2 ≤ q.1 ∨ q.1 + q.2.2 ≤ p.1) →
                 bs.length = (f.locals_.map fun p => p.2.2).sum → ∀ pre p post, f.locals_ = pre ++ p :: post → ∀ j, j < p.2.2 →
                   ¬ InTraceRing (p.1 + j) → readByte s' (p.1 + j) = bs.getD ((pre.map fun p => p.2.2).sum + j) 0))
         ∧ (s.args = [op] → ∃ s', exec .fabricAck s = .next s' ∧ s'.mem = s.mem ∧ s'.fabops = s.fabops.erase op
             ∧ ∀ w, windowOf s f.ctag f.win = some w → countersOf s' f.ctag f.win
                 = landed k (if w.module = Config.moduleId then landedKnow Config.moduleId op else []))
         ∧ (s.args = [op] → ∃ s', exec .fabricOpTimeout s = .next s' ∧ s'.mem = s.mem ∧ s'.fabops = s.fabops.erase op
             ∧ countersOf s' f.ctag f.win = { k with err := k.err + 1 })))

/-- `wait`: a migratory thread, and a thread that is no member, trap with E_NOTMEMBER; a member waits, and arrives at the
marver in the next cycle, or when the stores in its core's buffer are performed; what else the core has under way delays
no arrival. The marver. An arriving member is bound to the oldest unfired entry whose mask contains it, and else waits
unbound; with the gaffer in FAULT or DONE it traps instead. An entry every one of whose members is bound to it or has
exited fires: it leaves the table and is released a cycle later. A release makes each of its waiting members READY, ends
its deep-idle state and refreshes its core. Memory stands. The gaffer. A step takes the record at `GPC`: a MASK record
inserts one entry, a copy of its mask with the next sequence number, while the marver has room, and leaves the record
after its last repeat; a LOOP record returns to its target as often as it says and then goes on; an END record ends the
program; a record that breaks its layout, or could not be read, faults the gaffer with its kind and index. A record read
brings 64 bytes of the barrier segment into the prefetch buffer. A freeze that ends lets the span issue again, or goes
on for a rotation where its stalled instruction cannot issue. -/
def Obligations.BarrierEvents : Prop :=
  (∀ (s : State) (c : Ctl) (t : Thread), let i : Instr := .wait c
     let member : Prop := t.handle = none ∧ ∃ g, s.group? t.launch t.group = some g ∧ t.rank < g.barrier.mcount
     let quiet : Prop := (s.core (coreOf s.cur)).buffer = []
     Issues i s c t →
     (t.status.getLsbD 12 = true → exec i s = .next (takeTrap s s.cur (eNotMember t.rank 3 0)))
     ∧ (t.status.getLsbD 12 = false → ¬ member → exec i s = .next (takeTrap s s.cur (eNotMember t.rank 0 0)))
     ∧ (t.status.getLsbD 12 = false → member → ∃ s' t', exec i s = .next s' ∧ s'.mem = s.mem ∧ s'.gfile = s.gfile
         ∧ s'.thread? s.cur = some t' ∧ t'.st = .waiting ∧ t'.pc = t.pc + 1 ∧ t'.rank = t.rank
         ∧ (quiet → ⟨s.cyc + 1, .waitArrival, [t.launch, t.group, t.rank]⟩ ∈ s'.pending)
         ∧ (¬ quiet → ∃ p ∈ s'.pubs, p.2.core = coreOf s.cur
             ∧ p.2.after = .waitArrive t.launch t.group t.rank)))
  ∧ ((∀ (s : State) (l g i : Nat) (x : Group), s.args = [l, g, i] → s.group? l g = some x → haltOf s l = none →
       let b := x.barrier
       let older (p q : MEntry) : Prop := (b.nextSeq - q.seq).toNat ≤ (b.nextSeq - p.seq).toNat
       (∀ e ∈ b.entries, e.2.mask.getLsbD i = true → (∀ f ∈ b.entries, f.2.mask.getLsbD i = true → older e.2 f.2) →
         (∀ f ∈ b.entries, f.2.mask.getLsbD i = true → older f.2 e.2 → f.2.seq = e.2.seq) →
         ∃ s' x', exec .waitArrival s = .next s' ∧ s'.mem = s.mem ∧ s'.group? l g = some x'
           ∧ x'.barrier.waits.get? i = some (.bound e.2.seq.toNat))
       ∧ ((∀ e ∈ b.entries, e.2.mask.getLsbD i = false) →
         (b.gstate = .idle ∨ b.gstate = .run → ∃ s' x', exec .waitArrival s = .next s' ∧ s'.mem = s.mem ∧ s'.group? l g = some x'
           ∧ x'.barrier.waits.get? i = some .pending)
         ∧ (b.gstate = .fault → exec .waitArrival s =
             .next (trapMember s l g i 1 (BitVec.ofNat 64 (b.frec.toNat + 2 ^ 32 * b.fkind.toNat))))
         ∧ (b.gstate = .done → exec .waitArrival s = .next (trapMember s l g i 2 (b.gpc.setWidth 64)))))
     ∧ (∀ (s : State) (l g n : Nat) (x : Group) (e : MEntry), s.args = [l, g, n] → s.group? l g = some x →
       x.barrier.entries.get? n = some e →
       let complete : Prop := ∀ i, i < 256 → e.mask.getLsbD i = true →
         i ∈ x.barrier.exited ∨ x.barrier.waits.get? i = some (.bound e.seq.toNat)
       (¬ complete → exec .marverFire s = .next s)
       ∧ (complete → x.freeze = none → haltOf s l = none → ∃ s' x', exec .marverFire s = .next s' ∧ s'.mem = s.mem ∧ s'.group? l g = some x'
           ∧ x'.barrier.entries = x.barrier.entries.erase n ∧ x'.barrier.rls.get? e.seq.toNat = some (e.mask, s.cyc + 1)
           ∧ ⟨s.cyc + 1, .barrierRelease, [l, g, e.seq.toNat]⟩ ∈ s'.pending))
     ∧ (∀ (s : State) (l g n : Nat) (x : Group) (m : BitVec 256) (at_ : Nat), s.args = [l, g, n] → s.group? l g = some x →
       x.barrier.rls.get? n = some (m, at_) → SMap.sorted s.threads = true → ∃ s' x', exec .barrierRelease s = .next s' ∧ s'.mem = s.mem
         ∧ s'.group? l g = some x' ∧ x'.barrier.rls = x.barrier.rls.erase n
         ∧ ∀ i key t, i < 256 → m.getLsbD i = true → i ∉ x.barrier.exited → memberThread s l g i = some (key, t) →
           t.st = .waiting → s'.thread? key = some { t with
             st := .ready, cause := none, readyAt := max t.readyAt s.cyc, status := t.status &&& ~~~(0x4000 : BitVec 32) }
           ∧ (s'.core (coreOf key)).snap = [] ∧ (s'.core (coreOf key)).heard = []))
  ∧ ((∀ (s : State) (l g : Nat) (x : Group) (p : Nat × List Byte), s.args = [l, g] → s.group? l g = some x →
       SMap.sorted s.groups = true → x.barrier.gstate = .run →
       x.barrier.pfb.find? (fun p => p.1 == x.barrier.gpc.toNat) = some p →
       let b := x.barrier
       let f (i n : Nat) : Nat := ofBytes ((p.2.drop i).take n)
       let mask := BitVec.ofNat 256 (f 8 32)
       let legal : Prop := p.2.length = 64 ∧ f 1 1 = 0 ∧ f 40 24 = 0
       let after (q : Barrier → Prop) : Prop := ∃ s' x', exec .gafferStep s = .next s' ∧ s'.group? l g = some x' ∧ q x'.barrier
       (∀ e, legal → f 0 1 = 1 → 1 ≤ f 2 2 → f 4 4 = 0 → f 8 32 ≠ 0 → f 8 32 < 2 ^ b.mcount → b.entries.freeKey 32 0 = some e →
         let left := (if b.rep = 0 then BitVec.ofNat 16 (f 2 2) else b.rep) - 1
         after fun q => q.entries.get? e = some ⟨mask, b.nextSeq⟩ ∧ q.nextSeq = b.nextSeq + 1 ∧ q.gstate = .run ∧ q.rep = left
           ∧ q.gpc = if left = 0 then b.gpc + 1 else b.gpc)
       ∧ (legal → f 0 1 = 1 → 1 ≤ f 2 2 → f 4 4 = 0 → f 8 32 ≠ 0 → f 8 32 < 2 ^ b.mcount → b.entries.freeKey 32 0 = none →
         after fun q => q.entries = b.entries ∧ q.gpc = b.gpc ∧ q.gstate = .run
           ∧ q.rep = if b.rep = 0 then BitVec.ofNat 16 (f 2 2) else b.rep)
       ∧ (∀ rest, legal → f 0 1 = 2 → 1 ≤ f 2 2 → f 4 4 < b.gpc.toNat → f 8 32 = 0 → b.back = false →
         let fresh := ∀ top ∈ b.lstk.head?, top.1 ≠ b.gpc
         (fresh → f 2 2 = 1 → after fun q => q.gpc = b.gpc + 1 ∧ q.lstk = b.lstk ∧ q.gstate = .run)
         ∧ (fresh → f 2 2 ≠ 1 → b.lstk.length < 4 → after fun q => q.gpc = BitVec.ofNat 32 (f 4 4) ∧ q.gstate = .run
             ∧ q.lstk = (b.gpc, BitVec.ofNat 16 (f 2 2 - 1)) :: b.lstk)
         ∧ (fresh → f 2 2 ≠ 1 → 4 ≤ b.lstk.length → after fun q => q.gstate = .fault ∧ q.fkind = 8 ∧ q.frec = b.gpc)
         ∧ (∀ left, b.lstk = (b.gpc, left) :: rest →
             (left = 1 → after fun q => q.gpc = b.gpc + 1 ∧ q.lstk = rest)
             ∧ (left ≠ 1 → after fun q => q.gpc = BitVec.ofNat 32 (f 4 4) ∧ q.lstk = (b.gpc, left - 1) :: rest)))
       ∧ (legal → f 0 1 = 3 → f 2 2 = 0 → f 4 4 = 0 → f 8 32 = 0 → b.back = false → after fun q => q.gstate = .done ∧ q.gpc = b.gpc)
       ∧ (p.2 = [] → after fun q => q.gstate = .fault ∧ q.fkind = 9 ∧ q.frec = b.gpc)
       ∧ (p.2.length = 64 → f 0 1 = 0 ∨ 3 < f 0 1 → after fun q => q.gstate = .fault ∧ q.fkind = 1 ∧ q.frec = b.gpc)
       ∧ (p.2.length = 64 → f 0 1 = 1 → f 1 1 = 0 → 1 ≤ f 2 2 → f 4 4 = 0 → 2 ^ b.mcount ≤ f 8 32 →
           after fun q => q.gstate = .fault ∧ q.fkind = 5 ∧ q.frec = b.gpc))
     ∧ (∀ (s : State) (l g i : Nat) (x : Group) (la : Launch) (sg : Segment), s.args = [l, g, i] → s.group? l g = some x →
       s.launch? l = some la → barrierSegment s l = some sg → i ∈ x.barrier.reads →
       let da := (sg.base.toNat + 64 * i) % 2 ^ 56
       let got (bs : List Byte) : Prop := ∃ s' x', exec .gafferRecordRead s = .next s' ∧ s'.mem = s.mem ∧ s'.group? l g = some x'
         ∧ (i, bs) ∈ x'.barrier.pfb ∧ i ∉ x'.barrier.reads
       (sg.limit.toNat < 64 * i + 64 → got [])
       ∧ (∀ loc, 64 * i + 64 ≤ sg.limit.toNat → portLoc s x.lead la.ctag da = some loc → s.errs = [] → got (readBytes s loc 64)))
     ∧ (∀ (s : State) (l g : Nat) (x : Group) (at_ : Nat) (ks : List Nat) (clear : Bool), s.args = [l, g] →
       s.group? l g = some x → x.freeze = some (at_, ks, clear) →
       (clear = true ∨ ks = [] → exec .spanFreezeEnd s = .next (s.setGroup l g { x with freeze := none }))
       ∧ (∀ n r, clear = false → ks ≠ [] → groupCores s l g = n :: r → ∃ s', exec .spanFreezeEnd s = .next s' ∧ s'.mem = s.mem
           ∧ s'.gfile = s.gfile ∧ ⟨s.cyc + s.rotLen n, .spanFreezeEnd, [l, g]⟩ ∈ s'.pending)))

/-! ### Events of cores, network, engines and pages -/

/-- A request at its home, and a write that was held there, in its first or a later try. It tries again a cycle later while
a write it must follow is not performed, while the tags of the host port are all taken, and while a bank it needs is
taken: it takes its banks turn by turn, and one that a tile holds takes none. A write changes exactly the bytes of its
mask, once no tile holds it, and is gone; it is held while one does. An atomic answers with the old value and leaves its
new one. A read and a tag read change no memory; a tag write sets the granule's colour. A load or an atomic whose
granule has got another colour than its segment's reads or writes nothing, and its answer says so. Each but a write
sends its answer. An answer ends its request once all its bytes are there and the banks of its result are free, and
waits a cycle otherwise: the result is written, and a queue entry that was reserved for it becomes present. A
publication completes with its last write, and what waited for it goes on: its thread issues again, and refreshes its
core where it asked to; an atomic that has no place in its core's own order sets out; a member arrives at its barrier; a
job may start; a group retires. A deposit lands in the register it names of the thread in its slot, if tag and group are
the sender's and the register lies in the thread's windows; it ends an `idle` of that thread, and is kept over a result
still outstanding. One for the parked owner of a lent slot reaches that owner's saved registers. Any other deposit, one
whose slot holds a thread of another tag or group among them, is dropped and counted; an error that was corrected is
counted, and one that lost the deposit leaves it unwritten and makes its target trap at its next issue. The end of an
`idle`'s count makes its thread READY. Power and upkeep of a core. The vector unit gates unless a lane instruction
issues in that cycle, and wakes when its wake is due. An empty, quiet core gates after 64 cycles, and is active again 24
cycles after it began to wake. The patrol scrubber corrects and counts a correctable error. A core reset clears its
threads, registers and store, bounces what its table held, and keeps its retention buffer, its sequence counter, its
resident tags and the contexts that were given up and came back (what it clears and keeps is the model's choice, log
entry 24); what it did not take meanwhile is gone when it completes. -/
def Obligations.RequestAndCoreEvents : Prop :=
  (∀ (s : State) (id : Nat) (rest : List Nat) (r : Req) (ev : Instr), s.args = id :: rest → s.reqs.get? id = some r →
     (ev = .arrivalAtHome ∧ r.performed = false) ∨ (ev = .heldWritePerform ∧ r.held = true) →
     let outside (s' : State) (loc n : Nat) : Prop :=
       ∀ a, ¬ InTraceRing a → (a < loc ∨ loc + n ≤ a) → readByte s' a = readByte s a
     let first := rest.getD 0 s.cyc
     let waits : Prop := mustFollow s r = true ∨ tagsTaken s id r = true
     let test (loc n : Nat) : Option (BitVec 32 × Word) := r.tagTest s (reqCtag s r) loc n
     let answers (s' : State) (data : List Byte) (failed : Option (BitVec 32 × Word)) : Prop := ∃ q, s'.reqs.get? id = some q
       ∧ q.performed = true ∧ q.failed = failed
       ∧ ((∀ e ∈ s.reqs, e.2.key = r.key → e.2.order = r.order → e.2.gaps = []) → q.data = data)
       ∧ ∃ p ∈ s'.pending, p.args = [id] ∧ p.ev = match r.instr with
         | some (.qld ..) => .qldDataArrival
         | _ => .remoteAccessReply
     (waits → exec ev s = .next (later 1 ev [id, first] s))
     ∧ (∀ s1 k, ¬ waits → r.heldNow s id = false → takeTurns s r.away (rest.getD 1 0) = .next s1 k →
         exec ev s = .next (later 1 ev [id, first, k] s1))
     ∧ (∀ s1, ¬ waits → r.heldNow s id = true ∨ takeTurns s r.away (rest.getD 1 0) = .done s1 →
       (∀ loc bytes pub job, r.kind = .write loc bytes pub job →
         let holds := (runs loc bytes).any fun q => tileHoldsBut s (pubJob s id) q.1 q.2.length
         (holds = true → ∃ s' q, exec ev s = .next s' ∧ s'.mem = s.mem ∧ s'.reqs.get? id = some q ∧ q.held = true
             ∧ ⟨s.cyc + 1, .heldWritePerform, [id, first]⟩ ∈ s'.pending)
         ∧ (holds = false → ∃ s', exec ev s = .next s' ∧ s'.reqs.get? id = none ∧ outside s' loc bytes.length
             ∧ (∀ j b, bytes[j]? = some (some b) → ¬ InTraceRing (loc + j) → readByte s' (loc + j) = b)
             ∧ (∀ j, bytes[j]? = some none → ¬ InTraceRing (loc + j) → readByte s' (loc + j) = readByte s (loc + j))
             ∧ (pub.isSome = true → SMap.sorted s.pubs = true → ∀ p x, s.pubs.get? p = some x → id ∈ x.waits →
                 let left := x.waits.filter (· != id)
                 s'.pubs.get? p = some { x with waits := left }
                 ∧ (left = [] → ⟨s.cyc, .publicationComplete, [p]⟩ ∈ s'.pending))))
       ∧ (∀ ps, r.kind = .read ps → ∃ s', exec ev s = .next s' ∧ s'.mem = s.mem ∧ answers s' r.data (ps.findSome? fun p => test p.1 p.2))
       ∧ (∀ loc, r.kind = .tagRead loc → ∃ s', exec ev s = .next s' ∧ s'.mem = s.mem ∧ s'.gtags = s.gtags
           ∧ answers s' [BitVec.ofNat 8 (granuleColour s (reqCtag s r) loc r.da.toNat 0).toNat] r.failed)
       ∧ (∀ loc v, r.kind = .tagWrite loc v → ∃ s', exec ev s = .next s' ∧ (∀ a, ¬ InTraceRing a → readByte s' a = readByte s a)
           ∧ answers s' r.data r.failed ∧ (s'.gtags.getD (loc / 64) 0 ^^^ tagKeyAt s (reqCtag s r) r.da.toNat) = v
           ∧ ∀ g, g ≠ loc / 64 → s'.gtags.getD g 0 = s.gtags.getD g 0)
       ∧ (∀ loc n vals i, r.kind = .atomic loc n vals → r.instr = some i → s.kickPages.get? (loc / 2 ^ 17) = none → s.errs = [] →
         tileHoldsBut s (pubJob s id) loc n = false → test loc n = none →
         let old := readNum s loc n
         ∃ s', exec ev s = .next s' ∧ answers s' (toBytes n old) r.failed ∧ outside s' loc n ∧ s'.full = s.full
           ∧ ((∀ j, j < n → ¬ InTraceRing (loc + j)) →
               readNum s' loc n % 2 ^ (8 * n) = (atomNew i n old vals).getD old % 2 ^ (8 * n)))
       ∧ (∀ loc n vals f, r.kind = .atomic loc n vals → s.kickPages.get? (loc / 2 ^ 17) = none → s.errs = [] → test loc n = some f →
         ∃ s', exec ev s = .next s' ∧ s'.mem = s.mem ∧ answers s' r.data (some f))))
  ∧ ((∀ (s : State) (id : Nat) (r : Req), s.args = [id] → s.reqs.get? id = some r →
       let waits : Prop := ∃ t, s.thread? r.key = some t ∧ t.outstanding = some id
       let filled (s' : State) (v : VReg) : Prop := ∀ c q n, r.qdest = some (c, q, n) →
         (∃ e ∈ (s.queue c q).ents, e.seq = n) →
         ∃ e ∈ (s'.queue c q).ents, e.seq = n ∧ e.val = v ∧ e.present = some s.cyc
           ∧ e.poison = if r.poison then some (r.da.setWidth 64) else none
       let r := r.atReply s
       (r.lacks s id = true → exec .remoteAccessReply s = .next (later 1 .remoteAccessReply [id] s)
         ∧ exec .qldDataArrival s = .next (later 1 .qldDataArrival [id] s))
       ∧ (r.lacks s id = false →
         (waits → r.trap? = none → takeBanks s (coreOf r.key) (Req.banks s r) = none →
           exec .remoteAccessReply s = .next (later 1 .remoteAccessReply [id] s))
         ∧ (∀ s1, waits → r.trap? = none → takeBanks s (coreOf r.key) (Req.banks s r) = some s1 →
           exec .remoteAccessReply s = .next (answer s1 id r))
         ∧ (waits → r.trap? ≠ none → exec .remoteAccessReply s = .next (answer s id r))
         ∧ (¬ waits → r.qdest = none → exec .remoteAccessReply s = .next (answer s id r))
         ∧ (r.qdest.isSome = true → (waits → r.trap? = none) → ∃ s', exec .remoteAccessReply s = .next s' ∧ s'.mem = s.mem
             ∧ s'.reqs = s.reqs.erase id ∧ filled s' r.entryValue)
         ∧ (r.failed = none → ∃ s', exec .qldDataArrival s = .next s' ∧ s'.mem = s.mem ∧ s'.reqs = s.reqs.erase id ∧ s'.threads = s.threads
             ∧ filled s' ⟨BitVec.ofNat 2048 (ofBytes r.data), 0⟩)))
     ∧ (∀ (s : State) (id : Nat) (p : Pub), s.args = [id] → s.pubs.get? id = some p →
       (p.waits ≠ [] → exec .publicationComplete s = .next s)
       ∧ (p.waits = [] → ∃ s', exec .publicationComplete s = .next s' ∧ s'.pubs.get? id = none ∧ s'.mem = s.mem
           ∧ (∀ key refresh t, p.after = .resume key refresh → s.thread? key = some t → t.outstanding = some id →
               (∃ t', s'.thread? key = some t' ∧ t'.outstanding = none ∧ s.cyc < t'.readyAt ∧ t'.pc = t.pc)
               ∧ (refresh = true → (s'.core (coreOf key)).snap = [] ∧ (s'.core (coreOf key)).heard = []))
           ∧ (∀ q, p.after = .send q → (∀ k ∈ s.cores, ∀ a ∈ k.2.own, a.id ≠ q) → ∃ e ∈ s'.pending, e.ev = .arrivalAtHome ∧ e.args = [q])
           ∧ (∀ l g i, p.after = .waitArrive l g i → ⟨s.cyc + 1, .waitArrival, [l, g, i]⟩ ∈ s'.pending)
           ∧ (∀ l g, p.after = .retire l g → ⟨s.cyc, .groupRetire, [l, g]⟩ ∈ s'.pending)
           ∧ (∀ cl q seq j, p.after = .job cl q seq → findJob s cl q seq = some j →
               findJob s' cl q seq = some { j with pub := none }))))
  ∧ ((∀ (s : State) (n j id : Nat) (d : Deposit), s.args = [n, j, id] → s.deposits.get? id = some d → d.lost = false →
       errAt s (.deposit id) ≠ some true →
       let key := slotKey d.core d.slot
       let mine (t : Thread) : Prop := t.ctag = d.ctag ∧ t.group = d.group
       let dropped : Prop := ∃ s', exec .depositLanding s = .next s' ∧ s'.mem = s.mem ∧ s'.gfile = s.gfile ∧ s'.wfile = s.wfile
           ∧ s'.threads = s.threads ∧ s'.slots = s.slots
           ∧ (s'.core d.core).dropped.getD d.launch 0 = min ((s.core d.core).dropped.getD d.launch 0 + 1) (2 ^ 32 - 1)
       (∀ t, s.thread? key = some t → mine t → d.reg.inside t = true → ∃ s' t',
         exec .depositLanding s = .next s' ∧ s'.mem = s.mem ∧ s'.deposits = s.deposits.erase id ∧ s'.thread? key = some t'
         ∧ (∀ k, k ≠ key → s'.thread? k = s.thread? k)
         ∧ t'.pc = t.pc ∧ t'.idle = none ∧ (t.idle ≠ none → t'.st = .ready ∧ s.cyc < t'.readyAt)
         ∧ (t.outstanding ≠ none → d.reg ∈ t'.deposited)
         ∧ (∀ r, d.reg = .g r → s'.gfile.getD (gKey d.core (t.gBase + r)) 0 = d.val.setWidth 64
             ∧ ∀ e, e ≠ gKey d.core (t.gBase + r) → s'.gfile.getD e 0 = s.gfile.getD e 0)
         ∧ (∀ r, d.reg = .v r → s'.wfile.getD (wKey d.core (t.wBase + r)) .zero = ⟨d.val, d.tag⟩)
         ∧ (∀ r, d.reg = .k r → s'.wfile.getD (wKey d.core (t.wBase + (t.nv + 7) / 8 * 8 + r)) .zero = ⟨d.val, d.tag⟩)
         ∧ (∀ r : Fin 8, d.reg = .p r.val → t'.preds = if r = 0 then t.preds else t.preds.set r (d.val.setWidth 64))
         ∧ (∀ r : Fin 8, d.reg = .m r.val → t'.mregs = t.mregs.set r (d.val.setWidth 128)))
       ∧ (s.thread? key = none → dropped)
       ∧ (∀ t, s.thread? key = some t → mine t → d.reg.inside t = false → dropped)
       ∧ (∀ t, s.thread? key = some t → ¬ mine t →
         (∀ w, (s.slot key).lent = some w → mine w → d.reg.inside w = false) → dropped)
       ∧ (∀ t w r, s.thread? key = some t → ¬ mine t → (s.slot key).lent = some w → mine w → d.reg = .g r → r < w.gSize →
         ∃ s', exec .depositLanding s = .next s' ∧ s'.mem = s.mem ∧ s'.threads = s.threads
           ∧ (r < 8 → s'.gfile = s.gfile ∧ (s'.slot key).frame = listSet (s.slot key).frame r (d.val.setWidth 64))
           ∧ (8 ≤ r → s'.gfile.getD (gKey d.core (w.gBase + r)) 0 = d.val.setWidth 64))
       ∧ (errAt s (.deposit id) = some false → (s.cluster (clusterOf d.core)).err.ce ≠ BitVec.allOnes 32 → ∃ s',
           exec .depositLanding s = .next s' ∧ (s'.cluster (clusterOf d.core)).err.ce = (s.cluster (clusterOf d.core)).err.ce + 1))
     ∧ (∀ (s : State) (n j id : Nat) (d : Deposit) (t : Thread), s.args = [n, j, id] → s.deposits.get? id = some d →
       d.lost = true ∨ errAt s (.deposit id) = some true →
       s.thread? (slotKey d.core d.slot) = some t → t.ctag = d.ctag → t.group = d.group → ∃ s', exec .depositLanding s = .next s'
         ∧ s'.mem = s.mem ∧ s'.gfile = s.gfile ∧ s'.wfile = s.wfile
         ∧ s'.thread? (slotKey d.core d.slot) = some { t with machineErr := some (6, BitVec.ofNat 64 d.srcCore) })
     ∧ (∀ (s : State) (n j : Nat) (t : Thread), s.args = [n, j] → s.thread? (slotKey n j) = some t → t.idle = some s.cyc →
       exec .idleExpiry s = .next (s.setThread (slotKey n j) { t with
         idle := none, st := .ready, readyAt := max t.readyAt (s.cyc + 1) })))
  ∧ ((∀ (s : State) (c : Nat), s.args = [c] → let k := s.core c
       (k.laneAt ≠ some s.cyc →
         exec .vectorUnitGate s = .next (s.setCore c { k with vecGated := true, vecWakeAt := none }))
       ∧ (k.laneAt = some s.cyc → ∃ s', exec .vectorUnitGate s = .next s' ∧ s'.core c = k)
       ∧ (k.vecWakeAt = some s.cyc →
         exec .vectorUnitWake s = .next (s.setCore c { k with vecGated := false, vecWakeAt := none }))
       ∧ (k.power = .active → coreQuiet s c = true → k.idleSince + 64 ≤ s.cyc →
         exec .coreGate s = .next (s.setCore c { k with power := .gated }))
       ∧ (∀ since, k.power = .waking since → since + 24 ≤ s.cyc →
         exec .coreWakeComplete s = .next (s.setCore c { k with power := .active, idleSince := s.cyc }))
       ∧ (∃ s', exec .coreReset s = .next s' ∧ (∀ e ∈ s'.threads, coreOf e.1 ≠ c) ∧ (∀ e ∈ s.threads, coreOf e.1 ≠ c → e ∈ s'.threads)
           ∧ (s'.core c).retained = k.retained ∧ (s'.core c).seqCount = k.seqCount ∧ (s'.core c).tags = k.tags
           ∧ (s'.core c).arrivals = k.arrivals.filter (fun a => a.lost.isSome)
           ∧ (s'.core c).power = (if k.retained = [] then .gated else k.power)
           ∧ (s'.core c).buffer = [] ∧ (s'.core c).queues = [] ∧ (s'.core c).resetting = true
           ∧ (∀ a, coreLoc c 0 ≤ a → a < coreLoc c 0 + 2 ^ 17 → readByte s' a = unwritten)
           ∧ (∀ a, (a < coreLoc c 0 ∨ coreLoc c 0 + 2 ^ 17 ≤ a) → readByte s' a = readByte s a)
           ∧ (∀ e, e / 2048 = c → s'.gfile.getD e 0 = 0) ∧ (∀ e, e / 2048 ≠ c → s'.gfile.getD e 0 = s.gfile.getD e 0)
           ∧ (∀ e ∈ k.dups, e.st = .held → ReplySent s' .replyBounce [e.src, e.seq, c])
           ∧ ∃ p ∈ s'.pending, p.ev = .coreResetComplete ∧ p.args = [c])
       ∧ (k.resetting = true → ∃ s', exec .coreResetComplete s = .next s' ∧ s'.mem = s.mem
           ∧ s'.core c = { k with resetting := false, heldReplies := [], arrivals := k.arrivals.filter (fun a => a.lost.isSome), spill := [], spillMoves := [], dups := [] }
           ∧ s'.pending = s.pending ++ k.heldReplies.map fun p => { p with at_ := s.cyc }))
     ∧ (∀ (s : State) (site : ErrSite) (c b : Nat), siteBank site = some (c, b) → (b, s.cyc) ∉ (s.core c).banks →
       (errAt s site = some false → ∃ s', exec (.patrolScrub site) s = .next s' ∧ errAt s' site = none ∧ s'.mem = s.mem
           ∧ ((s.cluster (clusterOf c)).err.ce ≠ BitVec.allOnes 32 →
               (s'.cluster (clusterOf c)).err.ce = (s.cluster (clusterOf c)).err.ce + 1))
       ∧ (errAt s site ≠ some false → exec (.patrolScrub site) s = .next s)))

/-- The head of a packet: it bounces off a core that is reset; a new packet takes a table entry and a place in the arrival
queue, or the spill area when the queue is full, and is refused where there is none; one that arrived whole before is
answered again. Flits lost on the way are noted, one that skips an index in a packet being received brings the packet's
discard about (log entry 59), and a packet or reply all of whose flits are lost is gone; a flit that a link replays
changes nothing. The flits of a packet: one head flit for up to 5 words, else one more for every 8 words begun beyond 6.
Each has 64 bytes; the head flit begins with the destination and the class; the closing flit ends with the handler PC
and the number of words. The end of a packet follows its head: one that came whole is answered ADMIT where it is
admitted in that cycle, and ACCEPT at the cycle's end where it is still held; one that lacks a flit, one whose abort
flit comes and one whose end does not come in time are discarded with their table entries. A spilled entry moves to the
queue's tail. Admission: the oldest packet that arrived whole is taken. A packet of a cancelled or finished group is
discarded and answered ADMIT; one of a halted launch waits; else its thread is created in a slot of the core, with the
core refreshed: a handler at the packet's PC with the words in g0 and up, in the launch's kernel; a migrated context
with its PC, status, tag, rank and g0 to g7. One that was given up and came back to its source traps there with E_LOST,
in the cycle in which it was given up. -/
def Obligations.PacketTransport : Prop :=
  ((∀ (s : State) (id : Nat) (p : NetPkt), s.args = [id] → id < s.nextId → s.packets.get? id = some p →
     (0 ∈ p.lost → exec .packetHeadArrival s = .next (dropPacket s id))
     ∧ (0 ∉ p.lost →
     let b := p.body
     let k := s.core b.dest
     let args := [b.src, b.seq, b.dest]
     let gone (s' : State) : Prop := p.closed = true → s'.packets.get? id = none
     let ends (q : State → Prop) : Prop := ∃ s', exec .packetHeadArrival s = .next s' ∧ s'.mem = s.mem
       ∧ s'.threads = s.threads ∧ q s'
     (k.resetting = true → ends fun s' => ReplySent s' .replyBounce args ∧ gone s')
     ∧ (k.resetting = false → b.cls ≠ .fullEmpty → dupOf s b.dest b.src b.seq = none → k.dups.length < 256 →
         (k.spill = [] → k.arrivals.length < 32 → ends fun s' => (s'.core b.dest).arrivals = k.arrivals ++ [⟨b, none, none⟩]
             ∧ (s'.core b.dest).dups = k.dups ++ [⟨b.src, b.seq, .held, s.cyc, 0, false, [], false, b.launch⟩])
         ∧ (k.spill ≠ [] ∨ 32 ≤ k.arrivals.length → k.spill.length < 204 → ends fun s' =>
             (s'.core b.dest).spill = k.spill ++ [⟨b, none, none⟩] ∧ (s'.core b.dest).arrivals = k.arrivals)
         ∧ (k.spill ≠ [] ∨ 32 ≤ k.arrivals.length → 204 ≤ k.spill.length → ends fun s' => ReplySent s' .replyRefuse args
             ∧ (s'.core b.dest).arrivals = k.arrivals ∧ (s'.core b.dest).spill = k.spill ∧ gone s'))
     ∧ (k.resetting = false → b.cls ≠ .fullEmpty → dupOf s b.dest b.src b.seq = none → 256 ≤ k.dups.length →
         ends fun s' => ReplySent s' .replyRefuse args ∧ (s'.core b.dest).dups = k.dups)
     ∧ (∀ e, k.resetting = false → dupOf s b.dest b.src b.seq = some e → e.st = .admitted → ends fun s' =>
         ReplySent s' .replyAdmit [b.src, b.seq, b.dest, e.value.toNat, e.bad.toNat] ∧ (s'.core b.dest).arrivals = k.arrivals)
     ∧ (∀ e, k.resetting = false → dupOf s b.dest b.src b.seq = some e → e.st ≠ .admitted → e.ended = true →
         ends fun s' => ReplySent s' .replyAccept args ∧ (s'.core b.dest).arrivals = k.arrivals)))
   ∧ (∀ (s : State) (id n : Nat) (p : NetPkt) (ev : Instr), ev = .flitAgeDiscard ∨ ev = .routerParityDiscard →
     s.args = [id, n] → s.packets.get? id = some p → n ∉ p.lost → ¬ (n = 0 ∧ p.headIn = true) →
     let lost := p.lost ++ [n]
     (p.closed = true → 0 ∈ lost → p.flits.length - 1 ∈ lost → exec ev s = .next { s with packets := s.packets.erase id })
     ∧ (¬ (p.closed = true ∧ 0 ∈ lost ∧ p.flits.length - 1 ∈ lost) →
       ∃ s', exec ev s = .next s' ∧ s'.packets = s.packets.set id { p with lost := lost } ∧ s'.mem = s.mem
         ∧ s'.threads = s.threads ∧ s'.cores = s.cores
         ∧ ∀ d m k, p.headIn = true → dupOf s p.body.dest p.body.src p.body.seq = some d → d.ended = false → m ∈ lost → k ∉ lost →
             m < k → k < p.flits.length → (p.closed = true → k + 1 < p.flits.length) → ∃ e ∈ s'.pending,
               e.ev = .partialPacketTimeout ∧ e.args = [p.body.dest, p.body.src, p.body.seq, d.headAt]))
   ∧ (∀ (s : State) (id n : Nat) (d : Deposit) (ev : Instr), ev = .flitAgeDiscard ∨ ev = .routerParityDiscard →
     s.args = [id, n] → s.packets.get? id = none → s.deposits.get? id = some d → clusterOf d.srcCore ≠ clusterOf d.core →
     exec ev s = .next { s with deposits := s.deposits.set id { d with lost := true } })
   ∧ ∀ s : State, exec .linkFlitCrcFail s = .next s)
  ∧ (∀ (b : PktBody) (k : Nat), b.words.length ≤ 32 →
       let n := (packetFlits b).length
       n = (if b.words.length ≤ 5 then 1 else 2 + (b.words.length - 6) / 8)
       ∧ ∀ f, (packetFlits b)[k]? = some f → f.payload.length = 64 ∧ f.fidx = BitVec.ofNat 3 k ∧ f.head = (k == 0)
         ∧ f.end_ = (k + 1 == n) ∧ f.abort = false ∧ f.vc = (if b.cls = .multicast then 2 else 0)
         ∧ f.nw.toNat = (if k = 0 then min 6 b.words.length else min 8 (b.words.length - (8 * k - 2)))
         ∧ (k = 0 → ofBytes (f.payload.take 2) = b.dest % 2 ^ 14 + 2 ^ 14 * b.cls.code
             ∧ ofBytes ((f.payload.drop 2).take 2) = b.src % 2 ^ 14 ∧ ofBytes ((f.payload.drop 4).take 2) = b.seq % 2 ^ 16
             ∧ ofBytes ((f.payload.drop 6).take 2) = b.ctag.toNat ∧ ofBytes ((f.payload.drop 8).take 4) = b.launch % 2 ^ 32
             ∧ ofBytes ((f.payload.drop 12).take 4) = b.group % 2 ^ 32)
         ∧ (k + 1 = n → ofBytes (f.payload.drop 56) = (if b.cls = .migration then 0 else b.pc.toNat) + 2 ^ 32 * b.words.length)
         ∧ ∀ j v, b.words[j]? = some v → (if k = 0 then j < 6 else 8 * k - 2 ≤ j ∧ j < 8 * k + 6) →
             ofBytes ((f.payload.drop (if k = 0 then 16 + 8 * j else 8 * (j - (8 * k - 2)))).take 8) = v.toNat)
  ∧ ((∀ (s : State) (id : Nat) (p : NetPkt), s.args = [id] → id < s.nextId → s.packets.get? id = some p →
       let b := p.body
       let last := p.flits.length - 1
       let gone (s' : State) : Prop := dupOf s' b.dest b.src b.seq = none ∧ s'.mem = s.mem ∧ s'.threads = s.threads
         ∧ ∀ a ∈ (s'.core b.dest).arrivals ++ (s'.core b.dest).spill, ¬ (a.body.src = b.src ∧ a.body.seq = b.seq)
       (last ∈ p.lost → exec .packetEndArrival s = .next s ∧ exec .abortFlitArrival s = .next s)
       ∧ (last ∉ p.lost →
         (0 ∈ p.lost ∨ (p.headIn = true ∧ dupOf s b.dest b.src b.seq = none) → exec .packetEndArrival s = .next (dropPacket s id))
         ∧ (0 ∉ p.lost → p.headIn = false → exec .packetEndArrival s = .next (later 1 .packetEndArrival [id] s))
         ∧ (0 ∉ p.lost → p.headIn = true → dupOf s b.dest b.src b.seq ≠ none → p.lost ≠ [] →
           ∃ s', exec .packetEndArrival s = .next s' ∧ gone s')
         ∧ (p.lost = [] → p.headIn = true → dupOf s b.dest b.src b.seq ≠ none →
           (∀ a ∈ (s.core b.dest).arrivals ++ (s.core b.dest).spill, a.lost = none) →
           ∃ s', exec .packetEndArrival s = .next s' ∧ (p.closed = true → s'.packets.get? id = none)
             ∧ ((∃ v bad, ReplySent s' .replyAdmit [b.src, b.seq, b.dest, v, bad])
               ∨ (s'.threads = s.threads ∧ s'.mem = s.mem ∧ (∃ e, dupOf s' b.dest b.src b.seq = some e ∧ e.ended = true)
                 ∧ ∀ a ∈ (s'.core b.dest).arrivals ++ (s'.core b.dest).spill, a.body.src = b.src → a.body.seq = b.seq →
                     a.body = b ∧ a.ended = some s.cyc)))
         ∧ (∀ e, dupOf s b.dest b.src b.seq = some e → p.headIn = true →
           (e.ended = true → exec .abortFlitArrival s = .next (dropPacket s id))
           ∧ (e.ended = false → ∃ s', exec .abortFlitArrival s = .next s' ∧ gone s'))))
     ∧ (∀ (s : State) (c src seq at_ : Nat) (e : DupEntry), s.args = [c, src, seq, at_] → dupOf s c src seq = some e →
       (e.ended = true ∨ e.headAt ≠ at_ → exec .partialPacketTimeout s = .next s)
       ∧ (e.ended = false → e.headAt = at_ → ∃ s', exec .partialPacketTimeout s = .next s' ∧ s'.mem = s.mem
           ∧ dupOf s' c src seq = none ∧ ∀ a ∈ (s'.core c).arrivals, ¬ (a.body.src = src ∧ a.body.seq = seq)))
     ∧ (∀ (s : State) (c : Nat) (a : Arrival) (e : DupEntry), a ∈ (s.core c).arrivals ++ (s.core c).spill → a.ended = some s.cyc →
       dupOf s c a.body.src a.body.seq = some e → e.st = .held → ReplySent (acceptEnded s c) .replyAccept [a.body.src, a.body.seq, a.body.dest])
     ∧ ∀ (s : State) (c : Nat) (a : Arrival) (r : List Arrival), s.args = [c] → (s.core c).spill = a :: r →
       ∃ s', exec .spillMove s = .next s' ∧ s'.mem = s.mem ∧ (s'.core c).arrivals = (s.core c).arrivals ++ [a]
         ∧ (s'.core c).spill = r)
  ∧ ((∀ (s : State) (c : Nat), s.args = [c] → exec .packetAdmit s = .next ((admitOldest s c).getD s))
     ∧ (∀ (s : State) (c : Nat) (a : Arrival), oldestArrival ((s.core c).arrivals ++ (s.core c).spill) = some a →
       a ∈ (s.core c).arrivals →
       (packetDead s a.body = true → ∃ s', admitOldest s c = some s' ∧ s'.mem = s.mem ∧ s'.threads = s.threads
           ∧ ∀ x ∈ (s'.core c).arrivals, ¬ (x.body.src = a.body.src ∧ x.body.seq = a.body.seq))
       ∧ (packetDead s a.body = false → s.halted a.body.launch = true → admitOldest s c = none)
       ∧ (packetDead s a.body = false → s.halted a.body.launch = false → a.lost = none → ∀ s1 key,
           admitBody s c a.body = some (s1, key) → ∃ s', admitOldest s c = some s' ∧ s'.thread? key = s1.thread? key
             ∧ s'.gfile = s1.gfile ∧ ∀ x ∈ (s'.core c).arrivals, ¬ (x.body.src = a.body.src ∧ x.body.seq = a.body.seq))
       ∧ (packetDead s a.body = false → s.halted a.body.launch = false → ∀ s1 key dest at_, a.lost = some (dest, at_) →
           admitBody s c a.body = some (s1, key) → ∃ s2, admitOldest s c = some (takeTrapAt s2 key (eLost 1 dest) at_)
             ∧ s2.thread? key = s1.thread? key ∧ s2.gfile = s1.gfile ∧ s2.mem = s1.mem))
     ∧ (∀ (s s' : State) (c key : Nat) (b : PktBody), admitBody s c b = some (s', key) → b.cls ≠ .fullEmpty →
       ∃ t, s'.thread? key = some t ∧ coreOf key = c ∧ t.st = .ready ∧ s.cyc < t.readyAt
         ∧ (s'.core c).snap = [] ∧ (s'.core c).heard = [] ∧ s'.mem = s.mem
         ∧ (∀ n v, b.words[n]? = some v → n < 8 ∨ (b.cls ≠ .migration ∧ t.status.getLsbD 12 = false) →
             s'.gfile.getD (gKey c (t.gBase + n)) 0 = v)
         ∧ (b.cls ≠ .migration → t.pc = b.pc ∧ t.ctag = b.ctag ∧ t.launch = b.launch ∧ t.group = b.group
             ∧ t.rank = freeRank s b.launch b.group (declared s b.launch))
         ∧ (b.cls = .migration → b.words.length = 12 → ∃ w8 w10, b.words[8]? = some w8 ∧ b.words[10]? = some w10
             ∧ t.pc = w8.setWidth 32 ∧ t.status = (w8.extractLsb' 32 16).setWidth 32 ∧ t.npth = w8.extractLsb' 56 5
             ∧ t.ctag = w10.setWidth 16 ∧ t.rank = (w10.extractLsb' 16 16).toNat ∧ t.launch = (w10.extractLsb' 32 32).toNat
             ∧ t.gSize = 8 ∧ t.nv = 0 ∧ t.nk = 0)))

/-- Replies at the source, and its timer. ACCEPT marks the retained packet; REFUSE lets its timer resend it; ADMIT and the
third BOUNCE end its retention, and ADMIT is answered FREE; a packet that nothing answered is sent again after 4,096
cycles, up to 16 times. FREE ends the entry at the destination, which sends ADMIT again until then, and waits while a
copy of the packet is on its way. A reply waits for an older one of its core to the same core (both are readings of the
model, log entry 59); one to a core that is reset is held, and one that was lost on its way does nothing. Full-empty
requests of other cores: one whose word has the state it needs is performed once its bank is free, what is ordered
before it is performed and no tile holds its store, and answered ADMIT; else it is parked, and answered ACCEPT, while
fewer than 32 are; else, or after 4,096 cycles, it is turned away with RETRY. The requester's ADMIT completes its
instruction; its RETRY traps with E_FERETRY when the budget is spent, and else sends a new request 64 cycles later. Its
words are the value, the device address, and the operation with the slot (log entry 50). -/
def Obligations.RepliesAndRemoteOperations : Prop :=
  ((∀ (s : State) (src seq dest id : Nat) (r : Retained), retainedOf s src seq dest = some r → s.packets.has id = true →
     olderReply s id = false →
     let held (ev : Instr) : Prop := (s.core src).resetting = true → ∃ s', exec ev s = .next s' ∧ s'.mem = s.mem
       ∧ (s'.core src).retained = (s.core src).retained
       ∧ (s'.core src).heldReplies = (s.core src).heldReplies ++ [⟨s.cyc, ev, s.args⟩]
     let changed (ev : Instr) (r' : Retained) : Prop := ∃ s', exec ev s = .next s' ∧ s'.mem = s.mem
       ∧ s'.threads = s.threads ∧ retainedOf s' src seq dest = some r' ∧ s'.packets = s.packets.erase id
     (s.args = [src, seq, dest, id] → held .replyAccept ∧ held .replyRefuse ∧ held .replyBounce
       ∧ ((s.core src).resetting = false →
         changed .replyAccept { r with rstate := .accepted, nSend := 0 } ∧ changed .replyRefuse { r with nSend := 0 }
         ∧ (r.nBounce < 2 → changed .replyBounce { r with
               nBounce := r.nBounce + 1, nSend := 0, rstate := .sent, tSend := s.cyc })
         ∧ (2 ≤ r.nBounce → r.body.cls = .message ∨ r.body.cls = .multicast → ∃ s', exec .replyBounce s = .next s'
             ∧ s'.mem = s.mem ∧ (∀ x ∈ (s'.core src).retained, ¬ (x.body.seq = r.body.seq ∧ x.body.dest = r.body.dest))
             ∧ ∀ l, s.launch? r.body.launch = some l →
                 s'.launch? r.body.launch = some { l with lostPackets := l.lostPackets + 1 })))
     ∧ (∀ v bad, s.args = [src, seq, dest, v, bad, id] → held .replyAdmit
       ∧ ((s.core src).resetting = false → feThread s src seq = none → ∃ s', exec .replyAdmit s = .next s' ∧ s'.mem = s.mem
           ∧ (∀ x ∈ (s'.core src).retained, ¬ (x.body.seq = seq ∧ x.body.dest = dest))
           ∧ ReplySent s' .replyFree [src, seq, dest])))
   ∧ (∀ (s : State) (src seq dest v bad id : Nat) (ev : Instr), s.packets.has id = true → olderReply s id = true →
     (ev = .replyAccept ∨ ev = .replyRefuse ∨ ev = .replyBounce) ∧ s.args = [src, seq, dest, id]
       ∨ ev = .replyAdmit ∧ s.args = [src, seq, dest, v, bad, id] → exec ev s = .next (later 1 ev s.args s))
   ∧ (∀ (s : State) (src seq dest v bad id : Nat), s.packets.has id = false →
     (s.args = [src, seq, dest, id] → exec .replyAccept s = .next s ∧ exec .replyRefuse s = .next s ∧ exec .replyBounce s = .next s
       ∧ exec .replyFree s = .next s)
     ∧ (s.args = [src, seq, dest, v, bad, id] → exec .replyAdmit s = .next s))
   ∧ (∀ (s : State) (src seq dest at_ : Nat) (r : Retained), retainedOf s src seq dest = some r → s.args = [src, seq, dest, at_] →
     (r.rstate ≠ .sent ∨ r.tSend ≠ at_ → exec .retentionResendTimeout s = .next s)
     ∧ (r.rstate = .sent → r.tSend = at_ → r.nSend < 16 → ∃ s', exec .retentionResendTimeout s = .next s' ∧ s'.mem = s.mem
         ∧ retainedOf s' src seq dest = some { r with tSend := s.cyc, nSend := r.nSend + 1 }
         ∧ (∃ p ∈ s'.packets, p.2 = ⟨r.body, packetFlits r.body, [], true, false⟩)
         ∧ ⟨s.cyc + 4096, .retentionResendTimeout, [src, seq, dest, s.cyc]⟩ ∈ s'.pending))
   ∧ (∀ (s : State) (c src seq id : Nat) (e : DupEntry), dupOf s c src seq = some e →
     (s.args = [src, seq, c, id] → s.packets.has id = true →
       let copy : Prop := ∃ q ∈ s.packets.erase id, q.2.body.src = src ∧ q.2.body.seq = seq ∧ q.2.body.dest = c ∧ isReply q.2 = false
         ∧ q.2.headIn = false
       (copy → exec .replyFree s = .next (later 1 .replyFree s.args s))
       ∧ (¬ copy → e.st = .admitted → ∃ s', exec .replyFree s = .next s' ∧ dupOf s' c src seq = none ∧ s'.mem = s.mem)
       ∧ (¬ copy → e.st ≠ .admitted → exec .replyFree s = .next { s with packets := s.packets.erase id }))
     ∧ (s.args = [c, src, seq] → (e.st ≠ .admitted → exec .admitResend s = .next s)
       ∧ (e.st = .admitted → ∃ s', exec .admitResend s = .next s' ∧ s'.mem = s.mem
           ∧ ReplySent s' .replyAdmit [src, seq, c, e.value.toNat, e.bad.toNat]
           ∧ ⟨s.cyc + 4096, .admitResend, [c, src, seq]⟩ ∈ s'.pending))))
  ∧ ((∀ (s : State) (id : Nat) (rest : List Nat) (p : NetPkt) (e : DupEntry) (op : FeOp) (loc j : Nat) (da : BitVec 56),
       s.args = id :: rest →
       s.packets.get? id = some p → let b := p.body
       b.fe = some (op, loc, da, j) → dupOf s b.dest b.src b.seq = some e → e.ended = false → packetDead s b = false →
       (s.core b.dest).feWait = [] → s.errs = [] →
       let wants : Bool := op = .ldfe ∨ op = .ldfp
       let owes : Prop := owed s b.src b.know [(loc, 8)] = true
       (isFull s loc = wants → owes ∨ takeTurn s [(loc, 8)] 0 = none ∨ (op = .stfe ∧ tileHolds s loc 8 = true) →
         exec .remoteFeRequest s = .next (later 1 .remoteFeRequest [id, rest.headD s.cyc] s))
       ∧ (isFull s loc = wants → ¬ owes → (takeTurn s [(loc, 8)] 0).isSome = true → (op = .stfe → tileHolds s loc 8 = false) →
           ∃ s', exec .remoteFeRequest s = .next s'
           ∧ (wants = true → ReplySent s' .replyAdmit [b.src, b.seq, b.dest, readNum s loc 8, 0])
           ∧ (∃ v, ReplySent s' .replyAdmit [b.src, b.seq, b.dest, v, 0])
           ∧ isFull s' loc = (op == .ldfp || op == .stfe)
           ∧ (wants = true → s'.mem = s.mem)
           ∧ (op = .stfe → (∀ i, i < 8 → ¬ InTraceRing (loc + i)) → readNum s' loc 8 = (b.words.headD 0).toNat)
           ∧ ∀ a, ¬ InTraceRing a → (a < loc ∨ loc + 8 ≤ a) → readByte s' a = readByte s a)
       ∧ (isFull s loc ≠ wants → ∃ s', exec .remoteFeRequest s = .next s' ∧ s'.mem = s.mem ∧ s'.full = s.full
           ∧ (s'.core b.dest).feWait = [⟨loc, op, none, none, none, some b, s.cyc⟩]
           ∧ ReplySent s' .replyAccept [b.src, b.seq, b.dest]
           ∧ ⟨s.cyc + 4096, .feParkTimeout, [b.dest, b.src, b.seq]⟩ ∈ s'.pending))
     ∧ (∀ (s : State) (c src seq : Nat) (w : FeWaiter) (b : PktBody), s.args = [c, src, seq] → w ∈ (s.core c).feWait →
       w.body = some b → b.src = src → b.seq = seq → ∃ s', exec .feParkTimeout s = .next s' ∧ s'.mem = s.mem
         ∧ (∀ x ∈ (s'.core c).feWait, ∀ y, x.body = some y → ¬ (y.src = src ∧ y.seq = seq))
         ∧ ReplySent s' .replyRetry [src, seq, 2])
     ∧ (∀ (s : State) (src seq dest key v id : Nat) (t : Thread) (i : Instr) (b : PktBody) (r : Retained),
       feThread s src seq = some (key, t, i, b) → s.thread? key = some t → (s.core src).resetting = false →
       s.packets.has id = true → olderReply s id = false →
       (s.args = [src, seq, dest, v, 0, id] → retainedOf s src seq dest = some r → (takeBanks s src (feBanks t i)).isSome = true →
         ∃ s' t', exec .replyAdmit s = .next s'
           ∧ s'.mem = s.mem ∧ s'.thread? key = some t' ∧ t'.pc = t.pc + 1 ∧ t'.st = .ready ∧ t'.outstanding = none ∧ s.cyc < t'.readyAt
           ∧ ∀ c d m n, i = .ldfe c d m ∨ i = .ldfp c d m → d = .g n → t.fe = some (i, b, none) →
               t.deposited.contains (.g n.val) = false →
               s'.gfile.getD (gKey (coreOf key) (t.gBase + n.val)) 0 = BitVec.ofNat 64 v)
       ∧ (s.args = [src, seq, v, id] →
         (t.feBudget ≠ 0 → ∃ s' t', exec .replyRetry s = .next s' ∧ s'.mem = s.mem ∧ s'.thread? key = some t'
             ∧ t' = { t with feBudget := t.feBudget - 1 } ∧ ⟨s.cyc + 64, .feRetryResend, [src, slotOf key]⟩ ∈ s'.pending)
         ∧ (t.feBudget = 0 → ∃ s0, exec .replyRetry s = .next (takeTrap s0 key (eFeRetry v b.feDa.toNat))
             ∧ s0.thread? key = some { t with fe := none, outstanding := none, popped := none } ∧ s0.mem = s.mem)))
     ∧ (∀ (s : State) (c j : Nat) (t : Thread) (i : Instr) (b : PktBody) (q : Option (Nat × Nat × Nat)), s.args = [c, j] → j < 64 →
       s.thread? (slotKey c j) = some t → t.fe = some (i, b, q) → (∀ r ∈ (s.core c).retained, r.body.seq ≠ b.seq) →
       (retentionFree s c = false → exec .feRetryResend s = .next (later 1 .feRetryResend [c, j] s))
       ∧ (retentionFree s c = true → ∀ op loc da k, b.fe = some (op, loc, da, k) → ∃ s' t', exec .feRetryResend s = .next s'
         ∧ s'.mem = s.mem ∧ s'.thread? (slotKey c j) = some t' ∧ t'.outstanding ≠ none ∧ t'.pc = t.pc
         ∧ ∃ r ∈ (s'.core c).retained, r.body.cls = .fullEmpty ∧ r.body.seq = (s.core c).seqCount.toNat
           ∧ r.body.words = feWords op da.toNat j (b.words.headD 0))))

/-- Matrix jobs. The free engine starts the next startable job, of the queues in turn behind the one served last. A job that
ends leaves its result in the accumulator: `mzero` zeros, `mwr` of integer tiles the elements sign-extended, `mma` and
`mmac` of I8 tiles the sums of products of their rows, added to the old elements or to zero, modulo 2^32, any other pair
the chunks of its format's rule in order, saturated where the job is; no other element changes. Its tiles become READY
at the end of the cycle and it completes 8 cycles later; then `DONE` names it, its report is kept and its lock is given
back; behind a job that is not complete it waits for its turn. A row of `mrd` lands as the accumulator's elements
converted to the tile's format. Copies. A job that may start sends for its rows, or for its tile's last read. A row that
lands holds the tensor's elements in range, and zeros elsewhere and for a refused element, once its banks have been free
in each of its turns; it is counted, and the last one makes the tile READY at the end of the cycle and ends the job. A
copy out of a tile sends the bytes of each element that is not refused to their homes as writes, frees the tile for
others, and completes when they are performed. Fences complete together, once every earlier entry of their queues has. A
loader's tile that was released fills again with its next window, a storer's is READY again, N windows on, at the end of
the cycle in which its writes have been performed; its last read sends them. -/
def Obligations.EngineEvents : Prop :=
  ((∀ (s : State) (cl : Nat), s.args = [cl] → let k := s.cluster cl
     (k.engine ≠ none ∨ nextMatrix s cl = none → exec .matrixJobStart s = .next s)
     ∧ ∀ q j, k.engine = none → nextMatrix s cl = some (q, j) →
       let d := (jobTime s cl j.kind).1
       startable s cl q = some j
       ∧ (∃ n, 1 ≤ n ∧ n ≤ 4 ∧ q = (k.lastServed + n) % 4
           ∧ ∀ m, 1 ≤ m → m < n → startable s cl ((k.lastServed + m) % 4) = none)
       ∧ ∃ s', exec .matrixJobStart s = .next s' ∧ s'.mem = s.mem ∧ (s'.cluster cl).lastServed = q
         ∧ (s'.cluster cl).engine = some ⟨q, j.seq, d - j.ran, s.cyc, d⟩)
   ∧ (∀ (s : State) (cl : Nat) (r : EngineRun) (j : Job), s.args = [cl] → runningJob s cl = some (r, j) → s.errs = [] →
     (r.left ≠ 0 → exec .matrixJobEnd s = .next s)
     ∧ (r.left = 0 → r.total = (jobTime s cl j.kind).1 → ∃ s' e, exec .matrixJobEnd s = .next s' ∧ s'.mem = s.mem
       ∧ (s'.cluster cl).engine = none ∧ findJob s' cl r.queue r.seq = some e ∧ e.phase = .ended
       ∧ ⟨s.cyc + 8, .matrixJobComplete, [cl, r.queue, r.seq.toNat]⟩ ∈ s'.pending
       ∧ (∀ h ∈ j.kind.reads, (s.tile cl (baseHandle s cl h)).st = .draining →
           (s.tile cl (baseHandle s cl h)).job = jobId r.queue j.seq →
           .ready (baseHandle s cl h) (jobId r.queue j.seq) j.know ∈ (s'.cluster cl).changes)
       ∧ (∀ a tag, j.kind = .mzero a tag → ∀ n, (s'.acc cl a).data.getD n 0 = 0)
       ∧ (∀ a h, j.kind = .mwr a h → (s.tile cl h).gv = false →
           (s.tile cl h).fmt = 1 ∨ (s.tile cl h).fmt = 2 ∨ (s.tile cl h).fmt = 3 → (s.tile cl h).cols ≤ 64 →
           let t := s.tile cl h
           let w := Tag.bits t.fmt / 8
           ∀ i k, i < t.rows → k < t.cols → (s'.acc cl a).data.getD (64 * i + k) 0
             = BitVec.ofInt 32 (toSigned (8 * w) (readNum s (t.at_ cl (i * t.pitch + k * w)) w)))
       ∧ (∀ keep a ha hb, j.kind = .mma keep false a ha hb → (s.tile cl ha).fmt = 1 → (s.tile cl hb).fmt = 1 →
           (s.tile cl ha).gv = false → (s.tile cl hb).gv = false → (s.tile cl ha).cols = (s.tile cl hb).cols →
           (s.tile cl hb).rows ≤ 64 → 1 ≤ (s.tile cl ha).cols →
           let ta := s.tile cl ha
           let tb := s.tile cl hb
           let elem (t : Tile) (i k : Nat) : Int := (readByte s (t.at_ cl (i * t.pitch + k))).toInt
           (∀ i k, i < ta.rows → k < tb.rows → (s'.acc cl a).data.getD (64 * i + k) 0 = BitVec.ofInt 32
               ((if keep then ((s.acc cl a).data.getD (64 * i + k) 0).toInt else 0)
                 + ((List.range ta.cols).map fun x => elem ta i x * elem tb k x).sum))
           ∧ ∀ n, (∀ i k, i < ta.rows → k < tb.rows → n ≠ 64 * i + k) →
               (s'.acc cl a).data.getD n 0 = (s.acc cl a).data.getD n 0)
       ∧ (∀ keep sat a ha hb, j.kind = .mma keep sat a ha hb → (mmaTag (s.tile cl ha).fmt (s.tile cl hb).fmt).isSome = true →
           (s.tile cl ha).cols = (s.tile cl hb).cols → (s.tile cl hb).rows ≤ 64 → 1 ≤ (s.tile cl ha).cols →
           let ta := s.tile cl ha
           let tb := s.tile cl hb
           ∀ i k, i < ta.rows → k < tb.rows → (s'.acc cl a).data.getD (64 * i + k) 0 = BitVec.ofNat 32 (mmaElem ta.fmt tb.fmt sat ta.cols
             (if keep then ((s.acc cl a).data.getD (64 * i + k) 0).toNat else 0) (tileRow s cl ha i).1 (tileRow s cl hb k).1).1)))
   ∧ (∀ (fa fb : Tag) (sat : Bool) (acc n : Nat) (ra rb : Row), let ps := (ra.elems.zip rb.elems).take (n * chunkLen fa)
     (fa.isBfp = false → mmaElem fa fb sat n acc ra rb =
         if fa.isInt then (dotInts 8 32 sat acc ps, 0) else dotChunks .f32 fa.fmt .rne sat acc ps)
     ∧ (∀ ea eb, fa.isBfp = true → ra.exps = [ea] → rb.exps = [eb] → ps ≠ [] → ps.length ≤ 32 →
       (ea = 255 ∨ eb = 255 → (mmaElem fa fb sat n acc ra rb).1 = Fmt.f32.nanBits)
       ∧ (ea ≠ 255 → eb ≠ 255 → ∃ ch, mmaElem fa fb sat n acc ra rb = addChunk .f32 .rne sat acc (ch, 0)
           ∧ valueOf ch = some (((ps.map fun p => toSigned fa.mant p.1 * toSigned fb.mant p.2).sum : ℤ)
             * (2 : ℚ) ^ ((ea : ℤ) + eb - 254 - ((fa.mant : ℤ) - 2) - ((fb.mant : ℤ) - 2))))))
   ∧ (∀ (s : State) (cl q n : Nat) (j : Job) (rest : List Job), s.args = [cl, q, n] → n < 2 ^ 32 → j.seq.toNat = n →
     (s.jobQueue cl q).jobs = j :: rest →
     (j.phase ≠ .ended → exec .matrixJobComplete s = .next s)
     ∧ (j.phase = .ended → j.canc = false → stillFills s cl q j = true →
       exec .matrixJobComplete s = .next (later 1 .matrixJobComplete [cl, q, n] s))
     ∧ (j.phase = .ended → j.canc = true ∨ stillFills s cl q j = false → (∀ x ∈ rest.head?, x.phase ≠ .complete) →
       ∃ s' rep, exec .matrixJobComplete s = .next s'
         ∧ s'.mem = s.mem ∧ (s'.jobQueue cl q).done = j.seq ∧ (s'.jobQueue cl q).jobs = rest
         ∧ rep ∈ (s'.jobQueue cl q).reports ∧ rep.seq = j.seq ∧ rep.ctag = j.ctag ∧ rep.know = j.know
         ∧ rep.bits.extractLsb' 0 5 = j.flags ∧ rep.bits.getLsbD 8 = j.emem ∧ rep.bits.getLsbD 9 = j.emach
         ∧ rep.bits.getLsbD 10 = j.canc
         ∧ ∀ a, j.kind.acc? = some a → (s'.acc cl a).lcnt = (s.acc cl a).lcnt - 1))
   ∧ (∀ (s : State) (cl q n : Nat) (j : Job), s.args = [cl, q, n] → findJob s cl q (BitVec.ofNat 32 n) = some j →
     j.phase = .ended → j.canc = true ∨ stillFills s cl q j = false → (s.jobQueue cl q).jobs.head? ≠ some j →
     (∀ x ∈ (s.jobQueue cl q).jobs.head?, x.phase ≠ .complete) → ∃ s' e, exec .matrixJobComplete s = .next s'
       ∧ findJob s' cl q (BitVec.ofNat 32 n) = some e ∧ e = { j with phase := .complete }
       ∧ (s'.jobQueue cl q).done = (s.jobQueue cl q).done)
   ∧ (∀ (s s0 : State) (cl q r n a h : Nat) (rest : List Nat) (j : Job) (sat : Bool), s.args = cl :: q :: r :: n :: rest → q < 4 →
     findJob s cl q (BitVec.ofNat 32 n) = some j → j.kind = .mrd a h sat → j.canc = false → stillFills s cl q j = true → s.errs = [] →
     let t := s.tile cl h
     let ac := s.acc cl a
     let vs := (List.range t.cols).map fun k => if ac.poison.contains (64 * r + k) then (if ac.atag = 3 then 0 else Fmt.f32.nanBits)
       else (ac.data.getD (64 * r + k) 0).toNat
     let out := rowOfAcc ac.atag t.fmt sat vs
     (rest.headD 0 ≠ 1 → takeEngineRow s cl h r = none → exec .bytesLand s = .next (later 1 .bytesLand [cl, q, r, n] s))
     ∧ ((rest.headD 0 = 1 ∧ s0 = s) ∨ takeEngineRow s cl h r = some s0 → ∃ s', exec .bytesLand s = .next s'
       ∧ (t.isBfp = false → ∀ b, b < t.rowBytes → let x := t.at_ cl (r * t.pitch) + b
           ¬ InTraceRing x → readByte s' x = (rowBytesOf t.width t.rowBytes out.1).getD b 0)
       ∧ (∀ b e, out.2.1[b]? = some e → let x := t.at_ cl (t.rows * t.pitch + r * t.expBytes) + b
           ¬ InTraceRing x → readByte s' x = BitVec.ofNat 8 e)
       ∧ ∃ e, findJob s' cl q (BitVec.ofNat 32 n) = some e ∧ e.flags = j.flags ||| out.2.2.setWidth 5))
   ∧ (∀ (atag fmt : Tag) (sat : Bool) (vs : List Nat) (k v : Nat), vs[k]? = some v →
     (atag = 3 → fmt.isInt = true → ∃ e, (rowOfAcc atag fmt sat vs).1[k]? = some e ∧
       if sat = true ∧ fmt.bits < 32 then toSigned fmt.bits e = max (leastInt false fmt.bits) (min (greatestInt false fmt.bits) (toSigned 32 v))
       else (2 : Int) ^ fmt.bits ∣ (e : Int) - toSigned 32 v)
     ∧ (atag = 7 → fmt.isFlt = true → (rowOfAcc atag fmt sat vs).1[k]? = some (toFloat fmt.fmt .rne sat (Fmt.f32.decode v)).1)))
  ∧ ((∀ (s : State) (cl q : Nat), s.args = [cl, q] →
       (startable s cl q = none → exec .copyJobStart s = .next s)
       ∧ ∀ j h out ds g, startable s cl q = some j → j.kind = .cpy h out ds g → ∃ s', exec .copyJobStart s = .next s'
         ∧ s'.mem = s.mem
         ∧ (out = false → ∀ r, r < (s.tile cl h).rows → ∃ p ∈ s'.pending, p.ev = .bytesLand ∧ p.args = [cl, q, r, j.seq.toNat])
         ∧ (out = true → ∃ p ∈ s'.pending, p.ev = .copyLastTileRead ∧ p.args = [cl, q, j.seq.toNat]))
     ∧ (∀ (s s1 : State) (cl q r n h k : Nat) (rest : List Nat) (j : Job) (ds : CopyDesc) (g : Segment),
       s.args = cl :: q :: r :: n :: rest → 4 ≤ q → q < 8 →
       findJob s cl q (BitVec.ofNat 32 n) = some j → j.kind = .cpy h false ds g → j.canc = false → stillFills s cl q j = true →
       PlainTile (s.tile cl h) → r < (s.tile cl h).rows → s.errs = [] →
       (copyStream q j ds g).missing s cl false (s.tile cl h) r = [] →
       let t := s.tile cl h
       let w := Tag.bits t.fmt / 8
       let inRange (c : Nat) : Prop := 0 ≤ ds.row0 + r ∧ ds.row0 + r < ds.erows ∧ 0 ≤ ds.col0 + c ∧ ds.col0 + c < ds.ecols
       let off (c : Nat) : Nat := ds.o0 + (ds.row0 + r).toNat * ds.stride + (ds.col0 + c).toNat * w
       let found (c b : Nat) : Found := findByte s cl j.core j.ctag g false j.declined (off c + b)
       let at_ (c b : Nat) : Nat := t.at_ cl (r * t.pitch + c * w + b)
       let arrived := t.arrived + t.cols * w
       let turn := takeRow s cl h r (rest.headD 0) ((copyStream q j ds g).banked t r)
       (turn = .next s1 k → exec .bytesLand s = .next (later 1 .bytesLand [cl, q, r, n, k] s1))
       ∧ (turn = .done s1 → ∃ s', exec .bytesLand s = .next s'
         ∧ (∀ c b, c < t.cols → b < w → ¬ InTraceRing (at_ c b) → ¬ inRange c ∨ (∃ b', b' < w ∧ ∀ loc, found c b' ≠ .at_ loc) → readByte s' (at_ c b) = 0)
         ∧ (∀ c b loc, c < t.cols → b < w → inRange c → (∀ b', b' < w → ∃ loc', found c b' = .at_ loc') → found c b = .at_ loc →
             ¬ InTraceRing (at_ c b) → readByte s' (at_ c b) = readByte s loc)
         ∧ (∀ a, ¬ InTraceRing a → (a < at_ 0 0 ∨ at_ 0 0 + t.cols * w ≤ a) → readByte s' a = readByte s a)
         ∧ (s'.tile cl h).arrived = arrived ∧ (s'.tile cl h).st = .filling
         ∧ (arrived = t.expected → .ready h (jobId q j.seq) j.know ∈ (s'.cluster cl).changes ∧ ⟨s.cyc + 1, .copyJobComplete, [cl, q]⟩ ∈ s'.pending)))
     ∧ (∀ (s s1 : State) (cl q n h k : Nat) (rest : List Nat) (j : Job) (ds : CopyDesc) (g : Segment), s.args = cl :: q :: n :: rest → 4 ≤ q → q < 8 →
       findJob s cl q (BitVec.ofNat 32 n) = some j → j.kind = .cpy h true ds g → j.canc = false → j.phase = .running →
       (s.tile cl h).gv = false → (s.tile cl h).st = .draining → (s.tile cl h).job = jobId q j.seq → s.errs = [] →
       PlainTile (s.tile cl h) → drainMissing s cl h (copyStream q j ds g) = [] →
       (takeRows s cl h (rest.headD 0) = .next s1 k → exec .copyLastTileRead s = .next (later 1 .copyLastTileRead [cl, q, n, k] s1))
       ∧ (takeRows s cl h (rest.headD 0) = .done s1 → ∃ s' e, exec .copyLastTileRead s = .next s' ∧ s'.mem = s.mem
         ∧ .ready h (jobId q j.seq) j.know ∈ (s'.cluster cl).changes
         ∧ findJob s' cl q (BitVec.ofNat 32 n) = some e ∧ e.phase = .ended
         ∧ SendsWindow s s' cl h (copyStream q j ds g) (cl, q, j.seq)))
     ∧ (∀ (s : State) (cl q : Nat) (j : Job) (rest : List Job), s.args = [cl, q] → (s.jobQueue cl q).jobs = j :: rest → 4 ≤ q →
       (j.phase ≠ .ended ∨ j.pendingWrites ≠ 0 → exec .copyJobComplete s = .next s)
       ∧ (j.phase = .ended → j.pendingWrites = 0 → (∀ x ∈ rest.head?, x.phase ≠ .complete) → ∃ s',
           exec .copyJobComplete s = .next s' ∧ s'.mem = s.mem ∧ (s'.jobQueue cl q).done = j.seq ∧ (s'.jobQueue cl q).jobs = rest)))
  ∧ ((∀ (s : State) (n id : Nat) (f : Fence), s.args = [n, id] → s.fences.get? id = some f →
       let ready : Prop := ∀ p ∈ f.parts, ∃ j rest, (s.jobQueue f.cluster p.1).jobs = j :: rest ∧ j.seq = p.2
       (¬ ready → exec .qfenceComplete s = .next s)
       ∧ (ready → (f.parts.map (·.1)).Nodup → ∃ s', exec .qfenceComplete s = .next s' ∧ s'.mem = s.mem
           ∧ s'.fences = s.fences.erase id
           ∧ ∀ p ∈ f.parts, (s'.jobQueue f.cluster p.1).jobs.length < (s.jobQueue f.cluster p.1).jobs.length))
     ∧ (∀ (s : State) (cl n i : Nat) (x : Sub), s.args = [cl, n, i] → (s.cluster cl).subs.get? n = some x →
       let h := x.h0 + i
       let t := s.tile cl h
       let may : Prop := t.st = .empty ∧ t.sub = some n ∧ x.next.getD i 0 < x.t ∧ s.halted x.launch = false
       (¬ may → exec .subscriptionTileStart s = .next s)
       ∧ (may → ∃ s', exec .subscriptionTileStart s = .next s' ∧ s'.mem = s.mem
           ∧ s'.tile cl h = { t with st := .filling, arrived := 0, job := 0 }
           ∧ ∀ r, r < t.rows → ∃ p ∈ s'.pending, p.ev = .bytesLand ∧ p.args = [cl, 8 + h, r, x.next.getD i 0])
       ∧ (x.writes.get? i ≠ some 0 → exec .storerWritebackComplete s = .next s)
       ∧ (x.writes.get? i = some 0 → i < x.next.length → ∃ s' y, exec .storerWritebackComplete s = .next s' ∧ s'.mem = s.mem
           ∧ (∃ know, .ready h t.job know ∈ (s'.cluster cl).changes) ∧ (s'.cluster cl).subs.get? n = some y
           ∧ y.next = x.next.set i (x.next.getD i 0 + x.n) ∧ y.writes = x.writes.erase i))
     ∧ (∀ (s s1 : State) (cl h n seq k : Nat) (rest : List Nat) (x : Sub), s.args = cl :: (8 + h) :: seq :: rest →
       (s.tile cl h).sub = some n → (s.cluster cl).subs.get? n = some x → x.storer = true → x.next.getD (h - x.h0) 0 = seq →
       (s.tile cl h).st = .draining → x.writes.get? (h - x.h0) = none → s.errs = [] → PlainTile (s.tile cl h) →
       let j := subStream cl n x seq
       drainMissing s cl h j = [] →
       (takeRows s cl h (rest.headD 0) = .next s1 k → exec .copyLastTileRead s = .next (later 1 .copyLastTileRead [cl, 8 + h, seq, k] s1))
       ∧ (takeRows s cl h (rest.headD 0) = .done s1 → ∃ s' y m, exec .copyLastTileRead s = .next s' ∧ s'.mem = s.mem
         ∧ (s'.cluster cl).subs.get? n = some y ∧ y.writes.get? (h - x.h0) = some m
         ∧ SendsWindow s s' cl h j (cl, 8 + n, BitVec.ofNat 32 (h - x.h0)))))

/-- Walks and their ends. A walk that hits fills the cluster's translation cache and frees its miss entry; one that misses
below size 2 goes on to the next size; one that misses at size 2 frees the entry, posts the page's future and parks the
threads that wait. When the pager completes a future, each waiter is READY in its windows again, after the occupant of
its lent slot has gone to the head of the arrival queue; a waiter that lies in a save area is reached once its launch is
restored. When the pager declines, each waiter traps with E_PAGE, 1 for no mapping and 2 for a refused host page, with
the cycle in which the pager first declined. When an occupant may leave a lent slot (it has no open packet, no idle and
no outstanding result) is the model's choice (log entry 24). Changes of page entries. An entry of a size code above 2,
with a page or frame number that is not aligned to its size, whose frame is not the partition's, or that overlaps
another page of its context is refused. One that is allowed is written at its home bucket, no translation cache keeps a
translation of the page, a colour given with it is that of every granule of an HBM or cellar page as its context sees
it, and the change completes once no access by the old translation is on its way. A page moves between HBM and the
cellar: the first step sets `MG`, the last gives the new frame the bytes of the old one, once no access of the old frame
is under way, and writes the entry with `MG` clear. -/
def Obligations.PagingEvents : Prop :=
  ((∀ (s : State) (cl n : Nat), s.args = [cl, n] →
     ((s.cluster cl).misses.get? n = none → exec .walkProbe s = .next s)
     ∧ ∀ m, (s.cluster cl).misses.get? n = some m →
       (∀ e, probe s m.ctag (m.page * 2 ^ 17) m.probe = some e → ∃ s' pre, exec .walkProbe s = .next s' ∧ s'.mem = s.mem
         ∧ (s'.cluster cl).misses.get? n = none ∧ (s'.cluster cl).tcache = pre ++ [e] ∧ s'.threads = s.threads)
       ∧ (probe s m.ctag (m.page * 2 ^ 17) m.probe = none → m.probe < 2 → ∃ s', exec .walkProbe s = .next s' ∧ s'.mem = s.mem
         ∧ (s'.cluster cl).misses.get? n = some { m with probe := m.probe + 1 } ∧ s'.threads = s.threads
         ∧ ∃ p ∈ s'.pending, p.ev = .walkProbe ∧ p.args = [cl, n])
       ∧ (probe s m.ctag (m.page * 2 ^ 17) m.probe = none → ¬ m.probe < 2 → ∃ s', exec .walkProbe s = .next s' ∧ s'.mem = s.mem
         ∧ (s'.cluster cl).misses.get? n = none ∧ s'.gfile = s.gfile ∧ s'.wfile = s.wfile
         ∧ ∀ key t, .thread key ∈ m.waiters → s.thread? key = some t → waitsForPage t m.ctag m.page = true →
             (∃ t', s'.thread? key = some t' ∧ t'.st = .parked ∧ t'.pc = t.pc ∧ t'.parkedOn = t.parkedOn)
             ∧ ∃ f ∈ s'.futures, f.ctag = m.ctag ∧ f.page = m.page ∧ key ∈ f.waiters))
   ∧ (∀ (s : State) (tag : BitVec 16) (page why : Nat) (f : Future),
     s.futures.find? (fun f => f.ctag == tag && f.page == page) = some f →
     (s.args = [tag.toNat, page] → (∀ key ∈ f.waiters, (s.slot key).lent = none ∧ savedParked s tag page key = false) →
       ∃ s', exec .pagerComplete s = .next s'
       ∧ s'.mem = s.mem ∧ (∀ g ∈ s'.futures, ¬ (g.ctag = tag ∧ g.page = page))
       ∧ (∀ key, key ∉ f.waiters → s'.thread? key = s.thread? key)
       ∧ ∀ key t, key ∈ f.waiters → s.thread? key = some t → parkedAt t tag page = true →
           s'.thread? key = some { t with st := .ready, parkPlace := .inPlace, readyAt := max t.readyAt (s.cyc + 1) })
     ∧ (∀ key, s.args = [tag.toNat, page] → f.waiters = [key] → savedParked s tag page key = true →
       ∃ s', exec .pagerComplete s = .next s' ∧ s'.mem = s.mem ∧ s'.threads = s.threads
         ∧ ⟨s.cyc + 1, .pagerComplete, [tag.toNat, page]⟩ ∈ s'.pending ∧ ⟨tag, page, [key]⟩ ∈ s'.futures)
     ∧ (∀ key t w, s.args = [tag.toNat, page] → f.waiters = [key] → (s.slot key).lent = some w → parkedAt w tag page = true →
       savedParked s tag page key = false → s.thread? key = some t →
       (movable s t = false → ∃ s', exec .pagerComplete s = .next s' ∧ s'.mem = s.mem ∧ s'.thread? key = some t
         ∧ ⟨s.cyc + 1, .pagerComplete, [tag.toNat, page]⟩ ∈ s'.pending ∧ ⟨tag, page, [key]⟩ ∈ s'.futures)
       ∧ (movable s t = true → ∃ s' a, exec .pagerComplete s = .next s' ∧ s'.mem = s.mem ∧ (s'.slot key).lent = none
         ∧ s'.thread? key = some { w with st := .ready, parkPlace := .inPlace, readyAt := max w.readyAt (s.cyc + 1) }
         ∧ (s'.core (coreOf key)).arrivals = a :: (s.core (coreOf key)).arrivals ∧ a.body.cls = .migration
         ∧ a.body.words = contextWords s key t t.pc))
     ∧ (∀ since, s.args = tag.toNat :: page :: why :: since → (∀ key ∈ f.waiters, (s.slot key).lent = none ∧ savedParked s tag page key = false) →
       ∃ s', exec .pagerDecline s = .next s' ∧ s'.mem = s.mem
       ∧ (∀ g ∈ s'.futures, ¬ (g.ctag = tag ∧ g.page = page))
       ∧ (∀ key t da, key ∈ f.waiters → s.thread? key = some t → parkedAt t tag page = true → t.parkedOn = some da →
           (∃ t', s'.thread? key = some t' ∧ t'.st = .blocked ∧ t'.cause = some .record ∧ t'.pc = t.pc)
           ∧ ∃ e ∈ s'.trapOut, e.1 = key ∧ e.2.1 = t.launch ∧ e.2.2.1 = t.group
               ∧ ofBytes ((e.2.2.2.drop 28).take 2) = 0x07 ∧ ofBytes ((e.2.2.2.drop 32).take 4) = (if why = 0 then 1 else 2)
               ∧ ofBytes ((e.2.2.2.drop 36).take 8) = da.toNat
               ∧ ofBytes ((e.2.2.2.drop 48).take 8) = since.headD s.cyc % 2 ^ 64)))
   ∧ (∀ (s : State) (tag : BitVec 16) (page why : Nat), s.args = [tag.toNat, page, why] →
     (∀ g ∈ s.futures, ¬ (g.ctag = tag ∧ g.page = page)) → ∃ s', exec .pagerDecline s = .next s' ∧ s'.mem = s.mem
       ∧ s'.threads = s.threads
       ∧ ∀ cl q j, j ∈ (s.jobQueue cl q).jobs → j.ctag = tag → page ∈ j.waits →
           { j with declined := j.declined ++ [page] } ∈ (s'.jobQueue cl q).jobs))
  ∧ ((∀ (s : State) (e : PageEntry) (colour : Option (BitVec 4)), s.args.length ≠ 2 →
       3 ≤ e.size.toNat ∨ e.vpn.toNat % pageUnits e ≠ 0 ∨ e.frame.toNat % pageUnits e ≠ 0 ∨ (e.v = true ∧ frameOk s e = false)
         ∨ (e.v = true ∧ ∃ f ∈ allEntries s e.ctag, pagesOverlap f e = true ∧ samePage f e = false) →
       exec (.pageEntryChange ⟨e, colour⟩) s = .next { s with refused := some (if frameOk s e then .form else .frames) })
     ∧ (∀ (s : State) (e : PageEntry) (colour : Option (BitVec 4)) (loc : Nat), s.args.length ≠ 2 → entryAllowed s e = true →
       entryPlace s e = some loc →
       let old : Nat × Nat := ((walk s e.ctag (e.vpn.toNat * 2 ^ 17)).map (pageRange s)).getD (0, 0)
       ∃ s', exec (.pageEntryChange ⟨e, colour⟩) s = .next s'
         ∧ (∀ i, i < 32 → readByte s' (loc + i) = (toBytes 32 (numOfPage e)).getD i 0)
         ∧ (∀ a, a < loc ∨ loc + 32 ≤ a → readByte s' a = readByte s a)
         ∧ (∀ cl f, f ∈ (s'.cluster cl).tcache → pagesOverlap f e = false)
         ∧ s'.threads = s.threads
         ∧ (∀ c lo, colour = some c → e.v = true → e.tier.toNat < 2 →
             pageLoc ((s.pidOf e.ctag).getD 0) e (e.vpn.toNat * 2 ^ 17) = some lo →
             ∀ i, i < pageUnits e * 2048 →
               granuleColour s' e.ctag (lo + 64 * i) (e.vpn.toNat * 2 ^ 17 + 64 * i) c = c)
         ∧ (rangeBusy s' old.1 old.2 = true → ⟨s.cyc + 1, .pageEntryChange ⟨e, colour⟩, [old.1, old.2]⟩ ∈ s'.pending)
         ∧ (rangeBusy s' old.1 old.2 = false → s'.refused = none))
     ∧ (∀ (s : State) (e : PageEntry) (colour : Option (BitVec 4)) (lo n : Nat), s.args = [lo, n] →
       exec (.pageEntryChange ⟨e, colour⟩) s = .next (if rangeBusy s lo n then later 1 (.pageEntryChange ⟨e, colour⟩) [lo, n] s
         else { s with refused := none }))
     ∧ (∀ (s : State) (tag : BitVec 16) (vpn : Nat) (last : Bool) (tier : BitVec 2) (frame : BitVec 47),
       let ev : Instr := .pageMigrate tag.toNat vpn last tier frame
       let no : Prop := exec ev s = .next { s with refused := some .form }
       (walk s tag (vpn * 2 ^ 17) = none → no)
       ∧ ∀ e, walk s tag (vpn * 2 ^ 17) = some e →
         let e' := { e with tier := tier, frame := frame, mg := false }
         let pid := (s.pidOf tag).getD 0
         let busy := rangeBusy s (pageRange s e).1 (pageRange s e).2
         (2 ≤ e.tier.toNat ∨ 2 ≤ tier.toNat ∨ (last = true ∧ e.mg = false) → no)
         ∧ (e.tier.toNat < 2 → tier.toNat < 2 → last = false → ∀ s1, changeEntry s { e with mg := true } = some s1 →
             exec ev s = .next { s1 with refused := none })
         ∧ (e.tier.toNat < 2 → tier.toNat < 2 → last = true → e.mg = true → busy = true → exec ev s = .next (later 1 ev [] s))
         ∧ (e.tier.toNat < 2 → tier.toNat < 2 → last = true → e.mg = true → busy = false →
             ∀ src dst s1, pageLoc pid e (e.vpn.toNat * 2 ^ 17) = some src → pageLoc pid e' (e.vpn.toNat * 2 ^ 17) = some dst →
             changeEntry s e' = some s1 → Memory.wf s1.mem → ∃ s', exec ev s = .next s' ∧ s'.refused = none
             ∧ (∀ i, i < pageUnits e * 2 ^ 17 → readByte s' (dst + i) = readByte s1 (src + i))
             ∧ ∀ a, a < dst ∨ dst + pageUnits e * 2 ^ 17 ≤ a → readByte s' a = readByte s1 a)))

/-- What the root monitor grants. A descriptor of a reserved kind, or one that reaches beyond a core's store, beyond a vault's part
below the system region, or into that region is refused; any other is the context's from then on. A tag becomes resident on a core
only when its context belongs to the core's partition, in a free place or in that of a tag without a bound slot. A window is
registered once, on the fabric, with a legal grid and a route, and the peer pages it is to have are written with it (where they stand
is the model's choice, log entry 51). A cluster is assigned and taken away only when it is free, to a
partition whose shape covers it, whose entry is written first where one is asked for (State.asked, log entry 41); a partition entry is taken only with a legal shape that meets no other partition's, page-table roots
and queues of its own. An assigned cluster's stores and vault hold zeros, and its spawn counts and queue turn are reset. An invalidation of the host's translation ends once no access that used it is left. -/
def Obligations.RootMonitorGrants : Prop :=
  (∀ (s : State) (tag index : Nat) (g : Segment),
    let top := g.base.toNat + g.limit.toNat
    ((s.contexts.get? tag = none ∨ g.kind = .res6 ∨ g.kind = .res7 ∨ (g.kind = .core ∧ 131072 < top)
        ∨ (g.kind = .vault ∧ 0x270000 < top) ∨ (g.kind = .memory ∧ meetsSystem g.base.toNat g.limit.toNat = true)
        ∨ ∃ c, s.contexts.get? tag = some c ∧ (c.sdtSize ≤ index ∨ 2 ^ 12 ≤ index
          ∨ (g.kind = .vault ∧ meetsShard s c.pid g.base.toNat g.limit.toNat = true)
          ∨ (g.kind = .memory ∧ meetsShards s c.pid g.base.toNat g.limit.toNat = true))) →
      exec (.descriptorCreate tag index g) s = .next { s with refused := some .form })
    ∧ ∀ c, s.contexts.get? tag = some c → descriptorBad s c.pid g = false → index < c.sdtSize → index < 2 ^ 12 →
      ∃ s' c', exec (.descriptorCreate tag index g) s = .next s' ∧ s'.refused = none ∧ s'.mem = s.mem
        ∧ s'.threads = s.threads ∧ s'.contexts.get? tag = some c'
        ∧ c'.descs.get? index = some { g with index := BitVec.ofNat 12 index }
        ∧ ∀ i, i ≠ index → c'.descs.get? i = c.descs.get? i)
  ∧ (∀ (s : State) (c : Nat) (tag : BitVec 16) (evict : Option (BitVec 16)),
    let known : Prop := ∃ pid p, s.partitions.find? (fun p => p.2.clusters.contains (clusterOf c)) = some (pid, p)
      ∧ tag ∈ p.tags ∧ s.pidOf tag = some pid
    let has (s : State) (x : BitVec 16) : Prop := ∃ r ∈ (s.core c).tags, r.ctag = x
    let no (d : Denied) : Prop := exec (.contextTagReside c tag evict) s = .next { s with refused := some d }
    (¬ known → no .tags)
    ∧ (known → has s tag → exec (.contextTagReside c tag evict) s = .next { s with refused := none })
    ∧ (known → ¬ has s tag → evict = none → 16 ≤ (s.core c).tags.length → no .busy)
    ∧ (known → ¬ has s tag → evict = none → (s.core c).tags.length < 16 →
        ∃ s', exec (.contextTagReside c tag evict) s = .next s' ∧ s'.refused = none ∧ s'.mem = s.mem
          ∧ resTagOf s tag ∈ (s'.core c).tags ∧ ∀ x, has s' x ↔ x = tag ∨ has s x)
    ∧ ∀ e, known → ¬ has s tag → evict = some e →
        (¬ has s e → no .tags) ∧ (has s e → (∃ t ∈ threadsOn s c, t.2.ctag = e) → no .busy)
        ∧ (has s e → (∀ t ∈ threadsOn s c, t.2.ctag ≠ e) →
            ∃ s', exec (.contextTagReside c tag evict) s = .next s' ∧ s'.refused = none ∧ s'.mem = s.mem
              ∧ resTagOf s tag ∈ (s'.core c).tags ∧ ∀ x, has s' x ↔ x = tag ∨ (has s x ∧ x ≠ e)))
  ∧ (∀ (s : State) (tag n : Nat) (w : WindowEntry) (fab : Bool),
    let ev : Instr := .windowRegister tag n w fab
    let routed : Prop := s.routes.getD w.module.toNat 0 ≠ 0
    (s.contexts.get? tag = none ∨ 64 ≤ n ∨ fab = false ∨ gridLegal w = false ∨ ¬ routed → exec ev s = .next { s with refused := some .form })
    ∧ ∀ c, s.contexts.get? tag = some c →
      (c.windows.has n = true → exec ev s = .next { s with refused := some .form })
      ∧ (c.windows.has n = false → n < 64 → fab = true → gridLegal w = true → routed → writePeers s tag w s.args = none →
          exec ev s = .next { s with refused := some .form })
      ∧ (w.module = Config.moduleId ∨ s.args = [] → writePeers s tag w s.args = some s)
      ∧ (∀ page loc s1, w.module ≠ Config.moduleId → s.args = [page] → entryPlace s (peerEntry tag w 0 page) = some loc →
          writePeers s tag w s.args = some s1 →
          (∀ i, i < 32 → readByte s1 (loc + i) = (toBytes 32 (numOfPage (peerEntry tag w 0 page))).getD i 0)
          ∧ ∀ a, a < loc ∨ loc + 32 ≤ a → readByte s1 a = readByte s a)
      ∧ (∀ s1, c.windows.has n = false → n < 64 → fab = true → gridLegal w = true → routed → writePeers s tag w s.args = some s1 →
          ∃ s' c', exec ev s = .next s' ∧ s'.refused = none ∧ s'.mem = s1.mem ∧ s'.contexts.get? tag = some c'
            ∧ c'.windows.get? n = some { w with wv := true, tsize := BitVec.ofNat 40 (w.wsize.toNat / gridTiles w) }
            ∧ (∀ m, m ≠ n → c'.windows.get? m = c.windows.get? m)
            ∧ s'.counters.getD (64 * tag + n) .reset = .reset))
  ∧ (∀ (s : State) (cl : Nat) (part : Option Nat), s.args = cl :: part.toList →
    let entry : Option PartEntry := part.bind fun n => s.asked.get? n
    let free : Prop := (s.cluster cl).larder = none ∧ (∀ t ∈ s.threads, clusterOf (coreOf t.1) ≠ cl)
      ∧ ∀ x ∈ s.slots, clusterOf (coreOf x.1) = cl → x.2.withheld = false ∧ x.2.lent = none
    let no (d : Denied) : Prop := exec .partitionAssign s = .next { s with refused := some d }
    (2048 ≤ cl → no .form) ∧ (cl < 2048 → ¬ free → no .busy)
    ∧ (cl < 2048 → free → part = none → ∃ s', exec .partitionAssign s = .next s' ∧ s'.refused = none
        ∧ s'.mem = s.mem
        ∧ ∀ pid p, s.partitions.get? pid = some p → ∃ q, s'.partitions.get? pid = some q
          ∧ (∀ x, x ∈ q.clusters ↔ x ∈ p.clusters ∧ x ≠ cl) ∧ q.tags = p.tags ∧ q.frames = p.frames)
    ∧ ∀ pid, part = some pid → cl < 2048 → free →
      ((∃ q ∈ s.partitions, cl ∈ q.2.clusters) → no .busy)
      ∧ ((∀ q ∈ s.partitions, cl ∉ q.2.clusters) →
        (∀ e, entry = some e → 64 ≤ pid ∨ 64 ≤ e.vfn ∨ (e.vfn ≠ 0 ∧ ∃ q ∈ s.partitions, q.1 ≠ pid ∧ q.2.vfn = e.vfn)
            ∨ shapeLegal e.shape = false
            ∨ (∃ x, x < 2048 ∧ shapeHas x e.shape = true ∧ ∃ q ∈ s.partitions, q.1 ≠ pid ∧ shapeHas x q.2.shape = true)
            ∨ (∃ t ∈ e.tags, t.ptRoot.toNat / 2 ^ 48 ≠ 0xFE ∨ t.ptRoot.toNat % 65536 ≠ 0
              ∨ 0x270000 ≤ t.ptRoot.toNat % 2 ^ 22)
            ∨ (∃ j ∈ e.jobs, 1024 ≤ j ∨ ∃ q ∈ s.partitions, q.1 ≠ pid ∧ j ∈ q.2.jobs)
            ∨ (∃ p, s.partitions.get? pid = some p ∧ p.clusters ≠ []) → ∃ d, no d)
        ∧ (entry = none → s.partitions.get? pid = none → no .form)
        ∧ (∀ p, entry = none → s.partitions.get? pid = some p → shapeHas cl p.shape = false → no .shape)
        ∧ (∀ e, entry = some e → entryDenied s pid e = none → shapeHas cl e.shape = false → no .shape)
        ∧ ∀ p, (entry = none ∧ s.partitions.get? pid = some p)
            ∨ (∃ e, entry = some e ∧ entryDenied s pid e = none
              ∧ p = ⟨e.shape, [], e.tags.map (·.ctag), e.jobs, e.frames, e.vfn, e.priv, e.pasid⟩) → shapeHas cl p.shape = true →
          ∃ s' q, exec .partitionAssign s = .next s' ∧ s'.refused = none ∧ s'.asked = s.asked.erase pid ∧ s'.partitions.get? pid = some q
            ∧ (∀ x, x ∈ q.clusters ↔ x = cl ∨ x ∈ p.clusters) ∧ q = { p with clusters := q.clusters }
            ∧ (∀ o, o < 0x300000 → readByte s' (vaultLoc cl o) = unwritten)
            ∧ (∀ i o, i < 8 → o < 2 ^ 17 → readByte s' (coreLoc (8 * cl + i) o) = unwritten)
            ∧ (∀ i, i < 8 → (s'.core (8 * cl + i)).spawns = 0) ∧ (s'.cluster cl).lastServed = 3
            ∧ ∀ e, entry = some e → ∀ t ∈ e.tags, ∃ c, s'.contexts.get? t.ctag.toNat = some c ∧ c.pid = pid ∧ c.sdt = t.sdt
                ∧ c.ptRoot = t.ptRoot ∧ c.tagKey = t.tagKey))
  ∧ (∀ (s : State) (fnum iova : Nat), s.args = [fnum, iova] →
    let page := iova / 4096
    let mine (loc : Nat) : Prop := ∃ pid va p, homeOf loc = .host pid va ∧ va / 4096 = page ∧ s.partitions.get? pid = some p
      ∧ p.vfn = fnum
    let used (r : Req) : Prop := r.performed = false ∧ ∃ loc, mine loc
      ∧ ((∃ bs a b, r.kind = .write loc bs a b) ∨ (∃ a b, r.kind = .atomic loc a b) ∨ (∃ a b, r.kind = .fe loc a b) ∨ r.kind = .tagRead loc
        ∨ (∃ c, r.kind = .tagWrite loc c) ∨ ∃ ps v, r.kind = .read ps ∧ (loc, v) ∈ ps)
    (∀ n, s.boot.failed = some n → exec .atsInvalidation s = .next s) ∧ (64 ≤ fnum → exec .atsInvalidation s = .next s)
    ∧ (s.boot.failed = none → fnum < 64 → ∃ s', exec .atsInvalidation s = .next s' ∧ s'.mem = s.mem ∧ s'.threads = s.threads
      ∧ page ∉ (s'.functions.getD fnum .reset).ats
      ∧ ((∃ r ∈ s.reqs, used r.2) → ⟨s.cyc + 1, .atsInvalidation, [fnum, iova]⟩ ∈ s'.pending)
      ∧ ((∀ r ∈ s.reqs, ¬ used r.2) → s'.pending = s.pending)))

/-! ### Events of the hub, the package and the host -/

/-- The registers of a hardware queue. A kick is taken when it moves `QKICK` forward, by less than 2^31 and within the
queue's slots of `QREAD`, and else counted in `QIGN`; `QBASE` and the size are written only while the queue is disabled
and idle, and zero the indices, with a base in the allocation and a multiple of 256, of which bits [63:56] are reserved;
a write of `QCTL` to an enabled queue is refused unless it only clears `EN`, and every slot in a window must lie in the
partition (log entry 52). A kick waits behind writes of the host that wait. A refused write changes no register, and
after a failed boot chain none is taken. When the hub reads a slot, and the order of a launch's groups. A slot is read
when its queue is enabled, the hub starts packets, the slot lies below `QKICK` in serial order, and its valid byte is
that of its lap; one with the barrier bit waits for every packet before it. A launch that no check refuses releases
every group of its grid once, with strictly smaller key λ·g before greater and, at equal keys, in index order; λ·d is at
least 1 for each of its vectors. A wrong index byte refuses a packet with E_PACKET. Packets that start. A launch packet
becomes a launch, ready, or refused with its code; a graph's members become launches, those that no edge enters ready; a
wait reads its word and ends, or reads again 1,024 cycles later; a signal is written when every earlier packet is
complete and, at fence scope 5, so is every fabric operation of its queue's launches; a cancel cancels a launch or graph
of its own partition. Each start steps `QREAD`. `JCTL` disables the queues of a job and cancels what they started; a
launch packet that it cancels unread still becomes a launch, cancelled. -/
def Obligations.HubQueuesAndPackets : Prop :=
  ((∀ (s : State) (q n : Nat) (v : BitVec 32) (w : BitVec 64), s.boot.failed = some n →
     (s.posted = [] → exec (.qkick q v) s = .next s) ∧ exec (.qbase q w) s = .next s ∧ exec (.qctl q w) s = .next s)
   ∧ (∀ (s : State) (q : Nat) (v : BitVec 32), s.posted ≠ [] →
     exec (.qkick q v) s = .next { s with posted := s.posted ++ [.kick q v] })
   ∧ (∀ (s : State) (q : Nat) (v : BitVec 32), s.boot.failed = none → s.posted = [] → let h := s.hq q
     let step := (v - h.qkick).toNat
     let taken : Prop := h.en = true ∧ 0 < step ∧ step < 2 ^ 31 ∧ (v - h.qread).toNat ≤ 2 ^ (h.qsize.toNat + 4)
     ∃ s', exec (.qkick q v) s = .next s' ∧ s'.mem = s.mem ∧ s'.threads = s.threads ∧ (∀ r, r ≠ q → s'.hq r = s.hq r)
       ∧ (taken → s'.hq q = { h with qkick := v } ∧ q ∈ s'.sched.kicks)
       ∧ (¬ taken → s'.hq q = { h with qign := if h.qign = 0xFFFF then 0xFFFF else h.qign + 1 }))
   ∧ (∀ (s : State) (q : Nat) (v : BitVec 64), s.boot.failed = none → let h := s.hq q
     let base : BitVec 56 := v.setWidth 56
     let legal : Prop := h.en = false ∧ (∀ e ∈ h.started, e.2 = .complete) ∧ base.toNat % 256 = 0
       ∧ queueAllocated s q base.toNat (slotsBytes h.qsize) h.job = true
     (¬ legal → ∃ d, exec (.qbase q v) s = .next { s with refused := some d })
     ∧ (legal → ∃ s', exec (.qbase q v) s = .next s' ∧ s'.refused = none ∧ s'.mem = s.mem ∧ s'.threads = s.threads
         ∧ (∀ r, r ≠ q → s'.hq r = s.hq r)
         ∧ s'.hq q = { h with qbase := base, qkick := 0, qread := 0, qdone := 0, started := [] }))
   ∧ (∀ (s : State) (q : Nat) (v : BitVec 64), s.boot.failed = none → let h := s.hq q
     let size := v.extractLsb' 0 4
     let job := v.extractLsb' 16 10
     let ours : Prop := queueAllocated s q h.qbase.toNat (slotsBytes size) job = true
     let idle : Prop := ∀ e ∈ h.started, e.2 = .complete
     let becomes (h' : HQueue) : Prop := ∃ s', exec (.qctl q v) s = .next s' ∧ s'.refused = none ∧ s'.mem = s.mem
       ∧ s'.threads = s.threads ∧ (∀ r, r ≠ q → s'.hq r = s.hq r) ∧ s'.hq q = h'
     let no : Prop := ∃ d, exec (.qctl q v) s = .next { s with refused := some d }
     let h1 := { h with qhost := v.getLsbD 4, job := job, en := v.getLsbD 31 }
     let closes : Prop := v.getLsbD 31 = false ∧ size = h.qsize ∧ job = h.job ∧ v.getLsbD 4 = h.qhost
     (h.en = true → (closes → becomes { h with en := false }) ∧ (¬ closes → no))
     ∧ (h.en = false → (13 ≤ size.toNat ∨ ¬ ours → no)
       ∧ (size.toNat < 13 → ours → size = h.qsize → becomes h1)
       ∧ (size.toNat < 13 → ours → size ≠ h.qsize → ¬ idle → no)
       ∧ (size.toNat < 13 → ours → size ≠ h.qsize → idle →
           becomes { h1 with qsize := size, qkick := 0, qread := 0, qdone := 0, started := [] }))))
  ∧ ((∀ (s : State) (q i : Nat) (bs : List Byte), let h := s.hq q
       let ahead := (h.qkick - h.qread).toNat
       (readable s q = some (i, bs) ↔ h.en = true ∧ hubStarts s = true ∧ 0 < ahead ∧ ahead < 2 ^ 31 ∧ i = h.qread.toNat
         ∧ (∃ tag, queueTag s q = some tag ∧ daBytes s tag (h.qbase.toNat + 256 * (i % 2 ^ (h.qsize.toNat + 4))) 256 = some bs)
         ∧ bs.getD 255 0 = (if i / 2 ^ (h.qsize.toNat + 4) % 2 = 0 then 0xA5 else 0x5A)
         ∧ ((bs.getD 253 0).toNat / 16 = 1 → h.qdone = h.qread)))
     ∧ (∀ (s : State) (x : Launch) (p : Partition) (i : Nat) (bs : List Byte), (bs.getD 252 0).toNat ≠ i % 256 →
       checkLaunch s x p (some i) bs = .launch { x with refusal := 7 })
     ∧ (∀ (s : State) (x y : Launch) (p : Partition) (i : Option Nat) (bs : List Byte), checkLaunch s x p i bs = .launch y →
       y.refusal = 0 → x.refusal = 0 →
       let key (g : Nat) : Int := dot y.sweep (((coords y.grid g).1 : Int), ((coords y.grid g).2.1 : Int), ((coords y.grid g).2.2 : Int))
       y.order.Perm (List.range (y.grid.1 * y.grid.2.1 * y.grid.2.2))
       ∧ (∀ d ∈ y.deps, 1 ≤ dot y.sweep d)
       ∧ (y.deps = [] → y.order = List.range (y.grid.1 * y.grid.2.1 * y.grid.2.2))
       ∧ (y.deps ≠ [] → y.order.Pairwise fun a b => key a < key b ∨ (key a = key b ∧ a < b))))
  ∧ ((∀ (s : State) (q : Nat), s.args = [q] → readable s q = none →
       exec .packetLaunch s = .next s ∧ exec .packetGraph s = .next s ∧ exec .packetWait s = .next s ∧ exec .packetCancel s = .next s)
     ∧ (∀ (s : State) (q i : Nat), s.args = [q, i] → readable s q = none → exec .packetSignal s = .next s)
     ∧ (∀ (s : State) (q i pid : Nat) (bs : List Byte) (p : Partition) (tag : BitVec 16), s.args = [q] →
       readable s q = some (i, bs) → queuePart s q = some (pid, p) → queueTag s q = some tag →
       let mark := p.priv && (s.hq q).marks.contains i
       let begins (e : Instr) (s' : State) (st : PktState) : Prop := exec e s = .next s' ∧ s'.threads = s.threads
         ∧ (s'.hq q).qread = (s.hq q).qread + 1 ∧ (s'.hq q).started.get? i = some st ∧ (s'.hq q).qdone = (s.hq q).qdone
       let word := (fieldAt bs 0 8, fieldAt bs 8 8)
       let bad : Prop := addressPacketBad bs i 16 = true ∨ scopeCode bs ≠ 0
       (∀ pages, checkLaunch s (launchOfBytes s q i pid tag none mark bs) p (some i) bs = .absent pages →
         exec .packetLaunch s = .next (postAbsent s tag pages))
       ∧ (∀ y, checkLaunch s (launchOfBytes s q i pid tag none mark bs) p (some i) bs = .launch y → ∃ s',
           begins .packetLaunch s' (.launch (s.launches.length + 1)) ∧ s'.mem = s.mem
           ∧ s'.launch? (s.launches.length + 1) = some { y with
               st := if y.refusal ≠ 0 then .waiting else .ready, readySince := none })
       ∧ (let n := fieldAt bs 8 4
         let m := fieldAt bs 12 4
         let formBad : Prop := addressPacketBad bs i 24 = true ∨ n = 0 ∨ 4096 < n ∨ fieldAt bs 16 8 = 0 ∨ fieldAt bs 16 8 % 8 ≠ 0
           ∨ scopeCode bs ≠ 0
         (formBad → ∃ s', begins .packetGraph s' .complete ∧ s'.launches = s.launches)
         ∧ ∀ tb lb, ¬ formBad → daBytes s tag (fieldAt bs 0 8) (256 * n) = some tb → daBytes s tag (fieldAt bs 16 8) (4 * m) = some lb →
           let es := (List.range m).map fun k => (fieldAt lb (4 * k) 2 % 4096, fieldAt lb (4 * k + 2) 2 % 4096)
           let wellFormed : Prop := (∀ k, k < m → fieldAt lb (4 * k) 4 / 4096 % 16 = 0 ∧ fieldAt lb (4 * k) 4 / 2 ^ 28 = 0)
             ∧ (∀ e ∈ es, e.1 < n ∧ e.2 < n) ∧ peel n es (List.range n) = []
           let g := s.graphs.length + 1
           (¬ wellFormed → ∃ s', begins .packetGraph s' .complete ∧ s'.launches = s.launches)
           ∧ ∀ xs, wellFormed → checkMembers s q i pid tag p mark g tb (List.range n) = (xs, []) →
             (∀ e ∈ s.launches, e.1 ≤ s.launches.length) → ∃ s' ls, begins .packetGraph s' (.graph g) ∧ s'.mem = s.mem
               ∧ s'.graphs.get? g = some ⟨q, i, ls, es, false, false, fieldAt bs 253 1 % 16, s.cyc⟩ ∧ ls.length = n ∧ xs.length = n
               ∧ ∀ (k l : Nat) (x : Launch), ls[k]? = some l → xs[k]? = some x → s'.launch? l = some { x with
                   st := if x.refusal ≠ 0 then .waiting else if (es.any fun e => e.2 == k) then .waiting else .ready
                   readySince := none })
       ∧ (bad → ∃ s', begins .packetWait s' .complete ∧ s'.mem = s.mem)
       ∧ (¬ bad →
           (∀ w, daBytes s tag word.1 8 = some w → word.1 < 2 ^ 56 → word.2 ≤ ofBytes w →
             ∃ s', begins .packetWait s' (.waited (s.cyc + s.tripLen + 1)) ∧ s'.mem = s.mem)
           ∧ ((∀ w, daBytes s tag word.1 8 = some w → ofBytes w < word.2) → word.1 < 2 ^ 56 →
             ∃ s', begins .packetWait s' (.wait (BitVec.ofNat 56 word.1) (BitVec.ofNat 64 word.2)) ∧ s'.mem = s.mem
               ∧ ⟨s.cyc + 1024, .waitPacketPoll, [q, i]⟩ ∈ s'.pending))
       ∧ (trailerCode bs (some i) ≠ 0 ∨ zerosAt bs [(16, 236)] = false ∨ 2 ≤ word.2 ∨ scopeCode bs ≠ 0 →
           ∃ s', begins .packetCancel s' .complete ∧ s'.launches = s.launches)
       ∧ (trailerCode bs (some i) = 0 → zerosAt bs [(16, 236)] = true → word.2 = 0 → scopeCode bs = 0 →
           ∀ x, s.launch? word.1 = some x →
           (x.pid ≠ pid → ∃ s', begins .packetCancel s' .complete ∧ s'.launches = s.launches)
           ∧ (x.pid = pid → x.st ≠ .complete → s.halts.get? pid = none → ∃ s' x', begins .packetCancel s' .complete ∧ s'.mem = s.mem
               ∧ s'.launch? word.1 = some x' ∧ x'.cancelled = true
               ∧ ∀ g y, s.group? word.1 g = some y → g < 2 ^ 24 → SMap.sorted s.groups = true →
                 (y.st = .waiting ∨ y.st = .released →
                   ∃ y', s'.group? word.1 g = some y' ∧ y'.st = .retired ∧ y'.cancelled = true)
                 ∧ (y.st = .running → ∃ e ∈ s'.pending, e.ev = .groupCancel ∧ e.args = [word.1, g]))))
     ∧ (∀ (s : State) (q i k : Nat) (bs : List Byte), s.args = [q, k] → readable s q = some (i, bs) → ∃ s' st,
         exec .packetSignal s = .next s' ∧ s'.mem = s.mem ∧ s'.threads = s.threads ∧ (s'.hq q).qread = (s.hq q).qread + 1
         ∧ (s'.hq q).qdone = (s.hq q).qdone ∧ (s'.hq q).started.get? i = some st
         ∧ (addressPacketBad bs i 16 = true ∨ scopeCode bs ≠ 0 → st = .complete)
         ∧ (addressPacketBad bs i 16 = false → scopeCode bs = 0 →
             st = .signal (BitVec.ofNat 56 (fieldAt bs 0 8)) (BitVec.ofNat 64 (fieldAt bs 8 8)) ((bs.getD 253 0).toNat % 16)))
     ∧ (∀ (s : State) (q i pid : Nat) (p : Partition) (tag : BitVec 16), s.args = [q, i] → queuePart s q = some (pid, p) →
         queueTag s q = some tag → (s.hq q).started.get? i = some .cancelled →
         (slotBytes s q i = none → exec .packetLaunch s = .next
           (postMissing s tag ((s.hq q).qbase.toNat + 256 * (i % 2 ^ ((s.hq q).qsize.toNat + 4))) 256))
         ∧ ∀ bs, slotBytes s q i = some bs → bs.getD 255 0 = lapParity i ((s.hq q).qsize.toNat + 4) →
           (bs.getD 254 0 = 1 → ∃ s' x, exec .packetLaunch s = .next s' ∧ s'.mem = s.mem
             ∧ (s'.hq q).started.get? i = some (.launch (s.launches.length + 1))
             ∧ s'.launch? (s.launches.length + 1) = some x ∧ x.cancelled = true ∧ x.st = .waiting ∧ x.queue = q ∧ x.index = i)
           ∧ (3 ≤ (bs.getD 254 0).toNat → ∃ s', exec .packetLaunch s = .next s' ∧ s'.mem = s.mem ∧ s'.launches = s.launches
             ∧ (s'.hq q).started.get? i = some .complete))
     ∧ (∀ (s : State) (q i : Nat) (da : BitVec 56) (v : Word) (tag : BitVec 16), queueTag s q = some tag →
       (s.args = [q, i] → (s.hq q).started.get? i = some (.wait da v) →
         (∀ w, daBytes s tag da.toNat 8 = some w → v.toNat ≤ ofBytes w → ∃ s', exec .waitPacketPoll s = .next s' ∧ s'.mem = s.mem
           ∧ (s'.hq q).started.get? i = some (.waited (s.cyc + s.tripLen + 1)))
         ∧ (∀ w, daBytes s tag da.toNat 8 = some w → ofBytes w < v.toNat →
             exec .waitPacketPoll s = .next (later 1024 .waitPacketPoll [q, i] s)))
       ∧ (∀ scope, s.args = [q] → (s.hq q).started.get? (s.hq q).qdone.toNat = some (.signal da v scope) →
           let fabric : Prop := ∃ f ∈ s.fabops, ∃ x, s.launch? f.2.launch = some x ∧ x.queue = q
           (scope = 5 → fabric → exec .packetSignal s = .next s)
           ∧ (¬ (scope = 5 ∧ fabric) → mayWrite s (.signal q) = false → exec .packetSignal s = .next (holdDue s (.signal q)))
           ∧ (¬ (scope = 5 ∧ fabric) → mayWrite s (.signal q) = true → hubReaches s tag da.toNat 8 = false →
               exec .packetSignal s = .next (postMissing s tag da.toNat 8))
           ∧ (¬ (scope = 5 ∧ fabric) → mayWrite s (.signal q) = true → hubReaches s tag da.toNat 8 = true →
             ∃ s', exec .packetSignal s = .next s' ∧ (s'.hq q).started.get? (s.hq q).qdone.toNat = some .complete
               ∧ (da = 0 → s'.mem = s.mem)
               ∧ ∀ loc, da ≠ 0 → da.toNat % 8 = 0 → daLoc s tag da.toNat = some loc →
                   readBytes s' loc 8 = toBytes 8 v.toNat ∧ ∀ a, a < loc ∨ loc + 8 ≤ a → readByte s' a = readByte s a)))
     ∧ (∀ (s : State) (job : Nat), s.args = [job] → s.boot.failed = none → SMap.sorted s.hqueues = true → ∃ s', exec .jctl s = .next s' ∧ s'.mem = s.mem
         ∧ s'.threads = s.threads
         ∧ ∀ q h, s.hqueues.get? q = some h → h.job.toNat = job → (s'.hq q).en = false
           ∧ ((h.qkick - h.qread).toNat < 2 ^ 31 → (s'.hq q).qread = h.qkick
               ∧ ∀ k, k < (h.qkick - h.qread).toNat → (s'.hq q).started.get? (h.qread + BitVec.ofNat 32 k).toNat = some .cancelled)
           ∧ ∀ i l x, h.started.get? i = some (.launch l) → s.launch? l = some x → x.st ≠ .complete → s.halts.get? x.pid = none →
               ∃ x', s'.launch? l = some x' ∧ x'.cancelled = true))

/-- The scoreboard and the launch's priority. The next group of a ready launch enters the window, of 65,536 entries; a
WAITING group is RELEASED when each predecessor, its coordinates less a vector of the launch, is RETIRED or has left the
window; the effective priority falls by one for each full millisecond in which the launch is ready and unplaced, not
below 4 for one of 4 or more. A group placed and started. The hub places one group in a cycle, only the launch's next
RELEASED one, whole or not at all: every rank once, inside a rectangle of the partition's clusters on one die, in free
slots below the rotation length, which the placement names (log entry 13), of a queue and a tag of its partition. Its
threads begin at PC 0 with empty registers. When its code, its cores and its images are there, its regions hold the
images and zeros, with Full bits on the image's words, and it starts. A code buffer, once loaded, holds the words of the
code segment. Ends. A group with nothing left retires when its cores' buffers are published: its tiles and subscriptions
end and it is counted. A cancelled group has no thread left and its barrier state is gone. A launch whose groups are all
retired and whose writes are performed completes: its record, then its signal, each only at a legal address (log entry
30), are written once the hub can reach both, and its packet is complete; while no scheduler core is in charge, and
behind what fell due before it then, the completion is held (log entry 35). -/
def Obligations.LaunchAndGroupEvents : Prop :=
  ((∀ (s : State) (l : Nat) (x : Launch), s.args = [l] → s.launch? l = some x →
     (∀ g, x.order[x.next]? = some g → x.st = .ready → x.cancelled = false → x.cnt < 65536 →
       ∃ s', exec .scoreboardEnter s = .next s' ∧ s'.mem = s.mem ∧ s'.threads = s.threads ∧ s'.group? l g = some .fresh
         ∧ s'.launch? l = some { x with next := x.next + 1, cnt := x.cnt + 1 })
     ∧ (x.order[x.next]? = none ∨ x.st ≠ .ready ∨ x.cancelled = true ∨ 65536 ≤ x.cnt → exec .scoreboardEnter s = .next s))
   ∧ (∀ (s : State) (l pos g : Nat) (x : Launch) (y : Group), s.args = [l, pos] → s.launch? l = some x → x.order[pos]? = some g →
     s.group? l g = some y → g < x.grid.1 * x.grid.2.1 * x.grid.2.2 →
     let at_ (g : Nat) : Int × Int × Int :=
       (((coords x.grid g).1 : Int), ((coords x.grid g).2.1 : Int), ((coords x.grid g).2.2 : Int))
     let pred (p : Nat) : Prop := p < x.grid.1 * x.grid.2.1 * x.grid.2.2 ∧ ∃ d ∈ x.deps,
       (at_ p).1 + d.1 = (at_ g).1 ∧ (at_ p).2.1 + d.2.1 = (at_ g).2.1 ∧ (at_ p).2.2 + d.2.2 = (at_ g).2.2
     let may : Prop := y.st = .waiting ∧ x.cancelled = false ∧ ∀ p z, pred p → s.group? l p = some z → z.st = .retired
     (¬ may → exec .groupRelease s = .next s)
     ∧ (may → ∃ s', exec .groupRelease s = .next s' ∧ s'.mem = s.mem ∧ s'.threads = s.threads
         ∧ s'.group? l g = some { y with st := .released }
         ∧ s'.launch? l = some { x with readySince := if x.readySince.isNone then some s.cyc else x.readySince }))
   ∧ (∀ (s : State) (l : Nat) (x : Launch), s.args = [l] → s.launch? l = some x →
     ∃ s', exec .priorityAge s = .next s' ∧ s'.mem = s.mem ∧ s'.threads = s.threads ∧ s'.launch? l = some { x with
       effPriority := match x.readySince with
         | some t => if x.st = .ready ∧ t < s.cyc ∧ (s.cyc - t) % 600000 = 0
             ∧ (if 4 ≤ x.priority then 4 else 0) < x.effPriority then x.effPriority - 1 else x.effPriority
         | none => x.effPriority }))
  ∧ ((∀ (s : State) (l pos lead : Nat) (places : List Place), let ev : Instr := .groupPlace l pos lead places
       (s.sched.lastPlace = some s.cyc → exec ev s = .next (later 1 ev [] s))
       ∧ (s.sched.lastPlace ≠ some s.cyc → ∀ x, s.launch? l = some x →
         (nextReleased s l x ≠ some pos ∨ places.length ≠ x.header.threads ∨ (∃ r, r < x.header.threads ∧ ∀ p ∈ places, p.rank ≠ r)
             ∨ (∃ p ∈ places, clusterOf p.core ∉ rectangle lead x.header.spanW x.header.spanH)
             ∨ (∀ part, s.partitions.get? x.pid = some part → x.queue ∉ part.jobs ∨ x.ctag ∉ part.tags
               ∨ ∃ cl ∈ rectangle lead x.header.spanW x.header.spanH, cl ∉ part.clusters)
             ∨ (∃ p ∈ places, slotFree s (slotKey p.core p.slot) = false) ∨ schedulerUp s = false →
           ∃ d, exec ev s = .next { s with refused := some d })
         ∧ ∀ g s1, nextReleased s l x = some pos → x.order[pos]? = some g → placeGroup s l g lead places = .ok s1 →
           ∃ s' y, exec ev s = .next s' ∧ s'.refused = none ∧ s'.mem = s.mem ∧ s'.group? l g = some y ∧ y.st = .running
             ∧ (∀ p ∈ places, slotFree s (slotKey p.core p.slot) = true ∧ p.slot < s'.rotLen p.core)
             ∧ y.lead = lead ∧ y.places = places ∧ s'.sched.lastPlace = some s.cyc
             ∧ (∃ e ∈ s'.pending, e.ev = .groupStart ∧ e.args = [l, g])
             ∧ ∀ p ∈ places, ∃ t, s'.thread? (slotKey p.core p.slot) = some t ∧ t.pc = 0 ∧ t.rank = p.rank ∧ t.launch = l
               ∧ t.group = g ∧ t.ctag = x.ctag ∧ t.st = .ready ∧ t.gSize = x.header.regs ∧ t.nv = x.header.nv ∧ t.nk = x.header.nk
               ∧ (∀ i, i < x.header.regs → s'.gfile.getD (gKey p.core (t.gBase + i)) 0 = 0)))
     ∧ (∀ (s : State) (l g : Nat) (x : Launch) (y : Group), s.args = [l, g] → s.launch? l = some x → s.group? l g = some y →
       let cores := (y.places.map (·.core)).eraseDups
       let pages := absentPages s x.ctag x.coreImage.1.toNat x.coreImage.2 ++ absentPages s x.ctag x.vaultImage.1.toNat x.vaultImage.2
       let ready : Prop := (∀ cl ∈ s.span l g y.lead, codeLoaded s cl l = true) ∧ (∀ c ∈ cores, coreActive s c = true)
         ∧ fillEnded s l g = true ∧ s.halted l = false ∧ pages = []
       (y.st ≠ .running ∨ y.started = true ∨ y.cancelled = true → exec .groupStart s = .next s)
       ∧ (y.st = .running → y.started = false → y.cancelled = false → ¬ ready →
           ∃ s', exec .groupStart s = .next s' ∧ s'.mem = s.mem ∧ s'.threads = s.threads
             ∧ ⟨s.cyc + 1, .groupStart, [l, g]⟩ ∈ s'.pending)
       ∧ (y.st = .running → y.started = false → y.cancelled = false → ready → ∃ s' y', exec .groupStart s = .next s'
           ∧ s'.threads = s.threads ∧ s'.group? l g = some y' ∧ y'.started = true ∧ y'.unissued = cores
           ∧ ∀ ci vi, daBytes s x.ctag x.coreImage.1.toNat x.coreImage.2 = some ci →
             daBytes s x.ctag x.vaultImage.1.toNat x.vaultImage.2 = some vi →
             ci.length ≤ x.header.store → vi.length ≤ x.header.vault → x.header.store % 64 = 0 → x.header.vault % 64 = 0 →
             SMap.sorted y.store = true → SMap.sorted y.vault = true →
             (∀ e ∈ y.store, e.1 < 16384 ∧ e.2 % 64 = 0 ∧ e.2 + x.header.store ≤ 131072) →
             (∀ e ∈ y.vault, e.1 < 2048 ∧ e.2 % 64 = 0 ∧ e.2 + x.header.vault ≤ 0x270000) →
             (∀ e ∈ y.store, ∀ o, o < x.header.store → readByte s' (coreLoc e.1 (e.2 + o)) = ci.getD o 0)
             ∧ (∀ e ∈ y.store, ∀ k, k < x.header.store / 8 → (coreLoc e.1 e.2 / 8 + k ∈ s'.full ↔ 8 * k < ci.length))
             ∧ (∀ e ∈ y.vault, ∀ o, o < x.header.vault → readByte s' (vaultLoc e.1 (e.2 + o)) = vi.getD o 0)))
     ∧ (∀ (s : State) (cl l : Nat) (b : CodeBuf) (x : Launch), s.args = [cl, l] → s.launch? l = some x →
       (s.cluster cl).code.find? (fun b => b.launch == l) = some b →
       let base := (kernelCode s l).base.toNat
       let n := x.header.count
       let page (i : Nat) : Nat := (base + min (i * 2 ^ 17) (12 * n - 1)) / 2 ^ 17
       (b.loaded = true → exec .codeBufferLoadComplete s = .next s)
       ∧ (b.loaded = false → (∀ i, i < 12 * n / 2 ^ 17 + 2 → (portLoc s cl x.ctag (page i * 2 ^ 17)).isSome = true) →
           ∃ s' b', exec .codeBufferLoadComplete s = .next s' ∧ s'.mem = s.mem ∧ s'.threads = s.threads
             ∧ (s'.cluster cl).code.find? (fun b => b.launch == l) = some b' ∧ b'.loaded = true ∧ b'.words.length = n
             ∧ ∀ loc, base + 12 * n ≤ 2 ^ 56 → (∀ j, j < 12 * n → portLoc s cl x.ctag (base + j) = some (loc + j)) →
                 ∀ i, i < n → b'.words[i]? = some (BitVec.ofNat 96 (readNum s (loc + 12 * i) 12)))
       ∧ (b.loaded = false → 0 < n → (∃ i, i < 12 * n / 2 ^ 17 + 2 ∧ portLoc s cl x.ctag (page i * 2 ^ 17) = none) →
           ∃ s', exec .codeBufferLoadComplete s = .next s' ∧ s'.mem = s.mem ∧ s'.threads = s.threads
             ∧ ⟨s.cyc + 1, .codeBufferLoadComplete, [cl, l]⟩ ∈ s'.pending)))
  ∧ ((∀ (s : State) (l g : Nat) (x : Launch) (y : Group), s.args = [l, g] → s.launch? l = some x → s.group? l g = some y →
       let may : Prop := (y.started = true ∨ y.cancelled = true) ∧ groupDone s l g y = true ∧ (y.cancelled = true ∨ s.halted l = false)
       let counted (x' : Launch) : Prop := x'.retired = x.retired + (if y.cancelled then 0 else 1)
         ∧ x'.cancelledGroups = x.cancelledGroups + (if y.cancelled then 1 else 0)
       let retires : Prop := ∃ s' x' y', exec .groupRetire s = .next s' ∧ s'.mem = s.mem ∧ s'.group? l g = some y' ∧ y'.st = .retired
         ∧ y'.store = [] ∧ y'.vault = [] ∧ s'.launch? l = some x' ∧ counted x'
       (y.st = .running → ¬ may → exec .groupRetire s = .next s)
       ∧ (y.st = .waiting ∨ y.st = .released ∨ y.st = .retired → exec .groupRetire s = .next s)
       ∧ ((y.st = .retiring ∨ (y.st = .running ∧ may ∧ ∀ c ∈ y.held, (s.core c).buffer = [] ∧ underWay s c = [])) →
           (∀ p ∈ s.pubs, p.2.after ≠ .retire l g) → retires)
       ∧ (y.st = .retiring → (∃ p ∈ s.pubs, p.2.after = .retire l g) → exec .groupRetire s = .next s))
     ∧ (∀ (s : State) (l g : Nat) (y : Group), s.args = [l, g] → s.group? l g = some y →
       (y.st ≠ .running ∨ y.cancelled = true → exec .groupCancel s = .next s)
       ∧ (y.st = .running → y.cancelled = false → ∃ s' y', exec .groupCancel s = .next s' ∧ s'.mem = s.mem
           ∧ s'.group? l g = some y' ∧ y'.cancelled = true ∧ y'.barrier = .reset ∧ y'.freeze = none
           ∧ (∀ key t, s'.thread? key = some t → ¬ (t.launch = l ∧ t.group = g))
           ∧ ∀ c r, r ∈ (s'.core c).retained → ¬ (r.body.launch = l ∧ r.body.group = g)))
     ∧ (∀ (s : State) (l : Nat) (x : Launch), s.args = [l] → s.launch? l = some x →
       let recOk : Prop := x.recAddr ≠ 0 ∧ x.recAddr.toNat % 64 = 0
       let sigOk : Prop := x.sigAddr ≠ 0 ∧ x.sigAddr.toNat % 8 = 0
       (launchDone s l x = false ∨ mayEnd s x = false → exec .launchComplete s = .next s)
       ∧ (launchDone s l x = true → x.refusal = 0 → writesLeft s l = false ∧ (x.scope = 5 → ∀ f ∈ s.fabops, f.2.launch ≠ l)
           ∧ (∀ e ∈ s.trapHeld, e.1 ≠ l) ∧ ∀ e ∈ s.groups, e.1 / 2 ^ 24 = l → e.2.st = .retired)
       ∧ (launchDone s l x = true → mayEnd s x = true → mayWrite s (.launch l) = false →
           exec .launchComplete s = .next (holdDue s (.launch l)))
       ∧ (let reach : Prop := (recOk → hubReaches s x.ctag x.recAddr.toNat 64 = true)
             ∧ (sigOk → hubReaches s x.ctag x.sigAddr.toNat 8 = true)
         launchDone s l x = true → mayEnd s x = true → mayWrite s (.launch l) = true →
           (¬ reach → ∃ s', exec .launchComplete s = .next s' ∧ s'.mem = s.mem ∧ s'.launches = s.launches ∧ s'.threads = s.threads)
           ∧ (reach → ∃ s' x', exec .launchComplete s = .next s' ∧ s'.launch? l = some x' ∧ x'.st = .complete
             ∧ (∀ e ∈ s'.groups, e.1 / 2 ^ 24 ≠ l)
             ∧ (x.graph = none → ∀ p, (s.hq x.queue).started.get? x.index = some p →
                 (s'.hq x.queue).started.get? x.index = some .complete)
             ∧ (¬ recOk → ¬ sigOk → s'.mem = s.mem)
             ∧ ∀ s1 rl sl, s1 = (if x.recAddr ≠ 0 ∧ x.recAddr.toNat % 64 = 0 then
                   daWrite s x.ctag hubWriter x.recAddr.toNat (completionRecord s l x) else s) →
                 (recOk → daLoc s x.ctag x.recAddr.toNat = some rl) → (sigOk → daLoc s1 x.ctag x.sigAddr.toNat = some sl) →
                 (recOk → (sigOk → sl + 8 ≤ rl ∨ rl + 64 ≤ sl) → readBytes s' rl 64 = completionRecord s l x)
                 ∧ (sigOk → readBytes s' sl 8 = toBytes 8 x.sigValue.toNat)
                 ∧ ∀ a, (recOk → a < rl ∨ rl + 64 ≤ a) → (sigOk → a < sl ∨ sl + 8 ≤ a) → readByte s' a = readByte s a))
       ∧ (let r := completionRecord s l x
         let f (at_ n : Nat) : Nat := ofBytes ((r.drop at_).take n)
         r.length = 64 ∧ f 0 4 = l % 2 ^ 32 ∧ f 4 4 = x.job % 2 ^ 32
           ∧ f 8 1 = (if x.refusal ≠ 0 then 2 else if x.cancelled then 1 else 0) ∧ f 9 1 = x.refusal % 2 ^ 8
           ∧ f 12 4 = x.retired % 2 ^ 32 ∧ f 16 4 = x.trapsWritten % 2 ^ 32 ∧ f 20 4 = x.trapsLost % 2 ^ 32
           ∧ f 24 4 = (s.cores.map fun c => c.2.dropped.getD l 0).sum % 2 ^ 32 ∧ f 28 4 = x.lostPackets % 2 ^ 32 ∧ f 32 8 = s.cyc % 2 ^ 64 ∧ f 40 4 = x.cancelledGroups % 2 ^ 32 ∧ f 63 1 = 0xA5)))

/-- Power and heat. `CAP` takes a multiple of 64 from 1,024 to 2,048 and ignores any other value; at each window the
activity of the one that ends becomes the next one's allowance, and the cap comes into force; a die at 100 °C is hot,
with 1,024 in force, until it falls below 95, and then the cap of the window is in force again; at 110 °C every
partition is halted, one that is being restored too, and no packet starts until the event is cleared. The scheduler
cores and the boot chain. The standby takes over within 50 µs, which is 30,000 cycles; when it fails too, no packet
starts and the host is told; a standby that fails alone leaves the active core in charge. The chain, one event that
takes place once (log entry 38), measures each image and stops at the first one whose key, signature or version does not
pass; every function shows it. -/
def Obligations.PowerAndSchedulerEvents : Prop :=
  ((∀ (s : State) (d : Nat) (v : BitVec 12),
     let legal : Prop := d < 8 ∧ 1024 ≤ v.toNat ∧ v.toNat ≤ 2048 ∧ v.toNat % 64 = 0
     (¬ legal → exec (.cap d v) s = .next s)
     ∧ (legal → ∃ s', exec (.cap d v) s = .next s' ∧ s'.die d = { s.die d with cap := v } ∧ (∀ e, e ≠ d → s'.die e = s.die e)
         ∧ s' = { s with dies := s'.dies }))
   ∧ (∀ s : State, ∃ s', exec .powerWindow s = .next s' ∧ s'.mem = s.mem ∧ s'.threads = s.threads
     ∧ ⟨s.cyc + 256, .powerWindow, []⟩ ∈ s'.pending
     ∧ (∀ cl, (s'.cluster cl).vprev = (s.cluster cl).vact ∧ (s'.cluster cl).vact = 0 ∧ (s'.cluster cl).eact = 0)
     ∧ ∀ d, (s'.die d).cap = (s.die d).cap ∧ (s'.die d).window = (s.die d).cap
         ∧ (s'.die d).ecap = if (s.die d).hot then 1024 else (s.die d).cap)
   ∧ (∀ (s : State) (d : Nat) (t : BitVec 8),
     let x := s.die d
     let hot := if 100 ≤ t.toNat then true else if t.toNat < 95 then false else x.hot
     let event : Prop := 110 ≤ t.toNat ∧ x.temp.toNat < 110
     (8 ≤ d → exec (.tempUpdate d t) s = .next s)
     ∧ (d < 8 → ∃ s', exec (.tempUpdate d t) s = .next s' ∧ s'.mem = s.mem ∧ s'.threads = s.threads
         ∧ s'.die d = { x with temp := t, hot := hot, ecap := if hot = x.hot then x.ecap else if hot then 1024 else x.window }
         ∧ (event → s'.sched.stopped = true ∧ (∀ f, f < 64 → (s'.functions.getD f .reset).thalt = true)
             ∧ ∀ pid p, s.partitions.get? pid = some p → s.halts.get? pid = none →
                 ∃ h, s'.halts.get? pid = some h ∧ h.launch = none ∧ h.requestedAt = s.cyc ∧ h.taken = none)
         ∧ (event → ∀ pid p h, s.partitions.get? pid = some p → s.halts.get? pid = some h → h.launch = none → h.resumeAt ≠ none →
             ∃ h', s'.halts.get? pid = some h' ∧ h'.resumeAt = none ∧ h'.taken = h.taken)
         ∧ (¬ event → s' = { s with dies := s'.dies })))
   ∧ (∀ s : State, ∃ s', exec .thermalEventClear s = .next s' ∧ s'.mem = s.mem ∧ s'.threads = s.threads ∧ s'.sched.stopped = false
     ∧ ∀ f, (s'.functions.getD f .reset).thalt = false))
  ∧ ((∀ s : State,
       let dead (s' : State) : Prop := s'.mem = s.mem ∧ s'.threads = s.threads ∧ s'.sched.failed = 2 ∧ hubStarts s' = false
         ∧ ∀ f, f < 64 → (s'.functions.getD f .reset).sfatal = true
       (s.sched.failed = 0 → ∃ s' t, exec .schedulerCoreError s = .next s' ∧ s'.mem = s.mem ∧ s'.threads = s.threads
           ∧ s'.sched.failed = 1 ∧ s'.sched.takeover = some t ∧ s.cyc < t ∧ t ≤ s.cyc + 30000)
       ∧ (s.sched.failed ≠ 0 → ∃ s', exec .schedulerCoreError s = .next s' ∧ dead s')
       ∧ (s.sched.failed = 1 → ∃ s', exec .standbyFailure s = .next s' ∧ dead s')
       ∧ (s.sched.failed = 0 → exec .standbyFailure s = .next { s with sched := { s.sched with failed := 3 } })
       ∧ (s.sched.failed ≠ 0 → s.sched.failed ≠ 1 → exec .standbyFailure s = .next s))
     ∧ (∀ (s : State) (rom mon pol : BootImage),
       let passes (x : BootImage) : Prop := Config.shake256 x.key = Config.vendorKeyDigest ∧ x.key.length = 1793
         ∧ x.signature.length ≤ 1280 ∧ Config.falconVerify x.key x.bytes x.signature = true ∧ Config.fusedVersion ≤ x.version
       let grow (m : List Byte) (x : BootImage) : List Byte := Config.shake256 (m ++ Config.shake256 x.bytes)
       let stops (n : Nat) (s' : State) : Prop := exec (.boot rom mon pol) s = .next s' ∧ s'.boot.failed = some n ∧ s'.boot.steps = n - 1
         ∧ hubStarts s' = false ∧ ∀ f, f < 64 → (s'.functions.getD f .reset).bootf = true
       (s.boot.steps ≠ 0 ∨ s.boot.failed ≠ none → exec (.boot rom mon pol) s = .next s)
       ∧ (s.boot.steps = 0 → s.boot.failed = none →
         (¬ passes mon → ∃ s', stops 2 s') ∧ (passes mon → ¬ passes pol → ∃ s', stops 3 s')
         ∧ (passes mon → passes pol → exec (.boot rom mon pol) s = .next { s with
             boot := ⟨3, none, grow (grow (grow s.boot.measure rom) mon) pol, [rom.version, mon.version, pol.version]⟩ }))))

/-- Halts. A request is for a partition or one launch of it, and is refused where another is in force, save a partition's
over a launch's. It takes effect in the first cycle without an open packet, a packet not accepted or a reserved queue
entry on its cores; 4,096 cycles after the request, threads with an open packet trap with E_LOST 2, and stop once the
record is written. A cluster that another partition is to use gives up its part of the halted context: its threads, and
the coded records of its dirty regions, from which the bytes, tags and Full bits of a region come back as they were.
Restores. A restore is refused where nothing is halted or the targets are not as the halted context needs them. Onto its
own clusters, whose kernels are loaded, it starts in the next cycle; issue resumes in the first cycle, 240 or more after
the start, that is congruent to the halt's modulo 64. Onto other clusters the bytes of dirty regions, every register and
every thread move with their cluster first. When issue resumes, what the halt held keeps its offsets: each pending time
after the halt is moved by the length of the halt. -/
def Obligations.HaltsAndRestores : Prop :=
  ((∀ (s : State) (pid : Nat),
     let no : Prop := ∃ d, exec .haltRequest s = .next { s with refused := some d }
     let halts (l : Option Nat) : Prop := ∃ s', exec .haltRequest s = .next s' ∧ s'.refused = none ∧ s'.mem = s.mem
       ∧ s'.threads = s.threads
       ∧ s'.halts.get? pid = some { requestedAt := s.cyc, launch := l, taken := none, older := none, events := [], clusters := []
                                    saved := [], resumeAt := none }
       ∧ ⟨s.cyc + 1, .haltTakeEffect, [pid]⟩ ∈ s'.pending ∧ ⟨s.cyc + 4096, .haltPacketTimeout, [pid, s.cyc]⟩ ∈ s'.pending
     (s.args = [pid] → (s.partitions.get? pid = none → no) ∧ ∀ p, s.partitions.get? pid = some p →
       (s.halts.get? pid = none → halts none)
       ∧ (∀ h, s.halts.get? pid = some h → h.launch = none → h.resumeAt = none → no)
       ∧ (∀ h, s.halts.get? pid = some h → h.launch = none → h.resumeAt ≠ none → exec .haltRequest s
           = .next { s with halts := s.halts.set pid { h with resumeAt := none }, refused := none })
       ∧ (∀ h l, s.halts.get? pid = some h → h.launch = some l → ∃ s' h', exec .haltRequest s = .next s' ∧ s'.refused = none
           ∧ s'.halts.get? pid = some h' ∧ h'.launch = none ∧ h'.taken = none ∧ h'.older = h.taken ∧ h'.requestedAt = s.cyc
           ∧ h'.resumeAt = none))
     ∧ ∀ l, s.args = [pid, l] →
       ((∀ x, s.launch? l = some x → x.pid ≠ pid ∨ x.st = .complete) ∨ s.partitions.get? pid = none ∨ s.halts.get? pid ≠ none → no)
       ∧ (∀ x p, s.launch? l = some x → x.pid = pid → x.st ≠ .complete → s.partitions.get? pid = some p → s.halts.get? pid = none →
           halts (some l)))
   ∧ (∀ (s : State) (pid : Nat) (h : Halt), s.args = [pid] → s.halts.get? pid = some h →
     let ls := haltLaunches s pid h
     (h.taken ≠ none → exec .haltTakeEffect s = .next s)
     ∧ (h.taken = none → haltReady s ls (haltCores s pid h) = false →
         exec .haltTakeEffect s = .next (later 1 .haltTakeEffect [pid] s))
     ∧ (h.taken = none → haltReady s ls (haltCores s pid h) = true → h.older = none → (∀ l ∈ ls, s.halted l = false) →
         ∃ s' h', exec .haltTakeEffect s = .next s' ∧ s'.mem = s.mem ∧ s'.gfile = s.gfile ∧ s'.wfile = s.wfile
           ∧ s'.threads = s.threads ∧ s'.halts.get? pid = some h' ∧ h'.taken = some s.cyc
           ∧ (∀ l ∈ ls, s'.halted l = true)
           ∧ (∀ p ∈ s.pending, heldByHalt s ls p = true → p ∈ h'.events)
           ∧ (∀ p ∈ s'.pending, heldByHalt s ls p = false)
           ∧ (∀ p ∈ s.pending, heldByHalt s ls p = false → droppedByHalt s ls p = false → p ∈ s'.pending)
           ∧ ∀ cl ∈ haltClusters s ls, (s'.cluster cl).larder = some pid))
   ∧ (∀ (s : State) (pid at_ : Nat) (h : Halt), s.args = [pid, at_] → s.halts.get? pid = some h →
     (h.taken ≠ none ∨ h.requestedAt ≠ at_ → exec .haltPacketTimeout s = .next s)
     ∧ (h.taken = none → h.requestedAt = at_ → ∃ s', exec .haltPacketTimeout s = .next s'
         ∧ (∀ key t p, s.thread? key = some t → t.packet = some p → coreOf key ∈ haltCores s pid h →
             ∃ t', s'.thread? key = some t' ∧ t'.st = .blocked ∧ t'.cause = some .record ∧ t'.packet = none ∧ t'.pc = t.pc)
         ∧ (SMap.sorted s.slots = true → ∀ key t p, (s.slot key).lent = some t → t.packet = some p →
             coreOf key ∈ haltCores s pid h → (s'.slot key).lent = some { t with packet := none, st := .blocked, cause := some .record })))
   ∧ (∀ (s : State) (cl pid : Nat) (h : Halt), s.args = [cl] → (s.cluster cl).larder = some pid → s.halts.get? pid = some h →
     (h.taken = none ∨ h.resumeAt ≠ none → exec .lazyRegionSave s = .next s)
     ∧ (h.taken ≠ none → h.resumeAt = none → clusterBusy s cl = true →
         exec .lazyRegionSave s = .next (later 1 .lazyRegionSave [cl] s))
     ∧ (h.taken ≠ none → h.resumeAt = none → clusterBusy s cl = false → ∃ s' h' x, exec .lazyRegionSave s = .next s'
         ∧ s'.halts.get? pid = some h' ∧ x ∈ h'.saved ∧ x.cluster = cl ∧ (s'.cluster cl).larder = none
         ∧ (∀ key t, s'.thread? key = some t → clusterOf (coreOf key) ≠ cl)
         ∧ (∀ key, x.threads.get? key = if clusterOf (coreOf key) = cl then s.thread? key else none)
         ∧ x.records = dirtyRecords s cl (goesAlong s pid cl)
         ∧ ∀ loc, readByte s' loc = if goesAlong s pid cl loc then unwritten else readByte s loc))
   ∧ (∀ (s u : State) (a b i r : Nat) (vault : Bool), i < 8 → r < (if vault then 0x270 else 32) →
       let from_ := if vault then vaultLoc a (4096 * r) else coreLoc (8 * a + i) (4096 * r)
       let dest := if vault then vaultLoc b (4096 * r) else coreLoc (8 * b + i) (4096 * r)
       let s' := putRecord b u (regionRecord s vault i r from_)
       (∀ o, o < 4096 → readByte s' (dest + o) = readByte s (from_ + o))
       ∧ (∀ x, x < dest ∨ dest + 4096 ≤ x → readByte s' x = readByte u x)
       ∧ (∀ g, g < 64 → s'.gtags.getD (dest / 64 + g) 0 = s.gtags.getD (from_ / 64 + g) 0)
       ∧ (vault = false → ∀ w, w < 512 → (dest / 8 + w ∈ s'.full ↔ from_ / 8 + w ∈ s.full))))
  ∧ ((∀ (s : State) (pid : Nat) (targets : List Nat), let ev : Instr := .restore pid targets
       let no : Prop := ∃ d, exec ev s = .next { s with refused := some d }
       (s.halts.get? pid = none → no)
       ∧ ∀ h, s.halts.get? pid = some h → let ls := haltLaunches s pid h
         (h.taken = none ∨ h.resumeAt ≠ none ∨ s.sched.stopped = true ∨ restoreAllowed s pid h ls targets = false
             ∨ targets.length ≠ h.clusters.length ∨ ¬ targets.Nodup
             ∨ (∃ cl ∈ targets, ∀ p, s.partitions.get? pid = some p → cl ∉ p.clusters) → no)
         ∧ ∀ t, h.taken = some t → h.resumeAt = none → s.sched.stopped = false → restoreAllowed s pid h ls targets = true →
           let still : Prop := h.saved = [] ∧ targets = h.clusters
           let waits : Prop := ∃ p ∈ s.pubs, ∃ l g k, p.2.after = .waitArrive l g k ∧ l ∈ ls
           let loaded : Prop := ∀ c ∈ codeClusters s ls, codeLoaded s c.1 c.2 = true
           let busy : Prop := ∃ cl ∈ h.clusters, (∀ x ∈ h.saved, x.cluster ≠ cl) ∧ clusterBusy s cl = true
           let again : Prop := ∃ s', exec ev s = .next s' ∧ s'.mem = s.mem ∧ s'.threads = s.threads
             ∧ ⟨s.cyc + 1, ev, []⟩ ∈ s'.pending
           (waits ∨ (still ∧ ¬ loaded) ∨ (¬ still ∧ (busy ∨ imagePages s ls ≠ [])) → again)
           ∧ (¬ waits → still → loaded → ∃ s' r h', exec ev s = .next s' ∧ s'.refused = none ∧ s'.mem = s.mem
               ∧ s'.threads = s.threads ∧ s.cyc + 1 + 240 ≤ r ∧ r ≤ s.cyc + 1 + 303 ∧ r % 64 = t % 64
               ∧ s'.halts.get? pid = some h' ∧ h'.resumeAt = some r ∧ h'.taken = some t
               ∧ ⟨r, .restoreIssueResume, [pid]⟩ ∈ s'.pending)
           ∧ (¬ waits → ¬ still → ¬ busy → imagePages s ls = [] → ∃ s' h', exec ev s = .next s' ∧ s'.refused = none
               ∧ s'.halts.get? pid = some h' ∧ h'.saved = [] ∧ h'.clusters = h.clusters.map (mapCl (h.clusters.zip targets))
               ∧ h'.taken = some t ∧ h'.resumeAt = none ∧ (∃ p ∈ s'.pending, p.ev = ev ∧ p.args = [])
               ∧ ∀ a b, h.clusters = [a] → targets = [b] → h.saved = [] → a < 2048 → b < 2048 →
                 SMap.sorted s.threads = true → SMap.sorted s.gfile = true →
                 (∀ i, i < 8 → ∀ r ∈ (s.core (8 * a + i)).dirty, r < 32) → (∀ r ∈ (s.cluster a).dirty, r < 0x270) →
                 (∀ i o, i < 8 → o < 2 ^ 17 → o / 4096 ∈ (s.core (8 * a + i)).dirty →
                     readByte s' (coreLoc (8 * b + i) o) = readByte s (coreLoc (8 * a + i) o))
                 ∧ (∀ i n, i < 8 → n < 2048 → s'.gfile.getD (gKey (8 * b + i) n) 0 = s.gfile.getD (gKey (8 * a + i) n) 0)
                 ∧ ∀ i j t, i < 8 → j < 64 → s.thread? (slotKey (8 * a + i) j) = some t →
                     ∃ t', s'.thread? (slotKey (8 * b + i) j) = some t' ∧ t' = { t with fe := t'.fe }))
     ∧ (∀ (s : State) (pid t r : Nat) (h : Halt), s.args = [pid] → s.halts.get? pid = some h → h.taken = some t → h.resumeAt = some r →
       let ls := (haltLaunches s pid h).filter s.halted
       (r ≠ s.cyc → exec .restoreIssueResume s = .next s)
       ∧ (r = s.cyc → ∃ s', exec .restoreIssueResume s = .next s' ∧ s'.mem = s.mem ∧ s'.gfile = s.gfile ∧ s'.wfile = s.wfile
           ∧ s'.halts.get? pid = none ∧ (∀ l ∈ ls, s'.halted l = false)
           ∧ (∀ p ∈ h.events, { p with at_ := p.at_ + (r - t) } ∈ s'.pending)
           ∧ (∀ cl ∈ h.clusters, (s'.cluster cl).larder = none)
           ∧ ∀ key u, s.thread? key = some u → let moves : Prop := u.launch ∈ ls ∧ ∃ y, s.group? u.launch u.group = some y ∧ y.started = true
             (¬ moves → s'.thread? key = some u)
             ∧ (moves → ∃ u', s'.thread? key = some u' ∧ u'.pc = u.pc ∧ u'.st = u.st ∧ u'.segs = u.segs ∧ u'.preds = u.preds
                 ∧ u'.readyAt = if t < u.readyAt then u.readyAt + (r - t) else u.readyAt))))

/-- Writes of the registers of BAR0. `HERR` clears where 1 is written; `CAP` only through the physical function; a queue's
block, of a function that sees the queue, takes the writes of R388 and R390, and `QIGN` clears where 1 is written; an
entry of the interrupt map takes its vector and enable; a word of the MSI-X table is kept, and a vector unmasked while
pending is sent. A write at an offset that is no multiple of 8, or to any other register, changes nothing. The host's
writes keep their order: one that comes while an earlier one waits is put behind it (log entry 53). The counters of a
cluster's error record clear where 1 is written. The root monitor sets a function's `B2DA` and `B2TAG`, and the
capability the size code of its BAR2. Reads of the registers of BAR0: each field of a queue's block, of a function's
control block, of a die's power register and of the interrupt map, with zeros in the bits that are reserved; a queue
that the function does not see, and a read-only range that is not there, read as zero. BAR2 and the DOE mailboxes. An
access beyond the size of BAR2 changes nothing (log entry 53). A read returns the bytes where each may be read, and
Completer Abort otherwise; a write is dropped where a byte may not be written, waits while a page migrates or a tile
holds a byte, and else stores its bytes and nothing more; a refusal is counted in `HERR`. Writes are performed in their
order, and a read waits for the writes before it (log entry 53). A request to a mailbox is answered later, unless
another comes first (log entry 31): with the types it serves, with the report of the partition and its signature of at
most 1,280 bytes for a nonce of 64 bytes, and only with the failed step's number once the boot chain has stopped. Claom
Link and routes. A data flit in sequence is received and acknowledged; one that fails its CRC or is out of sequence
draws a negative acknowledgement, and the expected number stands. An acknowledgement frees the flits up to its number; a
negative one, and the oldest flit 4,096 network cycles after it was sent, sends again what is not acknowledged; flits
that wait then go as far as the replay buffer of 512 takes them. A route is written for a module. -/
def Obligations.HostPortAndLinkEvents : Prop :=
  ((∀ (s : State) (cl : Nat) (v : BitVec 64), (∀ off, off ≠ 0 → exec (.registerWrite (.errors cl) off v) s = .next s)
     ∧ ∃ s', exec (.registerWrite (.errors cl) 0 v) s = .next s'
     ∧ s' = { s with clusters := s'.clusters } ∧ (∀ k, k ≠ cl → s'.cluster k = s.cluster k)
     ∧ s'.cluster cl = { s.cluster cl with err := { (s.cluster cl).err with
         ce := (s.cluster cl).err.ce &&& ~~~(v.setWidth 32), ue := (s.cluster cl).err.ue &&& ~~~(v.extractLsb' 32 16) } })
   ∧ (∀ (s : State) (f off : Nat) (v : BitVec 64), let x (s : State) : FuncSt := s.functions.getD f .reset
     let sets (ev : Instr) (y : FuncSt) : Prop := ∃ s', exec ev s = .next s' ∧ s' = { s with functions := s'.functions } ∧ x s' = y
     (f < 64 → sets (.registerWrite (.monitor f) 8 v) { x s with b2da := v.setWidth 56 }
       ∧ sets (.registerWrite (.monitor f) 0x10 v) { x s with b2tag := v.setWidth 16 }
       ∧ (v.toNat ≤ 6 → sets (.registerWrite (.rebar f) off v) { x s with bar2Code := v.setWidth 3 })
       ∧ (off ≠ 8 → off ≠ 0x10 → sets (.registerWrite (.monitor f) off v) (x s)))
     ∧ (64 ≤ f ∨ 6 < v.toNat → exec (.registerWrite (.rebar f) off v) s = .next s))
   ∧ (∀ (s : State) (f off : Nat) (v : BitVec 64), s.posted ≠ [] →
     exec (.registerWrite (.bar0 f) off v) s = .next { s with posted := s.posted ++ [.register f off v] })
   ∧ ∀ (s : State) (f off : Nat) (v : BitVec 64), f < 64 → s.posted = [] →
     let ev : Instr := .registerWrite (.bar0 f) off v
     let x (s : State) : FuncSt := s.functions.getD f .reset
     let sees (q : Nat) : Prop := q < 1024 ∧ (f = 0 ∨ ∃ pid p, queuePart s q = some (pid, p) ∧ p.vfn = f)
     (s.boot.failed ≠ none ∨ off % 8 ≠ 0 → exec ev s = .next s)
     ∧ (s.boot.failed = none →
       (off = 0x18 → ∃ s', exec ev s = .next s' ∧ s' = { s with functions := s'.functions }
         ∧ x s' = { x s with herr := (x s).herr &&& ~~~(v.setWidth 32) })
       ∧ (∀ d, d < 8 → off = 0x100 + 8 * d → f = 0 → exec ev s = exec (.cap d (v.setWidth 12)) s)
       ∧ (∀ d, d < 8 → off = 0x100 + 8 * d → f ≠ 0 → exec ev s = .next s)
       ∧ (∀ q, q < 1024 →
         (¬ sees q → ∀ r, r < 8 → off = 0x100000 + 64 * q + 8 * r ∨ off = 0x200000 + 8 * q → exec ev s = .next s)
         ∧ (sees q → (off = 0x100000 + 64 * q → exec ev s = exec (.qbase q v) s)
           ∧ (off = 0x100008 + 64 * q → exec ev s = exec (.qctl q v) s)
           ∧ (off = 0x100010 + 64 * q → exec ev s = exec (.qkick q (v.setWidth 32)) s)
           ∧ (off = 0x100018 + 64 * q ∨ off = 0x100020 + 64 * q → exec ev s = .next s)
           ∧ (off = 0x100028 + 64 * q → ∃ s', exec ev s = .next s' ∧ s' = { s with hqueues := s'.hqueues }
               ∧ s'.hq q = { s.hq q with qign := (s.hq q).qign &&& ~~~(v.setWidth 16) })
           ∧ (off = 0x200000 + 8 * q → ∃ s', exec ev s = .next s' ∧ s' = { s with intMap := s'.intMap }
               ∧ s'.intMap.getD q ⟨0, false⟩ = ⟨v.setWidth 5, v.getLsbD 7⟩)))
       ∧ (∀ n, n < 32 → off = 0x300000 + 16 * n → ∃ s', exec ev s = .next s' ∧ s' = { s with functions := s'.functions }
           ∧ x s' = { x s with table := (x s).table.set (2 * n) v })
       ∧ (∀ n, n < 32 → off = 0x300008 + 16 * n → ∃ s', exec ev s = .next s' ∧ s' = { s with functions := s'.functions }
           ∧ (x s').table = (x s).table.set (2 * n + 1) v ∧ (n ∈ (x s').masked ↔ v.getLsbD 32 = true)
           ∧ (v.getLsbD 32 = false → n ∈ (x s).msiPending → (x s').msiSent = (x s).msiSent ++ [n] ∧ n ∉ (x s').msiPending)
           ∧ (v.getLsbD 32 = true → (x s').msiPending = (x s).msiPending ∧ (x s').msiSent = (x s).msiSent))
       ∧ (let known : Prop := off = 0x18 ∨ (f = 0 ∧ 0x100 ≤ off ∧ off < 0x140)
             ∨ (0x100000 ≤ off ∧ off < 0x110000 ∧ (off % 64 = 0 ∨ off % 64 = 8 ∨ off % 64 = 0x10 ∨ off % 64 = 0x28))
             ∨ (0x200000 ≤ off ∧ off < 0x202000) ∨ (0x300000 ≤ off ∧ off < 0x300200)
         ¬ known → exec ev s = .next s)))
  ∧ (∀ (s : State) (f : Nat), f < 64 → s.boot.failed = none →
       let x : FuncSt := s.functions.getD f .reset
       let r (off : Nat) : BitVec 64 := readBar0 s f off
       let sees (q : Nat) : Prop := f = 0 ∨ ∃ pid p, queuePart s q = some (pid, p) ∧ p.vfn = f
       ((r 0).extractLsb' 0 6 = BitVec.ofNat 6 f ∧ (r 0).getLsbD 6 = x.bootf ∧ (r 0).extractLsb' 7 57 = 0)
       ∧ ((r 0x08).setWidth 56 = x.b2da ∧ (r 0x08).extractLsb' 56 8 = 0)
       ∧ ((r 0x10).setWidth 16 = x.b2tag ∧ (r 0x10).extractLsb' 16 48 = 0)
       ∧ ((r 0x18).setWidth 32 = x.herr ∧ (r 0x18).extractLsb' 32 32 = 0)
       ∧ ((r 0x20).getLsbD 0 = x.thalt ∧ (r 0x20).getLsbD 1 = x.sfatal ∧ (r 0x20).extractLsb' 2 62 = 0)
       ∧ (∀ d, d < 8 → let v := r (0x100 + 8 * d)
           (f ≠ 0 → v = 0)
           ∧ (f = 0 → v.extractLsb' 0 12 = (s.die d).cap ∧ v.extractLsb' 12 12 = (s.die d).ecap ∧ v.extractLsb' 24 8 = (s.die d).temp
             ∧ v.getLsbD 32 = (s.die d).hot ∧ v.extractLsb' 33 31 = 0))
       ∧ ∀ q, q < 1024 → let h := s.hq q
         let at_ (o : Nat) : BitVec 64 := r (0x100000 + 64 * q + o)
         let e := s.intMap.getD q ⟨0, false⟩
         (¬ sees q → (∀ o, o < 8 → at_ (8 * o) = 0) ∧ r (0x200000 + 8 * q) = 0)
         ∧ (sees q →
           ((at_ 0).setWidth 56 = h.qbase ∧ (at_ 0).extractLsb' 56 8 = 0)
           ∧ ((at_ 8).extractLsb' 0 4 = h.qsize ∧ (at_ 8).getLsbD 4 = h.qhost ∧ (at_ 8).extractLsb' 5 11 = 0
             ∧ (at_ 8).extractLsb' 16 10 = h.job ∧ (at_ 8).extractLsb' 26 5 = 0 ∧ (at_ 8).getLsbD 31 = h.en
             ∧ (at_ 8).extractLsb' 32 32 = 0)
           ∧ at_ 16 = h.qkick.setWidth 64 ∧ at_ 24 = h.qread.setWidth 64 ∧ at_ 32 = h.qdone.setWidth 64
           ∧ at_ 40 = h.qign.setWidth 64 ∧ at_ 48 = 0 ∧ at_ 56 = 0
           ∧ (r (0x200000 + 8 * q)).extractLsb' 0 5 = e.vec ∧ (r (0x200000 + 8 * q)).getLsbD 7 = e.ien
           ∧ (r (0x200000 + 8 * q)).extractLsb' 5 2 = 0 ∧ (r (0x200000 + 8 * q)).extractLsb' 8 56 = 0))
  ∧ ((∀ (s : State) (f off n : Nat), s.args = [f, off, n] →
       let x (s : State) : FuncSt := s.functions.getD f .reset
       let counted (s' : State) : Prop := (x s').herr = if (x s).herr = BitVec.allOnes 32 then (x s).herr else (x s).herr + 1
       let inside : Prop := f < 64 ∧ off + n ≤ 2 ^ (30 + min (x s).bar2Code.toNat 6)
       (¬ inside → exec .bar2Read s = .next s)
       ∧ (inside → s.posted ≠ [] → exec .bar2Read s = .next (later 1 .bar2Read [f, off, n] s))
       ∧ (inside → s.posted = [] → ∃ s', exec .bar2Read s = .next s' ∧ s' = { s with functions := s'.functions }
         ∧ (∀ ls, bar2Bytes s (x s) false off n = some ls → (x s').bar2 = some (ls.map fun l => readByte s l.1) ∧ (x s').herr = (x s).herr)
         ∧ (bar2Bytes s (x s) false off n = none → (x s').bar2 = none ∧ counted s')))
     ∧ (∀ (s : State) (f off : Nat) (bs : List (BitVec 8)), s.args = [] →
       let ev : Instr := .bar2Write f off bs
       let x (s : State) : FuncSt := s.functions.getD f .reset
       let inside : Prop := f < 64 ∧ off + bs.length ≤ 2 ^ (30 + min (x s).bar2Code.toNat 6)
       (¬ inside → exec ev s = .next s)
       ∧ (inside → s.posted ≠ [] → exec ev s = .next { s with posted := s.posted ++ [.memory f off bs] })
       ∧ (inside → s.posted = [] → bar2Bytes s (x s) true off bs.length = none → ∃ s', exec ev s = .next s' ∧ s' = { s with functions := s'.functions }
         ∧ (x s').herr = if (x s).herr = BitVec.allOnes 32 then (x s).herr else (x s).herr + 1)
       ∧ ∀ ls, inside → s.posted = [] → bar2Bytes s (x s) true off bs.length = some ls →
         ((∃ l ∈ ls, l.2 = true ∨ tileHolds s l.1 1 = true) →
             exec ev s = .next (later 1 (.bar2Write 0 0 []) [0] { s with posted := [.memory f off bs] }))
         ∧ ((∀ l ∈ ls, l.2 = false ∧ tileHolds s l.1 1 = false) → (ls.map (·.1)).Nodup → ∃ s', exec ev s = .next s'
             ∧ s'.threads = s.threads ∧ s'.gtags = s.gtags
             ∧ (∀ (k : Nat) (l : Nat × Bool) (b : BitVec 8), ls[k]? = some l → bs[k]? = some b → readByte s' l.1 = b)
             ∧ ∀ a, a ∉ ls.map (·.1) → readByte s' a = readByte s a))
     ∧ (∀ (s : State) (a b k : Nat) (bs : List (BitVec 8)) (w : HostWrite) (r : List HostWrite), s.args = [k] → s.posted = w :: r →
       let ev : Instr := .bar2Write a b bs
       let s0 : State := { s with posted := [] }
       (∀ f off v, r = [] → w = .register f off v → exec ev s = exec (.registerWrite (.bar0 f) off v) s0)
       ∧ (∀ q v, r = [] → w = .kick q v → exec ev s = exec (.qkick q v) s0)
       ∧ (∀ f off cs ls, w = .memory f off cs → bar2Bytes s (s.functions.getD f .reset) true off cs.length = some ls →
           (∃ l ∈ ls, l.2 = true ∨ tileHolds s l.1 1 = true) → exec ev s = .next (later 1 (.bar2Write 0 0 []) [0] s))
       ∧ ∀ f off cs, r = [] → w = .memory f off cs → let x (s : State) : FuncSt := s.functions.getD f .reset
         (bar2Bytes s (x s) true off cs.length = none → ∃ s', exec ev s = .next s' ∧ s' = { s0 with functions := s'.functions }
           ∧ (x s').herr = if (x s).herr = BitVec.allOnes 32 then (x s).herr else (x s).herr + 1)
         ∧ ∀ ls, bar2Bytes s (x s) true off cs.length = some ls → (∀ l ∈ ls, l.2 = false ∧ tileHolds s l.1 1 = false) →
             (ls.map (·.1)).Nodup → ∃ s', exec ev s = .next s' ∧ s'.posted = [] ∧ s'.threads = s.threads
               ∧ (∀ (k : Nat) (l : Nat × Bool) (c : BitVec 8), ls[k]? = some l → cs[k]? = some c → readByte s' l.1 = c)
               ∧ ∀ a, a ∉ ls.map (·.1) → readByte s' a = readByte s a)
     ∧ (∀ (s : State) (tag : BitVec 16) (store : Bool) (da : Nat) (e : PageEntry) (p : Partition) (pid : Nat), isWindow da = false →
       walk s tag da = some e → s.partOf tag = some p → s.pidOf tag = some pid →
       let right := if store then e.w else e.r
       let pa := e.frame.toNat * 2 ^ 17
       (right = false → bar2Byte s tag store da = none)
       ∧ (e.tier.toNat < 2 → (∀ f ∈ p.frames, f.1 = e.tier.toNat → pa < f.2.1 ∨ f.2.2 < pa) → bar2Byte s tag store da = none)
       ∧ (right = true → (2 ≤ e.tier.toNat ∨ ∃ f ∈ p.frames, f.1 = e.tier.toNat ∧ f.2.1 ≤ pa ∧ pa ≤ f.2.2) → ∀ loc,
           pageLoc pid e da = some loc → bar2Byte s tag store da = some (loc, e.mg)))
     ∧ (∀ (s : State) (f : Nat) (nonce object : List (BitVec 8)),
       let x (s : State) : FuncSt := s.functions.getD f .reset
       let asks (ev : Instr) (as : List Nat) : Prop := ∃ s' t, exec ev s = .next s' ∧ s'.mem = s.mem ∧ s'.threads = s.threads
         ∧ x s' = { x s with doe := [], doeRequests := (x s).doeRequests + 1, doeBusy := true } ∧ s.cyc < t
         ∧ s'.pending = s.pending ++ [⟨t, ev, as ++ [(x s).doeRequests + 1]⟩]
       let answers (ev : Instr) (n : Nat) (bs : List Byte) : Prop :=
         ((x s).doeBusy = false ∨ (x s).doeRequests ≠ n → exec ev s = .next s)
         ∧ ((x s).doeBusy = true → (x s).doeRequests = n → ∃ s', exec ev s = .next s' ∧ s' = { s with functions := s'.functions }
           ∧ (x s').doeBusy = false ∧ (x s').doe = match s.boot.failed with
             | some step => [BitVec.ofNat 8 step]
             | none => bs)
       let report := attestationReport s f nonce
       let types := doeEntries Config.doeTypes
       (f < 64 → (s.args = [f] → asks .doeDiscovery [f])
         ∧ (s.args = [] → asks (.doeIdeKm f object) [] ∧ asks (.doeAttestation f nonce) []))
       ∧ (∀ n, s.args = [f, n] → answers .doeDiscovery n types)
       ∧ (∀ n, s.args = [n] → answers (.doeIdeKm f object) n (Config.ideKmResponse object)
           ∧ answers (.doeAttestation f nonce) n (if nonce.length = 64 then report ++ (Config.falconSign report).take 1280 else []))
       ∧ types.length = 12 ∧ types.take 4 = [1, 0, 0, 1] ∧ (types.drop 4).take 4 = [1, 0, Config.ideKmType, 2]
       ∧ (types.drop 8).drop 2 = [0x80, 0]))
  ∧ ((∀ (s : State) (port : Nat) (f : LinkFlit), let x := s.link port
       let ev : Instr := .linkFlitReceive port f
       let nack : Prop := ∃ s' c, exec ev s = .next s' ∧ s' = { s with links := s'.links }
         ∧ s'.link port = { x with out := x.out ++ [c] } ∧ c.kind = 3 ∧ c.ackSeq = x.expected ∧ c.dst = f.src
       let acked (e : LinkFlit × Nat) : Prop := (f.ackSeq - e.1.seq).toNat < 2 ^ 11
       let before (e : LinkFlit × Nat) : Prop := ¬ (e.1.seq - f.ackSeq).toNat < 2 ^ 11
       (16 ≤ port → exec ev s = .next s)
       ∧ (port < 16 → Config.crc32 (flitBody f) ≠ f.crc → nack)
       ∧ (port < 16 → Config.crc32 (flitBody f) = f.crc → f.kind = 1 → f.seq ≠ x.expected → nack)
       ∧ (port < 16 → Config.crc32 (flitBody f) = f.crc → f.kind = 1 → f.seq = x.expected →
           ∃ s' c, exec ev s = .next s' ∧ s' = { s with links := s'.links }
             ∧ s'.link port = { x with expected := x.expected + 1, received := x.received ++ [f], out := x.out ++ [c] }
             ∧ c.kind = 2 ∧ c.ackSeq = f.seq ∧ c.dst = f.src)
       ∧ (port < 16 → Config.crc32 (flitBody f) = f.crc → f.kind = 2 → ∃ s' more, exec ev s = .next s' ∧ s'.mem = s.mem
           ∧ s'.threads = s.threads ∧ (s'.link port).replay = x.replay.filter (fun e => decide (¬ acked e)) ++ more
           ∧ x.waiting = more.map (·.1) ++ (s'.link port).waiting ∧ (s'.link port).expected = x.expected
           ∧ ((s'.link port).waiting = [] ∨ 512 ≤ (s'.link port).replay.length))
       ∧ (port < 16 → Config.crc32 (flitBody f) = f.crc → f.kind = 3 → ∃ s', exec ev s = .next s' ∧ s'.mem = s.mem
           ∧ s'.threads = s.threads
           ∧ let again := (x.replay.filter fun e => decide (¬ before e)).map (·.1)
             ∃ more, (s'.link port).out = x.out ++ again ++ more.map (·.1) ∧ (s'.link port).replay = (again.map fun g => (g, s.cyc)) ++ more
               ∧ x.waiting = more.map (·.1) ++ (s'.link port).waiting
               ∧ ((s'.link port).waiting = [] ∨ 512 ≤ (s'.link port).replay.length))
       ∧ (port < 16 → Config.crc32 (flitBody f) = f.crc → f.kind ≠ 1 → f.kind ≠ 2 → f.kind ≠ 3 → exec ev s = .next s))
     ∧ (∀ (s : State) (port seq : Nat), s.args = [port, seq] → let x := s.link port
       ((∀ e ∈ x.replay.head?, e.1.seq.toNat ≠ seq ∨ s.cyc < e.2 + 2048) → exec .linkReplayTimeout s = .next s)
       ∧ ∀ e, x.replay.head? = some e → e.1.seq.toNat = seq → e.2 + 2048 ≤ s.cyc → ∃ s', exec .linkReplayTimeout s = .next s'
           ∧ s'.mem = s.mem ∧ (s'.link port).out = x.out ++ x.replay.map (·.1)
           ∧ (s'.link port).replay = x.replay.map fun g => (g.1, s.cyc))
     ∧ (∀ (s : State) (m : Nat) (mask : BitVec 16), ∃ s', exec (.routeTableWrite m mask) s = .next s'
       ∧ s' = { s with routes := s'.routes, refused := s'.refused }
       ∧ (4096 ≤ m → s'.refused = some .form ∧ s'.routes = s.routes)
       ∧ (m < 4096 → s'.refused = none ∧ s'.routes.getD m 0 = mask ∧ ∀ k, k ≠ m → s'.routes.getD k 0 = s.routes.getD k 0)))

/-! ### An invariant -/

/-- Every step keeps the canonical form of memory: addresses rise strictly, and no byte is listed that an unlisted address reads
as. Reset has the form (`ResetState`). -/
def Obligations.MemoryStaysCanonical : Prop :=
  ∀ s s' : State, Memory.wf s.mem → step s = .next s' → Memory.wf s'.mem
end

