-- ==== Sys2Proof/Laws/SMap.lean ====
section
/-! SUPPORT. Laws of finite maps: what is read after a store, and that every operation keeps the canonical form. -/

namespace Sys2Proof.Machine.SMap

variable {α : Type}

theorem get?_set (m : SMap α) (n k : Nat) (v : α) : (set m n v).get? k = if k = n then some v else m.get? k := by
  fun_induction set m n v <;> grind [get?]

@[simp] theorem get?_set_self (m : SMap α) (n : Nat) (v : α) : (set m n v).get? n = some v := by simp [get?_set]

theorem get?_erase (m : SMap α) (n k : Nat) : (erase m n).get? k = if k = n then none else m.get? k := by
  fun_induction erase m n <;> grind [get?]

@[simp] theorem getD_set_self (m : SMap α) (n : Nat) (v d : α) : (set m n v).getD n d = v := by simp [getD]

theorem getD_set_ne (m : SMap α) {n k : Nat} (v d : α) (h : k ≠ n) : (set m n v).getD k d = m.getD k d := by
  simp [getD, get?_set, h]

/-- What a map reads as after a store. -/
theorem getD_put [DecidableEq α] (m : SMap α) (d v : α) (n k : Nat) :
    (put m d n v).getD k d = if k = n then v else m.getD k d := by
  simp only [put, getD]
  split
  · rename_i h; rw [get?_erase]; split <;> simp_all
  · rw [get?_set]; split <;> simp

@[simp] theorem getD_put_self [DecidableEq α] (m : SMap α) (d v : α) (n : Nat) : (put m d n v).getD n d = v := by simp [getD_put]

theorem getD_put_ne [DecidableEq α] (m : SMap α) {d v : α} {n k : Nat} (h : k ≠ n) : (put m d n v).getD k d = m.getD k d := by
  simp [getD_put, h]

/-! ### The canonical form -/

/-- A map whose keys rise above a bound rises above a lower one. -/
theorem sortedFrom_weaken {m : SMap α} {lo : Nat} {b : Option Nat} (h : sortedFrom (some lo) m = true)
    (hb : ∀ x, b = some x → x ≤ lo) : sortedFrom b m = true := by
  cases m with
  | nil => cases b <;> rfl
  | cons e r =>
    obtain ⟨k, v⟩ := e
    simp only [sortedFrom, Bool.and_eq_true, decide_eq_true_eq] at h
    cases b with
    | none => exact h.2
    | some x => have := hb x rfl; simp only [sortedFrom, Bool.and_eq_true, decide_eq_true_eq]; exact ⟨by omega, h.2⟩

/-- The part of a canonical map after its first entry. -/
theorem sortedFrom_tail {b : Option Nat} {k : Nat} {v : α} {r : SMap α} (h : sortedFrom b ((k, v) :: r) = true) :
    sortedFrom (some k) r = true := by
  cases b with
  | none => exact h
  | some x => simp only [sortedFrom, Bool.and_eq_true] at h; exact h.2

theorem sortedFrom_cons {b : Option Nat} {k : Nat} {v w : α} {r r' : SMap α} (h : sortedFrom b ((k, v) :: r) = true)
    (h' : sortedFrom (some k) r' = true) : sortedFrom b ((k, w) :: r') = true := by
  cases b with
  | none => exact h'
  | some x => simp only [sortedFrom, Bool.and_eq_true] at h ⊢; exact ⟨h.1, h'⟩

theorem sortedFrom_set {m : SMap α} {b : Option Nat} {n : Nat} {v : α} (h : sortedFrom b m = true)
    (hb : ∀ x, b = some x → x < n) : sortedFrom b (set m n v) = true := by
  fun_induction set m n v generalizing b with
  | case1 => cases b <;> simp_all [sortedFrom]
  | case2 => exact sortedFrom_cons h (sortedFrom_tail h)
  | case3 k w r n _ _ hlt =>
    have ht : sortedFrom (some n) ((k, w) :: r) = true := by simp [sortedFrom, hlt, sortedFrom_tail h]
    cases b <;> simp_all [sortedFrom]
  | case4 k w r n v hne hle ih =>
    exact sortedFrom_cons h (ih (sortedFrom_tail h) fun x hx => by cases hx; omega)

/-- Every key of a rising map lies above its bound. -/
theorem sortedFrom_bound {x k : Nat} {v : α} {r : SMap α} (h : sortedFrom (some x) ((k, v) :: r) = true) : x ≤ k := by
  simp only [sortedFrom, Bool.and_eq_true, decide_eq_true_eq] at h; omega

/-- A rising map without its first entry rises from the same bound. -/
theorem sortedFrom_drop {b : Option Nat} {k : Nat} {v : α} {r : SMap α} (h : sortedFrom b ((k, v) :: r) = true) :
    sortedFrom b r = true :=
  sortedFrom_weaken (sortedFrom_tail h) fun _ hx => sortedFrom_bound (hx ▸ h)

theorem sortedFrom_erase {m : SMap α} {b : Option Nat} {n : Nat} (h : sortedFrom b m = true) :
    sortedFrom b (erase m n) = true := by
  fun_induction erase m n generalizing b with
  | case1 => exact h
  | case2 => rename_i ih; exact ih (sortedFrom_drop h)
  | case3 => rename_i ih; exact sortedFrom_cons h (ih (sortedFrom_tail h))

theorem sorted_put [DecidableEq α] {m : SMap α} (d v : α) (n : Nat) (h : sorted m = true) : sorted (put m d n v) = true := by
  unfold put sorted
  split
  · exact sortedFrom_erase h
  · exact sortedFrom_set h (by simp)

theorem sortedFrom_filter {m : SMap α} {b : Option Nat} (p : Nat × α → Bool) (h : sortedFrom b m = true) :
    sortedFrom b (m.filter p) = true := by
  induction m generalizing b with
  | nil => exact h
  | cons e r ih =>
    cases hp : p e
    · simpa [hp] using ih (sortedFrom_drop h)
    · simpa [hp] using sortedFrom_cons h (ih (sortedFrom_tail h))

theorem sorted_filter {m : SMap α} (p : Nat × α → Bool) (h : sorted m = true) : sorted (m.filter p) = true := sortedFrom_filter p h

/-- The entries of a map with one stored. -/
theorem mem_set {m : SMap α} {n : Nat} {v : α} {e : Nat × α} : e ∈ set m n v → e = (n, v) ∨ e ∈ m := by
  fun_induction set m n v <;> grind

theorem mem_erase {m : SMap α} {n : Nat} {e : Nat × α} : e ∈ erase m n → e ∈ m := by
  fun_induction erase m n <;> grind

end Sys2Proof.Machine.SMap
end

