-- ==== Sys2Proof/Laws/State.lean ====
section
/-! SUPPORT. The parts of the state after each named update: one lemma for each field and update, and what an update leaves of
the other entries of the part that it changes. -/

namespace Sys2Proof.Machine.State

/-! ### `setCore` -/

section
variable (s : State) (n : Nat) (c : CoreSt)

@[simp] theorem setCore_cyc : (s.setCore n c).cyc = s.cyc := rfl
@[simp] theorem setCore_phase : (s.setCore n c).phase = s.phase := rfl
@[simp] theorem setCore_turn : (s.setCore n c).turn = s.turn := rfl
@[simp] theorem setCore_cur : (s.setCore n c).cur = s.cur := rfl
@[simp] theorem setCore_args : (s.setCore n c).args = s.args := rfl
@[simp] theorem setCore_pending : (s.setCore n c).pending = s.pending := rfl
@[simp] theorem setCore_fresh : (s.setCore n c).fresh = s.fresh := rfl
@[simp] theorem setCore_threads : (s.setCore n c).threads = s.threads := rfl
@[simp] theorem setCore_slots : (s.setCore n c).slots = s.slots := rfl
@[simp] theorem setCore_gfile : (s.setCore n c).gfile = s.gfile := rfl
@[simp] theorem setCore_wfile : (s.setCore n c).wfile = s.wfile := rfl
@[simp] theorem setCore_clusters : (s.setCore n c).clusters = s.clusters := rfl
@[simp] theorem setCore_mem : (s.setCore n c).mem = s.mem := rfl
@[simp] theorem setCore_past : (s.setCore n c).past = s.past := rfl
@[simp] theorem setCore_rels : (s.setCore n c).rels = s.rels := rfl
@[simp] theorem setCore_done : (s.setCore n c).done = s.done := rfl
@[simp] theorem setCore_full : (s.setCore n c).full = s.full := rfl
@[simp] theorem setCore_gtags : (s.setCore n c).gtags = s.gtags := rfl
@[simp] theorem setCore_errs : (s.setCore n c).errs = s.errs := rfl
@[simp] theorem setCore_contexts : (s.setCore n c).contexts = s.contexts := rfl
@[simp] theorem setCore_counters : (s.setCore n c).counters = s.counters := rfl
@[simp] theorem setCore_partitions : (s.setCore n c).partitions = s.partitions := rfl
@[simp] theorem setCore_kickPages : (s.setCore n c).kickPages = s.kickPages := rfl
@[simp] theorem setCore_futures : (s.setCore n c).futures = s.futures := rfl
@[simp] theorem setCore_trapOut : (s.setCore n c).trapOut = s.trapOut := rfl
@[simp] theorem setCore_trapHeld : (s.setCore n c).trapHeld = s.trapHeld := rfl
@[simp] theorem setCore_framePool : (s.setCore n c).framePool = s.framePool := rfl
@[simp] theorem setCore_launches : (s.setCore n c).launches = s.launches := rfl
@[simp] theorem setCore_groups : (s.setCore n c).groups = s.groups := rfl
@[simp] theorem setCore_graphs : (s.setCore n c).graphs = s.graphs := rfl
@[simp] theorem setCore_hqueues : (s.setCore n c).hqueues = s.hqueues := rfl
@[simp] theorem setCore_pubs : (s.setCore n c).pubs = s.pubs := rfl
@[simp] theorem setCore_reqs : (s.setCore n c).reqs = s.reqs := rfl
@[simp] theorem setCore_deposits : (s.setCore n c).deposits = s.deposits := rfl
@[simp] theorem setCore_packets : (s.setCore n c).packets = s.packets := rfl
@[simp] theorem setCore_fabops : (s.setCore n c).fabops = s.fabops := rfl
@[simp] theorem setCore_fences : (s.setCore n c).fences = s.fences := rfl
@[simp] theorem setCore_nextId : (s.setCore n c).nextId = s.nextId := rfl
@[simp] theorem setCore_halts : (s.setCore n c).halts = s.halts := rfl
@[simp] theorem setCore_dies : (s.setCore n c).dies = s.dies := rfl
@[simp] theorem setCore_functions : (s.setCore n c).functions = s.functions := rfl
@[simp] theorem setCore_intMap : (s.setCore n c).intMap = s.intMap := rfl
@[simp] theorem setCore_links : (s.setCore n c).links = s.links := rfl
@[simp] theorem setCore_routes : (s.setCore n c).routes = s.routes := rfl
@[simp] theorem setCore_sched : (s.setCore n c).sched = s.sched := rfl
@[simp] theorem setCore_boot : (s.setCore n c).boot = s.boot := rfl
@[simp] theorem setCore_traces : (s.setCore n c).traces = s.traces := rfl
@[simp] theorem setCore_refused : (s.setCore n c).refused = s.refused := rfl
@[simp] theorem setCore_served : (s.setCore n c).served = s.served := rfl
@[simp] theorem setCore_posted : (s.setCore n c).posted = s.posted := rfl

end

/-! ### `setCluster` -/

section
variable (s : State) (n : Nat) (c : ClusterSt)

@[simp] theorem setCluster_cyc : (s.setCluster n c).cyc = s.cyc := rfl
@[simp] theorem setCluster_phase : (s.setCluster n c).phase = s.phase := rfl
@[simp] theorem setCluster_turn : (s.setCluster n c).turn = s.turn := rfl
@[simp] theorem setCluster_cur : (s.setCluster n c).cur = s.cur := rfl
@[simp] theorem setCluster_args : (s.setCluster n c).args = s.args := rfl
@[simp] theorem setCluster_pending : (s.setCluster n c).pending = s.pending := rfl
@[simp] theorem setCluster_fresh : (s.setCluster n c).fresh = s.fresh := rfl
@[simp] theorem setCluster_threads : (s.setCluster n c).threads = s.threads := rfl
@[simp] theorem setCluster_slots : (s.setCluster n c).slots = s.slots := rfl
@[simp] theorem setCluster_gfile : (s.setCluster n c).gfile = s.gfile := rfl
@[simp] theorem setCluster_wfile : (s.setCluster n c).wfile = s.wfile := rfl
@[simp] theorem setCluster_cores : (s.setCluster n c).cores = s.cores := rfl
@[simp] theorem setCluster_mem : (s.setCluster n c).mem = s.mem := rfl
@[simp] theorem setCluster_past : (s.setCluster n c).past = s.past := rfl
@[simp] theorem setCluster_rels : (s.setCluster n c).rels = s.rels := rfl
@[simp] theorem setCluster_done : (s.setCluster n c).done = s.done := rfl
@[simp] theorem setCluster_full : (s.setCluster n c).full = s.full := rfl
@[simp] theorem setCluster_gtags : (s.setCluster n c).gtags = s.gtags := rfl
@[simp] theorem setCluster_errs : (s.setCluster n c).errs = s.errs := rfl
@[simp] theorem setCluster_contexts : (s.setCluster n c).contexts = s.contexts := rfl
@[simp] theorem setCluster_counters : (s.setCluster n c).counters = s.counters := rfl
@[simp] theorem setCluster_partitions : (s.setCluster n c).partitions = s.partitions := rfl
@[simp] theorem setCluster_kickPages : (s.setCluster n c).kickPages = s.kickPages := rfl
@[simp] theorem setCluster_futures : (s.setCluster n c).futures = s.futures := rfl
@[simp] theorem setCluster_trapOut : (s.setCluster n c).trapOut = s.trapOut := rfl
@[simp] theorem setCluster_trapHeld : (s.setCluster n c).trapHeld = s.trapHeld := rfl
@[simp] theorem setCluster_framePool : (s.setCluster n c).framePool = s.framePool := rfl
@[simp] theorem setCluster_launches : (s.setCluster n c).launches = s.launches := rfl
@[simp] theorem setCluster_groups : (s.setCluster n c).groups = s.groups := rfl
@[simp] theorem setCluster_graphs : (s.setCluster n c).graphs = s.graphs := rfl
@[simp] theorem setCluster_hqueues : (s.setCluster n c).hqueues = s.hqueues := rfl
@[simp] theorem setCluster_pubs : (s.setCluster n c).pubs = s.pubs := rfl
@[simp] theorem setCluster_reqs : (s.setCluster n c).reqs = s.reqs := rfl
@[simp] theorem setCluster_deposits : (s.setCluster n c).deposits = s.deposits := rfl
@[simp] theorem setCluster_packets : (s.setCluster n c).packets = s.packets := rfl
@[simp] theorem setCluster_fabops : (s.setCluster n c).fabops = s.fabops := rfl
@[simp] theorem setCluster_fences : (s.setCluster n c).fences = s.fences := rfl
@[simp] theorem setCluster_nextId : (s.setCluster n c).nextId = s.nextId := rfl
@[simp] theorem setCluster_halts : (s.setCluster n c).halts = s.halts := rfl
@[simp] theorem setCluster_dies : (s.setCluster n c).dies = s.dies := rfl
@[simp] theorem setCluster_functions : (s.setCluster n c).functions = s.functions := rfl
@[simp] theorem setCluster_intMap : (s.setCluster n c).intMap = s.intMap := rfl
@[simp] theorem setCluster_links : (s.setCluster n c).links = s.links := rfl
@[simp] theorem setCluster_routes : (s.setCluster n c).routes = s.routes := rfl
@[simp] theorem setCluster_sched : (s.setCluster n c).sched = s.sched := rfl
@[simp] theorem setCluster_boot : (s.setCluster n c).boot = s.boot := rfl
@[simp] theorem setCluster_traces : (s.setCluster n c).traces = s.traces := rfl
@[simp] theorem setCluster_refused : (s.setCluster n c).refused = s.refused := rfl
@[simp] theorem setCluster_served : (s.setCluster n c).served = s.served := rfl
@[simp] theorem setCluster_posted : (s.setCluster n c).posted = s.posted := rfl

end

/-! ### `setThread` -/

section
variable (s : State) (n : Nat) (t : Thread)

@[simp] theorem setThread_cyc : (s.setThread n t).cyc = s.cyc := rfl
@[simp] theorem setThread_phase : (s.setThread n t).phase = s.phase := rfl
@[simp] theorem setThread_turn : (s.setThread n t).turn = s.turn := rfl
@[simp] theorem setThread_cur : (s.setThread n t).cur = s.cur := rfl
@[simp] theorem setThread_args : (s.setThread n t).args = s.args := rfl
@[simp] theorem setThread_pending : (s.setThread n t).pending = s.pending := rfl
@[simp] theorem setThread_fresh : (s.setThread n t).fresh = s.fresh := rfl
@[simp] theorem setThread_slots : (s.setThread n t).slots = s.slots := rfl
@[simp] theorem setThread_gfile : (s.setThread n t).gfile = s.gfile := rfl
@[simp] theorem setThread_wfile : (s.setThread n t).wfile = s.wfile := rfl
@[simp] theorem setThread_cores : (s.setThread n t).cores = s.cores := rfl
@[simp] theorem setThread_clusters : (s.setThread n t).clusters = s.clusters := rfl
@[simp] theorem setThread_mem : (s.setThread n t).mem = s.mem := rfl
@[simp] theorem setThread_past : (s.setThread n t).past = s.past := rfl
@[simp] theorem setThread_rels : (s.setThread n t).rels = s.rels := rfl
@[simp] theorem setThread_done : (s.setThread n t).done = s.done := rfl
@[simp] theorem setThread_full : (s.setThread n t).full = s.full := rfl
@[simp] theorem setThread_gtags : (s.setThread n t).gtags = s.gtags := rfl
@[simp] theorem setThread_errs : (s.setThread n t).errs = s.errs := rfl
@[simp] theorem setThread_contexts : (s.setThread n t).contexts = s.contexts := rfl
@[simp] theorem setThread_counters : (s.setThread n t).counters = s.counters := rfl
@[simp] theorem setThread_partitions : (s.setThread n t).partitions = s.partitions := rfl
@[simp] theorem setThread_kickPages : (s.setThread n t).kickPages = s.kickPages := rfl
@[simp] theorem setThread_futures : (s.setThread n t).futures = s.futures := rfl
@[simp] theorem setThread_trapOut : (s.setThread n t).trapOut = s.trapOut := rfl
@[simp] theorem setThread_trapHeld : (s.setThread n t).trapHeld = s.trapHeld := rfl
@[simp] theorem setThread_framePool : (s.setThread n t).framePool = s.framePool := rfl
@[simp] theorem setThread_launches : (s.setThread n t).launches = s.launches := rfl
@[simp] theorem setThread_groups : (s.setThread n t).groups = s.groups := rfl
@[simp] theorem setThread_graphs : (s.setThread n t).graphs = s.graphs := rfl
@[simp] theorem setThread_hqueues : (s.setThread n t).hqueues = s.hqueues := rfl
@[simp] theorem setThread_pubs : (s.setThread n t).pubs = s.pubs := rfl
@[simp] theorem setThread_reqs : (s.setThread n t).reqs = s.reqs := rfl
@[simp] theorem setThread_deposits : (s.setThread n t).deposits = s.deposits := rfl
@[simp] theorem setThread_packets : (s.setThread n t).packets = s.packets := rfl
@[simp] theorem setThread_fabops : (s.setThread n t).fabops = s.fabops := rfl
@[simp] theorem setThread_fences : (s.setThread n t).fences = s.fences := rfl
@[simp] theorem setThread_nextId : (s.setThread n t).nextId = s.nextId := rfl
@[simp] theorem setThread_halts : (s.setThread n t).halts = s.halts := rfl
@[simp] theorem setThread_dies : (s.setThread n t).dies = s.dies := rfl
@[simp] theorem setThread_functions : (s.setThread n t).functions = s.functions := rfl
@[simp] theorem setThread_intMap : (s.setThread n t).intMap = s.intMap := rfl
@[simp] theorem setThread_links : (s.setThread n t).links = s.links := rfl
@[simp] theorem setThread_routes : (s.setThread n t).routes = s.routes := rfl
@[simp] theorem setThread_sched : (s.setThread n t).sched = s.sched := rfl
@[simp] theorem setThread_boot : (s.setThread n t).boot = s.boot := rfl
@[simp] theorem setThread_traces : (s.setThread n t).traces = s.traces := rfl
@[simp] theorem setThread_refused : (s.setThread n t).refused = s.refused := rfl
@[simp] theorem setThread_served : (s.setThread n t).served = s.served := rfl
@[simp] theorem setThread_posted : (s.setThread n t).posted = s.posted := rfl

end

/-! ### `setSlot` -/

section
variable (s : State) (n : Nat) (x : SlotSt)

@[simp] theorem setSlot_cyc : (s.setSlot n x).cyc = s.cyc := rfl
@[simp] theorem setSlot_phase : (s.setSlot n x).phase = s.phase := rfl
@[simp] theorem setSlot_turn : (s.setSlot n x).turn = s.turn := rfl
@[simp] theorem setSlot_cur : (s.setSlot n x).cur = s.cur := rfl
@[simp] theorem setSlot_args : (s.setSlot n x).args = s.args := rfl
@[simp] theorem setSlot_pending : (s.setSlot n x).pending = s.pending := rfl
@[simp] theorem setSlot_fresh : (s.setSlot n x).fresh = s.fresh := rfl
@[simp] theorem setSlot_threads : (s.setSlot n x).threads = s.threads := rfl
@[simp] theorem setSlot_gfile : (s.setSlot n x).gfile = s.gfile := rfl
@[simp] theorem setSlot_wfile : (s.setSlot n x).wfile = s.wfile := rfl
@[simp] theorem setSlot_cores : (s.setSlot n x).cores = s.cores := rfl
@[simp] theorem setSlot_clusters : (s.setSlot n x).clusters = s.clusters := rfl
@[simp] theorem setSlot_mem : (s.setSlot n x).mem = s.mem := rfl
@[simp] theorem setSlot_past : (s.setSlot n x).past = s.past := rfl
@[simp] theorem setSlot_rels : (s.setSlot n x).rels = s.rels := rfl
@[simp] theorem setSlot_done : (s.setSlot n x).done = s.done := rfl
@[simp] theorem setSlot_full : (s.setSlot n x).full = s.full := rfl
@[simp] theorem setSlot_gtags : (s.setSlot n x).gtags = s.gtags := rfl
@[simp] theorem setSlot_errs : (s.setSlot n x).errs = s.errs := rfl
@[simp] theorem setSlot_contexts : (s.setSlot n x).contexts = s.contexts := rfl
@[simp] theorem setSlot_counters : (s.setSlot n x).counters = s.counters := rfl
@[simp] theorem setSlot_partitions : (s.setSlot n x).partitions = s.partitions := rfl
@[simp] theorem setSlot_kickPages : (s.setSlot n x).kickPages = s.kickPages := rfl
@[simp] theorem setSlot_futures : (s.setSlot n x).futures = s.futures := rfl
@[simp] theorem setSlot_trapOut : (s.setSlot n x).trapOut = s.trapOut := rfl
@[simp] theorem setSlot_trapHeld : (s.setSlot n x).trapHeld = s.trapHeld := rfl
@[simp] theorem setSlot_framePool : (s.setSlot n x).framePool = s.framePool := rfl
@[simp] theorem setSlot_launches : (s.setSlot n x).launches = s.launches := rfl
@[simp] theorem setSlot_groups : (s.setSlot n x).groups = s.groups := rfl
@[simp] theorem setSlot_graphs : (s.setSlot n x).graphs = s.graphs := rfl
@[simp] theorem setSlot_hqueues : (s.setSlot n x).hqueues = s.hqueues := rfl
@[simp] theorem setSlot_pubs : (s.setSlot n x).pubs = s.pubs := rfl
@[simp] theorem setSlot_reqs : (s.setSlot n x).reqs = s.reqs := rfl
@[simp] theorem setSlot_deposits : (s.setSlot n x).deposits = s.deposits := rfl
@[simp] theorem setSlot_packets : (s.setSlot n x).packets = s.packets := rfl
@[simp] theorem setSlot_fabops : (s.setSlot n x).fabops = s.fabops := rfl
@[simp] theorem setSlot_fences : (s.setSlot n x).fences = s.fences := rfl
@[simp] theorem setSlot_nextId : (s.setSlot n x).nextId = s.nextId := rfl
@[simp] theorem setSlot_halts : (s.setSlot n x).halts = s.halts := rfl
@[simp] theorem setSlot_dies : (s.setSlot n x).dies = s.dies := rfl
@[simp] theorem setSlot_functions : (s.setSlot n x).functions = s.functions := rfl
@[simp] theorem setSlot_intMap : (s.setSlot n x).intMap = s.intMap := rfl
@[simp] theorem setSlot_links : (s.setSlot n x).links = s.links := rfl
@[simp] theorem setSlot_routes : (s.setSlot n x).routes = s.routes := rfl
@[simp] theorem setSlot_sched : (s.setSlot n x).sched = s.sched := rfl
@[simp] theorem setSlot_boot : (s.setSlot n x).boot = s.boot := rfl
@[simp] theorem setSlot_traces : (s.setSlot n x).traces = s.traces := rfl
@[simp] theorem setSlot_refused : (s.setSlot n x).refused = s.refused := rfl
@[simp] theorem setSlot_served : (s.setSlot n x).served = s.served := rfl
@[simp] theorem setSlot_posted : (s.setSlot n x).posted = s.posted := rfl

end

/-! ### `setGroup` -/

section
variable (s : State) (l g : Nat) (x : Group)

@[simp] theorem setGroup_cyc : (s.setGroup l g x).cyc = s.cyc := rfl
@[simp] theorem setGroup_phase : (s.setGroup l g x).phase = s.phase := rfl
@[simp] theorem setGroup_turn : (s.setGroup l g x).turn = s.turn := rfl
@[simp] theorem setGroup_cur : (s.setGroup l g x).cur = s.cur := rfl
@[simp] theorem setGroup_args : (s.setGroup l g x).args = s.args := rfl
@[simp] theorem setGroup_pending : (s.setGroup l g x).pending = s.pending := rfl
@[simp] theorem setGroup_fresh : (s.setGroup l g x).fresh = s.fresh := rfl
@[simp] theorem setGroup_threads : (s.setGroup l g x).threads = s.threads := rfl
@[simp] theorem setGroup_slots : (s.setGroup l g x).slots = s.slots := rfl
@[simp] theorem setGroup_gfile : (s.setGroup l g x).gfile = s.gfile := rfl
@[simp] theorem setGroup_wfile : (s.setGroup l g x).wfile = s.wfile := rfl
@[simp] theorem setGroup_cores : (s.setGroup l g x).cores = s.cores := rfl
@[simp] theorem setGroup_clusters : (s.setGroup l g x).clusters = s.clusters := rfl
@[simp] theorem setGroup_mem : (s.setGroup l g x).mem = s.mem := rfl
@[simp] theorem setGroup_past : (s.setGroup l g x).past = s.past := rfl
@[simp] theorem setGroup_rels : (s.setGroup l g x).rels = s.rels := rfl
@[simp] theorem setGroup_done : (s.setGroup l g x).done = s.done := rfl
@[simp] theorem setGroup_full : (s.setGroup l g x).full = s.full := rfl
@[simp] theorem setGroup_gtags : (s.setGroup l g x).gtags = s.gtags := rfl
@[simp] theorem setGroup_errs : (s.setGroup l g x).errs = s.errs := rfl
@[simp] theorem setGroup_contexts : (s.setGroup l g x).contexts = s.contexts := rfl
@[simp] theorem setGroup_counters : (s.setGroup l g x).counters = s.counters := rfl
@[simp] theorem setGroup_partitions : (s.setGroup l g x).partitions = s.partitions := rfl
@[simp] theorem setGroup_kickPages : (s.setGroup l g x).kickPages = s.kickPages := rfl
@[simp] theorem setGroup_futures : (s.setGroup l g x).futures = s.futures := rfl
@[simp] theorem setGroup_trapOut : (s.setGroup l g x).trapOut = s.trapOut := rfl
@[simp] theorem setGroup_trapHeld : (s.setGroup l g x).trapHeld = s.trapHeld := rfl
@[simp] theorem setGroup_framePool : (s.setGroup l g x).framePool = s.framePool := rfl
@[simp] theorem setGroup_launches : (s.setGroup l g x).launches = s.launches := rfl
@[simp] theorem setGroup_graphs : (s.setGroup l g x).graphs = s.graphs := rfl
@[simp] theorem setGroup_hqueues : (s.setGroup l g x).hqueues = s.hqueues := rfl
@[simp] theorem setGroup_pubs : (s.setGroup l g x).pubs = s.pubs := rfl
@[simp] theorem setGroup_reqs : (s.setGroup l g x).reqs = s.reqs := rfl
@[simp] theorem setGroup_deposits : (s.setGroup l g x).deposits = s.deposits := rfl
@[simp] theorem setGroup_packets : (s.setGroup l g x).packets = s.packets := rfl
@[simp] theorem setGroup_fabops : (s.setGroup l g x).fabops = s.fabops := rfl
@[simp] theorem setGroup_fences : (s.setGroup l g x).fences = s.fences := rfl
@[simp] theorem setGroup_nextId : (s.setGroup l g x).nextId = s.nextId := rfl
@[simp] theorem setGroup_halts : (s.setGroup l g x).halts = s.halts := rfl
@[simp] theorem setGroup_dies : (s.setGroup l g x).dies = s.dies := rfl
@[simp] theorem setGroup_functions : (s.setGroup l g x).functions = s.functions := rfl
@[simp] theorem setGroup_intMap : (s.setGroup l g x).intMap = s.intMap := rfl
@[simp] theorem setGroup_links : (s.setGroup l g x).links = s.links := rfl
@[simp] theorem setGroup_routes : (s.setGroup l g x).routes = s.routes := rfl
@[simp] theorem setGroup_sched : (s.setGroup l g x).sched = s.sched := rfl
@[simp] theorem setGroup_boot : (s.setGroup l g x).boot = s.boot := rfl
@[simp] theorem setGroup_traces : (s.setGroup l g x).traces = s.traces := rfl
@[simp] theorem setGroup_refused : (s.setGroup l g x).refused = s.refused := rfl
@[simp] theorem setGroup_served : (s.setGroup l g x).served = s.served := rfl
@[simp] theorem setGroup_posted : (s.setGroup l g x).posted = s.posted := rfl

end

/-! ### `setHq` -/

section
variable (s : State) (n : Nat) (x : HQueue)

@[simp] theorem setHq_cyc : (s.setHq n x).cyc = s.cyc := rfl
@[simp] theorem setHq_phase : (s.setHq n x).phase = s.phase := rfl
@[simp] theorem setHq_turn : (s.setHq n x).turn = s.turn := rfl
@[simp] theorem setHq_cur : (s.setHq n x).cur = s.cur := rfl
@[simp] theorem setHq_args : (s.setHq n x).args = s.args := rfl
@[simp] theorem setHq_pending : (s.setHq n x).pending = s.pending := rfl
@[simp] theorem setHq_fresh : (s.setHq n x).fresh = s.fresh := rfl
@[simp] theorem setHq_threads : (s.setHq n x).threads = s.threads := rfl
@[simp] theorem setHq_slots : (s.setHq n x).slots = s.slots := rfl
@[simp] theorem setHq_gfile : (s.setHq n x).gfile = s.gfile := rfl
@[simp] theorem setHq_wfile : (s.setHq n x).wfile = s.wfile := rfl
@[simp] theorem setHq_cores : (s.setHq n x).cores = s.cores := rfl
@[simp] theorem setHq_clusters : (s.setHq n x).clusters = s.clusters := rfl
@[simp] theorem setHq_mem : (s.setHq n x).mem = s.mem := rfl
@[simp] theorem setHq_past : (s.setHq n x).past = s.past := rfl
@[simp] theorem setHq_rels : (s.setHq n x).rels = s.rels := rfl
@[simp] theorem setHq_done : (s.setHq n x).done = s.done := rfl
@[simp] theorem setHq_full : (s.setHq n x).full = s.full := rfl
@[simp] theorem setHq_gtags : (s.setHq n x).gtags = s.gtags := rfl
@[simp] theorem setHq_errs : (s.setHq n x).errs = s.errs := rfl
@[simp] theorem setHq_contexts : (s.setHq n x).contexts = s.contexts := rfl
@[simp] theorem setHq_counters : (s.setHq n x).counters = s.counters := rfl
@[simp] theorem setHq_partitions : (s.setHq n x).partitions = s.partitions := rfl
@[simp] theorem setHq_kickPages : (s.setHq n x).kickPages = s.kickPages := rfl
@[simp] theorem setHq_futures : (s.setHq n x).futures = s.futures := rfl
@[simp] theorem setHq_trapOut : (s.setHq n x).trapOut = s.trapOut := rfl
@[simp] theorem setHq_trapHeld : (s.setHq n x).trapHeld = s.trapHeld := rfl
@[simp] theorem setHq_framePool : (s.setHq n x).framePool = s.framePool := rfl
@[simp] theorem setHq_launches : (s.setHq n x).launches = s.launches := rfl
@[simp] theorem setHq_groups : (s.setHq n x).groups = s.groups := rfl
@[simp] theorem setHq_graphs : (s.setHq n x).graphs = s.graphs := rfl
@[simp] theorem setHq_pubs : (s.setHq n x).pubs = s.pubs := rfl
@[simp] theorem setHq_reqs : (s.setHq n x).reqs = s.reqs := rfl
@[simp] theorem setHq_deposits : (s.setHq n x).deposits = s.deposits := rfl
@[simp] theorem setHq_packets : (s.setHq n x).packets = s.packets := rfl
@[simp] theorem setHq_fabops : (s.setHq n x).fabops = s.fabops := rfl
@[simp] theorem setHq_fences : (s.setHq n x).fences = s.fences := rfl
@[simp] theorem setHq_nextId : (s.setHq n x).nextId = s.nextId := rfl
@[simp] theorem setHq_halts : (s.setHq n x).halts = s.halts := rfl
@[simp] theorem setHq_dies : (s.setHq n x).dies = s.dies := rfl
@[simp] theorem setHq_functions : (s.setHq n x).functions = s.functions := rfl
@[simp] theorem setHq_intMap : (s.setHq n x).intMap = s.intMap := rfl
@[simp] theorem setHq_links : (s.setHq n x).links = s.links := rfl
@[simp] theorem setHq_routes : (s.setHq n x).routes = s.routes := rfl
@[simp] theorem setHq_sched : (s.setHq n x).sched = s.sched := rfl
@[simp] theorem setHq_boot : (s.setHq n x).boot = s.boot := rfl
@[simp] theorem setHq_traces : (s.setHq n x).traces = s.traces := rfl
@[simp] theorem setHq_refused : (s.setHq n x).refused = s.refused := rfl
@[simp] theorem setHq_served : (s.setHq n x).served = s.served := rfl
@[simp] theorem setHq_posted : (s.setHq n x).posted = s.posted := rfl

end

/-! ### Reading what was set -/

section
variable (s : State)

theorem core_setCore (n k : Nat) (c : CoreSt) : (s.setCore n c).core k = if k = n then c else s.core k := SMap.getD_put ..
@[simp] theorem core_setCore_self (n : Nat) (c : CoreSt) : (s.setCore n c).core n = c := by simp [core_setCore]
theorem cluster_setCluster (n k : Nat) (c : ClusterSt) : (s.setCluster n c).cluster k = if k = n then c else s.cluster k :=
  SMap.getD_put ..
@[simp] theorem cluster_setCluster_self (n : Nat) (c : ClusterSt) : (s.setCluster n c).cluster n = c := by simp [cluster_setCluster]
theorem slot_setSlot (n k : Nat) (x : SlotSt) : (s.setSlot n x).slot k = if k = n then x else s.slot k := SMap.getD_put ..
theorem hq_setHq (n k : Nat) (x : HQueue) : (s.setHq n x).hq k = if k = n then x else s.hq k := SMap.getD_put ..
theorem thread?_setThread (n k : Nat) (t : Thread) : (s.setThread n t).thread? k = if k = n then some t else s.thread? k :=
  SMap.get?_set ..
@[simp] theorem thread?_setThread_self (n : Nat) (t : Thread) : (s.setThread n t).thread? n = some t := by simp [thread?_setThread]
theorem group?_setGroup (l g : Nat) (x : Group) : (s.setGroup l g x).group? l g = some x := SMap.get?_set_self ..

@[simp] theorem core_setThread (n k : Nat) (t : Thread) : (s.setThread n t).core k = s.core k := rfl
@[simp] theorem cluster_setThread (n k : Nat) (t : Thread) : (s.setThread n t).cluster k = s.cluster k := rfl
@[simp] theorem queue_setThread (n c q : Nat) (t : Thread) : (s.setThread n t).queue c q = s.queue c q := rfl
@[simp] theorem thread?_setCore (n k : Nat) (c : CoreSt) : (s.setCore n c).thread? k = s.thread? k := rfl
@[simp] theorem cluster_setCore (n k : Nat) (c : CoreSt) : (s.setCore n c).cluster k = s.cluster k := rfl
@[simp] theorem thread?_setCluster (n k : Nat) (c : ClusterSt) : (s.setCluster n c).thread? k = s.thread? k := rfl
@[simp] theorem core_setCluster (n k : Nat) (c : ClusterSt) : (s.setCluster n c).core k = s.core k := rfl

theorem queue_setQueue (c q k : Nat) (x : Queue) : (s.setQueue c q x).queue c k = if k = q then x else s.queue c k := by
  simp [setQueue, updCore, queue, SMap.getD_put]
theorem core_setQueue_ne (c q k : Nat) (x : Queue) (h : k ≠ c) : (s.setQueue c q x).core k = s.core k := by
  simp [setQueue, updCore, core_setCore, h]
theorem setQueue_eq (c q : Nat) (x : Queue) : s.setQueue c q x = { s with cores := (s.setQueue c q x).cores } := rfl

/-! ### Updates that change one part only -/

theorem updCore_eq (n : Nat) (f : CoreSt → CoreSt) : s.updCore n f = { s with cores := (s.updCore n f).cores } := rfl
theorem core_updCore (n k : Nat) (f : CoreSt → CoreSt) : (s.updCore n f).core k = if k = n then f (s.core n) else s.core k :=
  core_setCore ..
theorem updCluster_eq (n : Nat) (f : ClusterSt → ClusterSt) :
    s.updCluster n f = { s with clusters := (s.updCluster n f).clusters } := rfl
theorem cluster_updCluster (n k : Nat) (f : ClusterSt → ClusterSt) :
    (s.updCluster n f).cluster k = if k = n then f (s.cluster n) else s.cluster k := cluster_setCluster ..
theorem updThread_eq (k : Nat) (f : Thread → Thread) : s.updThread k f = { s with threads := (s.updThread k f).threads } := by
  unfold updThread; split <;> rfl
theorem thread?_updThread (n k : Nat) (f : Thread → Thread) :
    (s.updThread n f).thread? k = if k = n then (s.thread? n).map f else s.thread? k := by
  unfold updThread; split
  · rename_i t h; simp [thread?_setThread, h]
  · rename_i h; split <;> simp_all
theorem updLaunch_eq (l : Nat) (f : Launch → Launch) : s.updLaunch l f = { s with launches := (s.updLaunch l f).launches } := by
  unfold updLaunch; split <;> rfl
theorem launch?_updLaunch (n k : Nat) (f : Launch → Launch) :
    (s.updLaunch n f).launch? k = if k = n then (s.launch? n).map f else s.launch? k := by
  unfold updLaunch; split
  · rename_i x h; simp [launch?, SMap.get?_set]; split <;> simp_all [launch?]
  · rename_i h; split <;> simp_all
theorem updGroup_eq (l g : Nat) (f : Group → Group) : s.updGroup l g f = { s with groups := (s.updGroup l g f).groups } := by
  unfold updGroup; split <;> rfl

end

end Sys2Proof.Machine.State
end

