-- ==== Sys2Proof/Laws/Issue.lean ====
section
/-! SUPPORT. What the issue of a thread instruction can do, and what its completion does: the lemmas that a proof about an
instruction cites instead of unfolding `issue` and `Iss.finish`. -/

namespace Sys2Proof.Machine

/-! ### Issue -/

variable {i : Instr} {s s' : State} {c : Ctl} {t : Thread} {body : Iss → Except Stop Iss}

/-- The machine after a body of an instruction of thread `key`, which issued in `s`: completed, trapped or waiting. -/
def settled (s : State) (c : Ctl) : Except Stop Iss → State
  | .ok x => x.finish c
  | .error (.trap x f) => takeTrap (f.elim s (· s)) s.cur x
  | .error (.hold k s1) => holdThread s1 s.cur c.t k
  | .error (.sent s1) => s1

/-- An instruction that issues does what its body does. -/
theorem issue_settled (h : Issues i s c t) : issue i s body = .next (settled s c (body (issueState i c t s))) := by
  obtain ⟨hc, ht, hw, hg⟩ := h
  unfold issue issueState
  rw [hc, ht]
  dsimp only
  rw [hw]
  dsimp -zeta only
  rw [if_neg hg]
  rcases body _ with ⟨_ | _ | _⟩ | _ <;> try rfl
  rename_i f; cases f <;> rfl

/-- An instruction whose body succeeds completes. -/
theorem issue_ok {x : Iss} (h : Issues i s c t) (hb : body (issueState i c t s) = .ok x) :
    issue i s body = .next (x.finish c) := by rw [issue_settled h, hb, settled]

/-- An instruction whose body traps, and loses nothing by it, takes the trap in the state before it. -/
theorem issue_trap {x : Trap} (h : Issues i s c t) (hb : body (issueState i c t s) = .error (.trap x none)) :
    issue i s body = .next (takeTrap s s.cur x) := by rw [issue_settled h, hb]; rfl

/-- A trap that discards a stored item discards it from the state before the instruction (R28, R228). -/
theorem issue_trap_in {x : Trap} {f : State → State} (h : Issues i s c t)
    (hb : body (issueState i c t s) = .error (.trap x (some f))) : issue i s body = .next (takeTrap (f s) s.cur x) := by
  rw [issue_settled h, hb]; rfl

/-- An instruction whose body waits leaves its thread waiting. -/
theorem issue_hold {k : Cause} {s1 : State} (h : Issues i s c t)
    (hb : body (issueState i c t s) = .error (.hold k s1)) : issue i s body = .next (holdThread s1 s.cur c.t k) := by
  rw [issue_settled h, hb, settled]

/-- An instruction that is sent to another core leaves what its sending leaves. -/
theorem issue_sent {s1 : State} (h : Issues i s c t) (hb : body (issueState i c t s) = .error (.sent s1)) :
    issue i s body = .next s1 := by rw [issue_settled h, hb, settled]

theorem issue_window {x : Trap} (hc : i.ctl = some c) (ht : s.thread? s.cur = some t) (hw : windowTrap t i = some x) :
    issue i s body = .next (takeTrap s s.cur x) := by simp [issue, hc, ht, hw]

theorem issue_disabled (hc : i.ctl = some c) (ht : s.thread? s.cur = some t) (hw : windowTrap t i = none)
    (hg : guardMask t c (Instr.lane i) = 0) : issue i s body =
      .next (noteLane (s.setThread s.cur (t.stepped (t.pc + 1) c.d (Instr.lane i) 0 (s.cyc + 1) none)) (coreOf s.cur) i) := by
  simp [issue, hc, ht, hw, hg]

/-- Every way in which an instruction ends. -/
theorem issue_cases (hc : i.ctl = some c) (ht : s.thread? s.cur = some t) (h : issue i s body = .next s') :
    (∃ x, windowTrap t i = some x ∧ s' = takeTrap s s.cur x)
    ∨ (windowTrap t i = none ∧ guardMask t c (Instr.lane i) = 0 ∧
        s' = noteLane (s.setThread s.cur (t.stepped (t.pc + 1) c.d (Instr.lane i) 0 (s.cyc + 1) none)) (coreOf s.cur) i)
    ∨ Issues i s c t ∧ s' = settled s c (body (issueState i c t s)) := by
  rcases hw : windowTrap t i with _ | x
  · by_cases hg : guardMask t c (Instr.lane i) = 0
    · exact .inr (.inl ⟨rfl, hg, (Host.Outcome.next.inj ((issue_disabled hc ht hw hg).symm.trans h)).symm⟩)
    · have hi : Issues i s c t := ⟨hc, ht, hw, hg⟩
      exact .inr (.inr ⟨hi, (Host.Outcome.next.inj ((issue_settled hi).symm.trans h)).symm⟩)
  · exact .inl ⟨x, rfl, (Host.Outcome.next.inj ((issue_window hc ht hw).symm.trans h)).symm⟩

/-! ### Bank grants -/

/-- Granting the banks changes the bank table only, and never brings the last stage forward. -/
theorem reserveBanks_state (s : State) (n : Nat) (st : List (Nat × List Nat)) (lat : Nat) :
    ∃ b, (reserveBanks s n st lat).2.2 = s.setCore n { s.core n with banks := b } := ⟨_, rfl⟩

theorem reserveBanks_le (s : State) (n : Nat) (st : List (Nat × List Nat)) (lat : Nat) :
    s.cyc + lat ≤ (reserveBanks s n st lat).1 := by simp [reserveBanks]

/-- An instruction that reads no bank and writes none is not delayed. -/
@[simp] theorem reserveBanks_none (s : State) (n lat : Nat) : (reserveBanks s n [(lat, [])] lat).1 = s.cyc + lat := rfl

/-! ### Pushes -/

theorem pushAll_nil (s : State) (n w : Nat) : pushAll s n w [] = s := rfl
theorem pushAll_cons (s : State) (n w : Nat) (p : Nat × VReg) (l : List (Nat × VReg)) :
    pushAll s n w (p :: l) = pushAll (s.setQueue n p.1 { s.queue n p.1 with
      ents := (s.queue n p.1).ents ++ [⟨p.2, some w, none, (s.queue n p.1).pushed⟩]
      pushed := (s.queue n p.1).pushed + 1 }) n w l := rfl

theorem pushAll_frame (s : State) (n w : Nat) (l : List (Nat × VReg)) :
    (∃ k, pushAll s n w l = { s with cores := k }) ∧ ∀ j, j ≠ n → (pushAll s n w l).core j = s.core j := by
  induction l generalizing s with
  | nil => exact ⟨⟨s.cores, rfl⟩, fun _ _ => rfl⟩
  | cons p l ih =>
    rw [pushAll_cons]
    obtain ⟨⟨k, hk⟩, hj⟩ := ih (s.setQueue n p.1 { s.queue n p.1 with
      ents := (s.queue n p.1).ents ++ [⟨p.2, some w, none, (s.queue n p.1).pushed⟩]
      pushed := (s.queue n p.1).pushed + 1 })
    exact ⟨⟨k, hk.trans rfl⟩, fun j h => (hj j h).trans (State.core_setQueue_ne _ _ _ _ _ h)⟩

/-- Entries arrive in the order in which they are pushed. -/
theorem pushAll_ents (s : State) (n w : Nat) (l : List (Nat × VReg)) (q : Nat) :
    ((pushAll s n w l).queue n q).ents.map (·.val)
      = (s.queue n q).ents.map (·.val) ++ (l.filter fun p => p.1 == q).map (·.2) := by
  induction l generalizing s with
  | nil => simp [pushAll_nil]
  | cons p l ih =>
    rw [pushAll_cons, ih, State.queue_setQueue]
    rcases eq_or_ne q p.1 with rfl | h
    · simp
    · simp [h, h.symm]

/-! ### The cycle of a lane instruction -/

theorem noteLane_scalar {i : Instr} (h : Instr.lane i = false) (s : State) (n : Nat) : noteLane s n i = s := by simp [noteLane, h]

theorem noteLane_lane {i : Instr} (h : Instr.lane i = true) (s : State) (n : Nat) :
    noteLane s n i = s.updCore n fun k => { k with laneAt := some s.cyc } := by simp [noteLane, h]

theorem noteLane_frame (s : State) (n : Nat) (i : Instr) :
    (∃ k, noteLane s n i = { s with cores := k }) ∧ (∀ j, j ≠ n → (noteLane s n i).core j = s.core j)
    ∧ ∃ a, (noteLane s n i).core n = { s.core n with laneAt := a } := by
  cases h : Instr.lane i
  · rw [noteLane_scalar h]; exact ⟨⟨s.cores, rfl⟩, fun _ _ => rfl, ⟨(s.core n).laneAt, rfl⟩⟩
  · rw [noteLane_lane h]
    exact ⟨⟨_, rfl⟩, fun j hj => by simp [State.core_updCore, hj], ⟨some s.cyc, by simp [State.core_updCore]⟩⟩

theorem noteLane_queue (s : State) (n c q : Nat) (i : Instr) : (noteLane s n i).queue c q = s.queue c q := by
  obtain ⟨-, hj, a, ha⟩ := noteLane_frame s n i
  rcases eq_or_ne c n with rfl | h
  · simp [State.queue, ha]
  · simp [State.queue, hj c h]

end Sys2Proof.Machine
end

