-- ==== Sys2Proof/Laws/Memory.lean ====
section
/-! SUPPORT. Memory: what is read after a write, that a write touches nothing else, and that every operation that changes memory
keeps its canonical form. -/

namespace Sys2Proof.Machine

/-! ### Reading after writing -/

theorem getD_memPut (m : List Host.Cell) (loc k : Nat) (b : Byte) :
    SMap.getD (memPut m loc b) k unwritten = if k = loc then b else SMap.getD m k unwritten := SMap.getD_put m unwritten b loc k

/-- A byte after consecutive bytes are written. -/
theorem getD_memPutAll (bs : List Byte) (m : List Host.Cell) (loc k : Nat) :
    SMap.getD (memPutAll m loc bs) k unwritten
      = if loc ≤ k ∧ k < loc + bs.length then bs.getD (k - loc) 0 else SMap.getD m k unwritten := by
  induction bs generalizing m loc with
  | nil => simp only [memPutAll, List.length_nil, Nat.add_zero]; split <;> [omega; rfl]
  | cons b r ih =>
    simp only [memPutAll, ih, getD_memPut, List.length_cons]
    by_cases h : k = loc
    · subst h; simp
    · by_cases h1 : loc + 1 ≤ k ∧ k < loc + 1 + r.length
      · have h2 : k - loc = (k - (loc + 1)) + 1 := by omega
        simp [h1, h2, show loc ≤ k ∧ k < loc + (r.length + 1) by omega]
      · rw [if_neg h1, if_neg h, if_neg (by omega)]

/-- What a byte reads as after a write: the byte written inside the range, and what it was outside. -/
theorem readByte_writeBytes (s : State) (loc k : Nat) (bs : List Byte) :
    readByte (writeBytes s loc bs) k
      = if loc ≤ k ∧ k < loc + bs.length then bs.getD (k - loc) 0 else readByte s k := getD_memPutAll bs s.mem loc k

/-! ### A write at its home -/

/-- A fold whose steps leave a part of the state alone leaves it alone. -/
theorem foldl_keeps {α β : Type} (get : State → β) (f : State → α → State) (hf : ∀ s a, get (f s a) = get s) (l : List α)
    (s : State) : get (l.foldl f s) = get s := by
  induction l generalizing s with
  | nil => rfl
  | cons a r ih => rw [List.foldl_cons, ih, hf]

@[simp] theorem mem_clearPoison (s : State) (loc n : Nat) : (clearPoison s loc n).mem = s.mem := rfl
@[simp] theorem mem_endSequences (s : State) (loc n : Nat) : (endSequences s loc n).mem = s.mem := rfl
@[simp] theorem mem_keepPast (s : State) (w : Writer) (loc n : Nat) : (keepPast s w loc n).mem = s.mem := rfl
@[simp] theorem mem_wipePast (s : State) (loc n : Nat) : (wipePast s loc n).mem = s.mem := rfl
@[simp] theorem mem_clearErrs (s : State) (p : Nat → Bool) : (clearErrs s p).mem = s.mem := rfl

@[simp] theorem mem_markDirty (s : State) (loc n : Nat) : (markDirty s loc n).mem = s.mem := by
  simp only [markDirty]; split <;> rfl

/-- The bytes of a trace record. -/
@[simp] theorem length_toBytes (n w : Nat) : (toBytes n w).length = n := by
  induction n generalizing w with
  | zero => rfl
  | succ n ih => simp [toBytes, ih]

@[simp] theorem TraceRec.length_bytes (r : TraceRec) : r.bytes.length = 16 := by simp [TraceRec.bytes]

theorem vaultLoc_add (cl off : Nat) : vaultLoc cl off = vaultLoc cl 0 + off := by unfold vaultLoc; rw [Nat.add_zero]

/-- A trace record changes no byte outside the rings. -/
theorem readByte_traceCluster (s : State) (cl k : Nat) (r : TraceRec) (hk : ¬ InTraceRing k) :
    readByte (traceCluster s cl r) k = readByte s k := by
  have hn := (s.cluster cl).trace.next.isLt
  have he : readByte (traceCluster s cl r) k
      = readByte (writeBytes s (vaultLoc cl (0x2F0000 + 16 * (s.cluster cl).trace.next.toNat)) r.bytes) k := by
    unfold readByte traceCluster State.updCluster State.setCluster; rfl
  rw [he, readByte_writeBytes]
  refine if_neg fun h => hk ?_
  rw [TraceRec.length_bytes, vaultLoc_add] at h
  refine ⟨cl, k - vaultLoc cl 0 - 0x2F0000, ?_, ?_⟩
  · generalize vaultLoc cl 0 = v at *; omega
  · rw [vaultLoc_add]; generalize vaultLoc cl 0 = v at *; omega

theorem readByte_traceOne (s : State) (loc k : Nat) (r : TraceRec) (hk : ¬ InTraceRing k) :
    readByte (traceOne s loc r) k = readByte s k := by
  simp only [traceOne]
  split
  · exact readByte_traceCluster s _ k r hk
  · exact readByte_traceCluster s _ k r hk
  all_goals rfl

theorem readByte_traceWrite (s : State) (w : Writer) (loc k : Nat) (da : BitVec 56) (n : Nat) (hk : ¬ InTraceRing k) :
    readByte (traceWrite s w loc da n) k = readByte s k := by
  unfold traceWrite; split
  · exact foldl_keeps (readByte · k) _ (fun s p => readByte_traceOne s _ k _ hk) _ s
  · rfl

/-- Memory after a write of a launch that is not traced: exactly its bytes are written. -/
theorem mem_performWrite (s : State) (w : Writer) (loc : Nat) (da : BitVec 56) (bs : List Byte) (h : tracing s w.launch = false) :
    (performWrite s w loc da bs).mem = memPutAll s.mem loc bs := by
  have ht (s1 : State) (hl : s1.launches = s.launches) : tracing s1 w.launch = false := by
    rw [← h]; unfold tracing State.launch?; rw [hl]
  have hd (s1 : State) (l n : Nat) : (markDirty s1 l n).launches = s1.launches := by simp only [markDirty]; split <;> rfl
  cases bs with
  | nil => rfl
  | cons b r =>
    simp only [performWrite, List.isEmpty_cons, Bool.false_eq_true, if_false]
    rw [traceWrite, if_neg (by rw [ht _ (by rw [hd]; rfl)]; simp)]
    simp [writeBytes]

/-- What a byte reads as after a write is performed, outside the trace rings. -/
theorem readByte_performWrite (s : State) (w : Writer) (loc k : Nat) (da : BitVec 56) (bs : List Byte) (hk : ¬ InTraceRing k) :
    readByte (performWrite s w loc da bs) k
      = if loc ≤ k ∧ k < loc + bs.length then bs.getD (k - loc) 0 else readByte s k := by
  cases bs with
  | nil => simp [performWrite]
  | cons b r =>
    simp only [performWrite, List.isEmpty_cons, Bool.false_eq_true, if_false]
    rw [readByte_traceWrite _ _ _ _ _ _ hk, ← readByte_writeBytes]
    simp [readByte, writeBytes]

/-! ### The canonical form -/

/-- One byte stored keeps the form. -/
theorem memory_wf_put {m : List Host.Cell} (h : Memory.wf m) (loc : Nat) (b : Byte) : Memory.wf (memPut m loc b) :=
  ⟨SMap.sorted_put unwritten b loc h.1, by
    have h2 : ∀ c ∈ m, c.2 ≠ unwritten := by simpa using h.2
    simp only [List.all_eq_true, bne_iff_ne, ne_eq]
    intro c hc
    unfold memPut SMap.put at hc
    split at hc
    · exact h2 c (SMap.mem_erase hc)
    · rename_i hb
      rcases SMap.mem_set hc with rfl | hc
      · exact hb
      · exact h2 c hc⟩

theorem memory_wf_putAll (bs : List Byte) {m : List Host.Cell} (h : Memory.wf m) (loc : Nat) : Memory.wf (memPutAll m loc bs) := by
  induction bs generalizing m loc with
  | nil => exact h
  | cons b r ih => exact ih (memory_wf_put h loc b) (loc + 1)

/-- Cells taken away keep the form. -/
theorem memory_wf_filter {m : List Host.Cell} (h : Memory.wf m) (p : Host.Cell → Bool) : Memory.wf (m.filter p) :=
  ⟨SMap.sorted_filter p h.1, by
    have h2 : ∀ c ∈ m, c.2 ≠ unwritten := by simpa using h.2
    simp only [List.all_eq_true, bne_iff_ne, ne_eq]
    exact fun c hc => h2 c (List.mem_filter.mp hc).1⟩

/-- Cells put anywhere keep the form. -/
theorem memory_wf_foldl_put {α : Type} (at_ : α → Nat) (val : α → Byte) (l : List α) {m : List Host.Cell} (h : Memory.wf m) :
    Memory.wf (l.foldl (fun m c => memPut m (at_ c) (val c)) m) := by
  induction l generalizing m with
  | nil => exact h
  | cons c r ih => exact ih (memory_wf_put h _ _)

/-- A fold of writes keeps the form. -/
theorem memory_wf_foldl {α : Type} (f : State → α → State) (hf : ∀ s a, Memory.wf s.mem → Memory.wf (f s a).mem) (l : List α)
    (s : State) (h : Memory.wf s.mem) : Memory.wf (l.foldl f s).mem := by
  induction l generalizing s with
  | nil => exact h
  | cons a r ih => exact ih _ (hf s a h)

theorem memory_wf_writeBytes (s : State) (h : Memory.wf s.mem) (loc : Nat) (bs : List Byte) : Memory.wf (writeBytes s loc bs).mem :=
  memory_wf_putAll bs h loc

theorem memory_wf_traceOne (s : State) (h : Memory.wf s.mem) (loc : Nat) (r : TraceRec) : Memory.wf (traceOne s loc r).mem := by
  simp only [traceOne]
  split
  · exact memory_wf_writeBytes s h _ _
  · exact memory_wf_writeBytes s h _ _
  all_goals exact h

theorem memory_wf_traceWrite (s : State) (h : Memory.wf s.mem) (w : Writer) (loc : Nat) (da : BitVec 56) (n : Nat) :
    Memory.wf (traceWrite s w loc da n).mem := by
  unfold traceWrite; split
  · exact memory_wf_foldl _ (fun s p h => memory_wf_traceOne s h _ _) _ s h
  · exact h

theorem memory_wf_performWrite (s : State) (h : Memory.wf s.mem) (w : Writer) (loc : Nat) (da : BitVec 56) (bs : List Byte) :
    Memory.wf (performWrite s w loc da bs).mem := by
  unfold performWrite; split
  · exact h
  · exact memory_wf_traceWrite _ (by simpa [writeBytes] using memory_wf_putAll bs h loc) _ _ _ _

@[simp] theorem noteHost_mem (s : State) (loc : Nat) : (noteHost s loc).mem = s.mem := by
  unfold noteHost; split
  · split <;> rfl
  all_goals rfl

theorem memory_wf_daWrite (s : State) (h : Memory.wf s.mem) (ctag : BitVec 16) (w : Writer) (da : Nat) (bs : List Byte) :
    Memory.wf (daWrite s ctag w da bs).mem := by
  refine memory_wf_foldl _ (fun s p h => ?_) _ s h
  split
  · exact memory_wf_performWrite _ (by simpa using h) w _ _ _
  · exact h

theorem memory_wf_clearStore (s : State) (h : Memory.wf s.mem) (c : Nat) : Memory.wf (clearStore s c).mem :=
  memory_wf_filter h _

theorem memory_wf_clearVault (s : State) (h : Memory.wf s.mem) (cl : Nat) : Memory.wf (clearVault s cl).mem :=
  memory_wf_filter h _

theorem memory_wf_copyFrame (s : State) (h : Memory.wf s.mem) (src dst n : Nat) : Memory.wf (copyFrame s src dst n).mem :=
  memory_wf_foldl_put _ _ _ (memory_wf_filter h _)

theorem memory_wf_moveOut (s : State) (h : Memory.wf s.mem) (pid cl : Nat) : Memory.wf (moveOut s pid cl).mem := by
  unfold moveOut; split
  · exact h
  · exact memory_wf_filter h _

/-- Reset lists no byte. -/
theorem reset_mem : State.reset.mem = [] := rfl

end Sys2Proof.Machine
end

