-- ==== Sys2Proof/Laws/Operands.lean ====
section
/-! SUPPORT. What reading and writing an operand can change of an instruction in its issue cycle. -/

namespace Sys2Proof.Machine

/-- Reading an operand changes nothing of an instruction but its state, its bank accesses and its correction cycles. -/
abbrev Reads (x y : Iss) : Prop := ∃ s st e, y = { x with s := s, stages := st, extra := e }

theorem Reads.refl (x : Iss) : Reads x x := ⟨_, _, _, rfl⟩

theorem Reads.trans {x y z : Iss} : Reads x y → Reads y z → Reads x z := by
  rintro ⟨_, _, _, rfl⟩ ⟨s, st, e, rfl⟩; exact ⟨s, st, e, rfl⟩

/-- What stands after a read, where it stood before. -/
theorem Reads.keeps {x y : Iss} (h : Reads x y) :
    y.th = x.th ∧ y.key = x.key ∧ y.lat = x.lat ∧ y.mask = x.mask ∧ y.i = x.i ∧ y.writes = x.writes ∧ y.wrote = x.wrote
      ∧ y.pushes = x.pushes ∧ y.own = x.own ∧ y.flags = x.flags := by
  obtain ⟨_, _, _, rfl⟩ := h; simp

/-- A bank access adds a stage. -/
theorem atStage_reads (x : Iss) (n : Nat) (bs : List Nat) : Reads x (x.atStage n bs) := ⟨_, _, _, rfl⟩

theorem check_reads {x y : Iss} {site : ErrSite} {why : Nat} (h : x.check site why = .ok y) : Reads x y := by
  rcases he : errAt x.s site with _ | b
  · simp only [Iss.check, he] at h; cases h; exact Reads.refl x
  · cases b <;> simp only [Iss.check, he] at h <;> cases h
    exact ⟨_, _, _, rfl⟩

/-- A register file is read where its entry passes the check, and the check is all that the read does. -/
theorem readG_reads {x y : Iss} {n e : Nat} {v : Word} (h : x.readG n e = .ok (v, y)) : Reads x y := by
  rcases hc : (x.atStage n [gBank e]).check (.gfile x.core e) 1 with stop | z
  · rw [Iss.readG, hc] at h; exact nomatch h
  · rw [Iss.readG, hc] at h; injection h with h
    obtain rfl : z = y := congrArg Prod.snd h
    exact (atStage_reads x n _).trans (check_reads hc)

theorem readW_reads {x y : Iss} {n e : Nat} {v : VReg} (h : x.readW n e = .ok (v, y)) : Reads x y := by
  rcases hc : (x.atStage n [wBank e]).check (.wfile x.core e) 2 with stop | z
  · rw [Iss.readW, hc] at h; exact nomatch h
  · rw [Iss.readW, hc] at h; injection h with h
    obtain rfl : z = y := congrArg Prod.snd h
    exact (atStage_reads x n _).trans (check_reads hc)

theorem pop_reads {x y : Iss} {q : Nat} {b : Bool} {v : VReg} (h : x.pop q b = .ok (v, y)) : Reads x y := by
  simp only [Iss.pop] at h
  grind

theorem int_reads {x y : Iss} {n : Nat} {o : Opnd} {v : Word} (h : x.int n o = .ok (v, y)) : Reads x y := by
  cases o
  case g => exact readG_reads h
  case bg => exact readG_reads h
  case q q =>
    rcases hp : x.pop q.val false with stop | r
    · rw [Iss.int, hp] at h; exact nomatch h
    · rw [Iss.int, hp] at h; injection h with h
      obtain rfl : r.2 = y := congrArg Prod.snd h
      exact pop_reads hp
  all_goals exact (Prod.mk.inj (Except.ok.inj h)).2 ▸ Reads.refl x

theorem vec_reads {x y : Iss} {n : Nat} {o : Opnd} {v : VReg} (h : x.vec n o = .ok (v, y)) : Reads x y := by
  cases o
  case v => exact readW_reads h
  case k => exact readW_reads h
  case q => exact pop_reads h
  all_goals exact (Prod.mk.inj (Except.ok.inj h)).2 ▸ Reads.refl x

/-- The latency of an instruction is not a register's: writing a result leaves it. -/
@[simp] theorem setInt_lat (x : Iss) (o : Opnd) (v : Word) : (x.setInt o v).lat = x.lat := by cases o <;> rfl
@[simp] theorem setVec_lat (x : Iss) (o : Opnd) (v : VReg) : (x.setVec o v).lat = x.lat := by cases o <;> rfl

end Sys2Proof.Machine
end

