-- ==== Sys2Proof/Laws/PerInstr.lean ====
section
/-! SUPPORT. Statements made of every instruction, one lemma for each constructor of `Instr`: that exactly the instructions of
threads have a word. -/

namespace Sys2Proof.Laws.Words

/-- An instruction has a word exactly when it carries a guard and hints: an event has none. -/
def Statement (i : Instr) : Prop := (encode i).isSome = i.ctl.isSome

theorem nop (c : Ctl) : Statement (.nop c) := rfl
theorem mov (c : Ctl) (w : Width) (u : Bool) (d : Opnd) (a : Opnd) : Statement (.mov c w u d a) := rfl
theorem movi (c : Ctl) (w : Width) (u : Bool) (d : Opnd) (b : Opnd) : Statement (.movi c w u d b) := rfl
theorem add (c : Ctl) (w : Width) (u : Bool) (st : Bool) (d : Opnd) (a : Opnd) (b : Opnd) : Statement (.add c w u st d a b) := rfl
theorem sub (c : Ctl) (w : Width) (u : Bool) (st : Bool) (d : Opnd) (a : Opnd) (b : Opnd) : Statement (.sub c w u st d a b) := rfl
theorem mul (c : Ctl) (w : Width) (u : Bool) (st : Bool) (d : Opnd) (a : Opnd) (b : Opnd) : Statement (.mul c w u st d a b) := rfl
theorem mulh (c : Ctl) (w : Width) (u : Bool) (d : Opnd) (a : Opnd) (b : Opnd) : Statement (.mulh c w u d a b) := rfl
theorem div (c : Ctl) (w : Width) (u : Bool) (d : Opnd) (a : Opnd) (b : Opnd) : Statement (.div c w u d a b) := rfl
theorem rem (c : Ctl) (w : Width) (u : Bool) (d : Opnd) (a : Opnd) (b : Opnd) : Statement (.rem c w u d a b) := rfl
theorem min (c : Ctl) (w : Width) (u : Bool) (d : Opnd) (a : Opnd) (b : Opnd) : Statement (.min c w u d a b) := rfl
theorem max (c : Ctl) (w : Width) (u : Bool) (d : Opnd) (a : Opnd) (b : Opnd) : Statement (.max c w u d a b) := rfl
theorem abs (c : Ctl) (w : Width) (st : Bool) (d : Opnd) (a : Opnd) : Statement (.abs c w st d a) := rfl
theorem and (c : Ctl) (d : Opnd) (a : Opnd) (b : Opnd) : Statement (.and c d a b) := rfl
theorem or (c : Ctl) (d : Opnd) (a : Opnd) (b : Opnd) : Statement (.or c d a b) := rfl
theorem xor (c : Ctl) (d : Opnd) (a : Opnd) (b : Opnd) : Statement (.xor c d a b) := rfl
theorem andn (c : Ctl) (d : Opnd) (a : Opnd) (b : Opnd) : Statement (.andn c d a b) := rfl
theorem shl (c : Ctl) (w : Width) (d : Opnd) (a : Opnd) (b : Opnd) : Statement (.shl c w d a b) := rfl
theorem shr (c : Ctl) (w : Width) (d : Opnd) (a : Opnd) (b : Opnd) : Statement (.shr c w d a b) := rfl
theorem sar (c : Ctl) (w : Width) (d : Opnd) (a : Opnd) (b : Opnd) : Statement (.sar c w d a b) := rfl
theorem rot (c : Ctl) (w : Width) (d : Opnd) (a : Opnd) (b : Opnd) : Statement (.rot c w d a b) := rfl
theorem clz (c : Ctl) (w : Width) (d : Opnd) (a : Opnd) : Statement (.clz c w d a) := rfl
theorem ctz (c : Ctl) (w : Width) (d : Opnd) (a : Opnd) : Statement (.ctz c w d a) := rfl
theorem popc (c : Ctl) (w : Width) (d : Opnd) (a : Opnd) : Statement (.popc c w d a) := rfl
theorem bext (c : Ctl) (d : Opnd) (a : Opnd) (b : Opnd) : Statement (.bext c d a b) := rfl
theorem bins (c : Ctl) (d : Opnd) (a : Opnd) (b : Opnd) : Statement (.bins c d a b) := rfl
theorem ext (c : Ctl) (w : Width) (u : Bool) (d : Opnd) (a : Opnd) (b : Opnd) : Statement (.ext c w u d a b) := rfl
theorem sel (c : Ctl) (n : BitVec 3) (d : Opnd) (a : Opnd) (b : Opnd) : Statement (.sel c n d a b) := rfl
theorem cmp (c : Ctl) (w : Width) (u : Bool) (cond : Cond) (d : Opnd) (a : Opnd) (b : Opnd) : Statement (.cmp c w u cond d a b) := rfl
theorem plog (c : Ctl) (tt : BitVec 4) (d : Opnd) (a : Opnd) (b : Opnd) : Statement (.plog c tt d a b) := rfl
theorem pmov (c : Ctl) (d : Opnd) (a : Opnd) : Statement (.pmov c d a) := rfl
theorem lea (c : Ctl) (n : BitVec 3) (d : Opnd) (a : Opnd) (b : Opnd) : Statement (.lea c n d a b) := rfl
theorem fadd (c : Ctl) (fmt : FFmt) (rnd : Rnd) (d : Opnd) (a : Opnd) (b : Opnd) : Statement (.fadd c fmt rnd d a b) := rfl
theorem fsub (c : Ctl) (fmt : FFmt) (rnd : Rnd) (d : Opnd) (a : Opnd) (b : Opnd) : Statement (.fsub c fmt rnd d a b) := rfl
theorem fmul (c : Ctl) (fmt : FFmt) (rnd : Rnd) (d : Opnd) (a : Opnd) (b : Opnd) : Statement (.fmul c fmt rnd d a b) := rfl
theorem fma (c : Ctl) (fmt : FFmt) (rnd : Rnd) (d : Opnd) (a : Opnd) (b : Opnd) : Statement (.fma c fmt rnd d a b) := rfl
theorem fdiv (c : Ctl) (fmt : FFmt) (rnd : Rnd) (d : Opnd) (a : Opnd) (b : Opnd) : Statement (.fdiv c fmt rnd d a b) := rfl
theorem fsqrt (c : Ctl) (fmt : FFmt) (rnd : Rnd) (d : Opnd) (a : Opnd) : Statement (.fsqrt c fmt rnd d a) := rfl
theorem fmin (c : Ctl) (fmt : FFmt) (d : Opnd) (a : Opnd) (b : Opnd) : Statement (.fmin c fmt d a b) := rfl
theorem fmax (c : Ctl) (fmt : FFmt) (d : Opnd) (a : Opnd) (b : Opnd) : Statement (.fmax c fmt d a b) := rfl
theorem fabs (c : Ctl) (fmt : FFmt) (d : Opnd) (a : Opnd) : Statement (.fabs c fmt d a) := rfl
theorem fneg (c : Ctl) (fmt : FFmt) (d : Opnd) (a : Opnd) : Statement (.fneg c fmt d a) := rfl
theorem fcmp (c : Ctl) (fmt : FFmt) (cond : Cond) (d : Opnd) (a : Opnd) (b : Opnd) : Statement (.fcmp c fmt cond d a b) := rfl
theorem fcvt (c : Ctl) (k : CvtKind) (rnd : Rnd) (sat : Bool) (d : Opnd) (a : Opnd) : Statement (.fcvt c k rnd sat d a) := rfl
theorem fclass (c : Ctl) (fmt : FFmt) (d : Opnd) (a : Opnd) : Statement (.fclass c fmt d a) := rfl
theorem frnd (c : Ctl) (fmt : FFmt) (rnd : Rnd) (d : Opnd) (a : Opnd) : Statement (.frnd c fmt rnd d a) := rfl
theorem br (c : Ctl) (b : Opnd) : Statement (.br c b) := rfl
theorem brr (c : Ctl) (a : Opnd) : Statement (.brr c a) := rfl
theorem call (c : Ctl) (d : Opnd) (b : Opnd) : Statement (.call c d b) := rfl
theorem ret (c : Ctl) (a : Opnd) : Statement (.ret c a) := rfl
theorem loop (c : Ctl) (d : Opnd) (b : Opnd) : Statement (.loop c d b) := rfl
theorem exit (c : Ctl) : Statement (.exit c) := rfl
theorem spawn (c : Ctl) (mig : Bool) (d : Opnd) (a : Opnd) (b : Opnd) : Statement (.spawn c mig d a b) := rfl
theorem join (c : Ctl) (a : Opnd) : Statement (.join c a) := rfl
theorem slot (c : Ctl) (d : Opnd) : Statement (.slot c d) := rfl
theorem ld (c : Ctl) (size : Size) (u : Bool) (d : Opnd) (r : MemRef) : Statement (.ld c size u d r) := rfl
theorem st (c : Ctl) (size : Size) (d : Opnd) (r : MemRef) : Statement (.st c size d r) := rfl
theorem ldfe (c : Ctl) (d : Opnd) (r : MemRef) : Statement (.ldfe c d r) := rfl
theorem stfe (c : Ctl) (d : Opnd) (r : MemRef) : Statement (.stfe c d r) := rfl
theorem ldfp (c : Ctl) (d : Opnd) (r : MemRef) : Statement (.ldfp c d r) := rfl
theorem chk (c : Ctl) (d : Opnd) (r : MemRef) : Statement (.chk c d r) := rfl
theorem lseg (c : Ctl) (d : Opnd) (a : Opnd) : Statement (.lseg c d a) := rfl
theorem stag (c : Ctl) (d : Opnd) (r : MemRef) : Statement (.stag c d r) := rfl
theorem ltag (c : Ctl) (d : Opnd) (r : MemRef) : Statement (.ltag c d r) := rfl
theorem aop (c : Ctl) (op : AtomOp) (wide : Bool) (ord : Order) (d : Opnd) (r : MemRef) : Statement (.aop c op wide ord d r) := rfl
theorem acas (c : Ctl) (wide : Bool) (ord : Order) (d : Opnd) (r : MemRef) : Statement (.acas c wide ord d r) := rfl
theorem ald (c : Ctl) (wide : Bool) (ord : Order) (d : Opnd) (r : MemRef) : Statement (.ald c wide ord d r) := rfl
theorem ast (c : Ctl) (wide : Bool) (ord : Order) (d : Opnd) (r : MemRef) : Statement (.ast c wide ord d r) := rfl
theorem pub (c : Ctl) : Statement (.pub c) := rfl
theorem refresh (c : Ctl) : Statement (.refresh c) := rfl
theorem phase (c : Ctl) : Statement (.phase c) := rfl
theorem pref (c : Ctl) (r : MemRef) : Statement (.pref c r) := rfl
theorem vadd (c : Ctl) (rnd : Rnd) (sat : Bool) (d : Opnd) (a : Opnd) (b : Opnd) : Statement (.vadd c rnd sat d a b) := rfl
theorem vsub (c : Ctl) (rnd : Rnd) (sat : Bool) (d : Opnd) (a : Opnd) (b : Opnd) : Statement (.vsub c rnd sat d a b) := rfl
theorem vmul (c : Ctl) (rnd : Rnd) (sat : Bool) (d : Opnd) (a : Opnd) (b : Opnd) : Statement (.vmul c rnd sat d a b) := rfl
theorem vfma (c : Ctl) (rnd : Rnd) (sat : Bool) (d : Opnd) (a : Opnd) (b : Opnd) : Statement (.vfma c rnd sat d a b) := rfl
theorem vmin (c : Ctl) (d : Opnd) (a : Opnd) (b : Opnd) : Statement (.vmin c d a b) := rfl
theorem vmax (c : Ctl) (d : Opnd) (a : Opnd) (b : Opnd) : Statement (.vmax c d a b) := rfl
theorem vabs (c : Ctl) (sat : Bool) (d : Opnd) (a : Opnd) : Statement (.vabs c sat d a) := rfl
theorem vneg (c : Ctl) (sat : Bool) (d : Opnd) (a : Opnd) : Statement (.vneg c sat d a) := rfl
theorem vrcp (c : Ctl) (rnd : Rnd) (sat : Bool) (d : Opnd) (a : Opnd) : Statement (.vrcp c rnd sat d a) := rfl
theorem vrsqrt (c : Ctl) (rnd : Rnd) (sat : Bool) (d : Opnd) (a : Opnd) : Statement (.vrsqrt c rnd sat d a) := rfl
theorem vexp2 (c : Ctl) (rnd : Rnd) (sat : Bool) (d : Opnd) (a : Opnd) : Statement (.vexp2 c rnd sat d a) := rfl
theorem vlog2 (c : Ctl) (rnd : Rnd) (sat : Bool) (d : Opnd) (a : Opnd) : Statement (.vlog2 c rnd sat d a) := rfl
theorem vdiv (c : Ctl) (rnd : Rnd) (sat : Bool) (d : Opnd) (a : Opnd) (b : Opnd) : Statement (.vdiv c rnd sat d a b) := rfl
theorem vsqrt (c : Ctl) (rnd : Rnd) (sat : Bool) (d : Opnd) (a : Opnd) : Statement (.vsqrt c rnd sat d a) := rfl
theorem vand (c : Ctl) (d : Opnd) (a : Opnd) (b : Opnd) : Statement (.vand c d a b) := rfl
theorem vor (c : Ctl) (d : Opnd) (a : Opnd) (b : Opnd) : Statement (.vor c d a b) := rfl
theorem vxor (c : Ctl) (d : Opnd) (a : Opnd) (b : Opnd) : Statement (.vxor c d a b) := rfl
theorem vshl (c : Ctl) (d : Opnd) (a : Opnd) (b : Opnd) : Statement (.vshl c d a b) := rfl
theorem vshr (c : Ctl) (ar : Bool) (d : Opnd) (a : Opnd) (b : Opnd) : Statement (.vshr c ar d a b) := rfl
theorem vcmp (c : Ctl) (cond : Cond) (d : Opnd) (a : Opnd) (b : Opnd) : Statement (.vcmp c cond d a b) := rfl
theorem vsel (c : Ctl) (n : BitVec 3) (d : Opnd) (a : Opnd) (b : Opnd) : Statement (.vsel c n d a b) := rfl
theorem vcvt (c : Ctl) (tag : BitVec 4) (rnd : Rnd) (sat : Bool) (part : BitVec 2) (d : Opnd) (a : Opnd) : Statement (.vcvt c tag rnd sat part d a) := rfl
theorem vbfp (c : Ctl) (tag : BitVec 4) (rnd : Rnd) (sat : Bool) (part : BitVec 2) (d : Opnd) (a : Opnd) : Statement (.vbfp c tag rnd sat part d a) := rfl
theorem vunbfp (c : Ctl) (tag : BitVec 4) (rnd : Rnd) (sat : Bool) (part : BitVec 2) (d : Opnd) (a : Opnd) : Statement (.vunbfp c tag rnd sat part d a) := rfl
theorem vperm (c : Ctl) (d : Opnd) (a : Opnd) (b : Opnd) : Statement (.vperm c d a b) := rfl
theorem vbcast (c : Ctl) (d : Opnd) (a : Opnd) (b : Opnd) : Statement (.vbcast c d a b) := rfl
theorem vext (c : Ctl) (d : Opnd) (a : Opnd) (b : Opnd) : Statement (.vext c d a b) := rfl
theorem vins (c : Ctl) (d : Opnd) (a : Opnd) (b : Opnd) : Statement (.vins c d a b) := rfl
theorem vred (c : Ctl) (op : RedOp) (rnd : Rnd) (sat : Bool) (d : Opnd) (a : Opnd) : Statement (.vred c op rnd sat d a) := rfl
theorem vscan (c : Ctl) (op : RedOp) (rnd : Rnd) (sat : Bool) (d : Opnd) (a : Opnd) : Statement (.vscan c op rnd sat d a) := rfl
theorem vdot (c : Ctl) (rnd : Rnd) (sat : Bool) (d : Opnd) (a : Opnd) (b : Opnd) : Statement (.vdot c rnd sat d a b) := rfl
theorem vld (c : Ctl) (tag : BitVec 4) (d : Opnd) (r : MemRef) : Statement (.vld c tag d r) := rfl
theorem vst (c : Ctl) (d : Opnd) (r : MemRef) : Statement (.vst c d r) := rfl
theorem vldx (c : Ctl) (tag : BitVec 4) (d : Opnd) (r : MemRef) : Statement (.vldx c tag d r) := rfl
theorem vstx (c : Ctl) (d : Opnd) (r : MemRef) : Statement (.vstx c d r) := rfl
theorem vtag (c : Ctl) (tag : BitVec 4) (d : Opnd) (a : Opnd) : Statement (.vtag c tag d a) := rfl
theorem vgtag (c : Ctl) (d : Opnd) (a : Opnd) : Statement (.vgtag c d a) := rfl
theorem vmov (c : Ctl) (d : Opnd) (a : Opnd) : Statement (.vmov c d a) := rfl
theorem vclamp (c : Ctl) (d : Opnd) (a : Opnd) (b : Opnd) : Statement (.vclamp c d a b) := rfl
theorem kaddF (c : Ctl) (d : Opnd) (a : Opnd) (b : Opnd) : Statement (.kaddF c d a b) := rfl
theorem kaddB (c : Ctl) (d : Opnd) (a : Opnd) (b : Opnd) : Statement (.kaddB c d a b) := rfl
theorem ksubF (c : Ctl) (d : Opnd) (a : Opnd) (b : Opnd) : Statement (.ksubF c d a b) := rfl
theorem ksubB (c : Ctl) (d : Opnd) (a : Opnd) (b : Opnd) : Statement (.ksubB c d a b) := rfl
theorem kmulF (c : Ctl) (d : Opnd) (a : Opnd) (b : Opnd) : Statement (.kmulF c d a b) := rfl
theorem kmulB (c : Ctl) (d : Opnd) (a : Opnd) (b : Opnd) : Statement (.kmulB c d a b) := rfl
theorem kdivF (c : Ctl) (d : Opnd) (a : Opnd) (b : Opnd) : Statement (.kdivF c d a b) := rfl
theorem kdivB (c : Ctl) (d : Opnd) (a : Opnd) (b : Opnd) : Statement (.kdivB c d a b) := rfl
theorem kfmaF (c : Ctl) (d : Opnd) (a : Opnd) (b : Opnd) : Statement (.kfmaF c d a b) := rfl
theorem kfmaB (c : Ctl) (d : Opnd) (a : Opnd) (b : Opnd) : Statement (.kfmaB c d a b) := rfl
theorem knegF (c : Ctl) (d : Opnd) (a : Opnd) : Statement (.knegF c d a) := rfl
theorem knegB (c : Ctl) (d : Opnd) (a : Opnd) : Statement (.knegB c d a) := rfl
theorem kabsF (c : Ctl) (d : Opnd) (a : Opnd) : Statement (.kabsF c d a) := rfl
theorem kabsB (c : Ctl) (d : Opnd) (a : Opnd) : Statement (.kabsB c d a) := rfl
theorem ksqrF (c : Ctl) (d : Opnd) (a : Opnd) : Statement (.ksqrF c d a) := rfl
theorem ksqrB (c : Ctl) (d : Opnd) (a : Opnd) : Statement (.ksqrB c d a) := rfl
theorem ksqrtF (c : Ctl) (d : Opnd) (a : Opnd) : Statement (.ksqrtF c d a) := rfl
theorem ksqrtB (c : Ctl) (d : Opnd) (a : Opnd) : Statement (.ksqrtB c d a) := rfl
theorem kexpF (c : Ctl) (d : Opnd) (a : Opnd) : Statement (.kexpF c d a) := rfl
theorem kexpB (c : Ctl) (d : Opnd) (a : Opnd) : Statement (.kexpB c d a) := rfl
theorem klogF (c : Ctl) (d : Opnd) (a : Opnd) : Statement (.klogF c d a) := rfl
theorem klogB (c : Ctl) (d : Opnd) (a : Opnd) : Statement (.klogB c d a) := rfl
theorem kreluF (c : Ctl) (d : Opnd) (a : Opnd) : Statement (.kreluF c d a) := rfl
theorem kreluB (c : Ctl) (d : Opnd) (a : Opnd) : Statement (.kreluB c d a) := rfl
theorem kmaxF (c : Ctl) (d : Opnd) (a : Opnd) (b : Opnd) : Statement (.kmaxF c d a b) := rfl
theorem kmaxB (c : Ctl) (d : Opnd) (a : Opnd) (b : Opnd) : Statement (.kmaxB c d a b) := rfl
theorem kminF (c : Ctl) (d : Opnd) (a : Opnd) (b : Opnd) : Statement (.kminF c d a b) := rfl
theorem kminB (c : Ctl) (d : Opnd) (a : Opnd) (b : Opnd) : Statement (.kminB c d a b) := rfl
theorem kscaleF (c : Ctl) (d : Opnd) (a : Opnd) (b : Opnd) : Statement (.kscaleF c d a b) := rfl
theorem kscaleB (c : Ctl) (d : Opnd) (a : Opnd) (b : Opnd) : Statement (.kscaleB c d a b) := rfl
theorem kmacF (c : Ctl) (d : Opnd) (a : Opnd) (b : Opnd) : Statement (.kmacF c d a b) := rfl
theorem kmacB (c : Ctl) (d : Opnd) (a : Opnd) (b : Opnd) : Statement (.kmacB c d a b) := rfl
theorem kcap (c : Ctl) (d : Opnd) (a : Opnd) (b : Opnd) : Statement (.kcap c d a b) := rfl
theorem khull (c : Ctl) (d : Opnd) (a : Opnd) (b : Opnd) : Statement (.khull c d a b) := rfl
theorem kmk (c : Ctl) (part : Bool) (d : Opnd) (a : Opnd) (b : Opnd) : Statement (.kmk c part d a b) := rfl
theorem klo (c : Ctl) (part : Bool) (d : Opnd) (a : Opnd) : Statement (.klo c part d a) := rfl
theorem khi (c : Ctl) (part : Bool) (d : Opnd) (a : Opnd) : Statement (.khi c part d a) := rfl
theorem kmid (c : Ctl) (part : Bool) (d : Opnd) (a : Opnd) : Statement (.kmid c part d a) := rfl
theorem kwid (c : Ctl) (part : Bool) (d : Opnd) (a : Opnd) : Statement (.kwid c part d a) := rfl
theorem ksplit (c : Ctl) (d : Opnd) (a : Opnd) : Statement (.ksplit c d a) := rfl
theorem kcmpF (c : Ctl) (cond : Cond) (d : Opnd) (a : Opnd) (b : Opnd) : Statement (.kcmpF c cond d a b) := rfl
theorem kcmpB (c : Ctl) (cond : Cond) (d : Opnd) (a : Opnd) (b : Opnd) : Statement (.kcmpB c cond d a b) := rfl
theorem kin (c : Ctl) (d : Opnd) (a : Opnd) (b : Opnd) : Statement (.kin c d a b) := rfl
theorem kstat (c : Ctl) (d : Opnd) (a : Opnd) : Statement (.kstat c d a) := rfl
theorem kld (c : Ctl) (d : Opnd) (r : MemRef) : Statement (.kld c d r) := rfl
theorem kst (c : Ctl) (d : Opnd) (r : MemRef) : Statement (.kst c d r) := rfl
theorem kmov (c : Ctl) (d : Opnd) (a : Opnd) : Statement (.kmov c d a) := rfl
theorem kset (c : Ctl) (d : Opnd) (a : Opnd) (b : Opnd) : Statement (.kset c d a b) := rfl
theorem mlog (c : Ctl) (fn : MlogFn) (d : Opnd) (a : Opnd) (b : Opnd) : Statement (.mlog c fn d a b) := rfl
theorem qld (c : Ctl) (d : Opnd) (r : MemRef) : Statement (.qld c d r) := rfl
theorem qst (c : Ctl) (d : Opnd) (r : MemRef) : Statement (.qst c d r) := rfl
theorem qcnt (c : Ctl) (d : Opnd) (a : Opnd) : Statement (.qcnt c d a) := rfl
theorem qclr (c : Ctl) (d : Opnd) (a : Opnd) : Statement (.qclr c d a) := rfl
theorem borrow (c : Ctl) (d : Opnd) (a : Opnd) : Statement (.borrow c d a) := rfl
theorem bret (c : Ctl) : Statement (.bret c) := rfl
theorem xmov (c : Ctl) (d : Opnd) (a : Opnd) : Statement (.xmov c d a) := rfl
theorem sendr (c : Ctl) (d : Opnd) (a : Opnd) (b : Opnd) : Statement (.sendr c d a b) := rfl
theorem sendw (c : Ctl) (a : Opnd) (b : Opnd) : Statement (.sendw c a b) := rfl
theorem send (c : Ctl) (a : Opnd) (b : Opnd) : Statement (.send c a b) := rfl
theorem mcast (c : Ctl) (d : Opnd) (a : Opnd) (b : Opnd) : Statement (.mcast c d a b) := rfl
theorem migrate (c : Ctl) (r : MemRef) : Statement (.migrate c r) := rfl
theorem wait (c : Ctl) : Statement (.wait c) := rfl
theorem mma (c : Ctl) (sat : Bool) (mq : BitVec 2) (d : Opnd) (a : Opnd) (b : Opnd) : Statement (.mma c sat mq d a b) := rfl
theorem mmac (c : Ctl) (sat : Bool) (mq : BitVec 2) (d : Opnd) (a : Opnd) (b : Opnd) : Statement (.mmac c sat mq d a b) := rfl
theorem mzero (c : Ctl) (mq : BitVec 2) (d : Opnd) (a : Opnd) (b : Opnd) : Statement (.mzero c mq d a b) := rfl
theorem mrd (c : Ctl) (sat : Bool) (mq : BitVec 2) (d : Opnd) (a : Opnd) (b : Opnd) : Statement (.mrd c sat mq d a b) := rfl
theorem mwr (c : Ctl) (mq : BitVec 2) (d : Opnd) (a : Opnd) (b : Opnd) : Statement (.mwr c mq d a b) := rfl
theorem tdef (c : Ctl) (n : BitVec 3) (d : Opnd) (a : Opnd) (b : Opnd) : Statement (.tdef c n d a b) := rfl
theorem trel (c : Ctl) (a : Opnd) : Statement (.trel c a) := rfl
theorem tstat (c : Ctl) (d : Opnd) (a : Opnd) : Statement (.tstat c d a) := rfl
theorem twait (c : Ctl) (a : Opnd) : Statement (.twait c a) := rfl
theorem cpy (c : Ctl) (mq : BitVec 2) (d : Opnd) (a : Opnd) (b : Opnd) : Statement (.cpy c mq d a b) := rfl
theorem jpoll (c : Ctl) (d : Opnd) (a : Opnd) : Statement (.jpoll c d a) := rfl
theorem jwait (c : Ctl) (d : Opnd) (a : Opnd) : Statement (.jwait c d a) := rfl
theorem qfence (c : Ctl) (d : Opnd) (a : Opnd) : Statement (.qfence c d a) := rfl
theorem tsub (c : Ctl) (d : Opnd) (a : Opnd) (b : Opnd) : Statement (.tsub c d a b) := rfl
theorem put (c : Ctl) (d : Opnd) (a : Opnd) : Statement (.put c d a) := rfl
theorem puts (c : Ctl) (d : Opnd) (a : Opnd) : Statement (.puts c d a) := rfl
theorem get (c : Ctl) (d : Opnd) (a : Opnd) : Statement (.get c d a) := rfl
theorem cwait (c : Ctl) (d : Opnd) (a : Opnd) (b : Opnd) : Statement (.cwait c d a b) := rfl
theorem cread (c : Ctl) (d : Opnd) (a : Opnd) : Statement (.cread c d a) := rfl
theorem cadd (c : Ctl) (d : Opnd) (a : Opnd) (b : Opnd) : Statement (.cadd c d a b) := rfl
theorem trap (c : Ctl) (a : Opnd) : Statement (.trap c a) := rfl
theorem brk (c : Ctl) : Statement (.brk c) := rfl
theorem xrd (c : Ctl) (d : Opnd) (a : Opnd) : Statement (.xrd c d a) := rfl
theorem xwr (c : Ctl) (d : Opnd) (a : Opnd) : Statement (.xwr c d a) := rfl
theorem cyc (c : Ctl) (d : Opnd) : Statement (.cyc c d) := rfl
theorem cycDeadline (c : Ctl) (d : Opnd) (a : Opnd) : Statement (.cycDeadline c d a) := rfl
theorem idle (c : Ctl) (a : Opnd) : Statement (.idle c a) := rfl
theorem patrolScrub (site : ErrSite) : Statement (.patrolScrub site) := rfl
theorem pageEntryChange (change : PageChange) : Statement (.pageEntryChange change) := rfl
theorem pageMigrate (ctag vpn : Nat) (last : Bool) (tier : BitVec 2) (frame : BitVec 47) : Statement (.pageMigrate ctag vpn last tier frame) := rfl
theorem groupPlace (l pos lead : Nat) (places : List Place) : Statement (.groupPlace l pos lead places) := rfl
theorem qkick (queue : Nat) (value : BitVec 32) : Statement (.qkick queue value) := rfl
theorem qbase (queue : Nat) (value : BitVec 64) : Statement (.qbase queue value) := rfl
theorem qctl (queue : Nat) (value : BitVec 64) : Statement (.qctl queue value) := rfl
theorem cap (die : Nat) (value : BitVec 12) : Statement (.cap die value) := rfl
theorem registerWrite (place : RegPlace) (offset : Nat) (value : BitVec 64) : Statement (.registerWrite place offset value) := rfl
theorem tempUpdate (die : Nat) (temp : BitVec 8) : Statement (.tempUpdate die temp) := rfl
theorem restore (pid : Nat) (targets : List Nat) : Statement (.restore pid targets) := rfl
theorem contextTagReside (core : Nat) (ctag : BitVec 16) (evict : Option (BitVec 16)) : Statement (.contextTagReside core ctag evict) := rfl
theorem windowRegister (ctag n : Nat) (win : WindowEntry) (onFabricPlace : Bool) : Statement (.windowRegister ctag n win onFabricPlace) := rfl
theorem boot (romVersion monitor policy : BootImage) : Statement (.boot romVersion monitor policy) := rfl
theorem doeAttestation (fnum : Nat) (nonce : List (BitVec 8)) : Statement (.doeAttestation fnum nonce) := rfl
theorem doeIdeKm (fnum : Nat) (object : List (BitVec 8)) : Statement (.doeIdeKm fnum object) := rfl
theorem bar2Write (fnum offset : Nat) (bytes : List (BitVec 8)) : Statement (.bar2Write fnum offset bytes) := rfl
theorem linkFlitReceive (port : Nat) (flit : LinkFlit) : Statement (.linkFlitReceive port flit) := rfl
theorem fabricPutArrival (msg : FabricMsg) : Statement (.fabricPutArrival msg) := rfl
theorem fabricGetArrival (msg : FabricMsg) : Statement (.fabricGetArrival msg) := rfl
theorem fabricGetData (op : Nat) (bytes : List (BitVec 8)) : Statement (.fabricGetData op bytes) := rfl
theorem descriptorCreate (ctag index : Nat) (seg : Segment) : Statement (.descriptorCreate ctag index seg) := rfl
theorem routeTableWrite (mod : Nat) (mask : BitVec 16) : Statement (.routeTableWrite mod mask) := rfl
theorem spanFreezeEnd : Statement .spanFreezeEnd := rfl
theorem publicationComplete : Statement .publicationComplete := rfl
theorem remoteAccessReply : Statement .remoteAccessReply := rfl
theorem qldDataArrival : Statement .qldDataArrival := rfl
theorem depositLanding : Statement .depositLanding := rfl
theorem idleExpiry : Statement .idleExpiry := rfl
theorem vectorUnitGate : Statement .vectorUnitGate := rfl
theorem vectorUnitWake : Statement .vectorUnitWake := rfl
theorem coreGate : Statement .coreGate := rfl
theorem coreWakeComplete : Statement .coreWakeComplete := rfl
theorem coreReset : Statement .coreReset := rfl
theorem heldWritePerform : Statement .heldWritePerform := rfl
theorem waitArrival : Statement .waitArrival := rfl
theorem marverFire : Statement .marverFire := rfl
theorem barrierRelease : Statement .barrierRelease := rfl
theorem gafferStep : Statement .gafferStep := rfl
theorem gafferRecordRead : Statement .gafferRecordRead := rfl
theorem walkProbe : Statement .walkProbe := rfl
theorem pagerComplete : Statement .pagerComplete := rfl
theorem pagerDecline : Statement .pagerDecline := rfl
theorem packetHeadArrival : Statement .packetHeadArrival := rfl
theorem packetEndArrival : Statement .packetEndArrival := rfl
theorem abortFlitArrival : Statement .abortFlitArrival := rfl
theorem partialPacketTimeout : Statement .partialPacketTimeout := rfl
theorem packetAdmit : Statement .packetAdmit := rfl
theorem spillMove : Statement .spillMove := rfl
theorem replyAccept : Statement .replyAccept := rfl
theorem replyAdmit : Statement .replyAdmit := rfl
theorem replyRefuse : Statement .replyRefuse := rfl
theorem replyBounce : Statement .replyBounce := rfl
theorem replyFree : Statement .replyFree := rfl
theorem retentionResendTimeout : Statement .retentionResendTimeout := rfl
theorem admitResend : Statement .admitResend := rfl
theorem flitAgeDiscard : Statement .flitAgeDiscard := rfl
theorem linkFlitCrcFail : Statement .linkFlitCrcFail := rfl
theorem remoteFeRequest : Statement .remoteFeRequest := rfl
theorem feParkTimeout : Statement .feParkTimeout := rfl
theorem replyRetry : Statement .replyRetry := rfl
theorem feRetryResend : Statement .feRetryResend := rfl
theorem matrixJobStart : Statement .matrixJobStart := rfl
theorem matrixJobEnd : Statement .matrixJobEnd := rfl
theorem matrixJobComplete : Statement .matrixJobComplete := rfl
theorem copyJobStart : Statement .copyJobStart := rfl
theorem bytesLand : Statement .bytesLand := rfl
theorem copyJobComplete : Statement .copyJobComplete := rfl
theorem qfenceComplete : Statement .qfenceComplete := rfl
theorem subscriptionTileStart : Statement .subscriptionTileStart := rfl
theorem storerWritebackComplete : Statement .storerWritebackComplete := rfl
theorem packetLaunch : Statement .packetLaunch := rfl
theorem packetGraph : Statement .packetGraph := rfl
theorem packetWait : Statement .packetWait := rfl
theorem waitPacketPoll : Statement .waitPacketPoll := rfl
theorem packetSignal : Statement .packetSignal := rfl
theorem packetCancel : Statement .packetCancel := rfl
theorem scoreboardEnter : Statement .scoreboardEnter := rfl
theorem groupRelease : Statement .groupRelease := rfl
theorem priorityAge : Statement .priorityAge := rfl
theorem groupStart : Statement .groupStart := rfl
theorem groupRetire : Statement .groupRetire := rfl
theorem groupCancel : Statement .groupCancel := rfl
theorem launchComplete : Statement .launchComplete := rfl
theorem jctl : Statement .jctl := rfl
theorem powerWindow : Statement .powerWindow := rfl
theorem thermalEventClear : Statement .thermalEventClear := rfl
theorem haltRequest : Statement .haltRequest := rfl
theorem haltTakeEffect : Statement .haltTakeEffect := rfl
theorem haltPacketTimeout : Statement .haltPacketTimeout := rfl
theorem restoreIssueResume : Statement .restoreIssueResume := rfl
theorem lazyRegionSave : Statement .lazyRegionSave := rfl
theorem partitionAssign : Statement .partitionAssign := rfl
theorem schedulerCoreError : Statement .schedulerCoreError := rfl
theorem standbyFailure : Statement .standbyFailure := rfl
theorem doeDiscovery : Statement .doeDiscovery := rfl
theorem bar2Read : Statement .bar2Read := rfl
theorem atsInvalidation : Statement .atsInvalidation := rfl
theorem linkReplayTimeout : Statement .linkReplayTimeout := rfl
theorem fabricAck : Statement .fabricAck := rfl
theorem fabricOpTimeout : Statement .fabricOpTimeout := rfl
theorem arrivalAtHome : Statement .arrivalAtHome := rfl
theorem copyLastTileRead : Statement .copyLastTileRead := rfl
theorem codeBufferLoadComplete : Statement .codeBufferLoadComplete := rfl
theorem routerParityDiscard : Statement .routerParityDiscard := rfl
theorem coreResetComplete : Statement .coreResetComplete := rfl

end Sys2Proof.Laws.Words
end

