-- ==== Sys2Proof/Tests/Slice0.lean ====
section
/-! SUPPORT. Tests: ill-formed terms refused, words of the spec decoded, single steps, and for the statements the states and
operands that meet their hypotheses. Expected values are written from the spec's rules. -/

namespace Sys2Proof.Tests

set_option Elab.async false

open Sys2Proof Sys2Proof.Machine

/-! ### Helpers -/

/-- No guard, no hint, no timeout. -/
def alone : Ctl := ⟨false, 0, false, false⟩

/-- One thread at key 0 of 128 general, 32 vector and 16 interval registers, launch 0, about to issue. -/
def base : State := State.reset.withFetchWord 96 0
def thr : Thread := loadedThread State.reset
def G (g : SMap Word) : State := { base with gfile := g }
def W (w : SMap VReg) : State := { base with wfile := w }
def T (f : Thread → Thread) (s : State) : State := s.setThread 0 (f thr)

/-- The instruction as its body meets it. -/
def is (i : Instr) (s : State) : Iss := issueState i alone (s.thread? 0 |>.getD thr) s

/-- One step that runs a word. -/
def stepOf (s : State) (w : Nat) : State := match step (s.withFetchWord 96 w) with
  | .next s => s
  | _ => .reset
def ran (w : Nat) (g : SMap Word) : State := stepOf { State.reset with gfile := g } w
def gOf (s : State) (n : Nat) : Word := s.gfile.getD n 0
/-- The state after one instruction. -/
def doneBy (i : Instr) (s : State) : State := match exec i s with
  | .next s => s
  | _ => .reset

theorem completed_of {s : State} {k : Nat} {t : Thread} (h : s.thread? k = some t) (a : t.st = .ready) (b : t.cause = none) :
    Completed s k := by simp [Completed, h, a, b]

def g12 : State := G [(1, 5), (2, 7), (3, 0x11)]
/-- Segment s2 is the own core store, s3 the own vault, s4 a window address of the own core store, s5 paged memory; s6 is
coloured 3 over the own core store. Cluster 0 belongs to the context's partition. -/
def segged (t : Thread) : Thread := { t with segs := (((((t.segs.set 2 ⟨0, 0x1000, true, true, false, true, 0, .core, 0⟩).set 3
  ⟨0, 0x1000, true, true, false, true, 0, .vault, 0⟩).set 4 ⟨0xFF000000000000, 0x1000, true, false, false, false, 0, .memory, 0⟩).set 5
  ⟨0x20000, 0x1000, true, true, false, false, 0, .memory, 0⟩).set 6 ⟨0, 0x1000, true, true, false, true, 3, .core, 0⟩) }
def ctx0 : Context := ⟨0, 0, [(7, ⟨0, 64, true, true, false, false, 1, .core, 0⟩), (8, ⟨0, 64, true, true, false, false, 0, .core, 0⟩)], 9, 0, 0, []⟩
def part0 : Partition := ⟨.rect 0 0 0 1 1, [0], [0], [], [], 0, false, 0⟩
def M (g : SMap Word) : State := { G g with threads := [(0, segged thr)], contexts := [(0, ctx0)], partitions := [(0, part0)] }
def sthr : Thread := segged thr
def pcOf (s : State) : Option (BitVec 32) := (s.thread? 0).map (·.pc)
def stateOf (s : State) : Option TState := (s.thread? 0).map (·.st)
/-- Why the thread waits: `record` once it has trapped. -/
def causeOf (s : State) : Option Cause := (s.thread? 0).bind (·.cause)
def statusOf (s : State) : Option (BitVec 32) := (s.thread? 0).map (·.status)
/-- Vector registers: v1 and v2 bytes, v3 and v4 F32, v5 F64, v6 BFP8, v7 32-bit integers; k0 and k1 are F32 intervals. -/
def wides : SMap VReg := [(1, ⟨0x7F05, 1⟩), (2, ⟨0x0103, 1⟩), (3, ⟨0x400000003F800000, 7⟩), (4, ⟨0x3F8000003F800000, 7⟩),
  (5, ⟨0x3FF0000000000000, 8⟩), (6, ⟨0x7F, 15⟩), (7, ⟨0x1, 3⟩), (32, ⟨0x40000000BF800000, 1⟩), (33, ⟨0x400000003F800000, 1⟩)]
def vs : State := { g12 with wfile := wides }
/-- Queue 3 holds 9, and queue 12 a wide entry; the queues are the thread's context's. -/
def Qs : State := (base.updCore 0 fun k => { k with qOwner := some 0 }).setQueue 0 3
  { base.queue 0 3 with ents := [⟨⟨9, 0⟩, none, none, 0⟩] } |>.setQueue 0 12
  { base.queue 0 12 with ents := [⟨⟨7, 3⟩, none, none, 0⟩] }
def vOf (s : State) (n : Nat) : VReg := s.wfile.getD n .zero
def m12 : State := M [(1, 8), (2, 7)]
def ref (k : Fin 8) (o : BitVec 17) : MemRef := ⟨k, .none, .imm o⟩
def cpart (o n : Nat) : Part := ⟨0xFF * 2 ^ 48 + o, 0xFF * 2 ^ 48 + o, n, none⟩
def vpart (o n : Nat) : Part := ⟨0xFE * 2 ^ 48 + o, 0xFE * 2 ^ 48 + o, n, none⟩
def wrote (o n v : Nat) (s : State) : State := { s with mem := memPutAll s.mem (0xFF * 2 ^ 48 + o) (toBytes n v) }
def r12 : State := g12.updCore 0 fun k => { k with tags := [⟨0, 0, 0, 0, 0⟩] }
/-- Tiles 1 and 2 hold 4 rows of 8 bytes, tile 3 32-bit integers; tiles 4 and 5 are alike; tile 6 is FILLING. The accumulators
are the context's, and a0 holds 32-bit integers. -/
def tl (fmt : BitVec 4) (st : TileState) (base : Nat) : Tile :=
  { Tile.reset with st := st, fmt := fmt, rows := 4, cols := 8, pitch := 32, expected := 32, arrived := 32, base := base }
def cs : State := (m12.updCluster 0 fun k => { k with
  accOwner := some 0, accs := [(0, { Acc.reset with atag := 3 })],
  tiles := [(1, tl 1 .ready 0), (2, tl 1 .ready 0x100), (3, tl 3 .ready 0x200), (4, tl 1 .ready 0x300), (5, tl 1 .ready 0x400), (6, tl 1 .filling 0x500)] })
def csg (g : SMap Word) : State := { cs with gfile := g }
def job0 : Job := ⟨1, .fence 0, 0, 0, 0, 0, 0, 0, none, [], .queued, 0, false, false, false, 0, [], [], 0⟩
def A (a : List Nat) (s : State) : State := { s with args := a }
def body (cls : PktClass) (ws : List Word) : PktBody := ⟨cls, 0, 3, 1, 0, 0, 0, ws, 0, none, []⟩
def wreq : Req := .new 0 none (.write (0xFF * 2 ^ 48 + 64) [some 1, none] (some 5) none) 0xFF000000000040 0
/-- The one group has two members; record 0 of its program is at the gaffer. -/
def grp (b : Barrier) : State := (base.setGroup 0 0 { Group.fresh with st := .running, started := true, places := [⟨0, 0, 0⟩], held := [0], barrier := b })
def b2 : Barrier := { Barrier.reset with gstate := .run, mcount := 2 }
def fired (i : Instr) (a : List Nat) (s : State) : State := doneBy i (A a s)
/-- What an access that issued under number `id` has done and its thread received 12 cycles later. -/
def settled (s : State) (id : Nat) : State :=
  let s1 := ownCycle { s with cyc := s.cyc + 12 } 0
  match s1.reqs.get? id with
  | some q => answer s1 id q
  | none => s1
/-- An access to the own store that falls in cycle `n`. -/
def owned (n : Nat) (a : OwnAct) : State := { m12 with reqs := [(0, wreq)] }.updCore 0 fun k => { k with own := [⟨n, 0, 0, 0, 0, [], a⟩] }
/-- Whether a request has all its banks in this cycle. -/
def turned : Turned → Bool
  | .done _ => true
  | .next .. => false

/-! ### Ill-formed terms -/

/-- A class that the field does not admit, and an operand in an unused field (R16). -/
theorem test_ill_class : (Instr.add alone .i64 false false (.g 1) (.v 2) (.g 3)).wellFormed = false := by decide
theorem test_ill_unused : (Instr.ret alone .none).wellFormed = false := by decide
/-- An odd pair, a narrow queue where a wide one is needed, and the reverse (R139, R229). -/
theorem test_ill_pair : (Instr.ld alone .s16 false (.g 5) ⟨0, .g 1, .imm 0⟩).wellFormed = false := by decide
theorem test_ill_queues : (Instr.vmov alone (.v 1) (.q 3)).wellFormed = false ∧ (Instr.mov alone .i64 false (.g 1) (.q 12)).wellFormed = false := by decide
/-- Immediates outside a set (R203, R272), and a special register `xwr` may not name (R76). -/
theorem test_ill_sets : (Instr.kset alone (.k 0) (.imm 3) (.imm 0)).wellFormed = false ∧ (Instr.mzero alone 0 (.g 1) (.acc 0) (.imm 4)).wellFormed = false
    ∧ (Instr.xwr alone (.x .rank) (.g 1)).wellFormed = false := by decide
/-- A wide form where there is none, and one whose A is not its destination (R26). -/
theorem test_ill_wide : (Instr.mul alone .i64 false false (.g 1) (.g 1) (.wide 0)).wellFormed = false
    ∧ (Instr.add alone .i64 false false (.g 1) (.g 2) (.wide 0)).wellFormed = false := by decide
/-- Variants that no `FN` value assigns: a condition, an extension, an order, a tag (R56, R60, R61). -/
theorem test_ill_variants : (Instr.cmp alone .i64 false .uo (.p 1) (.g 1) (.g 2)).wellFormed = false ∧ (Instr.ld alone .s8 true (.g 1) ⟨0, .g 1, .imm 0⟩).wellFormed = false
    ∧ (Instr.ald alone false .rel (.g 1) ⟨0, .g 1, .imm 0⟩).wellFormed = false ∧ (Instr.vcvt alone 9 .dyn false 0 (.v 1) (.v 2)).wellFormed = false := by decide
/-- Classes that depend on another operand: a predicate moved to a register only from a predicate, the second operand of
`vbcast`, the value of `sendr`, the target of `mlog` and of `xmov` (R205, R235, R238). -/
theorem test_ill_dependent : (Instr.pmov alone (.g 1) (.g 2)).wellFormed = false ∧ (Instr.vbcast alone (.v 1) (.g 1) (.g 2)).wellFormed = false
    ∧ (Instr.sendr alone (.v 1) (.g 1) (.g 2)).wellFormed = false ∧ (Instr.mlog alone .tstTrue (.m 1) (.m 2) .none).wellFormed = false
    ∧ (Instr.mlog alone .not (.m 1) (.m 2) (.m 3)).wellFormed = false ∧ (Instr.xmov alone (.g 1) (.g 2)).wellFormed = false := by decide

/-! ### Words written from the encoding: `OP` `FN` guard `HINT` `MOD` D A B (R11, R14, R55 to R63) -/

/-- Width 1. -/
theorem test_word_shl : decode 0x1101000000000500006E0003 = .ok (.shl alone .i32 (.g 5) (.g 6) (.imm 3)) := by decide +kernel
/-- U and condition 2; D has class 3. -/
theorem test_word_cmp : decode 0x1C24000006000300006E0007 = .ok (.cmp alone .i64 true .lt (.p 3) (.g 6) (.imm 7)) := by decide +kernel
/-- `WI`: A is D, and the immediate is [39:0]. -/
theorem test_word_add_wide : decode 0x04000008000005FFFFFFFFFF = .ok (.add alone .i64 false false (.g 5) (.g 5) (.wide (BitVec.allOnes 40))) := by decide +kernel
/-- Guard !p4, hint D. -/
theorem test_word_guard : decode 0x0100C4000000000000000000 = .ok (.nop ⟨true, 4, false, true⟩) := by decide +kernel
/-- Truth table 6. -/
theorem test_word_plog : decode 0x1D0600000600016000260003 = .ok (.plog alone 6 (.p 1) (.p 2) (.p 3)) := by decide +kernel
/-- Kind 1 with U, toward zero, SAT. -/
theorem test_word_fcvt : decode 0x2B500000A000010000200000 = .ok (.fcvt alone (.fi .f32 true) .rtz true (.g 1) (.g 2)) := by decide +kernel
/-- B16, condition 7. -/
theorem test_word_fcmp : decode 0x2A7300000600010000200003 = .ok (.fcmp alone .b16 .ord (.p 1) (.g 2) (.g 3)) := by decide +kernel
/-- `MOD`[4]. -/
theorem test_word_spawn : decode 0x3600000100000100002E0000 = .ok (.spawn alone true (.g 1) (.g 2) (.imm 0)) := by decide +kernel
/-- 4 bytes, order 3, s3, offset −8. -/
theorem test_word_acas : decode 0x4A32000300000400005FFFF8 = .ok (.acas alone false .ar (.g 4) ⟨3, .g 5, .imm 0x1FFF8⟩) := by decide +kernel
/-- 2 bytes, zero-extended. -/
theorem test_word_ld : decode 0x400900070000040000500006 = .ok (.ld alone .s2 true (.g 4) ⟨7, .g 5, .g 6⟩) := by decide +kernel
/-- Tag 7, up, SAT, part 2. -/
theorem test_word_vcvt : decode 0x75070002C200032000100000 = .ok (.vcvt alone 7 .rup true 2 (.v 3) (.v 1)) := by decide +kernel
/-- Xor. -/
theorem test_word_vred : decode 0x7C0500000000052000100000 = .ok (.vred alone .xor .dyn false (.g 5) (.v 1)) := by decide +kernel
/-- Backward. -/
theorem test_word_kadd : decode 0x900100000400034000140002 = .ok (.kaddB alone (.k 3) (.k 1) (.k 2)) := by decide +kernel
/-- Test for UNKNOWN of m3. -/
theorem test_word_mlog : decode 0xAF2500000600026000B00000 = .ok (.mlog alone .tstUnk (.p 2) (.m 3) .none) := by decide +kernel
/-- Q13. -/
theorem test_word_qld : decode 0xB000000208000D00001E0008 = .ok (.qld alone (.q 13) ⟨2, .g 1, .imm 8⟩) := by decide +kernel
/-- B.g7. -/
theorem test_word_xmov : decode 0xB60000000C20070000100000 = .ok (.xmov alone (.bg 7) (.g 1)) := by decide +kernel
/-- Queue 3, a2. -/
theorem test_word_mzero : decode 0xC2000003000001C1002E0007 = .ok (.mzero alone 3 (.g 1) (.acc 2) (.imm 7)) := by decide +kernel
theorem test_word_put : decode 0xD00000000000010000800000 = .ok (.put alone (.g 1) (.g 8)) := by decide +kernel
/-- `x.ferl`. -/
theorem test_word_xwr : decode 0xE30000000C00020000100000 = .ok (.xwr alone (.x .ferl) (.g 1)) := by decide +kernel
/-- Words that trap, by name (R28). -/
theorem test_rejects_fn : decode 0x1109000000000500006E0003 = .error (.unassignedFn) := by decide +kernel
theorem test_rejects_op : decode 0xEF0000000000000000000000 = .error (.unassignedOp) := by decide +kernel
theorem test_rejects_hint : decode 0x010000100000000000000000 = .error (.hintReserved) := by decide +kernel
theorem test_rejects_rounding : decode 0x200000006000010000200003 = .error (.roundingCode) := by decide +kernel
theorem test_rejects_class : decode 0x040000000000012000200003 = .error (.classNotAllowed 1 1) := by decide +kernel
theorem test_rejects_value : decode 0x040000000000800000200003 = .error (.valueIllegal 0 0x80) := by decide +kernel
theorem test_rejects_unused : decode 0x010000000000000000000001 = .error (.unusedField 2) := by decide +kernel

/-! ### Witnesses: words, steps, operands -/

theorem wit_encoded : (Instr.add alone .i64 false false (.g 3) (.g 1) (.g 2)).wellFormed = true
    ∧ ∃ w, encode (.add alone .i64 false false (.g 3) (.g 1) (.g 2)) = some w := ⟨by decide, _, rfl⟩
theorem wit_decoded : decode 0x030000080000090000000005 = .ok (.movi alone .i64 false (.g 9) (.wide 5)) := by decide
theorem wit_unassigned : (0x2E0000000000000000000000 : InstrWord) ≠ 0
    ∧ (0x2E0000000000000000000000 : InstrWord) ≠ BitVec.allOnes 96
    ∧ assignedOp ((0x2E0000000000000000000000 : InstrWord).extractLsb' 88 8) = false := by decide
theorem wit_step : base.phase = .issue ∧ nextIssue base = some (0, thr) ∧ issueError base 0 thr = none
    ∧ predDelay base 0 = false ∧ ∃ b, codeOf (prepare base 0 thr) (clusterOf (coreOf 0)) thr.launch = some b
      ∧ b.loaded = true ∧ fetchCheck thr b = none := ⟨by decide, by decide, by decide, by decide, _, rfl, by decide, by decide⟩
theorem wit_step_decodes : ∃ b, codeOf (prepare (State.reset.withFetchWord 96 0x030000080000090000000005) 0 thr) 0 0 = some b
    ∧ decode (fetchWord (prepare (State.reset.withFetchWord 96 0x030000080000090000000005) 0 thr) b thr)
      = .ok (.movi alone .i64 false (.g 9) (.wide 5)) := ⟨_, rfl, by decide⟩
theorem wit_step_illegal : ∃ b, codeOf (prepare base 0 thr) 0 0 = some b
    ∧ decode (fetchWord (prepare base 0 thr) b thr) = .error .zeroWord := ⟨_, rfl, by decide⟩
theorem wit_fetch_bounds : let t := { thr with pc := 1 }
    nextIssue (T (fun _ => t) base) = some (0, t) ∧ t.cseg.limit.toNat < 12 * t.pc.toNat + 12 := by decide
theorem wit_window : (Instr.named (.add alone .i64 false false (.g 3) (.g 1) (.g 2))).find?
    (outside { thr with gSize := 2 }) = some ⟨1, 0, 3⟩ := by decide
theorem wit_disabled : guardMask { thr with preds := thr.preds.set 1 0 } ⟨false, 1, false, false⟩ false = 0 := by decide
theorem wit_trap_record : base.thread? 0 = some thr ∧ base.launch? thr.launch = some loadedLaunch := by decide
/-- A ring at the own core store, with room. -/
def ringed : State := base.updLaunch 0 fun l => { l with ringAddr := 0xFF000000000040 }
theorem wit_trap_ring : ∃ l, ringed.launch? 0 = some l ∧ daBytes ringed l.ctag (l.ringAddr.toNat - 64) 4 = some [0, 0, 0, 0]
    ∧ daLoc ringed l.ctag (l.ringAddr.toNat + 64 * (l.trapsWritten % 2 ^ l.ringLog)) = some 0xFF000000000040
    ∧ (l.trapsWritten - ofBytes [0, 0, 0, 0]) % 2 ^ 32 < 2 ^ l.ringLog := ⟨_, rfl, by decide +kernel⟩
theorem wit_trap_lost : daLoc (base.updLaunch 0 fun l => { l with ringAddr := 0 }) 0 0 = none := by decide

theorem wit_int_clean : errAt base (.gfile 0 1) = none := by decide
theorem wit_int_corrected : errAt { base with errs := [(.gfile 0 1, false)] } (.gfile 0 1) = some false := by decide
theorem wit_int_poisoned : errAt { base with errs := [(.gfile 0 1, true)] } (.gfile 0 1) = some true := by decide
theorem wit_vec_poisoned : errAt { base with errs := [(.wfile 0 1, true)] } (.wfile 0 1) = some true := by decide
theorem wit_pop : (Qs.queue 0 3).ents = [⟨⟨9, 0⟩, none, none, 0⟩] ∧ errAt Qs (.queue 0 3 0) = none := by decide +kernel
theorem wit_pop_wide : (Qs.queue 0 12).ents = [⟨⟨7, 3⟩, none, none, 0⟩] ∧ errAt Qs (.queue 0 12 0) = none := by decide +kernel
theorem wit_queue_none : Iss.queuesOf [.g 1] ++ Iss.queuesOf [.g 2] = [] := by decide
theorem wit_queue_foreign : (base.core 0).qOwner ≠ some thr.ctag := by decide
theorem wit_queue_waits : (Qs.core 0).qOwner = some thr.ctag ∧ ¬ 1 ≤ Iss.filled Qs (Qs.queue 0 3) := by decide
theorem wit_queue_ready : (Qs.core 0).qOwner = some thr.ctag ∧ (Qs.queue 0 3).ents.length - 0 < 16 := by decide
theorem wit_completes : (is (.nop alone) base).gone = false ∧ (is (.nop alone) base).wrote = false := by decide
theorem wit_completes_later : let x := (is (.nop alone) base).writeG 0 1
    x.gone = false ∧ x.wrote = true ∧ x.stages = [] := by decide
theorem wit_register_only : let i : Instr := .movi alone .i64 false (.g 9) (.wide 5)
    registerOnly i = true ∧ i.ctl = some alone ∧ base.thread? base.cur = some thr
    ∧ ∃ s', exec i base = .next s' ∧ Completed s' 0 := ⟨rfl, rfl, by decide, _, rfl, completed_of rfl rfl rfl⟩

/-! ### Witnesses: integer instructions -/

theorem wit_arith : ∃ y, Issues (.add alone .i64 false false (.g 3) (.g 1) (.g 2)) g12 alone thr
    ∧ Source2 (is (.add alone .i64 false false (.g 3) (.g 1) (.g 2)) g12) (.g 3) (.g 1) (.g 2) 5 7 y :=
  ⟨_, by decide, rfl, _, rfl, rfl⟩
theorem wit_mov : ∃ y, Issues (.mov alone .i8 true (.g 3) (.g 1)) g12 alone thr
    ∧ Source1 (is (.mov alone .i8 true (.g 3) (.g 1)) g12) (.g 3) (.g 1) 5 y := ⟨_, by decide, rfl, rfl⟩
theorem wit_movi : ∃ y, Issues (.movi alone .i64 false (.g 3) (.wide 5)) g12 alone thr
    ∧ (is (.movi alone .i64 false (.g 3) (.wide 5)) g12).queues [] [.g 3] = .ok ()
    ∧ (is (.movi alone .i64 false (.g 3) (.wide 5)) g12).int 2 (.wide 5) = .ok (5, y) := ⟨_, by decide, rfl, rfl⟩
theorem wit_abs : ∃ y, Issues (.abs alone .i8 true (.g 3) (.g 1)) (G [(1, 0x80)]) alone thr
    ∧ Source1 (is (.abs alone .i8 true (.g 3) (.g 1)) (G [(1, 0x80)])) (.g 3) (.g 1) 0x80 y := ⟨_, by decide, rfl, rfl⟩
theorem wit_div : ∃ y, Issues (.div alone .i64 false (.g 3) (.g 1) (.g 2)) (G [(1, 5)]) alone thr
    ∧ Source2 (is (.div alone .i64 false (.g 3) (.g 1) (.g 2)) (G [(1, 5)])) (.g 3) (.g 1) (.g 2) 5 0 y :=
  ⟨_, by decide, rfl, _, rfl, rfl⟩
theorem wit_rem : ∃ y, Issues (.rem alone .i64 false (.g 3) (.g 1) (.g 2)) g12 alone thr
    ∧ Source2 (is (.rem alone .i64 false (.g 3) (.g 1) (.g 2)) g12) (.g 3) (.g 1) (.g 2) 5 7 y :=
  ⟨_, by decide, rfl, _, rfl, rfl⟩
theorem wit_bits : ∃ y, Issues (.andn alone (.g 3) (.g 1) (.g 2)) g12 alone thr
    ∧ Source2 (is (.andn alone (.g 3) (.g 1) (.g 2)) g12) (.g 3) (.g 1) (.g 2) 5 7 y := ⟨_, by decide, rfl, _, rfl, rfl⟩
theorem wit_pmov : ∃ y, Issues (.pmov alone (.p 3) (.g 1)) g12 alone thr
    ∧ Source1 (is (.pmov alone (.p 3) (.g 1)) g12) (.p 3) (.g 1) 5 y := ⟨_, by decide, rfl, rfl⟩
theorem wit_sel : ∃ y, Issues (.sel alone 1 (.g 3) (.g 1) (.g 2)) g12 alone thr
    ∧ Source2 (is (.sel alone 1 (.g 3) (.g 1) (.g 2)) g12) (.g 3) (.g 1) (.g 2) 5 7 y := ⟨_, by decide, rfl, _, rfl, rfl⟩
theorem wit_clz : ∃ y, Issues (.clz alone .i8 (.g 3) (.g 1)) g12 alone thr
    ∧ Source1 (is (.clz alone .i8 (.g 3) (.g 1)) g12) (.g 3) (.g 1) 5 y := ⟨_, by decide, rfl, rfl⟩
theorem wit_ctz : ∃ y, Issues (.ctz alone .i8 (.g 3) (.g 1)) g12 alone thr
    ∧ Source1 (is (.ctz alone .i8 (.g 3) (.g 1)) g12) (.g 3) (.g 1) 5 y := ⟨_, by decide, rfl, rfl⟩
theorem wit_popc : ∃ y, Issues (.popc alone .i8 (.g 3) (.g 1)) g12 alone thr
    ∧ Source1 (is (.popc alone .i8 (.g 3) (.g 1)) g12) (.g 3) (.g 1) 5 y := ⟨_, by decide, rfl, rfl⟩
theorem wit_ext : ∃ y, Issues (.ext alone .i8 false (.g 3) (.g 1) (.g 2)) g12 alone thr
    ∧ Source2 (is (.ext alone .i8 false (.g 3) (.g 1) (.g 2)) g12) (.g 3) (.g 1) (.g 2) 5 7 y := ⟨_, by decide, rfl, _, rfl, rfl⟩
theorem wit_cmp : ∃ y, Issues (.cmp alone .i64 false .lt (.p 3) (.g 1) (.g 2)) g12 alone thr
    ∧ Source2 (is (.cmp alone .i64 false .lt (.p 3) (.g 1) (.g 2)) g12) (.p 3) (.g 1) (.g 2) 5 7 y :=
  ⟨_, by decide, rfl, _, rfl, rfl⟩
theorem wit_nop : Issues (.nop alone) base alone thr := by decide
theorem wit_shift : ∃ y, Issues (.sar alone .i8 (.g 3) (.g 1) (.g 2)) g12 alone thr
    ∧ Source2 (is (.sar alone .i8 (.g 3) (.g 1) (.g 2)) g12) (.g 3) (.g 1) (.g 2) 5 7 y := ⟨_, by decide, rfl, _, rfl, rfl⟩
theorem wit_bext : ∃ y, Issues (.bext alone (.g 3) (.g 1) (.g 2)) g12 alone thr
    ∧ Source2 (is (.bext alone (.g 3) (.g 1) (.g 2)) g12) (.g 3) (.g 1) (.g 2) 5 7 y := ⟨_, by decide, rfl, _, rfl, rfl⟩
theorem wit_bins : ∃ y, Issues (.bins alone (.g 3) (.g 1) (.g 2)) g12 alone thr
    ∧ Source3 (is (.bins alone (.g 3) (.g 1) (.g 2)) g12) (.g 3) (.g 1) (.g 2) 5 7 0x11 y :=
  ⟨_, by decide, rfl, _, _, rfl, rfl, rfl⟩

/-! ### Integer results -/

theorem test_add_saturates : gOf (doneBy (.add alone .i8 false true (.g 3) (.g 1) (.g 2)) (G [(1, 0x7F), (2, 1)])) 3 = 0x7F := by decide
theorem test_add_wraps : gOf (doneBy (.add alone .i8 false false (.g 3) (.g 1) (.g 2)) (G [(1, 0x7F), (2, 1)])) 3
    = 0xFFFFFFFFFFFFFF80 := by decide
theorem test_sub_unsigned_saturates : gOf (doneBy (.sub alone .i16 true true (.g 3) (.g 1) (.imm 9)) (G [(1, 5)])) 3 = 0 := by decide
theorem test_add_word : gOf (ran 0x040900000000030000100002 [(1, 0x7FFFFFFF), (2, 1)]) 3 = 0x7FFFFFFF := by decide
theorem test_mulh : gOf (doneBy (.mulh alone .i32 false (.g 3) (.g 1) (.g 2)) (G [(1, 0xFFFFFFFF), (2, 1)])) 3
    = 0xFFFFFFFFFFFFFFFF := by decide
theorem test_div_truncates : gOf (doneBy (.div alone .i64 false (.g 3) (.g 1) (.imm 2)) (G [(1, -7)])) 3 = -3 := by decide
theorem test_div_zero : gOf (doneBy (.div alone .i32 true (.g 3) (.g 1) (.imm 0)) (G [(1, 7)])) 3 = 0xFFFFFFFF := by decide
theorem test_rem_sign : gOf (doneBy (.rem alone .i64 false (.g 3) (.g 1) (.imm 2)) (G [(1, -7)])) 3 = -1 := by decide
theorem test_rem_overflow : gOf (doneBy (.rem alone .i8 false (.g 3) (.g 1) (.imm 0x1FFFF)) (G [(1, 0x80)])) 3 = 0 := by decide
theorem test_abs_least : gOf (doneBy (.abs alone .i8 true (.g 3) (.g 1)) (G [(1, 0x80)])) 3 = 0x7F := by decide
theorem test_shl_over : gOf (doneBy (.shl alone .i8 (.g 3) (.g 1) (.imm 8)) (G [(1, 0xFF)])) 3 = 0 := by decide
theorem test_sar_over : gOf (doneBy (.sar alone .i8 (.g 3) (.g 1) (.g 2)) (G [(1, 0x80), (2, -1)])) 3 = -1 := by decide
theorem test_rot : gOf (doneBy (.rot alone .i8 (.g 3) (.g 1) (.imm 9)) (G [(1, 0x81)])) 3 = 3 := by decide
theorem test_clz_zero : gOf (doneBy (.clz alone .i16 (.g 3) (.g 1)) (G [(1, 0x10000)])) 3 = 16 := by decide
theorem test_bext : gOf (doneBy (.bext alone (.g 3) (.g 1) (.imm 0x404)) (G [(1, 0xABCD)])) 3 = 0xC := by decide
theorem test_bins : gOf (doneBy (.bins alone (.g 3) (.g 1) (.imm 0x404)) (G [(1, 0xF5), (3, 0x1111)])) 3 = 0x1151 := by decide
theorem test_ext_modulo : gOf (doneBy (.ext alone .i8 false (.g 3) (.g 1) (.imm 9)) (G [(1, 0x80FF00)])) 3 = -1 := by decide
theorem test_cmp_predicate : ((doneBy (.cmp alone .i8 true .lt (.p 3) (.g 1) (.g 2)) (G [(1, 0x17F), (2, 0x80)])).thread? 0).map (·.preds[3])
    = some (BitVec.allOnes 64) := by decide
theorem test_p0_discards : ((doneBy (.pmov alone (.p 0) (.g 1)) g12).thread? 0).map (·.preds) = some thr.preds := by decide
theorem test_plog : gOf (doneBy (.plog alone 0b0110 (.g 3) (.g 1) (.g 2)) (G [(1, 0b1100), (2, 0b1010)])) 3 = 0b0110 := by decide
theorem test_lea : gOf (doneBy (.lea alone 3 (.g 3) (.g 1) (.g 2)) g12) 3 = 61 := by decide
theorem test_disabled_writes_nothing : gOf (doneBy (.movi ⟨true, 0, false, false⟩ .i64 false (.g 3) (.wide 9)) g12) 3 = 0x11 := by decide

/-! ### Witnesses: floating point -/

/-- g1 = 1.0, g2 = 3.0, g3 = 0.5 in F32; g4 a signalling NaN. -/
def f12 : State := G [(1, 0x3F800000), (2, 0x40400000), (3, 0x3F000000), (4, 0x7F800001)]
theorem wit_float : ∃ y, floatCase (.fdiv alone .f32 .rne (.g 5) (.g 1) (.g 2)) ≠ none
    ∧ Issues (.fdiv alone .f32 .rne (.g 5) (.g 1) (.g 2)) f12 alone thr
    ∧ Source2 (is (.fdiv alone .f32 .rne (.g 5) (.g 1) (.g 2)) f12) (.g 5) (.g 1) (.g 2) 0x3F800000 0x40400000 y :=
  ⟨_, by simp [floatCase], by decide, rfl, _, rfl, rfl⟩
theorem wit_fma : ∃ y, Issues (.fma alone .f32 .dyn (.g 3) (.g 1) (.g 2)) f12 alone thr
    ∧ Source3 (is (.fma alone .f32 .dyn (.g 3) (.g 1) (.g 2)) f12) (.g 3) (.g 1) (.g 2) 0x3F800000 0x40400000 0x3F000000 y :=
  ⟨_, by decide, rfl, _, _, rfl, rfl, rfl⟩
theorem wit_fsqrt : ∃ y, Issues (.fsqrt alone .f32 .dyn (.g 5) (.g 1)) f12 alone thr
    ∧ Source1 (is (.fsqrt alone .f32 .dyn (.g 5) (.g 1)) f12) (.g 5) (.g 1) 0x3F800000 y := ⟨_, by decide, rfl, rfl⟩
theorem wit_exact : valueOf (.num ⟨false, 1, 0, false⟩) = some 1 ∧ valueOf (.num ⟨true, 3, 0, false⟩) = some (-3)
    ∧ valueOf (.zero true) = some 0 ∧ (XVal.zero true).isZero := by
  refine ⟨?_, ?_, rfl, rfl⟩ <;> simp [valueOf, scaledBy]
theorem wit_nan : (XVal.nan true).isNan ∧ (XVal.nan true).isSig := by decide
theorem wit_rounding : Fmt.f32 ∈ [Fmt.f16, Fmt.b16, Fmt.f32, Fmt.f64] ∧ 0 < (⟨false, 1, 0, false⟩ : Ex).m := by decide
/-- The greatest exponent of F32: the case beside it overflows. -/
theorem wit_rounding_overflow : Fmt.f32.emax < max (⟨false, 1, 128, false⟩ : Ex).log2 Fmt.f32.emin := by decide
/-- A value between two held magnitudes. -/
theorem wit_rounding_cut : let x : Ex := ⟨false, 2 ^ 64, 0, true⟩; x.st = true ∧ 2 ^ 64 ≤ x.m ∧ scaledBy x.m x.e < 2 ^ 64 + 1 / 2
    ∧ (2 ^ 64 + 1 / 2 : ℚ) < scaledBy (x.m + 1) x.e := by norm_num [scaledBy]
theorem wit_fmin : ∃ y, Issues (.fmin alone .f32 (.g 5) (.g 4) (.g 2)) f12 alone thr
    ∧ Source2 (is (.fmin alone .f32 (.g 5) (.g 4) (.g 2)) f12) (.g 5) (.g 4) (.g 2) 0x7F800001 0x40400000 y
    ∧ (readF .f32 0x7F800001).isNan ∧ ¬ (readF .f32 0x40400000).isNan := ⟨_, by decide, ⟨rfl, _, rfl, rfl⟩, by decide, by decide⟩
theorem wit_fmax : ∃ y, Issues (.fmax alone .f32 (.g 5) (.g 1) (.g 2)) f12 alone thr
    ∧ Source2 (is (.fmax alone .f32 (.g 5) (.g 1) (.g 2)) f12) (.g 5) (.g 1) (.g 2) 0x3F800000 0x40400000 y :=
  ⟨_, by decide, rfl, _, rfl, rfl⟩
theorem wit_fmin_zeros : readF .f32 0x80000000 = .zero true ∧ readF .f32 0 = .zero false ∧ readF .f32 0xFF800000 = .inf true := by decide
theorem wit_fcmp : ∃ y, Issues (.fcmp alone .f32 .lt (.p 3) (.g 4) (.g 2)) f12 alone thr
    ∧ Source2 (is (.fcmp alone .f32 .lt (.p 3) (.g 4) (.g 2)) f12) (.p 3) (.g 4) (.g 2) 0x7F800001 0x40400000 y :=
  ⟨_, by decide, rfl, _, rfl, rfl⟩
theorem wit_fabs : ∃ y, Issues (.fabs alone .f32 (.g 5) (.g 4)) f12 alone thr
    ∧ Source1 (is (.fabs alone .f32 (.g 5) (.g 4)) f12) (.g 5) (.g 4) 0x7F800001 y := ⟨_, by decide, rfl, rfl⟩
theorem wit_fneg : ∃ y, Issues (.fneg alone .f32 (.g 5) (.g 4)) f12 alone thr
    ∧ Source1 (is (.fneg alone .f32 (.g 5) (.g 4)) f12) (.g 5) (.g 4) 0x7F800001 y := ⟨_, by decide, rfl, rfl⟩
theorem wit_fclass : ∃ y, Issues (.fclass alone .f32 (.g 5) (.g 4)) f12 alone thr
    ∧ Source1 (is (.fclass alone .f32 (.g 5) (.g 4)) f12) (.g 5) (.g 4) 0x7F800001 y := ⟨_, by decide, rfl, rfl⟩
theorem wit_fcvt : ∃ y, Issues (.fcvt alone (.ff .f32 .f16) .dyn false (.g 5) (.g 1)) f12 alone thr
    ∧ Source1 (is (.fcvt alone (.ff .f32 .f16) .dyn false (.g 5) (.g 1)) f12) (.g 5) (.g 1) 0x3F800000 y := ⟨_, by decide, rfl, rfl⟩
theorem wit_fcvt_int : ∃ y, Issues (.fcvt alone (.fi .f32 true) .dyn false (.g 5) (.g 1)) f12 alone thr
    ∧ Source1 (is (.fcvt alone (.fi .f32 true) .dyn false (.g 5) (.g 1)) f12) (.g 5) (.g 1) 0x3F800000 y := ⟨_, by decide, rfl, rfl⟩
theorem wit_fcvt_from : ∃ y, Issues (.fcvt alone (.fromInt .f32 false) .dyn false (.g 5) (.g 1)) f12 alone thr
    ∧ Source1 (is (.fcvt alone (.fromInt .f32 false) .dyn false (.g 5) (.g 1)) f12) (.g 5) (.g 1) 0x3F800000 y := ⟨_, by decide, rfl, rfl⟩
theorem wit_frnd : ∃ y, Issues (.frnd alone .f32 .rup (.g 5) (.g 3)) f12 alone thr
    ∧ Source1 (is (.frnd alone .f32 .rup (.g 5) (.g 3)) f12) (.g 5) (.g 3) 0x3F000000 y := ⟨_, by decide, rfl, rfl⟩

/-! ### Float results -/

theorem test_fadd : gOf (doneBy (.fadd alone .f32 .dyn (.g 5) (.g 1) (.g 2)) f12) 5 = 0x40800000 := by decide +kernel
theorem test_fsub_zero_down : gOf (doneBy (.fsub alone .f32 .rdn (.g 5) (.g 1) (.g 1)) f12) 5 = 0x80000000 := by decide +kernel
theorem test_fmul_subnormal : gOf (doneBy (.fmul alone .f32 .dyn (.g 5) (.g 1) (.g 2)) (G [(1, 0x00800000), (2, 0x3F000000)])) 5
    = 0x00400000 := by decide +kernel
theorem test_fdiv : gOf (doneBy (.fdiv alone .f32 .rne (.g 5) (.g 1) (.g 2)) f12) 5 = 0x3EAAAAAB := by decide +kernel
theorem test_fdiv_inexact : (statusOf (doneBy (.fdiv alone .f32 .rne (.g 5) (.g 1) (.g 2)) f12)).map (·.getLsbD 0) = some true := by decide +kernel
theorem test_fma : gOf (doneBy (.fma alone .f32 .dyn (.g 3) (.g 1) (.g 2)) f12) 3 = 0x40600000 := by decide +kernel
theorem test_fsqrt : gOf (doneBy (.fsqrt alone .f64 .dyn (.g 5) (.g 1)) (G [(1, 0x4000000000000000)])) 5 = 0x3FF6A09E667F3BCD := by decide +kernel
theorem test_fmin_zero : gOf (doneBy (.fmin alone .f32 (.g 5) (.g 1) (.g 2)) (G [(2, 0x80000000)])) 5 = 0x80000000 := by decide +kernel
theorem test_fmax_nan : gOf (doneBy (.fmax alone .f32 (.g 5) (.g 4) (.g 2)) f12) 5 = 0x40400000 := by decide +kernel
theorem test_fcmp_quiet : gOf (doneBy (.fcmp alone .f32 .ne (.g 5) (.g 1) (.g 2)) (G [(1, 0x7FC00000)])) 5 = 1 := by decide +kernel
theorem test_fcvt_half_even : gOf (doneBy (.fcvt alone (.fi .f32 false) .rne false (.g 5) (.g 1)) (G [(1, 0x40200000)])) 5 = 2 := by decide +kernel
theorem test_fcvt_negative_unsigned : gOf (doneBy (.fcvt alone (.fi .f32 true) .rtz false (.g 5) (.g 1)) (G [(1, 0xBF800000)])) 5 = 0 := by decide +kernel
theorem test_fcvt_narrow : gOf (doneBy (.fcvt alone (.ff .f32 .f16) .rne true (.g 5) (.g 1)) (G [(1, 0x7F000000)])) 5 = 0x7BFF := by decide +kernel
theorem test_fcvt_from_int : gOf (doneBy (.fcvt alone (.fromInt .f64 false) .rne false (.g 5) (.g 1)) (G [(1, -1)])) 5
    = 0xBFF0000000000000 := by decide +kernel
theorem test_fclass_signalling : gOf (doneBy (.fclass alone .f32 (.g 5) (.g 4)) f12) 5 = 0x100 := by decide +kernel
theorem test_frnd_up : gOf (doneBy (.frnd alone .f32 .rup (.g 5) (.g 3)) f12) 5 = 0x3F800000 := by decide +kernel
theorem test_fneg_nan : gOf (doneBy (.fneg alone .f32 (.g 5) (.g 4)) f12) 5 = 0xFF800001 := by decide +kernel

/-! ### Witnesses: control flow and threads -/

theorem wit_br : ∃ y, Issues (.br alone (.imm 5)) base alone thr ∧ (is (.br alone (.imm 5)) base).int 2 (.imm 5) = .ok (5, y)
    ∧ ((5 : BitVec 32).toNat : Int) = thr.pc.toNat + (5 : Word).toInt := ⟨_, by decide, rfl, by decide⟩
/-- The lowest target: one below it traps. -/
theorem wit_br_below : (thr.pc.toNat : Int) + (-1 : Word).toInt < 0 := by decide
theorem wit_ret_above : (2 : Int) ^ 32 ≤ (0x100000000 : Word).toInt ∧ (((0xFFFFFFFF : BitVec 32).toNat : Int) = (0xFFFFFFFF : Word).toInt) := by decide
theorem wit_brr : ∃ y, Issues (.brr alone (.g 1)) g12 alone thr ∧ (is (.brr alone (.g 1)) g12).queues [.g 1] [] = .ok ()
    ∧ (is (.brr alone (.g 1)) g12).int 1 (.g 1) = .ok (5, y) := ⟨_, by decide, rfl, rfl⟩
theorem wit_call : ∃ y, Issues (.call alone (.g 3) (.imm 5)) base alone thr
    ∧ (is (.call alone (.g 3) (.imm 5)) base).int 2 (.imm 5) = .ok (5, y) := ⟨_, by decide, rfl⟩
theorem wit_ret : ∃ y, Issues (.ret alone (.g 1)) g12 alone thr ∧ (is (.ret alone (.g 1)) g12).queues [.g 1] [] = .ok ()
    ∧ (is (.ret alone (.g 1)) g12).int 1 (.g 1) = .ok (5, y) := ⟨_, by decide, rfl, rfl⟩
theorem wit_loop : ∃ x y, Issues (.loop alone (.g 1) (.imm 5)) g12 alone thr
    ∧ (is (.loop alone (.g 1) (.imm 5)) g12).int 2 (.imm 5) = .ok (5, x) ∧ x.int 3 (.g 1) = .ok (5, y) := ⟨_, _, by decide, rfl, rfl⟩
theorem wit_loop_last : ∃ x y, (is (.loop alone (.g 1) (.imm 5)) (G [(1, 1)])).int 2 (.imm 5) = .ok (5, x)
    ∧ x.int 3 (.g 1) = .ok (1, y) := ⟨_, _, rfl, rfl⟩
theorem wit_exit : Issues (.exit alone) base alone thr ∧ (base.slot 0).lent = none := by decide
theorem wit_exit_borrower : let t := { thr with status := 0x2200, lender := 1 }
    t.status.getLsbD 13 = true ∧ slotKey (coreOf 0) t.lender ≠ 0 := by decide
theorem wit_spawn : ∃ y, Issues (.spawn alone true (.g 3) (.g 1) (.g 2)) r12 alone thr
    ∧ Source2 (is (.spawn alone true (.g 3) (.g 1) (.g 2)) r12) (.g 3) (.g 1) (.g 2) 5 7 y
    ∧ liveThreads y.s 0 0 < 512 ∧ lowestSlot y.s y.core 0 0 0 ≠ none
    ∧ findWindows y.s y.core (windowSizes y.s 0 true).1 (windowSizes y.s 0 true).2.1 (windowSizes y.s 0 true).2.2 ≠ none := by
  refine ⟨_, ?_, ⟨rfl, _, rfl, rfl⟩, ?_, ?_, ?_⟩ <;> decide
theorem wit_spawn_none : findWindows base 0 4096 0 0 = none := by decide
theorem wit_join : ∃ y, Issues (.join alone (.g 1)) g12 alone thr ∧ (is (.join alone (.g 1)) g12).queues [.g 1] [] = .ok ()
    ∧ (is (.join alone (.g 1)) g12).int 1 (.g 1) = .ok (5, y) := ⟨_, by decide, rfl, rfl⟩
theorem wit_join_lives : let s := base.setThread 5 { thr with handle := some 5 }
    s.thread? (slotKey 0 ((5 : Word).toNat % 64)) = some { thr with handle := some 5 } := by decide
theorem wit_slot : Issues (.slot alone (.g 3)) base alone thr ∧ (is (.slot alone (.g 3)) base).queues [] [.g 3] = .ok () :=
  ⟨by decide, rfl⟩

theorem test_loop_ends : pcOf (doneBy (.loop alone (.g 1) (.imm 5)) (G [(1, 1)])) = some 1 := by decide
theorem test_loop_zero : (pcOf (doneBy (.loop alone (.g 1) (.imm 5)) base), gOf (doneBy (.loop alone (.g 1) (.imm 5)) base) 1)
    = (some 5, -1) := by decide
theorem test_branch_below : causeOf (doneBy (.br alone (.imm 0x1FFFF)) base) = some .record := by decide +kernel
theorem test_call_links : gOf (doneBy (.call alone (.g 3) (.imm 5)) base) 3 = 1 := by decide
theorem test_exit_frees : (doneBy (.exit alone) base).thread? 0 = none := by decide +kernel
theorem test_spawn_full : gOf (doneBy (.spawn alone false (.g 3) (.g 1) (.g 2))
    (T (fun t => { t with gSize := 4096 }) r12)) 3 = -1 := by decide +kernel
theorem test_spawn_handle : gOf (doneBy (.spawn alone true (.g 3) (.g 1) (.g 2)) r12) 3 = 65 := by decide +kernel
theorem test_join_stale : pcOf (doneBy (.join alone (.g 1)) g12) = some 1 := by decide

/-! ### Witnesses: memory -/

/-- The first and the last byte of a segment, and one past it. -/
theorem wit_bounds : let g := sthr.segs[2]; g.kind ≠ .null ∧ (0 : Int) ≤ 0xFFF ∧ (0xFFF : Int) + 1 ≤ g.limit.toNat
    ∧ (g.limit.toNat : Int) < 0x1000 + 1 := by decide
theorem wit_rights : Access.allowed .store true false false false = false ∧ Access.allowed .load true false false false = true := by decide
theorem wit_path : path (is (.ld alone .s8 false (.g 5) (ref 2 8)) m12) sthr.segs[2] (Want.scalar 2 8 8 .load .plain 1)
    = .ok [cpart 8 8] := rfl
theorem wit_window_check : m12.inPart 0 0 = true ∧ m12.inPart 0 1 = false ∧ ¬ (0x270000 : Nat) < 0x270000 := by decide
theorem wit_ld : ∃ x, Issues (.ld alone .s8 false (.g 5) (ref 2 8)) m12 alone sthr
    ∧ (is (.ld alone .s8 false (.g 5) (ref 2 8)) m12).queues [] [.g 5] = .ok ()
    ∧ (is (.ld alone .s8 false (.g 5) (ref 2 8)) m12).offset (ref 2 8) = .ok (8, x)
    ∧ x.access (ref 2 8) 8 8 .load .plain 1 = .ok [cpart 8 8] ∧ whereOf 0 (cpart 8 8).da = .ownCore
    ∧ x.place [cpart 8 8] = .ownCore := ⟨_, by decide, rfl, rfl, rfl, rfl, rfl⟩
theorem wit_ld_vault : ∃ x, Issues (.ld alone .s8 false (.g 5) (ref 3 8)) m12 alone sthr
    ∧ (is (.ld alone .s8 false (.g 5) (ref 3 8)) m12).offset (ref 3 8) = .ok (8, x)
    ∧ x.access (ref 3 8) 8 8 .load .plain 1 = .ok [vpart 8 8] ∧ whereOf 0 (vpart 8 8).da ≠ .ownCore ∧ m12.errs = []
    ∧ x.place [vpart 8 8] = .ownVault := ⟨_, by decide, rfl, rfl, by decide, rfl, rfl⟩
/-- The core store of core 1, through a memory segment; with base 2^17 - 4, the own store's last bytes and that one's first. -/
def otherAt (b : BitVec 56) : State :=
  m12.setThread 0 { sthr with segs := sthr.segs.set 4 ⟨b, 0x1000, true, true, false, false, 0, .memory, 0⟩ }
def other : State := otherAt 0xFF000000020000
def opart (o n : Nat) : Part := ⟨0xFF * 2 ^ 48 + 2 ^ 17 + o, 0xFF * 2 ^ 48 + 2 ^ 17 + o, n, none⟩
theorem wit_ld_other : ∃ x, (is (.ld alone .s8 false (.g 5) (ref 4 8)) other).offset (ref 4 8) = .ok (8, x)
    ∧ x.access (ref 4 8) 8 8 .load .plain 1 = .ok [opart 8 8] ∧ x.place [opart 8 8] = .otherCore := ⟨_, rfl, rfl, rfl⟩
theorem wit_straddle : ∃ x, (is (.ld alone .s8 false (.g 5) (ref 4 0)) (otherAt 0xFF00000001FFFC)).offset (ref 4 0) = .ok (0, x)
    ∧ x.access (ref 4 0) 0 8 .load .plain 1 = .ok [cpart 0x1FFFC 4, opart 0 4] := ⟨_, rfl, rfl⟩
theorem wit_read_elsewhere : ∀ off, homeOf (0xFF * 2 ^ 48 + 2 ^ 17 + 8) ≠ .core 0 off := by
  intro off h; cases h
/-- A word written over a 5 by an agent no core knows of. -/
theorem wit_older : ((5 : Word), 0) ∈ olderWords 0 [] 4 0 [⟨32, 8, toBytes 8 5, some 3, 1⟩] 1 7 := by decide +kernel
theorem wit_own_read : ((owned 0 (.read (cpart 8 8).loc 8 0)).core 0).own = [⟨0, 0, 0, 0, 0, [], .read (cpart 8 8).loc 8 0⟩]
    ∧ ¬ (m12.cyc < 0) ∧ (owned 0 (.read (cpart 8 8).loc 8 0)).reqs.get? 0 = some wreq ∧ m12.errs = [] := by decide
theorem wit_own_later : m12.cyc < 1 ∧ ((owned 1 (.write (cpart 8 8).loc 0 [1] 1 0)).core 0).own = [⟨1, 0, 0, 0, 0, [], .write (cpart 8 8).loc 0 [1] 1 0⟩] := by
  decide
theorem wit_st : ∃ x y, Issues (.st alone .s16 (.g 1) (ref 2 8)) m12 alone sthr
    ∧ (is (.st alone .s16 (.g 1) (ref 2 8)) m12).queues [.g 1] [] = .ok ()
    ∧ (is (.st alone .s16 (.g 1) (ref 2 8)) m12).offset (ref 2 8) = .ok (8, x)
    ∧ x.access (ref 2 8) 8 16 .store .plain 1 = .ok [cpart 8 16] ∧ x.tileHold [cpart 8 16] = .ok ()
    ∧ x.storeValue .s16 (.g 1) = .ok (toBytes 8 8 ++ toBytes 8 7, y) ∧ whereOf 0 (cpart 8 16).da = .ownCore :=
  ⟨_, _, by decide, rfl, rfl, rfl, rfl, rfl, rfl⟩
theorem wit_st_buffer : ∃ x y, (is (.st alone .s8 (.g 1) (ref 4 8)) other).offset (ref 4 8) = .ok (8, x)
    ∧ x.access (ref 4 8) 8 8 .store .plain 1 = .ok [opart 8 8] ∧ x.tileHold [opart 8 8] = .ok ()
    ∧ x.storeValue .s8 (.g 1) = .ok (toBytes 8 8, y) ∧ whereOf 0 (opart 8 8).da ≠ .ownCore
    ∧ (other.core 0).buffer.length + 2 * [opart 8 8].length ≤ 64 := by
  refine ⟨_, _, rfl, rfl, rfl, rfl, ?_, ?_⟩ <;> decide
/-- 64 entries of 8 bytes in the store buffer. -/
def brim : State := other.updCore 0 fun k => { k with
  buffer := (List.replicate 64 ((is (.st alone .s8 (.g 1) (ref 4 64)) other).entries [opart 64 8] ((toBytes 8 1).map some))).flatten }
theorem wit_st_full : ∃ x y, Issues (.st alone .s8 (.g 1) (ref 4 8)) brim alone ((brim.thread? 0).getD thr)
    ∧ (is (.st alone .s8 (.g 1) (ref 4 8)) brim).offset (ref 4 8) = .ok (8, x) ∧ x.access (ref 4 8) 8 8 .store .plain 1 = .ok [opart 8 8]
    ∧ x.storeValue .s8 (.g 1) = .ok (toBytes 8 8, y)
    ∧ 64 < (brim.core 0).buffer.length + (y.entries [opart 8 8] ((toBytes 8 8).map some)).length := by
  refine ⟨_, _, ?_, rfl, rfl, rfl, ?_⟩ <;> decide +kernel
theorem wit_entries : (toBytes 8 7).length = (cpart 8 8).len := by decide
theorem wit_full_load : ∃ x, Issues (.ldfe alone (.g 5) (ref 2 8)) m12 alone sthr
    ∧ (is (.ldfe alone (.g 5) (ref 2 8)) m12).queues [] [.g 5] = .ok ()
    ∧ (is (.ldfe alone (.g 5) (ref 2 8)) m12).offset (ref 2 8) = .ok (8, x)
    ∧ x.access (ref 2 8) 8 8 .load .fullEmpty 8 = .ok [cpart 8 8] ∧ x.place [cpart 8 8] = .ownCore
    ∧ (m12.core 0).feWait = [] ∧ (m12.core 0).own = [] ∧ m12.errs = [] ∧ isFull m12 (cpart 8 8).loc = false
    ∧ isFull { m12 with full := [(cpart 8 8).loc / 8] } (cpart 8 8).loc = true := ⟨_, by decide, rfl, rfl, rfl, rfl, by decide⟩
theorem wit_ldfp : ∃ x, Issues (.ldfp alone (.g 5) (ref 2 8)) m12 alone sthr
    ∧ (is (.ldfp alone (.g 5) (ref 2 8)) m12).offset (ref 2 8) = .ok (8, x)
    ∧ x.access (ref 2 8) 8 8 .load .fullEmpty 8 = .ok [cpart 8 8] := ⟨_, by decide, rfl, rfl⟩
theorem wit_stfe : ∃ x y, Issues (.stfe alone (.g 2) (ref 2 8)) m12 alone sthr
    ∧ (is (.stfe alone (.g 2) (ref 2 8)) m12).queues [.g 2] [] = .ok ()
    ∧ (is (.stfe alone (.g 2) (ref 2 8)) m12).offset (ref 2 8) = .ok (8, x)
    ∧ x.access (ref 2 8) 8 8 .store .fullEmpty 8 = .ok [cpart 8 8] ∧ x.place [cpart 8 8] = .ownCore
    ∧ x.tileHold [cpart 8 8] = .ok () ∧ x.int 3 (.g 2) = .ok (7, y) := ⟨_, _, by decide, rfl, rfl, rfl, rfl, rfl, rfl⟩
theorem wit_fe_reached : let q : Req := { wreq with kind := .fe (cpart 8 8).loc .ldfe 0 }
    let s : State := { m12 with reqs := [(0, q)] }
    s.reqs.get? 0 = some q ∧ (s.core 0).feWait = [] ∧ s.errs = [] ∧ isFull s (cpart 8 8).loc ≠ FeOp.ldfe.wants
    ∧ isFull s (cpart 8 8).loc = FeOp.stfe.wants := by decide
theorem wit_aop : ∃ x y, Issues (.aop alone .add true .rlx (.g 2) (ref 2 8)) m12 alone sthr
    ∧ (is (.aop alone .add true .rlx (.g 2) (ref 2 8)) m12).queues [.g 2] [.g 2] = .ok ()
    ∧ (is (.aop alone .add true .rlx (.g 2) (ref 2 8)) m12).atomPath 8 (ref 2 8) true = .ok ([cpart 8 8], x)
    ∧ x.int 3 (.g 2) = .ok (7, y) ∧ y.place [cpart 8 8] = .ownCore ∧ (m12.core 0).buffer = [] ∧ underWay m12 0 = [] := by
  refine ⟨_, _, by decide, rfl, rfl, rfl, rfl, ?_, ?_⟩ <;> decide
theorem wit_atomic_performed : let q : Req := { wreq with kind := .atomic (cpart 8 8).loc 8 [7], instr := some (.aop alone .add true .rlx (.g 2) (ref 2 8)) }
    m12.kickPages.get? ((cpart 8 8).loc / 2 ^ 17) = none ∧ m12.errs = []
    ∧ tileHoldsBut m12 (pubJob { m12 with reqs := [(0, q)] } 0) (cpart 8 8).loc 8 = false := by decide
theorem wit_acas : ∃ x z y, Issues (.acas alone true .rlx (.g 1) (ref 2 8)) m12 alone sthr
    ∧ (is (.acas alone true .rlx (.g 1) (ref 2 8)) m12).atomPath 8 (ref 2 8) true = .ok ([cpart 8 8], x)
    ∧ x.readG 3 (x.gEntry 1) = .ok (8, z) ∧ z.readG 3 (z.gEntry 2) = .ok (7, y) := ⟨_, _, _, by decide, rfl, rfl, rfl⟩
theorem wit_ald : ∃ x, Issues (.ald alone false .acq (.g 2) (ref 2 8)) m12 alone sthr
    ∧ (is (.ald alone false .acq (.g 2) (ref 2 8)) m12).queues [] [.g 2] = .ok ()
    ∧ (is (.ald alone false .acq (.g 2) (ref 2 8)) m12).atomPath 4 (ref 2 8) false = .ok ([cpart 8 4], x) := ⟨_, by decide, rfl, rfl⟩
theorem wit_ast : ∃ x y, Issues (.ast alone false .rel (.g 2) (ref 2 8)) m12 alone sthr
    ∧ (is (.ast alone false .rel (.g 2) (ref 2 8)) m12).queues [.g 2] [] = .ok ()
    ∧ (is (.ast alone false .rel (.g 2) (ref 2 8)) m12).atomPath 4 (ref 2 8) true = .ok ([cpart 8 4], x)
    ∧ x.int 3 (.g 2) = .ok (7, y) := ⟨_, _, by decide, rfl, rfl, rfl⟩
/-- The state in which an atomic's answer is under way, and the request. -/
def asked : State := doneBy (.aop alone .add true .acq (.g 2) (ref 2 8)) m12
theorem wit_answer : ∃ t q, asked.thread? 0 = some t ∧ t.outstanding = some m12.nextId ∧ asked.reqs.get? m12.nextId = some q
    ∧ q.key = 0 ∧ q.qdest = none ∧ q.dst = none ∧ q.poison = false ∧ t.deposited.contains (.g 2) = false :=
  ⟨_, _, rfl, rfl, rfl, rfl, rfl, rfl, rfl, rfl⟩
theorem wit_answer_instr : (asked.reqs.get? m12.nextId).bind (·.instr) = some (.aop alone .add true .acq (.g 2) (ref 2 8)) := by decide +kernel

theorem wit_lseg : ∃ y, Issues (.lseg alone (.s 4) (.g 2)) m12 alone sthr
    ∧ (is (.lseg alone (.s 4) (.g 2)) m12).queues [.g 2] [] = .ok ()
    ∧ (is (.lseg alone (.s 4) (.g 2)) m12).int 1 (.g 2) = .ok (7, y) ∧ m12.contexts.get? sthr.ctag.toNat = some ctx0 :=
  ⟨_, by decide, rfl, rfl, rfl⟩
/-- Index 7 has colour 1, index 8 colour 0 and is the last, index 9 is beyond the table; the launch is not privileged. -/
theorem wit_lseg_cases : (ctx0.descs.getD 7 .null).colour ≠ 0 ∧ (ctx0.descs.getD 8 .null).colour = 0
    ∧ (8 : Word).toNat < ctx0.sdtSize ∧ ctx0.sdtSize ≤ (9 : Word).toNat ∧ privileged m12 0 = false := by decide
theorem wit_lseg_reserved : (({ ctx0 with descs := [(0, ⟨0, 0, true, true, false, false, 1, .res6, 0⟩)] } : Context).descs.getD 0 .null).kind = .res6 := by decide
theorem wit_stag : ∃ x y, Issues (.stag alone (.g 2) (ref 2 64)) m12 alone sthr
    ∧ (is (.stag alone (.g 2) (ref 2 64)) m12).queues [.g 2] [] = .ok ()
    ∧ (is (.stag alone (.g 2) (ref 2 64)) m12).offset (ref 2 64) = .ok (64, x)
    ∧ x.access (ref 2 64) 64 64 .tagset .plain 64 = .ok [cpart 64 64] ∧ x.int 3 (.g 2) = .ok (7, y)
    ∧ y.place [cpart 64 64] = .ownCore := ⟨_, _, by decide, rfl, rfl, rfl, rfl, rfl⟩
/-- Colour 15 is the last; through a segment of colour 3 only 3. -/
theorem wit_tag_performed : homeOf (cpart 64 64).loc = .core 0 64
    ∧ ({ wreq with kind := .tagWrite (cpart 64 64).loc 7 } : Req).kind = .tagWrite (cpart 64 64).loc 7 := by decide
theorem wit_stag_cases : (15 : Word).toNat < 16 ∧ 16 ≤ (16 : Word).toNat ∧ sthr.segs[2].colour = 0 ∧ sthr.segs[6].colour ≠ 0
    ∧ (7 : Word).setWidth 4 ≠ sthr.segs[6].colour := by decide
theorem wit_ltag : ∃ x, Issues (.ltag alone (.g 2) (ref 2 64)) m12 alone sthr
    ∧ (is (.ltag alone (.g 2) (ref 2 64)) m12).queues [] [.g 2] = .ok ()
    ∧ (is (.ltag alone (.g 2) (ref 2 64)) m12).offset (ref 2 64) = .ok (64, x)
    ∧ path x x.th.segs[2] { Want.scalar 2 64 64 .load .plain 64 with colour := false } = .ok [cpart 64 64]
    ∧ x.place [cpart 64 64] = .ownCore := ⟨_, by decide, rfl, rfl, rfl, rfl⟩
theorem wit_chk : ∃ y, Issues (.chk alone (.g 3) (ref 2 0xFFF)) m12 alone sthr
    ∧ (is (.chk alone (.g 3) (ref 2 0xFFF)) m12).offset (ref 2 0xFFF) = .ok (0xFFF, y)
    ∧ isWindow (segDa sthr.segs[2] 0 0xFFF) = true
    ∧ windowCheck y.s 0 ⟨0, 0xFFF, 1, .load, .plain, 1, 0, false, fun _ => none⟩ (segDa sthr.segs[2] 0 0xFFF) = .ok ()
    ∧ whereOf 0 (segDa sthr.segs[2] 0 0xFFF) = .ownCore := ⟨_, by decide, rfl, rfl, rfl, rfl⟩
theorem wit_chk_paged : isWindow (segDa sthr.segs[5] 0 8) = false ∧ (8 : Int) < sthr.segs[5].limit.toNat
    ∧ ¬ (0x1000 : Int) < sthr.segs[5].limit.toNat := by decide
theorem wit_pub : Issues (.pub alone) m12 alone sthr ∧ (m12.core 0).buffer = [] ∧ underWay m12 0 = [] := by decide
def buffered : State := doneBy (.st alone .s8 (.g 1) (ref 4 8)) other
theorem wit_pub_sends : Issues (.pub alone) buffered alone ((buffered.thread? 0).getD thr) ∧ (buffered.core 0).buffer ≠ [] := by decide +kernel
theorem wit_refresh : Issues (.refresh alone) m12 alone sthr := by decide
theorem wit_phase : Issues (.phase alone) buffered alone ((buffered.thread? 0).getD thr) := by decide +kernel
theorem wit_pref : ∃ y, Issues (.pref alone (ref 5 8)) m12 alone sthr ∧ (is (.pref alone (ref 5 8)) m12).offset (ref 5 8) = .ok (8, y) :=
  ⟨_, by decide, rfl⟩

/-! ### Memory results -/

theorem test_ld_sign : gOf (settled (doneBy (.ld alone .s1 false (.g 5) (ref 2 8)) (wrote 8 1 0x80 m12)) 0) 5 = 0xFFFFFFFFFFFFFF80 := by
  decide +kernel
theorem test_ld_little_endian : gOf (settled (doneBy (.ld alone .s4 true (.g 5) (ref 2 9)) (wrote 8 8 0x8877665544332211 m12)) 0) 5 = 0x55443322 := by
  decide +kernel
theorem test_st_low_bytes : readNum (settled (doneBy (.st alone .s2 (.g 1) (ref 2 8)) (M [(1, 0xABCDEF)])) 0) (0xFF * 2 ^ 48 + 8) 8 = 0xCDEF := by
  decide +kernel
theorem test_st_not_yet : (doneBy (.st alone .s2 (.g 1) (ref 2 8)) m12).mem = m12.mem := by decide +kernel
theorem test_st_elsewhere_buffers : buffered.mem = other.mem ∧ (buffered.core 0).buffer.length = 1 := by decide +kernel
theorem test_ld_past_end : causeOf (doneBy (.ld alone .s2 false (.g 5) (ref 2 0xFFF)) m12) = some .record := by decide +kernel
theorem test_st_read_only : causeOf (doneBy (.st alone .s8 (.g 5) (ref 4 0)) m12) = some .record := by decide +kernel
theorem test_ldfe_empties :
    let s := settled (doneBy (.ldfe alone (.g 5) (ref 2 8)) { wrote 8 8 77 m12 with full := [(0xFF * 2 ^ 48 + 8) / 8] }) 0
    gOf s 5 = 77 ∧ isFull s (0xFF * 2 ^ 48 + 8) = false := by decide +kernel
theorem test_stfe_waits : ((doneBy (.stfe alone (.g 2) (ref 2 8)) { m12 with full := [(0xFF * 2 ^ 48 + 8) / 8] }).thread? 0).map (·.cause)
    = some (some .fullEmpty) := by decide +kernel
theorem test_aop_min_signed : readNum (settled (doneBy (.aop alone .min false .rlx (.g 1) (ref 2 8)) (wrote 8 4 5 (M [(1, 0xFFFFFFFF)]))) 0)
    (0xFF * 2 ^ 48 + 8) 4 = 0xFFFFFFFF := by decide +kernel
theorem test_acas_fails : readNum (settled (doneBy (.acas alone true .rlx (.g 1) (ref 2 8)) (wrote 8 8 5 m12)) 0) (0xFF * 2 ^ 48 + 8) 8 = 5 := by
  decide +kernel
theorem test_stag_colour : causeOf (doneBy (.stag alone (.g 2) (ref 6 64)) m12) = some .record := by decide +kernel
theorem test_chk_core : gOf (settled (doneBy (.chk alone (.g 3) (ref 2 0xFFF)) m12) 0) 3 = 0x1F := by decide +kernel
theorem test_lseg_beyond : causeOf (doneBy (.lseg alone (.s 4) (.g 2)) (M [(2, 9)])) = some .record := by decide +kernel
theorem test_pub_sends : (doneBy (.pub alone) buffered |>.core 0).buffer = [] := by decide +kernel

/-! ### Witnesses: vectors -/

theorem wit_claim : (vs.core 0).vecGated = false ∧ (vs.core 0).vecFree ≤ vs.cyc := by decide
theorem wit_claim_busy : let s := vs.updCore 0 fun k => { k with vecFree := 1 }; s.cyc < (s.core 0).vecFree := by decide
theorem wit_claim_gated : let s := vs.updCore 0 fun k => { k with vecGated := true }
    (s.core 0).vecGated = true ∧ (s.core 0).vecWakeAt = none := by decide
/-- The least element of i8. -/
theorem wit_element : (0x80 : Nat) < 2 ^ Tag.bits 1 ∧ Tag.isInt 1 = true ∧ (0x3F800000 : Nat) < 2 ^ Tag.bits 7 ∧ Tag.isFlt 7 = true := by decide
theorem wit_special : (⟨true, 1, 0, false⟩ : Ex).neg = true ∧ 0 < (1 : Nat) ∧ (4095 : Nat) < 4096 := by decide
theorem wit_lanewise : ∃ x1 x2 va vb, laneCase (.vadd alone .dyn true (.v 8) (.v 1) (.v 2)) ≠ none
    ∧ Issues (.vadd alone .dyn true (.v 8) (.v 1) (.v 2)) vs alone thr
    ∧ (is (.vadd alone .dyn true (.v 8) (.v 1) (.v 2)) vs).oneFormat (.v 8) (.v 1) (.v 2) false Tag.isNum = .ok 1
    ∧ (is (.vadd alone .dyn true (.v 8) (.v 1) (.v 2)) vs).claim 1 = .ok x1 ∧ Sources x1 (.v 1) (.v 2) va vb x2 :=
  ⟨_, _, _, _, by simp [laneCase], by decide, rfl, rfl, _, rfl, rfl⟩
theorem wit_lanewise_reads : ∃ x1 x2 y va vb vd, Issues (.vfma alone .dyn false (.v 3) (.v 4) (.imm 2)) vs alone thr
    ∧ (is (.vfma alone .dyn false (.v 3) (.v 4) (.imm 2)) vs).oneFormat (.v 3) (.v 4) (.imm 2) true Tag.isNum = .ok 7
    ∧ (is (.vfma alone .dyn false (.v 3) (.v 4) (.imm 2)) vs).claim 1 = .ok x1 ∧ Sources x1 (.v 4) (.imm 2) va vb x2
    ∧ x2.vec 3 (.v 3) = .ok (vd, y) := ⟨_, _, _, _, _, _, by decide, rfl, rfl, ⟨_, rfl, rfl⟩, rfl⟩
theorem wit_vcmp : ∃ x1 x2 va vb, Issues (.vcmp alone .lt (.p 3) (.v 1) (.v 2)) vs alone thr
    ∧ (is (.vcmp alone .lt (.p 3) (.v 1) (.v 2)) vs).oneFormat (.p 3) (.v 1) (.v 2) false Tag.isNum = .ok 1
    ∧ (is (.vcmp alone .lt (.p 3) (.v 1) (.v 2)) vs).claim 1 = .ok x1 ∧ Sources x1 (.v 1) (.v 2) va vb x2 :=
  ⟨_, _, _, _, by decide, rfl, rfl, _, rfl, rfl⟩
theorem wit_vsel : ∃ x1 x2 va vb, Issues (.vsel alone 1 (.v 8) (.v 1) (.v 2)) vs alone thr
    ∧ (is (.vsel alone 1 (.v 8) (.v 1) (.v 2)) vs).oneFormat (.v 8) (.v 1) (.v 2) false Tag.isBit = .ok 1
    ∧ (is (.vsel alone 1 (.v 8) (.v 1) (.v 2)) vs).claim 1 = .ok x1 ∧ Sources x1 (.v 1) (.v 2) va vb x2 :=
  ⟨_, _, _, _, by decide, rfl, rfl, _, rfl, rfl⟩
theorem passes {e : BitVec 4} {more : BitVec 4 → Except Stop Unit} {x : Iss} {r : Unit} (h : more e = .ok ())
    (k : x.queues [.v 3, .v 8] [.v 8] = .ok r) (u : List Iss.TagUse) (f : Iss.TagUse)
    (a : ∀ b, x.setPass b u = .ok ()) (g : ∀ b, x.seenTag b f = some e) :
    x.formats [.v 3, .v 8] [.v 8] u (some f) [] more = .ok e := by
  simp [Iss.formats, Iss.formatRun, a, g, k, h, Iss.agreePass, bind, Except.bind, pure, Except.pure]
theorem wit_vcvt : ∃ x1 x2 y va vd, Issues (.vcvt alone 8 .dyn false 1 (.v 8) (.v 3)) vs alone thr ∧ (1 : BitVec 2).toNat < 2
    ∧ (∀ more, more 7 = .ok () → (is (.vcvt alone 8 .dyn false 1 (.v 8) (.v 3)) vs).formats [.v 3, .v 8] [.v 8]
      (Iss.tagUses (.v 8) (.v 3) .none false anyTag Tag.isNum anyTag) (some ⟨1, .v 3, 0, anyTag⟩) [] more = .ok 7)
    ∧ (is (.vcvt alone 8 .dyn false 1 (.v 8) (.v 3)) vs).claim 2 = .ok x1 ∧ x1.vec 1 (.v 3) = .ok (va, x2)
    ∧ x2.vec 3 (.v 8) = .ok (vd, y) :=
  ⟨_, _, _, _, _, by decide, by decide, fun _ h => passes h rfl _ _ (fun _ => rfl) fun _ => rfl, rfl, rfl, rfl⟩
theorem wit_vunbfp : ∃ x1 x2 y va vd, Issues (.vunbfp alone 7 .dyn false 0 (.v 8) (.v 6)) vs alone thr
    ∧ (is (.vunbfp alone 7 .dyn false 0 (.v 8) (.v 6)) vs).claim 1 = .ok x1 ∧ x1.vec 1 (.v 6) = .ok (va, x2)
    ∧ x2.vec 3 (.v 8) = .ok (vd, y) ∧ Tag.isFlt 7 = true ∧ Tag.isBfp 15 = true
    ∧ (is (.vunbfp alone 7 .dyn false 0 (.v 8) (.v 6)) vs).tagOf 0 (.v 6) = 15 :=
  ⟨_, _, _, _, _, by decide, rfl, rfl, rfl, by decide, by decide, rfl⟩
theorem wit_vbfp : ∃ x1 x2 y va vd, Issues (.vbfp alone 15 .dyn false 0 (.v 8) (.v 3)) vs alone thr
    ∧ (∀ more, more 7 = .ok () → (is (.vbfp alone 15 .dyn false 0 (.v 8) (.v 3)) vs).formats [.v 3, .v 8] [.v 8]
      (Iss.tagUses (.v 8) (.v 3) .none false anyTag Tag.isFlt anyTag) (some ⟨1, .v 3, 0, anyTag⟩) [] more = .ok 7)
    ∧ (is (.vbfp alone 15 .dyn false 0 (.v 8) (.v 3)) vs).claim 1 = .ok x1 ∧ x1.vec 1 (.v 3) = .ok (va, x2)
    ∧ x2.vec 3 (.v 8) = .ok (vd, y) :=
  ⟨_, _, _, _, _, by decide, fun _ h => passes h rfl _ _ (fun _ => rfl) fun _ => rfl, rfl, rfl, rfl⟩
/-- Bytes have four parts beside 32-bit floats, BFP8 two beside F32. -/
theorem wit_part_range : (vs.wfile.getD (wKey (coreOf vs.cur) (thr.wBase + (1 : Fin 32).val)) .zero).tag = 1 ∧ Tag.isNum 1 = true ∧ Tag.isNum 8 = true
    ∧ Issues (.vcvt alone 7 .dyn false 3 (.v 8) (.v 5)) vs alone thr ∧ (vs.wfile.getD (wKey (coreOf vs.cur) (thr.wBase + (5 : Fin 32).val)) .zero).tag = 8
    ∧ 2 ≤ (3 : BitVec 2).toNat ∧ Issues (.vunbfp alone 7 .dyn false 1 (.v 8) (.v 6)) vs alone thr ∧ 1 ≤ (1 : BitVec 2).toNat
    ∧ (vs.wfile.getD (wKey (coreOf vs.cur) (thr.wBase + (6 : Fin 32).val)) .zero).tag = 15 := by decide
theorem wit_block : ∀ x ∈ [XVal.num ⟨false, 3, 0, false⟩, .zero true, .inf false], ∀ y, x = .num y → y.st = false ∧ 0 < y.m := by
  intro x hx y h; subst h; simp at hx; subst hx; decide
theorem wit_block_nan : [XVal.nan true].any XVal.isNan = true := by decide
theorem wit_vperm : ∃ x1 x2 y va vb, Issues (.vperm alone (.v 8) (.v 3) (.v 7)) vs alone thr
    ∧ PermutePasses (is (.vperm alone (.v 8) (.v 3) (.v 7)) vs) (.v 8) (.v 3) (.v 7) 7
    ∧ (is (.vperm alone (.v 8) (.v 3) (.v 7)) vs).claim 1 = .ok x1 ∧ x1.vec 1 (.v 3) = .ok (va, x2)
    ∧ x2.vec 2 (.v 7) = .ok (vb, y) := ⟨_, _, _, _, _, by decide, ⟨rfl, rfl, rfl⟩, rfl, rfl, rfl⟩
theorem wit_vbcast : ∃ x1 x2 y va, Issues (.vbcast alone (.v 8) (.v 3) (.g 1)) vs alone thr
    ∧ (is (.vbcast alone (.v 8) (.v 3) (.g 1)) vs).oneFormat (.v 8) (.v 3) (.g 1) false Tag.isBit = .ok 7
    ∧ (is (.vbcast alone (.v 8) (.v 3) (.g 1)) vs).claim 1 = .ok x1 ∧ x1.vec 1 (.v 3) = .ok (va, x2)
    ∧ x2.int 2 (.g 1) = .ok (5, y) := ⟨_, _, _, _, by decide, rfl, rfl, rfl, rfl⟩
theorem wit_vbcast_scalar : ∃ x1 x2 y sv vd, Issues (.vbcast alone (.v 3) (.g 1) .none) vs alone thr ∧ Iss.isWide (.g 1) = false
    ∧ (is (.vbcast alone (.v 3) (.g 1) .none) vs).oneFormat (.v 3) (.g 1) .none true Tag.isNum = .ok 7
    ∧ (is (.vbcast alone (.v 3) (.g 1) .none) vs).claim 1 = .ok x1 ∧ x1.src 1 (.g 1) = .ok (sv, x2)
    ∧ x2.vec 3 (.v 3) = .ok (vd, y) := ⟨_, _, _, _, _, by decide, rfl, rfl, rfl, rfl, rfl⟩
theorem wit_vmov : ∃ x1 y va, Issues (.vmov alone (.v 8) (.v 3)) vs alone thr
    ∧ (is (.vmov alone (.v 8) (.v 3)) vs).oneFormat (.v 8) (.v 3) .none false anyTag = .ok 7
    ∧ (is (.vmov alone (.v 8) (.v 3)) vs).claim 1 = .ok x1 ∧ x1.vec 1 (.v 3) = .ok (va, y) := ⟨_, _, _, by decide, rfl, rfl, rfl⟩
theorem wit_vtag : ∃ y va, Issues (.vtag alone 3 (.v 8) (.v 3)) vs alone thr
    ∧ (is (.vtag alone 3 (.v 8) (.v 3)) vs).oneFormat (.v 8) (.v 3) .none false anyTag = .ok 7
    ∧ (is (.vtag alone 3 (.v 8) (.v 3)) vs).vec 1 (.v 3) = .ok (va, y) := ⟨_, _, by decide, rfl, rfl⟩
theorem wit_vgtag : Issues (.vgtag alone (.g 5) (.v 3)) vs alone thr
    ∧ (is (.vgtag alone (.g 5) (.v 3)) vs).queues [.v 3] [.g 5] = .ok () := ⟨by decide, rfl⟩
theorem wit_vgtag_queue : ∃ y va, Issues (.vgtag alone (.g 5) (.q 12)) Qs alone thr
    ∧ (is (.vgtag alone (.g 5) (.q 12)) Qs).pop 12 false = .ok (va, y) := ⟨_, _, by decide, rfl⟩
theorem wit_vext : ∃ x1 x2 y va, Issues (.vext alone (.g 9) (.v 3) (.g 1)) vs alone thr
    ∧ (is (.vext alone (.g 9) (.v 3) (.g 1)) vs).oneFormat .none (.v 3) .none false anyTag = .ok 7
    ∧ (is (.vext alone (.g 9) (.v 3) (.g 1)) vs).queues [.v 3, .g 1] [.g 9] = .ok ()
    ∧ (is (.vext alone (.g 9) (.v 3) (.g 1)) vs).claim 1 = .ok x1 ∧ x1.vec 1 (.v 3) = .ok (va, x2)
    ∧ x2.int 2 (.g 1) = .ok (5, y) := ⟨_, _, _, _, by decide, rfl, rfl, rfl, rfl, rfl⟩
/-- The last index of an F32 register, and the index of a BFP register's exponents. -/
theorem wit_index : (63 : Word).toNat < 2048 / Tag.bits 7 ∧ 2048 / Tag.bits 7 ≤ (64 : Word).toNat ∧ (64 : Word).toNat < 65 := by decide
theorem wit_vins : ∃ x1 x2 y z sv vd, Issues (.vins alone (.v 3) (.g 2) (.g 1)) vs alone thr
    ∧ (is (.vins alone (.v 3) (.g 2) (.g 1)) vs).formats [.g 2, .g 1, .v 3] [.v 3]
      (Iss.tagUses (.v 3) .none .none true anyTag anyTag anyTag) (some ⟨0, .v 3, 0, anyTag⟩) [] noMore = .ok 7
    ∧ (is (.vins alone (.v 3) (.g 2) (.g 1)) vs).claim 1 = .ok x1 ∧ x1.src 1 (.g 2) = .ok (sv, x2)
    ∧ x2.int 2 (.g 1) = .ok (5, y) ∧ y.vec 3 (.v 3) = .ok (vd, z) := ⟨_, _, _, _, _, _, by decide, rfl, rfl, rfl, rfl, rfl⟩
theorem wit_vred : ∃ x1 y va, Issues (.vred alone .add .dyn false (.g 5) (.v 1)) vs alone thr
    ∧ (is (.vred alone .add .dyn false (.g 5) (.v 1)) vs).redFormat .add (.g 5) (.v 1) = .ok 1
    ∧ (is (.vred alone .add .dyn false (.g 5) (.v 1)) vs).claim 2 = .ok x1 ∧ x1.vec 1 (.v 1) = .ok (va, y) :=
  ⟨_, _, _, by decide, rfl, rfl, rfl⟩
theorem wit_vred_logical : Issues (.vred alone .xor .dyn false (.g 5) (.v 3)) vs alone thr
    ∧ (vs.wfile.getD (wKey (coreOf vs.cur) (thr.wBase + (3 : Fin 32).val)) .zero).tag = 7 ∧ Tag.isFlt 7 = true := by decide
theorem wit_vscan : ∃ x1 y va, Issues (.vscan alone .max .dyn false (.v 8) (.v 1)) vs alone thr
    ∧ (is (.vscan alone .max .dyn false (.v 8) (.v 1)) vs).redFormat .max (.v 8) (.v 1) = .ok 1
    ∧ (is (.vscan alone .max .dyn false (.v 8) (.v 1)) vs).claim 2 = .ok x1 ∧ x1.vec 1 (.v 1) = .ok (va, y) :=
  ⟨_, _, _, by decide, rfl, rfl, rfl⟩
theorem wit_vdot : ∃ x1 x2 x3 y va vb, Issues (.vdot alone .dyn false (.g 1) (.v 1) (.v 2)) vs alone thr
    ∧ (is (.vdot alone .dyn false (.g 1) (.v 1) (.v 2)) vs).formats [.v 1, .v 2, .g 1] [.g 1]
      (Iss.tagUses .none (.v 1) (.v 2) false anyTag dotTag dotTag) (some ⟨1, .v 1, 0, anyTag⟩)
      ((Iss.tagUses .none (.v 1) (.v 2) false anyTag dotTag dotTag).filter fun u => u.field != 1) noMore = .ok 1
    ∧ (is (.vdot alone .dyn false (.g 1) (.v 1) (.v 2)) vs).claim 2 = .ok x1 ∧ x1.vec 1 (.v 1) = .ok (va, x2)
    ∧ x2.vec 2 (.v 2) = .ok (vb, x3) ∧ x3.int 3 (.g 1) = .ok (5, y) := ⟨_, _, _, _, _, _, by decide, rfl, rfl, rfl, rfl, rfl⟩
theorem wit_products : valueOf (.num ⟨false, 3, 0, false⟩) = some 3 ∧ valueOf (.zero true) = some 0 := by
  refine ⟨?_, rfl⟩; simp [valueOf, scaledBy]

/-! ### Vector results -/

theorem test_vadd_saturates : lane 8 (vOf (doneBy (.vadd alone .dyn true (.v 8) (.v 1) (.v 2)) vs) 8).data 1 = 0x7F := by decide +kernel
theorem test_vmul_wraps : lane 8 (vOf (doneBy (.vmul alone .dyn false (.v 8) (.v 1) (.imm 2)) vs) 8).data 1 = 0xFE := by decide +kernel
theorem test_vfma_float : lane 32 (vOf (doneBy (.vfma alone .dyn false (.v 3) (.v 4) (.imm 2)) vs) 3).data 1 = 0x40800000 := by decide +kernel
theorem test_vadd_mixed_tags : causeOf (doneBy (.vadd alone .dyn false (.v 8) (.v 1) (.v 3)) vs) = some .record := by decide +kernel
theorem test_vadd_masked : (vOf (doneBy (.vadd ⟨true, 0, false, false⟩ .dyn false (.v 8) (.v 1) (.v 2)) vs) 8) = .zero := by decide +kernel
theorem test_vshr_arithmetic : lane 8 (vOf (doneBy (.vshr alone true (.v 8) (.v 1) (.imm 1)) { vs with wfile := [(1, ⟨0x80, 1⟩)] }) 8).data 0
    = 0xC0 := by decide +kernel
theorem test_vcmp_predicate : ((doneBy (.vcmp alone .lt (.p 3) (.v 1) (.v 2)) vs).thread? 0).map (·.preds[3]) = some 0 := by decide +kernel
theorem test_vperm : lane 32 (vOf (doneBy (.vperm alone (.v 8) (.v 3) (.v 7)) vs) 8).data 0 = 0x40000000 := by decide +kernel
theorem test_vext_sign : gOf (doneBy (.vext alone (.g 9) (.v 1) (.imm 0)) { vs with wfile := [(1, ⟨0x80, 1⟩)] }) 9 = -128 := by decide +kernel
theorem test_vext_beyond : gOf (doneBy (.vext alone (.g 9) (.v 3) (.imm 64)) vs) 9 = 0 := by decide +kernel
theorem test_vins : lane 8 (vOf (doneBy (.vins alone (.v 1) (.g 2) (.g 1)) vs) 1).data 5 = 7 := by decide +kernel
theorem test_vred_add : gOf (doneBy (.vred alone .add .dyn false (.g 5) (.v 2)) vs) 5 = 4 := by decide +kernel
theorem test_vscan_max : lane 8 (vOf (doneBy (.vscan alone .max .dyn false (.v 8) (.v 1)) vs) 8).data 255 = 0x7F := by decide +kernel
theorem test_vdot : gOf (doneBy (.vdot alone .dyn false (.g 1) (.v 1) (.v 2)) vs) 1 = 5 + 15 + 127 := by decide +kernel
theorem test_vcvt_widens : lane 64 (vOf (doneBy (.vcvt alone 8 .dyn false 0 (.v 8) (.v 3)) vs) 8).data 1 = 0x4000000000000000 := by decide +kernel
theorem test_vbfp : let r := vOf (doneBy (.vbfp alone 15 .dyn false 0 (.v 8) (.v 3)) vs) 8
    (blockExp r.data 0, lane 8 r.data 0, lane 8 r.data 1) = (128, 0x20, 0x40) := by decide +kernel
theorem test_vgtag : gOf (doneBy (.vgtag alone (.g 5) (.v 6)) vs) 5 = 15 := by decide +kernel
theorem test_vtag : (vOf (doneBy (.vtag alone 3 (.v 8) (.v 3)) vs) 8) = ⟨0x400000003F800000, 3⟩ := by decide +kernel

/-! ### Witnesses: intervals -/

theorem wit_k1 : ∃ x1 x2 va, (kForward1 (.knegF alone (.k 2) (.k 0))).isSome
    ∧ Issues (.knegF alone (.k 2) (.k 0)) vs alone thr ∧ (is (.knegF alone (.k 2) (.k 0)) vs).claim 1 = .ok x1
    ∧ x1.kSrc 1 1 (.k 0) = .ok (va, x2) ∧ kTags none ((is (.knegF alone (.k 2) (.k 0)) vs).kUse 1 (.k 0)) = .ok 1 :=
  ⟨_, _, _, rfl, by decide, rfl, rfl, rfl⟩
theorem wit_k2 : ∃ x1 x2 x3 va vb, (kForward2 (.kaddF alone (.k 2) (.k 0) (.k 1))).isSome
    ∧ Issues (.kaddF alone (.k 2) (.k 0) (.k 1)) vs alone thr ∧ (is (.kaddF alone (.k 2) (.k 0) (.k 1)) vs).claim 1 = .ok x1
    ∧ x1.kSrc 1 1 (.k 0) = .ok (va, x2) ∧ x2.kSrc 1 2 (.k 1) = .ok (vb, x3)
    ∧ kTags none ((is (.kaddF alone (.k 2) (.k 0) (.k 1)) vs).kUse 1 (.k 0) ++ (is (.kaddF alone (.k 2) (.k 0) (.k 1)) vs).kUse 2 (.k 1)) = .ok 1
    ∧ (is (.kaddF alone (.k 2) (.k 0) (.k 1)) vs).queues [.k 1] [] = .ok () := ⟨_, _, _, _, _, rfl, by decide, rfl, rfl, rfl, rfl, rfl⟩
theorem wit_khull : Issues (.khull alone (.k 2) (.k 0) (.k 1)) vs alone thr := by decide
theorem wit_kfma : ∃ x1 x2 x3 y va vb vc, Issues (.kfmaF alone (.k 2) (.k 0) (.k 1)) { vs with wfile := vs.wfile.put .zero 35 ⟨0, 1⟩ } alone thr
    ∧ (is (.kfmaF alone (.k 2) (.k 0) (.k 1)) { vs with wfile := vs.wfile.put .zero 35 ⟨0, 1⟩ }).claim 2 = .ok x1
    ∧ x1.kSrc 1 1 (.k 0) = .ok (va, x2) ∧ x2.kSrc 1 2 (.k 1) = .ok (vb, x3) ∧ x3.kSrc 1 3 (companion (.k 2)) = .ok (vc, y) :=
  ⟨_, _, _, _, _, _, _, by decide, rfl, rfl, rfl, rfl⟩
theorem wit_kback : ∃ x1 x2 x3 x4 va vb vd, (kBackward (.kaddB alone (.k 0) (.k 0) (.k 1))).isSome
    ∧ Issues (.kaddB alone (.k 0) (.k 0) (.k 1)) vs alone thr
    ∧ kTags none ((is (.kaddB alone (.k 0) (.k 0) (.k 1)) vs).kUse 0 (.k 0) ++ (is (.kaddB alone (.k 0) (.k 0) (.k 1)) vs).kUse 0 .none
      ++ (is (.kaddB alone (.k 0) (.k 0) (.k 1)) vs).kUse 1 (.k 0) ++ (is (.kaddB alone (.k 0) (.k 0) (.k 1)) vs).kUse 2 (.k 1)) = .ok 1
    ∧ (is (.kaddB alone (.k 0) (.k 0) (.k 1)) vs).queues [.k 1] [] = .ok () ∧ (is (.kaddB alone (.k 0) (.k 0) (.k 1)) vs).claim 2 = .ok x1
    ∧ x1.kSrc 1 1 (.k 0) = .ok (va, x2) ∧ x2.kSrc 1 2 (.k 1) = .ok (vb, x3) ∧ x3.kSrc 1 3 (.k 0) = .ok (vd, x4) :=
  ⟨_, _, _, _, _, _, _, rfl, by decide, rfl, rfl, rfl, rfl, rfl, rfl⟩
theorem wit_kfma_back : ∃ x1 x2 x3 x4 y va vb vd vc, Issues (.kfmaB alone (.k 0) (.k 0) (.k 1)) vs alone thr
    ∧ (is (.kfmaB alone (.k 0) (.k 0) (.k 1)) vs).claim 4 = .ok x1 ∧ x1.kSrc 1 1 (.k 0) = .ok (va, x2) ∧ x2.kSrc 1 2 (.k 1) = .ok (vb, x3)
    ∧ x3.kSrc 1 3 (.k 0) = .ok (vd, x4) ∧ x4.kSrc 1 3 (companion (.k 0)) = .ok (vc, y) := ⟨_, _, _, _, _, _, _, _, _, by decide, rfl, rfl, rfl, rfl, rfl⟩
/-- The interval from 1 to 3 in F32, with 1, its least point, in it. -/
theorem wit_box : BoxOf .f32 ⟨Fmt.f32.decode 0x3F800000, Fmt.f32.decode 0x40400000⟩
    ∧ InBox 1 ⟨Fmt.f32.decode 0x3F800000, Fmt.f32.decode 0x40400000⟩ := by
  refine ⟨⟨_, _, rfl⟩, .inr ⟨1, ?_, le_refl _⟩, .inr ⟨3, ?_, by norm_num⟩⟩
  · rw [show Fmt.f32.decode 0x3F800000 = .num ⟨false, 8388608, -23, false⟩ by decide +kernel]; norm_num [valueOf, scaledBy]
  · rw [show Fmt.f32.decode 0x40400000 = .num ⟨false, 12582912, -22, false⟩ by decide +kernel]; norm_num [valueOf, scaledBy]
theorem wit_exp_settles : ExpSettles (Fmt.f32.decode 0x40400000) ∧ LogSettles (Fmt.f32.decode 0x40400000) := by
  have h : Fmt.f32.decode 0x40400000 = .num ⟨false, 12582912, -22, false⟩ := by decide +kernel
  constructor
  · rintro y hy - -
    obtain rfl := XVal.num.inj (h.symm.trans hy)
    exact ⟨0, by decide, by decide +kernel⟩
  · rintro y hy - -
    obtain rfl := XVal.num.inj (h.symm.trans hy)
    exact ⟨0, by decide, by decide +kernel⟩
theorem wit_pair_nan : (Fmt.f32.decode 0x7FC00000).isNan = true ∧ Fmt.f32.decode 0x7F800000 = .inf false
    ∧ Fmt.f32.decode 0xFF800000 = .inf true := by decide +kernel
theorem wit_kmk : ∃ x1 x2 y wa wb, Issues (.kmk alone false (.k 2) (.v 4) (.v 3)) vs alone thr
    ∧ (is (.kmk alone false (.k 2) (.v 4) (.v 3)) vs).tagOf 0 (.v 4) = 7 ∧ (is (.kmk alone false (.k 2) (.v 4) (.v 3)) vs).tagOf 0 (.v 3) = 7
    ∧ (is (.kmk alone false (.k 2) (.v 4) (.v 3)) vs).claim 1 = .ok x1 ∧ x1.vec 1 (.v 4) = .ok (wa, x2) ∧ x2.vec 2 (.v 3) = .ok (wb, y) :=
  ⟨_, _, _, _, _, by decide, rfl, rfl, rfl, rfl, rfl⟩
theorem wit_klo : ∃ x1 x2 y va vd, Issues (.klo alone true (.v 8) (.k 0)) vs alone thr
    ∧ kTags none ((is (.klo alone true (.v 8) (.k 0)) vs).kUse 1 (.k 0)) = .ok 1
    ∧ (is (.klo alone true (.v 8) (.k 0)) vs).claim 1 = .ok x1 ∧ x1.kSrc 1 1 (.k 0) = .ok (va, x2) ∧ x2.vec 3 (.v 8) = .ok (vd, y) :=
  ⟨_, _, _, _, _, by decide, rfl, rfl, rfl, rfl⟩
theorem wit_ksplit : ∃ x1 y va, Issues (.ksplit alone (.k 2) (.k 0)) vs alone thr
    ∧ (is (.ksplit alone (.k 2) (.k 0)) vs).claim 1 = .ok x1 ∧ x1.kSrc 1 1 (.k 0) = .ok (va, y) := ⟨_, _, _, by decide, rfl, rfl⟩
theorem wit_kstat : ∃ x1 y va, Issues (.kstat alone (.g 5) (.k 0)) vs alone thr
    ∧ (is (.kstat alone (.g 5) (.k 0)) vs).queues [] [.g 5] = .ok () ∧ (is (.kstat alone (.g 5) (.k 0)) vs).tagOf 0 (.k 0) = 1
    ∧ (is (.kstat alone (.g 5) (.k 0)) vs).claim 1 = .ok x1 ∧ x1.kSrc 1 1 (.k 0) = .ok (va, y) := ⟨_, _, _, by decide, rfl, rfl, rfl, rfl⟩
theorem wit_kstat_raw : (is (.kstat alone (.g 5) (.k 9)) vs).tagOf 0 (.k 9) = 0 := by decide
theorem wit_kmac : ∃ x1 x2 x3 y va vb vd, Issues (.kmacF alone (.k 2) (.k 0) (.k 1)) vs alone thr
    ∧ (is (.kmacF alone (.k 2) (.k 0) (.k 1)) vs).claim 2 = .ok x1 ∧ x1.kSrc 1 1 (.k 0) = .ok (va, x2)
    ∧ x2.kSrc 1 2 (.k 1) = .ok (vb, x3) ∧ x3.vec 3 (.k 2) = .ok (vd, y) ∧ y.mask.getLsbD 0 = true :=
  ⟨_, _, _, _, _, _, _, by decide, rfl, rfl, rfl, rfl, by decide⟩
theorem wit_kmac_back : ∃ x1 x2 x3 y va vb vd, Issues (.kmacB alone (.k 0) (.k 0) (.k 1)) vs alone thr
    ∧ (is (.kmacB alone (.k 0) (.k 0) (.k 1)) vs).claim 4 = .ok x1 ∧ x1.kSrc 1 1 (.k 0) = .ok (va, x2)
    ∧ x2.kSrc 1 2 (.k 1) = .ok (vb, x3) ∧ x3.kSrc 1 3 (.k 0) = .ok (vd, y) := ⟨_, _, _, _, _, _, _, by decide, rfl, rfl, rfl, rfl⟩
theorem wit_kcmp : ∃ x1 x2 y va vb, Issues (.kcmpF alone .lt (.m 1) (.k 0) (.k 1)) vs alone thr
    ∧ (is (.kcmpF alone .lt (.m 1) (.k 0) (.k 1)) vs).queues [.k 0, .k 1] [] = .ok ()
    ∧ (is (.kcmpF alone .lt (.m 1) (.k 0) (.k 1)) vs).claim 1 = .ok x1 ∧ x1.kSrc 1 1 (.k 0) = .ok (va, x2)
    ∧ x2.kSrc 1 2 (.k 1) = .ok (vb, y) := ⟨_, _, _, _, _, by decide, rfl, rfl, rfl, rfl⟩
theorem wit_kin : Issues (.kin alone (.m 1) (.k 0) (.k 1)) vs alone thr := by decide
theorem wit_kcmp_back : ∃ x1 x2 y va vb, Issues (.kcmpB alone .lt (.m 1) (.k 0) (.k 1)) vs alone thr
    ∧ (is (.kcmpB alone .lt (.m 1) (.k 0) (.k 1)) vs).claim 2 = .ok x1 ∧ x1.kSrc 1 1 (.k 0) = .ok (va, x2)
    ∧ x2.kSrc 1 2 (.k 1) = .ok (vb, y) := ⟨_, _, _, _, _, by decide, rfl, rfl, rfl⟩
theorem wit_mlog : ∃ y, Issues (.mlog alone .imp (.m 1) (.m 2) (.m 3)) vs alone thr
    ∧ (is (.mlog alone .imp (.m 1) (.m 2) (.m 3)) vs).claim 1 = .ok y := ⟨_, by decide, rfl⟩
theorem wit_mlog_test : ∃ y, Issues (.mlog alone .tstTrue (.p 1) (.m 2) .none) vs alone thr
    ∧ (is (.mlog alone .tstTrue (.p 1) (.m 2) .none) vs).claim 1 = .ok y := ⟨_, by decide, rfl⟩
theorem wit_kmov : ∃ x1 y va, Issues (.kmov alone (.k 2) (.k 0)) vs alone thr ∧ (is (.kmov alone (.k 2) (.k 0)) vs).tagOf 0 (.k 0) = 1
    ∧ (is (.kmov alone (.k 2) (.k 0)) vs).claim 1 = .ok x1 ∧ x1.vec 1 (.k 0) = .ok (va, y) := ⟨_, _, _, by decide, rfl, rfl, rfl⟩
theorem wit_kmov_other : (is (.kmov alone (.k 2) (.k 0)) { vs with wfile := [(32, ⟨0, 3⟩)] }).tagOf 0 (.k 0) = 3 := by decide
theorem wit_kset : ∃ x1 x2 y, Issues (.kset alone (.k 2) (.imm 1) (.imm 4)) vs alone thr
    ∧ (is (.kset alone (.k 2) (.imm 1) (.imm 4)) vs).int 1 (.imm 1) = .ok (1, x1) ∧ x1.int 2 (.imm 4) = .ok (4, x2)
    ∧ x2.claim 1 = .ok y := ⟨_, _, _, by decide, rfl, rfl, rfl⟩

/-! ### Interval results -/

def pairOf (s : State) (n j : Nat) : Nat × Nat := rawPair 1 (vOf s (32 + n)).data j
theorem test_kadd : pairOf (doneBy (.kaddF alone (.k 2) (.k 0) (.k 1)) vs) 2 0 = (0, 0x40800000) := by decide +kernel
theorem test_kneg : pairOf (doneBy (.knegF alone (.k 2) (.k 0)) vs) 2 0 = (0xC0000000, 0x3F800000) := by decide +kernel
theorem test_kdiv_outward : pairOf (doneBy (.kdivF alone (.k 2) (.k 1) (.imm 3)) vs) 2 0 = (0x3EAAAAAA, 0x3F2AAAAB) := by decide +kernel
theorem test_ksqr : pairOf (doneBy (.ksqrF alone (.k 2) (.k 0)) vs) 2 0 = (0, 0x40800000) := by decide +kernel
theorem test_kcap_empty : pairOf (doneBy (.kcap alone (.k 2) (.k 0) (.imm 9)) vs) 2 0 = (0x7F800000, 0xFF800000) := by decide +kernel
theorem test_kadd_back : pairOf (doneBy (.kaddB alone (.k 1) (.k 0) (.imm 1)) vs) 0 0 = (0, 0x3F800000) := by decide +kernel
theorem test_klo : lane 32 (vOf (doneBy (.klo alone false (.v 8) (.k 0)) vs) 8).data 0 = 0xBF800000 := by decide +kernel
theorem test_kcmp_unknown : ((doneBy (.kcmpF alone .lt (.m 1) (.k 0) (.k 1)) vs).thread? 0).map (fun t => t.mregs[1].extractLsb' 0 2)
    = some (BitVec.ofNat 2 Tri.unknown.bits) := by decide +kernel
theorem test_kset_empty : pairOf (doneBy (.kset alone (.k 2) (.imm 1) (.imm 0)) vs) 2 31 = (0x7F800000, 0xFF800000) := by decide +kernel

/-! ### Witnesses: vector memory -/

def mv : State := { m12 with wfile := wides }
/-- The whole image of a register is 32 units of 8 bytes; the offsets of v7 name one gathered unit. -/
theorem wit_vld : ∃ x, Issues (.vld alone 1 (.v 8) (ref 2 64)) mv alone sthr
    ∧ (is (.vld alone 1 (.v 8) (ref 2 64)) mv).queues [] [.v 8] = .ok ()
    ∧ (is (.vld alone 1 (.v 8) (ref 2 64)) mv).offset (ref 2 64) = .ok (64, x) := ⟨_, by decide, rfl, rfl⟩
theorem wit_vld_paths : ((is (.vld alone 1 (.v 8) (ref 2 64)) mv).unitPaths 2 64 .load
    (imageUnits (imageBytes 1) (unitBytes 1) (loadEn 1 (BitVec.allOnes 64)))).isOk = true := by decide +kernel
theorem wit_vst : ∃ x y, Issues (.vst alone (.v 3) (ref 2 64)) mv alone sthr
    ∧ (is (.vst alone (.v 3) (ref 2 64)) mv).queues [.v 3] [] = .ok ()
    ∧ (is (.vst alone (.v 3) (ref 2 64)) mv).offset (ref 2 64) = .ok (64, x) ∧ x.vec 3 (.v 3) = .ok (⟨0x400000003F800000, 7⟩, y) :=
  ⟨_, _, by decide, rfl, rfl, rfl⟩
theorem wit_vst_paths : ((is (.vst alone (.v 3) (ref 2 64)) mv).unitPaths 2 64 .store
    (imageUnits (imageBytes 7) (unitBytes 7) (storeEn 7 (BitVec.allOnes 64)))).isOk = true := by decide +kernel
theorem wit_vldx : ∃ x0 x vx, Issues (.vldx alone 7 (.v 7) (ref 2 64)) mv alone sthr
    ∧ (is (.vldx alone 7 (.v 7) (ref 2 64)) mv).tagOf 0 (.v 7) = 3
    ∧ (is (.vldx alone 7 (.v 7) (ref 2 64)) mv).offset (ref 2 64) = .ok (64, x0) ∧ x0.vec 3 (.v 7) = .ok (vx, x) :=
  ⟨_, _, _, by decide, rfl, rfl, rfl⟩
theorem wit_vstx : ∃ x0 x y vx v, Issues (.vstx alone (.v 6) (ref 2 64)) mv alone sthr
    ∧ (mv.wfile.getD (wKey 0 7) .zero).tag = 3 ∧ (is (.vstx alone (.v 6) (ref 2 64)) mv).offset (ref 2 64) = .ok (64, x0)
    ∧ x0.readW 3 7 = .ok (vx, x) ∧ x.readW 3 6 = .ok (v, y) := ⟨_, _, _, _, _, by decide, by decide, rfl, rfl, rfl⟩
theorem wit_kld : ∃ x y v, Issues (.kld alone (.k 0) (ref 2 64)) mv alone sthr ∧ (is (.kld alone (.k 0) (ref 2 64)) mv).tagOf 0 (.k 0) = 1
    ∧ (is (.kld alone (.k 0) (ref 2 64)) mv).offset (ref 2 64) = .ok (64, x) ∧ x.vec 3 (.k 0) = .ok (v, y) := ⟨_, _, _, by decide, rfl, rfl, rfl⟩
theorem wit_kst : ∃ x y v, Issues (.kst alone (.k 0) (ref 3 64)) mv alone sthr ∧ (is (.kst alone (.k 0) (ref 3 64)) mv).tagOf 0 (.k 0) = 1
    ∧ (is (.kst alone (.k 0) (ref 3 64)) mv).offset (ref 3 64) = .ok (64, x) ∧ x.vec 3 (.k 0) = .ok (v, y) := ⟨_, _, _, by decide, rfl, rfl, rfl⟩
/-- Two bytes read, the second of them disabled. -/
theorem wit_wide_load : ([1, 2] : List Byte).length = [some 0, none].length ∧ ([some 0, none].filterMap id : List Nat).Nodup
    ∧ (∀ k, some k ∈ [some 0, none] → k < 256) := ⟨rfl, by decide, by simp⟩
theorem test_vst_own : let s := settled (doneBy (.vst alone (.v 3) (ref 2 64)) mv) 0
    (readNum s (0xFF * 2 ^ 48 + 64) 8, stateOf s) = (0x400000003F800000, some .ready) := by decide +kernel
theorem test_vst_vault_buffers : (doneBy (.vst alone (.v 3) (ref 3 64)) mv).mem = mv.mem := by decide +kernel
/-- Guarded by p1, which enables one lane. -/
def p1 : Ctl := ⟨false, 1, false, false⟩
def guarded (m : Word) (s : State) : State := { s with threads := [(0, { sthr with preds := sthr.preds.set 1 m })] }
theorem test_vld : vOf (settled (doneBy (.vld p1 3 (.v 8) (ref 2 64)) (guarded 2 { wrote 68 4 9 mv with wfile := [(8, ⟨1, 3⟩)] })) 0) 8
    = ⟨9 * 2 ^ 32 + 1, 3⟩ := by decide +kernel
theorem test_vld_unaligned : causeOf (doneBy (.vld alone 3 (.v 8) (ref 2 66)) mv) = some .record := by decide +kernel
theorem test_vldx_gathers : lane 32 (vOf (settled (doneBy (.vldx p1 7 (.v 7) (ref 2 64)) (guarded 1 (wrote 80 4 0x3F800000
    { mv with wfile := [(7, ⟨4, 3⟩)] }))) 0) 7).data 0 = 0x3F800000 := by decide +kernel

/-! ### Witnesses: core and system instructions -/

/-- Queue 3 holds 9, present; queue 12 holds 7 with a tag; the queues are the context's. -/
def mq : State := (m12.updCore 0 fun k => { k with qOwner := some 0 }).setQueue 0 3
  { m12.queue 0 3 with ents := [⟨⟨9, 0⟩, some 0, none, 0⟩] } |> fun s => { s with cyc := 1 }
theorem wit_qld : ∃ x, Issues (.qld alone (.q 4) (ref 2 8)) mq alone sthr
    ∧ (is (.qld alone (.q 4) (ref 2 8)) mq).queues [] [.q 4] = .ok ()
    ∧ (is (.qld alone (.q 4) (ref 2 8)) mq).offset (ref 2 8) = .ok (8, x)
    ∧ x.access (ref 2 8) 8 8 .load .everywhere 8 = .ok [cpart 8 8] ∧ x.place [cpart 8 8] = .ownCore := ⟨_, by decide, rfl, rfl, rfl, rfl⟩
theorem wit_qld_vault : ∃ x, (is (.qld alone (.q 12) (ref 3 64)) mq).offset (ref 3 64) = .ok (64, x)
    ∧ x.access (ref 3 64) 64 256 .load .everywhere 64 = .ok [vpart 64 256] ∧ whereOf 0 (vpart 64 256).da ≠ .ownCore ∧ mq.errs = [] :=
  ⟨_, rfl, rfl, by decide, rfl⟩
theorem wit_qst : ∃ x y v, Issues (.qst alone (.q 3) (ref 2 8)) mq alone sthr
    ∧ (is (.qst alone (.q 3) (ref 2 8)) mq).queues [.q 3] [] = .ok ()
    ∧ (is (.qst alone (.q 3) (ref 2 8)) mq).offset (ref 2 8) = .ok (8, x)
    ∧ x.access (ref 2 8) 8 8 .store .everywhere 8 = .ok [cpart 8 8] ∧ x.tileHold [cpart 8 8] = .ok ()
    ∧ x.pop 3 true = .ok (v, y) ∧ (mq.core 0).buffer.length + 16 + 2 * [cpart 8 8].length ≤ 64 :=
  ⟨_, _, _, by decide, rfl, rfl, rfl, rfl, rfl, by decide⟩
theorem wit_qcnt : Issues (.qcnt alone (.g 5) (.q 3)) mq alone sthr ∧ (mq.core (coreOf mq.cur)).qOwner = some sthr.ctag := by decide
theorem wit_qclr : Issues (.qclr alone (.g 5) (.q 3)) mq alone sthr
    ∧ Iss.filled mq (mq.queue 0 3) = (mq.queue 0 3).ents.length := by decide
theorem wit_qclr_waits : Iss.filled { mq with cyc := 0 } (mq.queue 0 3) ≠ (mq.queue 0 3).ents.length := by decide
theorem wit_borrow : ∃ y, Issues (.borrow alone (.g 3) (.g 1)) m12 alone sthr
    ∧ Source1 (is (.borrow alone (.g 3) (.g 1)) m12) (.g 3) (.g 1) 8 y ∧ sthr.status.getLsbD 12 = false ∧ sthr.status.getLsbD 13 = false
    ∧ lendableSlot m12 0 = some 1 ∧ freeBase (gTaken m12 0) 8 2048 = some 128 :=
  ⟨_, by decide, ⟨rfl, rfl⟩, by decide, by decide, by decide, by decide⟩
theorem wit_borrow_cases : (0x1200 : BitVec 32).getLsbD 12 = true ∧ (0x2200 : BitVec 32).getLsbD 13 = true ∧ (128 : Word).toNat % 8 = 0
    ∧ 128 < (136 : Word).toNat ∧ (4 : Word).toNat < 8 ∧ (12 : Word).toNat % 8 ≠ 0
    ∧ freeBase (gTaken (T (fun t => { t with gSize := 2048 }) base) 0) 8 2048 = none := by decide
theorem wit_bret : Issues (.bret alone) m12 alone sthr
    ∧ Issues (.bret alone) (T (fun t => { t with status := 0x2200, lender := 1 }) base) alone { thr with status := 0x2200, lender := 1 } := by decide
theorem wit_xmov : ∃ y, Issues (.xmov alone (.g 3) (.g 1)) m12 alone sthr ∧ Source1 (is (.xmov alone (.g 3) (.g 1)) m12) (.g 3) (.g 1) 8 y :=
  ⟨_, by decide, rfl, rfl⟩
theorem wit_sendr : ∃ x y v, Issues (.sendr alone (.g 4) (.g 1) (.g 2)) m12 alone sthr
    ∧ (is (.sendr alone (.g 4) (.g 1) (.g 2)) m12).queues [.g 1, .g 2] [] = .ok ()
    ∧ (is (.sendr alone (.g 4) (.g 1) (.g 2)) m12).depositValue (.g 4) (.g 1) = .ok (v, x) ∧ x.int 2 (.g 2) = .ok (7, y)
    ∧ (7 : Word).toNat % 2 ^ 14 / 8 ∈ m12.span 0 0 0 ∧ (8 : Word).toNat % 2 ^ 14 / 8 ∉ m12.span 0 0 0 :=
  ⟨_, _, _, by decide, rfl, rfl, rfl, by decide, by decide⟩
theorem wit_sendw : ∃ x y, Issues (.sendw alone (.g 1) (.g 2)) m12 alone sthr
    ∧ (is (.sendw alone (.g 1) (.g 2)) m12).queues [.g 1, .g 2] [] = .ok () ∧ (is (.sendw alone (.g 1) (.g 2)) m12).int 1 (.g 1) = .ok (8, x)
    ∧ x.int 2 (.g 2) = .ok (7, y) ∧ m12.inPart sthr.ctag (7 / 8) = true ∧ retentionFree y.s 0 = true ∧ sthr.packet = none
    ∧ (m12.core 0).portFull = false := by
  refine ⟨_, _, by decide, rfl, rfl, rfl, ?_, ?_, ?_, ?_⟩ <;> decide
/-- A packet open to core 7 with one word. -/
def opened : State := doneBy (.sendw alone (.g 1) (.g 2)) m12
theorem wit_sendw_open : (opened.thread? 0).bind (·.packet) = some ⟨7, 0, [8]⟩ ∧ (∃ r ∈ (opened.core 0).retained, r.body.seq = 0) := by
  refine ⟨by decide +kernel, ?_⟩; decide +kernel
theorem wit_sendw_cases : 16383 < (16384 : Word).toNat ∧ (16383 : Word).toNat ≤ 16383 ∧ m12.inPart 0 (8 / 8) = false := by decide
theorem wit_send : ∃ x y, Issues (.send alone (.imm 5) (.g 2)) m12 alone sthr
    ∧ (is (.send alone (.imm 5) (.g 2)) m12).int 1 (.imm 5) = .ok (5, x) ∧ x.int 2 (.g 2) = .ok (7, y) := ⟨_, _, by decide, rfl, rfl⟩
theorem wit_sendw_port : ((.replicate 6 0 : List Word).length ∈ [6, 14, 22, 30]) ∧ (1 : Nat) ∉ [6, 14, 22, 30]
    ∧ (.replicate 32 0 : List Word).length = 32 ∧ openNet m12 0 0 = none ∧ (opened.core 0).buffer = [] ∧ underWay opened 0 = [] := by
  refine ⟨by decide, by decide, by decide, by decide, ?_, ?_⟩ <;> decide +kernel
theorem wit_sendw_waits : ((m12.updCore 0 fun k => { k with portFull := true }).core 0).portFull = true := by decide
theorem wit_retention_full : retentionFree (m12.updCore 0 fun k => { k with
    retained := (List.range 32).map fun n => ⟨⟨.message, 0, 0, n, 0, 0, 0, [], 0, none, []⟩, .sent, 0, 0, 0⟩ }) 0 = false := by decide
/-- A migratory thread, without a packet, at an address of its own core and of core 1. -/
def mig : Thread := { sthr with status := 0x1200, segs := sthr.segs.set 4 ⟨0xFF000000020000, 0x1000, true, true, false, false, 0, .memory, 0⟩ }
theorem wit_migrate : ∃ y, Issues (.migrate alone (ref 4 8)) (m12.setThread 0 mig) alone mig ∧ mig.status.getLsbD 12 = true
    ∧ mig.packet = none ∧ (is (.migrate alone (ref 4 8)) (m12.setThread 0 mig)).offset (ref 4 8) = .ok (8, y)
    ∧ (path y mig.segs[4] { Want.scalar 4 8 8 .load .everywhere 1 with tier := fun n => if n = 0 then none else some (10, 2) }).isOk = true
    ∧ ownerCore (0xFF * 2 ^ 48 + 2 ^ 17 + 8) = 1 ∧ m12.inPart 0 (1 / 8) = true ∧ mig.rank < 512 := by
  refine ⟨_, by decide, by decide, by decide, rfl, ?_, ?_, ?_, ?_⟩ <;> decide
theorem wit_migrate_own : ownerCore (0xFF * 2 ^ 48 + 8) = coreOf 0 ∧ m12.inPart 0 (ownerCore (0xFF * 2 ^ 48 + 2 ^ 20) / 8) = false := by decide
theorem wit_mcast : ∃ x y z v, Issues (.mcast alone (.v 3) (.imm 0) (.imm 1)) m12 alone sthr
    ∧ (is (.mcast alone (.v 3) (.imm 0) (.imm 1)) m12).queues [.v 3, .imm 0, .imm 1] [] = .ok ()
    ∧ (is (.mcast alone (.v 3) (.imm 0) (.imm 1)) m12).int 1 (.imm 0) = .ok (0, x) ∧ x.int 2 (.imm 1) = .ok (1, y)
    ∧ y.vec 3 (.v 3) = .ok (v, z) ∧ castPending y.s 0 = false ∧ retentionFree y.s 0 = true := by
  refine ⟨_, _, _, _, by decide, rfl, rfl, rfl, rfl, ?_, ?_⟩ <;> decide
/-- Bit 0 names cluster 0 of the partition; bit 1 names cluster 1, outside it. -/
theorem wit_mcast_targets : m12.inPart 0 0 = true ∧ m12.inPart 0 1 = false ∧ (1 : Word).getLsbD 0 = true ∧ (2 : Word).getLsbD 1 = true
    ∧ (0x4000 : Word).extractLsb' 14 18 ≠ 0 := by decide
theorem wit_trap : ∃ y, Issues (.trap alone (.g 1)) m12 alone sthr ∧ (is (.trap alone (.g 1)) m12).queues [.g 1] [] = .ok ()
    ∧ (is (.trap alone (.g 1)) m12).int 1 (.g 1) = .ok (8, y) := ⟨_, by decide, rfl, rfl⟩
theorem wit_brk : Issues (.brk alone) m12 alone sthr := by decide
theorem wit_xrd : Issues (.xrd alone (.g 3) (.x .wins)) m12 alone sthr
    ∧ (is (.xrd alone (.g 3) (.x .wins)) m12).queues [] [.g 3] = .ok () := ⟨by decide, rfl⟩
theorem wit_xwr : ∃ y, Issues (.xwr alone (.x .status) (.g 1)) m12 alone sthr
    ∧ (is (.xwr alone (.x .status) (.g 1)) m12).queues [.g 1] [] = .ok () ∧ (is (.xwr alone (.x .status) (.g 1)) m12).int 1 (.g 1) = .ok (8, y) :=
  ⟨_, by decide, rfl, rfl⟩
theorem wit_cyc : Issues (.cyc alone (.g 3)) m12 alone sthr ∧ (is (.cyc alone (.g 3)) m12).queues [] [.g 3] = .ok () := ⟨by decide, rfl⟩
theorem wit_cyc_deadline : ∃ y, Issues (.cycDeadline alone (.g 3) (.g 1)) m12 alone sthr
    ∧ Source1 (is (.cycDeadline alone (.g 3) (.g 1)) m12) (.g 3) (.g 1) 8 y ∧ m12.cyc < (8 : Word).toNat
    ∧ (8 : Word).toNat ≤ ({ m12 with cyc := 8 } : State).cyc := ⟨_, by decide, ⟨rfl, rfl⟩, by decide, by decide⟩
theorem wit_idle : ∃ y, Issues (.idle alone (.g 1)) m12 alone sthr ∧ (is (.idle alone (.g 1)) m12).queues [.g 1] [] = .ok ()
    ∧ (is (.idle alone (.g 1)) m12).int 1 (.g 1) = .ok (8, y) := ⟨_, by decide, rfl, rfl⟩

/-! ### Results of core and system instructions -/

theorem test_qld_reserves : ((doneBy (.qld alone (.q 4) (ref 2 8)) (wrote 8 8 77 mq)).queue 0 4).ents.map (·.present) = [none] := by decide +kernel
theorem test_qst_pops : let s := settled (doneBy (.qst alone (.q 3) (ref 2 8)) mq) 0
    ((s.queue 0 3).ents.length, readNum s (0xFF * 2 ^ 48 + 8) 8) = (0, 9) := by decide +kernel
theorem test_qcnt : gOf (doneBy (.qcnt alone (.g 5) (.q 3)) mq) 5 = 0x101 := by decide +kernel
theorem test_queue_foreign : causeOf (doneBy (.mov alone .i64 false (.g 5) (.q 3)) m12) = some .record := by decide +kernel
theorem test_queue_pop_adds : gOf (doneBy (.add alone .i64 false false (.g 5) (.q 3) (.imm 1)) mq) 5 = 10 := by decide +kernel
theorem test_borrow : (gOf (doneBy (.borrow alone (.g 3) (.imm 8)) m12) 3, statusOf (doneBy (.borrow alone (.g 3) (.imm 8)) m12))
    = (1, some 0x2200) := by decide +kernel
theorem test_borrow_odd_size : causeOf (doneBy (.borrow alone (.g 3) (.imm 12)) m12) = some .record := by decide +kernel
theorem test_sendr_lands_later : (doneBy (.sendr alone (.g 4) (.g 1) (.imm 0x10000)) m12).pending.any
    (fun p => decide (p.at_ = 4 ∧ p.ev = .depositLanding)) = true := by decide +kernel
theorem test_sendw_outside : causeOf (doneBy (.sendw alone (.g 1) (.imm 8)) m12) = some .record := by decide +kernel
theorem test_xrd_wins : gOf (doneBy (.xrd alone (.g 3) (.x .wins)) m12) 3 = 0x03102080 := by decide +kernel
theorem test_xwr_bad_rounding : statusOf (doneBy (.xwr alone (.x .status) (.imm 0xC01)) m12) = some 0x201 := by decide +kernel
theorem test_trap_stops : causeOf (doneBy (.trap alone (.g 1)) m12) = some .record := by decide +kernel
theorem test_idle_blocks : stateOf (doneBy (.idle alone (.imm 4)) m12) = some .blocked := by decide +kernel
theorem test_cyc_waits : ((doneBy (.cycDeadline alone (.g 3) (.g 1)) m12).thread? 0).map (·.cause) = some (some .deadline) := by decide +kernel

/-! ### Witnesses: cluster and fabric -/

/-- Descriptor of a copy of 4 by 8 bytes at offset 0 of s5 (gB to gB+3 in g8 to g11). -/
def cd : SMap Word := [(1, 4), (8, 5 * 2 ^ 48), (9, 32 + 4 * 2 ^ 32 + 8 * 2 ^ 48), (10, 0), (11, 0)]
theorem wit_usable : (1 : Nat) ≤ 255 ∧ (cs.tile 0 1).st ≠ .free ∧ (cs.tile 0 1).group = sthr.group ∧ (cs.tile 0 1).launch = sthr.launch
    ∧ (baseTile cs 0 1).st = .ready ∧ sthr.status.getLsbD 12 = false ∧ (cs.cluster 0).accOwner = some sthr.ctag ∧ (cs.acc 0 0).lcnt = 0
    ∧ (cs.jobQueue 0 0).jobs.length < 16 := by decide
theorem wit_mma : ∃ y, Issues (.mma alone false 0 (.g 5) (.acc 0) (.g 1)) (csg [(1, 0x201)]) alone sthr
    ∧ (is (.mma alone false 0 (.g 5) (.acc 0) (.g 1)) (csg [(1, 0x201)])).queues [.g 1] [.g 5] = .ok ()
    ∧ (is (.mma alone false 0 (.g 5) (.acc 0) (.g 1)) (csg [(1, 0x201)])).handleSrc (.g 1) = .ok (0x201, y)
    ∧ mmaTag (cs.tile 0 1).fmt (cs.tile 0 2).fmt = some 3 ∧ (cs.tile 0 1).cols = (cs.tile 0 2).cols := ⟨_, by decide, rfl, rfl, by decide, by decide⟩
theorem wit_mmac : ∃ y, Issues (.mmac alone false 0 (.g 5) (.acc 0) (.g 1)) (csg [(1, 0x201)]) alone sthr
    ∧ (is (.mmac alone false 0 (.g 5) (.acc 0) (.g 1)) (csg [(1, 0x201)])).handleSrc (.g 1) = .ok (0x201, y) ∧ (cs.acc 0 0).atag = 3 :=
  ⟨_, by decide, rfl, by decide⟩
theorem wit_mzero : ∃ y, Issues (.mzero alone 0 (.g 5) (.acc 0) (.imm 7)) cs alone sthr
    ∧ (is (.mzero alone 0 (.g 5) (.acc 0) (.imm 7)) cs).queues [] [.g 5] = .ok ()
    ∧ (is (.mzero alone 0 (.g 5) (.acc 0) (.imm 7)) cs).int 2 (.imm 7) = .ok (7, y) := ⟨_, by decide, rfl, rfl⟩
theorem wit_mrd : ∃ y, Issues (.mrd alone false 0 (.g 5) (.acc 0) (.g 1)) (csg [(1, 3)]) alone sthr
    ∧ (is (.mrd alone false 0 (.g 5) (.acc 0) (.g 1)) (csg [(1, 3)])).handleSrc (.g 1) = .ok (3, y) ∧ (cs.acc 0 0).atag ≠ 0
    ∧ (cs.tile 0 3).gv = false ∧ mrdOk (cs.acc 0 0).atag (cs.tile 0 3).fmt = true := ⟨_, by decide, rfl, by decide, by decide, by decide⟩
theorem wit_mwr : ∃ y, Issues (.mwr alone 0 (.g 5) (.acc 0) (.g 1)) (csg [(1, 3)]) alone sthr ∧ Iss.queuesOf [.g 5, .g 1] = []
    ∧ (is (.mwr alone 0 (.g 5) (.acc 0) (.g 1)) (csg [(1, 3)])).handleSrc (.g 1) = .ok (3, y) ∧ mwrTag (cs.tile 0 3).fmt = some 3 :=
  ⟨_, by decide, rfl, rfl, by decide⟩
theorem wit_cpy : ∃ z y, Issues (.cpy alone 0 (.g 5) (.g 1) (.g 8)) (csg cd) alone sthr
    ∧ (is (.cpy alone 0 (.g 5) (.g 1) (.g 8)) (csg cd)).queues [.g 1] [.g 5] = .ok ()
    ∧ (is (.cpy alone 0 (.g 5) (.g 1) (.g 8)) (csg cd)).handleSrc (.g 1) = .ok (4, z)
    ∧ z.descriptorWords (.g 8) = .ok (5 * 2 ^ 48, 32 + 4 * 2 ^ 32 + 8 * 2 ^ 48, 0, 0, y)
    ∧ descLegal (cs.tile 0 4) (5 * 2 ^ 48) 0 (descOf (5 * 2 ^ 48) (32 + 4 * 2 ^ 32 + 8 * 2 ^ 48) 0 0) = true
    ∧ y.windowOk (cs.tile 0 4) false [descOf (5 * 2 ^ 48) (32 + 4 * 2 ^ 32 + 8 * 2 ^ 48) 0 0] = .ok () :=
  ⟨_, _, by decide, rfl, rfl, rfl, by decide, rfl⟩
theorem wit_job_turned_away : (0x1200 : BitVec 32).getLsbD 12 = true ∧ (m12.cluster 0).accOwner ≠ some sthr.ctag ∧ 255 < (256 : Word).toNat
    ∧ (cs.tile 0 9).st = .free ∧ (baseTile cs 0 6).st ≠ .ready ∧ mwrTag 8 = none := by decide
def busy : State := (cs.setJobQueue 0 0 { JobQueue.reset with jobs := List.replicate 16 job0 }).setAcc 0 1
  { Acc.reset with lcnt := 1, lq := 2 }
theorem wit_job_waits : 16 ≤ (busy.jobQueue 0 0).jobs.length ∧ (busy.acc 0 1).lcnt ≠ 0 ∧ (busy.acc 0 1).lq ≠ 0 := by decide
/-- A shape of 4 rows and 8 columns of bytes, pitch 32. -/
def shapeWord : Word := 1 + 4 * 2 ^ 8 + 8 * 2 ^ 21 + 32 * 2 ^ 34
theorem wit_tdef : ∃ y, Issues (.tdef alone 2 (.g 5) (.g 1) (.g 2)) (csg [(1, 64), (2, shapeWord)]) alone sthr
    ∧ Source2 (is (.tdef alone 2 (.g 5) (.g 1) (.g 2)) (csg [(1, 64), (2, shapeWord)])) (.g 5) (.g 1) (.g 2) 64 shapeWord y
    ∧ shapeWord.getLsbD 4 = false ∧ shapeTile shapeWord ≠ none ∧ sthr.segs[2].kind = .core ∧ freeHandle cs 0 = some 0
    ∧ (path y sthr.segs[2] { Want.scalar 2 64 104 .store .plain 1 with tier := fun _ => none }).isOk = true := by
  refine ⟨_, by decide, ⟨rfl, _, rfl, rfl⟩, ?_, ?_, ?_, ?_, ?_⟩ <;> decide +kernel
theorem wit_tdef_cases : shapeTile 0 = none ∧ (65 : Word).toNat % 8 ≠ 0 ∧ sthr.segs[5].kind ≠ .core ∧ sthr.segs[5].kind ≠ .vault := by decide
theorem wit_tdef_full : freeHandle (cs.updCluster 0 fun k => { k with tiles := (List.range 256).map fun h => (h, tl 1 .ready 0) }) 0 = none := by decide +kernel
/-- A view of tile 1 as one image of 2 by 2 pixels with a 2 by 2 filter: 1 position. -/
def viewWord : Word := 0x10 + 2 * 2 ^ 8 + 1 * 2 ^ 18 + 1 * 2 ^ 21 + 1 * 2 ^ 41
theorem wit_view : ∃ y, Issues (.tdef alone 0 (.g 5) (.g 1) (.g 2)) (csg [(1, 1), (2, viewWord)]) alone sthr
    ∧ Source2 (is (.tdef alone 0 (.g 5) (.g 1) (.g 2)) (csg [(1, 1), (2, viewWord)])) (.g 5) (.g 1) (.g 2) 1 viewWord y
    ∧ viewWord.getLsbD 4 = true ∧ viewTile viewWord 1 (cs.tile 0 1) ≠ none ∧ (cs.tile 0 1).fmt = 1 ∧ (cs.tile 0 1).gv = false := by
  refine ⟨_, by decide, ⟨rfl, _, rfl, rfl⟩, ?_, ?_, ?_, ?_⟩ <;> decide +kernel
theorem wit_trel : ∃ y, Issues (.trel alone (.g 1)) (csg [(1, 3)]) alone sthr ∧ (is (.trel alone (.g 1)) (csg [(1, 3)])).queues [.g 1] [] = .ok ()
    ∧ (is (.trel alone (.g 1)) (csg [(1, 3)])).handleSrc (.g 1) = .ok (3, y) := ⟨_, by decide, rfl, rfl⟩
theorem wit_release : (cs.tile 0 3).st = .ready ∧ (cs.tile 0 3).gv = false ∧ (cs.tile 0 3).sub = none := by decide
def changed (c : TileChange) : State := cs.updCluster 0 fun k => { k with
  changes := [c], subs := [(2, ⟨4, 2, false, 2, 0, 0, descOf 0 0 0 0, .null, [], 0, 0, 0, 0, 0, 0, [], [], []⟩)]
  tiles := k.tiles.set 4 { tl 1 .ready 0x300 with sub := some 2 } }
theorem wit_changes : ((changed (.define 7 (tl 1 .ready 0))).cluster 0).changes = [.define 7 (tl 1 .ready 0)]
    ∧ ((changed (.release 3)).cluster 0).changes = [.release 3] ∧ (baseTile (changed (.release 3)) 0 3).st = .ready
    ∧ ((changed (.empty 4 2 0)).cluster 0).subs.has 2 = true ∧ ((changed (.empty 4 2 0)).tile 0 4).sub = some 2
    ∧ ((changed (.empty 4 2 0)).tile 0 4).st = .ready := by decide +kernel
theorem wit_tstat : ∃ y, Issues (.tstat alone (.g 5) (.g 1)) (csg [(1, 3)]) alone sthr
    ∧ (is (.tstat alone (.g 5) (.g 1)) (csg [(1, 3)])).queues [.g 1] [.g 5] = .ok ()
    ∧ (is (.tstat alone (.g 5) (.g 1)) (csg [(1, 3)])).handleSrc (.g 1) = .ok (3, y) := ⟨_, by decide, rfl, rfl⟩
theorem wit_twait : ∃ y, Issues (.twait alone (.g 1)) (csg [(1, 3)]) alone sthr
    ∧ (is (.twait alone (.g 1)) (csg [(1, 3)])).handleSrc (.g 1) = .ok (3, y) := ⟨_, by decide, rfl⟩
/-- A subscription of tiles 4 and 5 for 2 tiles. -/
def sd : SMap Word := [(1, 4 + 2 * 2 ^ 8 + 2 * 2 ^ 16), (8, 5 * 2 ^ 48), (9, 32 + 4 * 2 ^ 32 + 8 * 2 ^ 48)]
theorem wit_tsub : ∃ x y, Issues (.tsub alone (.g 5) (.g 1) (.g 8)) (csg sd) alone sthr
    ∧ (is (.tsub alone (.g 5) (.g 1) (.g 8)) (csg sd)).queues [.g 1] [.g 5] = .ok ()
    ∧ (is (.tsub alone (.g 5) (.g 1) (.g 8)) (csg sd)).handleSrc (.g 1) = .ok (4 + 2 * 2 ^ 8 + 2 * 2 ^ 16, x)
    ∧ x.descriptorWords (.g 8) = .ok (5 * 2 ^ 48, 32 + 4 * 2 ^ 32 + 8 * 2 ^ 48, 0, 0, y) ∧ (cs.cluster 0).subs.freeKey 16 0 = some 0
    ∧ y.windowOk (cs.tile 0 4) false [descOf (5 * 2 ^ 48) (32 + 4 * 2 ^ 32 + 8 * 2 ^ 48) 0 0,
      (descOf (5 * 2 ^ 48) (32 + 4 * 2 ^ 32 + 8 * 2 ^ 48) 0 0).step 0 0 1] = .ok () := ⟨_, _, by decide, rfl, rfl, rfl, by decide, rfl⟩
theorem wit_qfence : ∃ y, Issues (.qfence alone (.g 5) (.g 1)) (csg [(1, 0x81)]) alone sthr
    ∧ (is (.qfence alone (.g 5) (.g 1)) (csg [(1, 0x81)])).queues [.g 1] [.g 5] = .ok ()
    ∧ (is (.qfence alone (.g 5) (.g 1)) (csg [(1, 0x81)])).handleSrc (.g 1) = .ok (0x81, y) ∧ (0x81 : Word).getLsbD 7 = true := ⟨_, by decide, rfl, rfl, by decide⟩
theorem wit_jpoll : ∃ y, Issues (.jpoll alone (.g 5) (.g 1)) (csg [(1, 0)]) alone sthr
    ∧ (is (.jpoll alone (.g 5) (.g 1)) (csg [(1, 0)])).handleSrc (.g 1) = .ok (0, y) ∧ ((cs.jobQueue 0 0).issued - 0).toNat < 2 ^ 31
    ∧ ((cs.jobQueue 0 0).done - 0).toNat < 2 ^ 31 ∧ 2 ^ 31 ≤ ((cs.jobQueue 0 0).issued - 1).toNat := ⟨_, by decide, rfl, by decide, by decide, by decide⟩
theorem wit_jwait : ∃ y, Issues (.jwait alone (.g 5) (.g 1)) (csg [(1, 0)]) alone sthr
    ∧ (is (.jwait alone (.g 5) (.g 1)) (csg [(1, 0)])).handleSrc (.g 1) = .ok (0, y)
    ∧ 2 ^ 31 ≤ (({ JobQueue.reset with issued := 1 } : JobQueue).done - 1).toNat ∧ (({ JobQueue.reset with issued := 1 } : JobQueue).issued - 1).toNat < 2 ^ 31 :=
  ⟨_, by decide, rfl, by decide, by decide⟩

/-- Window 3 is the module's own 4 KiB at the core store, in tiles of 64 bytes, 2 by 2; window 4 lies on another module. -/
def win3 : WindowEntry := ⟨true, Config.moduleId, 0xFF000000000000, 0x1000, 1, 1, 64⟩
def fs : State := { m12 with contexts := [(0, { ctx0 with windows := [(3, win3), (4, ⟨false, 0, 0, 0, 0, 0, 0⟩)] })] }
def fd : SMap Word := [(8, 64 + 2 * 2 ^ 48), (9, 128 + 3 * 2 ^ 48), (10, 8)]
def fsg (g : SMap Word) : State := { fs with gfile := g }
theorem wit_put : ∃ y, Issues (.puts alone (.g 5) (.g 8)) (fsg fd) alone sthr ∧ (is (.puts alone (.g 5) (.g 8)) (fsg fd)).queues [] [.g 5] = .ok ()
    ∧ (is (.puts alone (.g 5) (.g 8)) (fsg fd)).fabricDesc (.g 8) = .ok (⟨64, 2, 128, 3, 8⟩, y) ∧ windowOf (fsg fd) 0 3 = some win3
    ∧ 128 + 8 ≤ win3.wsize.toNat ∧ 128 / win3.tsize.toNat = (128 + 8 - 1) / win3.tsize.toNat
    ∧ path y sthr.segs[2] { Want.scalar 2 64 8 .load .everywhere 1 with tier := fun n => if 2 ≤ n then some (12, 6) else none } = .ok [cpart 64 8] :=
  ⟨_, by decide, rfl, rfl, rfl, by decide, by decide, rfl⟩
theorem wit_put_get : (fs.core 0).buffer = [] ∧ underWay fs 0 = [] ∧ Issues (.put alone (.g 5) (.g 8)) (fsg fd) alone sthr ∧ Issues (.get alone (.g 5) (.g 8)) (fsg fd) alone sthr := by decide
/-- The last operation of a window ends at its end; one byte more, or across two tiles, is refused. -/
theorem wit_put_cases : 0xFF8 + 8 ≤ win3.wsize.toNat ∧ win3.wsize.toNat < 0xFF8 + 16
    ∧ (56 : Nat) / win3.tsize.toNat ≠ (56 + 16 - 1) / win3.tsize.toNat ∧ windowOf fs 0 4 = none := by decide
/-- s4 names a core store of another cluster, which is not the partition's; an offset past a segment's end is within reach. -/
def farSeg : Segment := ⟨0xFF000008000000, 0x1000, true, true, false, false, 0, .memory, 0⟩
theorem wit_put_reach : ∃ e, path (is (.put alone (.g 5) (.g 8)) (fsg fd)) farSeg { Want.scalar 4 0 8 .load .everywhere 1 with tier := fun n => if 2 ≤ n then some (12, 6) else none }
    = .error (.trap e none) ∧ e.cause = 5 ∧ (e.detail.extractLsb' 24 8).toNat ∈ [13, 14] := ⟨_, rfl, by decide⟩
theorem wit_put_past : ∃ e, path (is (.put alone (.g 5) (.g 8)) (fsg fd)) sthr.segs[2] { Want.scalar 2 0x1000 8 .load .everywhere 1 with tier := fun n => if 2 ≤ n then some (12, 6) else none }
    = .error (.trap e none) ∧ ¬ ((e.detail.extractLsb' 8 8).toNat = 12 ∨ e.cause = 5) := ⟨_, rfl, by decide⟩
theorem wit_desc : fs.errs = [] ∧ (8 : Nat) ≤ 8 ∧ ¬ (8 : Nat) ≤ 7 ∧ (2 ^ 24 : Nat) % 8 = 0 := by decide
/-- A selector of window 3: kind 2 (`RC`); of tile 3, the last; of tile 4, outside the grid. -/
theorem wit_cread : ∃ y, Issues (.cread alone (.g 5) (.g 1)) (fsg [(1, 3 + 2 * 2 ^ 6)]) alone sthr
    ∧ Source1 (is (.cread alone (.g 5) (.g 1)) (fsg [(1, 3 + 2 * 2 ^ 6)])) (.g 5) (.g 1) (3 + 2 * 2 ^ 6) y
    ∧ (3 : Nat) < (win3.grows.toNat + 1) * (win3.gcols.toNat + 1) ∧ ¬ (4 : Nat) < (win3.grows.toNat + 1) * (win3.gcols.toNat + 1)
    ∧ win3.module = Config.moduleId := ⟨_, by decide, ⟨rfl, rfl⟩, by decide, by decide, rfl⟩
theorem wit_cwait : ∃ y, Issues (.cwait alone (.g 5) (.g 1) (.imm 4)) (fsg [(1, 3 + 2 * 2 ^ 6)]) alone sthr
    ∧ Source2 (is (.cwait alone (.g 5) (.g 1) (.imm 4)) (fsg [(1, 3 + 2 * 2 ^ 6)])) (.g 5) (.g 1) (.imm 4) (3 + 2 * 2 ^ 6) 4 y
    ∧ 2 ^ 63 ≤ ((countersOf fs 0 3).rc - 4).toNat ∧ ((countersOf fs 0 3).rc - 0).toNat < 2 ^ 63 := ⟨_, by decide, ⟨rfl, _, rfl, rfl⟩, by decide, by decide⟩
theorem wit_cadd : ∃ y, Issues (.cadd alone (.g 5) (.g 1) (.imm 4)) (fsg [(1, 3 + 2 * 2 ^ 6)]) alone sthr
    ∧ Source2 (is (.cadd alone (.g 5) (.g 1) (.imm 4)) (fsg [(1, 3 + 2 * 2 ^ 6)])) (.g 5) (.g 1) (.imm 4) (3 + 2 * 2 ^ 6) 4 y :=
  ⟨_, by decide, rfl, _, rfl, rfl⟩
def msg : FabricMsg := ⟨.puts, Config.moduleId, 9, 0, 3, 128, 8, [1, 2, 3, 4, 5, 6, 7, 8]⟩
theorem wit_arrival : windowOf fs msg.ctag msg.win = some win3 ∧ msg.off + msg.len ≤ win3.wsize.toNat ∧ msg.bytes.length = msg.len
    ∧ hubReaches fs msg.ctag (win3.wbase.toNat + msg.off) msg.len = true
    ∧ daBytes fs msg.ctag (win3.wbase.toNat + msg.off) msg.len = some [0, 0, 0, 0, 0, 0, 0, 0] :=
  ⟨rfl, by decide, by decide, by decide, by decide⟩
theorem wit_arrival_absent : hubReaches fs 0 0 8 = false := by decide +kernel
def getting : State := { fs with args := [9], fabops := [(9, ⟨.get, 0, 3, 128, 8, [(0xFF * 2 ^ 48 + 64, 0xFF000000000040, 8)], 0, 0, 0, 0⟩)] }
theorem wit_data : getting.fabops.get? 9 ≠ none ∧ tileHolds getting (0xFF * 2 ^ 48 + 64) 8 = false ∧ getting.fabops.get? 8 = none
    ∧ tileHolds { getting with clusters := [(0, { ClusterSt.reset with tiles := [(6, tl 1 .filling 64)] })] } (0xFF * 2 ^ 48 + 64) 8 = true := by decide +kernel

/-! ### Results of cluster and fabric instructions -/

theorem test_mma_identifier : gOf (doneBy (.mma alone false 2 (.g 5) (.acc 0) (.g 1)) (csg [(1, 0x201)])) 5 = 1 + 2 * 2 ^ 32 := by decide +kernel
theorem test_mma_drains : (((doneBy (.mma alone false 2 (.g 5) (.acc 0) (.g 1)) (csg [(1, 0x201)])).tile 0 1).st,
    ((doneBy (.mma alone false 2 (.g 5) (.acc 0) (.g 1)) (csg [(1, 0x201)])).acc 0 0).lcnt) = (.draining, 1) := by decide +kernel
theorem test_mrd_fills : ((doneBy (.mrd alone false 0 (.g 5) (.acc 0) (.g 1)) (csg [(1, 3)])).tile 0 3).st = .filling := by decide +kernel
theorem test_cpy_fills : ((doneBy (.cpy alone 0 (.g 5) (.g 1) (.g 8)) (csg cd)).tile 0 4).st = .filling := by decide +kernel
theorem test_tdef_handle : gOf (doneBy (.tdef alone 2 (.g 5) (.g 1) (.g 2)) (csg [(1, 64), (2, shapeWord)])) 5 = 0 := by decide +kernel
theorem test_twait_filling : ((doneBy (.twait alone (.g 1)) (csg [(1, 6)])).thread? 0).map (·.cause) = some (some .tile) := by decide +kernel
theorem test_tsub_empties : let s := doneBy (.tsub alone (.g 5) (.g 1) (.g 8)) (csg sd)
    ((s.tile 0 5).st, ((applyChanges s 0).tile 0 5).st) = (.ready, .empty) := by decide +kernel
theorem test_qfence_lowest : gOf (doneBy (.qfence alone (.g 5) (.g 1)) (csg [(1, 0x84)])) 5 = 1 + 2 * 2 ^ 32 := by decide +kernel
theorem test_jwait_waits : ((doneBy (.jwait alone (.g 5) (.g 1)) { csg [(1, 1)] with
    clusters := [(0, { ClusterSt.reset with queues := [(0, { JobQueue.reset with issued := 1 })] })] }).thread? 0).map (·.cause) = some (some .job) := by decide +kernel
theorem test_cread_issued : gOf (doneBy (.cread alone (.g 5) (.g 1)) { fsg [(1, 3 + 1 * 2 ^ 6)] with
    counters := [(3, { Counters.reset with lc := 9, liss := 5 })] }) 5 = 5 := by decide +kernel
theorem test_cadd_wrong_kind : causeOf (doneBy (.cadd alone (.g 5) (.g 1) (.imm 4)) (fsg [(1, 3)])) = some .record := by decide +kernel

/-! ### Witnesses: barrier events -/

theorem wit_wait : let s := T (fun t => t) (grp b2); Issues (.wait alone) s alone thr ∧ thr.status.getLsbD 12 = false ∧ thr.handle = none
    ∧ ((s.group? 0 0).map fun g => decide (thr.rank < g.barrier.mcount)) = some true := by decide
theorem wit_wait_no_member : Issues (.wait alone) base alone thr ∧ ((base.group? 0 0).map fun g => decide (thr.rank < g.barrier.mcount)) = some false := by decide
def e1 : MEntry := ⟨1, 0⟩
theorem wit_arrives : let s := A [0, 0, 0] (grp { b2 with entries := [(0, e1)], nextSeq := 1 })
    s.args = [0, 0, 0] ∧ ((s.group? 0 0).map (·.barrier.entries)) = some [(0, e1)] ∧ haltOf s 0 = none ∧ e1.mask.getLsbD 0 = true := by decide
theorem wit_arrives_unbound : let s := A [0, 0, 0] (grp b2); haltOf s 0 = none ∧ ((s.group? 0 0).map fun g => (g.barrier.entries, g.barrier.gstate)) = some ([], .run) := by decide
theorem wit_fires : let b := { b2 with entries := [(0, e1)], waits := [(0, .bound 0)], nextSeq := 1 }
    ((A [0, 0, 0] (grp b)).group? 0 0).map (·.freeze) = some none ∧ b.entries.get? 0 = some e1
    ∧ (∀ i, i < 256 → e1.mask.getLsbD i = true → i ∈ b.exited ∨ b.waits.get? i = some (.bound e1.seq.toNat)) := by decide +kernel
theorem wit_fires_not : e1.mask.getLsbD 0 = true ∧ ¬ (0 ∈ b2.exited ∨ b2.waits.get? 0 = some (.bound 0)) := by decide
theorem wit_released : let s := (A [0, 0, 0] (grp { b2 with rls := [(0, (1, 5))] })).setThread 0 { thr with st := .waiting, cause := none }
    SMap.sorted s.threads = true ∧ memberThread s 0 0 0 = some (0, { thr with st := .waiting, cause := none }) := by decide
/-- A MASK record for member 0, a LOOP record back to record 0 and an END record. -/
def maskRec : List Byte := toBytes 64 (1 + 1 * 2 ^ 16 + 1 * 2 ^ 64)
def loopRec : List Byte := toBytes 64 (2 + 3 * 2 ^ 16)
def endRec : List Byte := toBytes 64 3
def fld (r : List Byte) (i n : Nat) : Nat := ofBytes ((r.drop i).take n)
theorem wit_mask : let s := A [0, 0] (grp { b2 with pfb := [(0, maskRec)] }); SMap.sorted s.groups = true
    ∧ (maskRec.length, fld maskRec 0 1, fld maskRec 1 1, fld maskRec 2 2, fld maskRec 4 4, fld maskRec 8 32, fld maskRec 40 24) = (64, 1, 0, 1, 0, 1, 0)
    ∧ fld maskRec 8 32 < 2 ^ b2.mcount ∧ b2.entries.freeKey 32 0 = some 0 := by decide +kernel
theorem wit_loop_record : (loopRec.length, fld loopRec 0 1, fld loopRec 2 2, fld loopRec 4 4, fld loopRec 8 32) = (64, 2, 3, 0, 0)
    ∧ fld loopRec 4 4 < ({ b2 with gpc := 1 } : Barrier).gpc.toNat ∧ ({ b2 with gpc := 1 } : Barrier).lstk.length < 4 := by decide +kernel
theorem wit_end_record : (endRec.length, fld endRec 0 1, fld endRec 2 2, fld endRec 4 4, fld endRec 8 32) = (64, 3, 0, 0, 0) := by decide +kernel
theorem wit_bad_record : ((List.replicate 64 (0 : Byte)).length, fld (List.replicate 64 0) 0 1) = (64, 0)
    ∧ 2 ^ b2.mcount ≤ fld (toBytes 64 (1 + 1 * 2 ^ 16 + 4 * 2 ^ 64)) 8 32 := by decide +kernel
/-- A barrier segment of two records in the own core store. -/
def barred : State := { (grp { b2 with reads := [1, 2] }) with
  contexts := [(0, { ctx0 with descs := [(3, ⟨0xFF000000000000, 128, true, false, false, false, 1, .barrier, 3⟩)] })] }.updLaunch 0 fun l => { l with barrierIdx := some 3 }
theorem wit_record_read : let s := A [0, 0, 1] barred; (barrierSegment s 0).map (·.limit.toNat) = some 128 ∧ 64 * 1 + 64 ≤ 128 ∧ 128 < 64 * 2 + 64
    ∧ portLoc s 0 0 (0xFF000000000040) = some 0xFF000000000040 ∧ s.errs = [] ∧ 1 ∈ [1, 2] := by decide
theorem wit_freeze : let g : Group := { Group.fresh with freeze := some (0, [0], false), held := [0], places := [⟨0, 0, 0⟩] }
    ((A [0, 0] (base.setGroup 0 0 g)).group? 0 0).map (·.freeze) = some (some (0, [0], false))
    ∧ groupCores (A [0, 0] (base.setGroup 0 0 g)) 0 0 = [0] := by decide

/-! ### Witnesses: requests and cores -/

theorem wit_request_write : let s := A [9] { base with reqs := [(9, wreq)], pubs := [(5, ⟨0, [9], .resume 0 true⟩)] }
    s.reqs.get? 9 = some wreq ∧ wreq.performed = false ∧ mustFollow s wreq = false ∧ wreq.heldNow s 9 = false ∧ tagsTaken s 9 wreq = false ∧ turned (takeTurns s wreq.away 0) = true
    ∧ ((runs (0xFF * 2 ^ 48 + 64) [some (1 : Byte), none]).any fun q => tileHoldsBut s (pubJob s 9) q.1 q.2.length) = false
    ∧ SMap.sorted s.pubs = true ∧ s.pubs.get? 5 = some ⟨0, [9], .resume 0 true⟩ := by decide +kernel
/-- An earlier write of the same core to the same word; and a bank that another access has taken, for a request of core 1. -/
theorem wit_request_follows : mustFollow { base with reqs := [(8, wreq), (9, { wreq with order := 1 })] } { wreq with order := 1 } = true := by decide +kernel
theorem wit_request_bank : turned (takeTurns (base.updCore 0 fun k => { k with banks := [(csBank 64, base.cyc)] }) { wreq with key := 64 }.away 0) = false := by
  decide +kernel
/-- A read through a segment of colour 3, whose granule has colour 0. -/
theorem wit_request_colour : let r : Req := { wreq with
      kind := .read [(0xFF * 2 ^ 48 + 64, 8)], tests := [⟨0xFF * 2 ^ 48 + 64, 0xFF000000000040, 8, 6, 3, 0, 64⟩] }
    (r.tagTest { base with reqs := [(9, r)] } (reqCtag base r) (0xFF * 2 ^ 48 + 64) 8).isSome = true := by decide +kernel
theorem wit_request_held : let s := { base with reqs := [(9, { wreq with held := true })], clusters := [(0, { ClusterSt.reset with
      tiles := [(6, { Tile.reset with st := .filling, fmt := 1, rows := 4, cols := 8, pitch := 32, expected := 32 })] })] }
    ((runs (0xFF * 2 ^ 48 + 24) [some (1 : Byte)]).any fun q => tileHoldsBut s (pubJob s 9) q.1 q.2.length) = false
    ∧ ((runs (0xFF * 2 ^ 48 + 32) [some (1 : Byte)]).any fun q => tileHoldsBut s (pubJob s 9) q.1 q.2.length) = true := by decide +kernel
def req (k : ReqKind) (i : Option Instr) : Req := { wreq with instr := i, kind := k, data := [1, 2], performed := true }
theorem wit_request_others : (req (.read [(0, 8)]) none).kind = .read [(0, 8)] ∧ (req (.tagRead 0) none).kind = .tagRead 0
    ∧ (req (.tagWrite 0 3) none).kind = .tagWrite 0 3 := ⟨rfl, rfl, rfl⟩
theorem wit_request_atomic : let r := req (.atomic (0xFF * 2 ^ 48 + 64) 8 [7]) (some (.aop alone .add true .rlx (.g 2) ⟨0, .none, .none⟩))
    let s := { base with reqs := [(9, r)] }; s.kickPages.get? ((0xFF * 2 ^ 48 + 64) / 2 ^ 17) = none ∧ s.errs = [] ∧ tileHoldsBut s (pubJob s 9) (0xFF * 2 ^ 48 + 64) 8 = false := by decide +kernel
theorem wit_reply : let s := (A [9] { base with reqs := [(9, req (.read []) none)] }).setThread 0 { thr with outstanding := some 9 }
    s.args = [9] ∧ s.reqs.get? 9 = some (req (.read []) none) ∧ (req (.read []) none).poison = false ∧ (req (.read []) none).qdest = none
    ∧ Req.lacks s 9 (req (.read []) none) = false ∧ (s.thread? 0).map (·.outstanding) = some (some 9)
    ∧ (req (.read []) none).atReply s = req (.read []) none ∧ (req (.read []) none).trap? = none
    ∧ (takeBanks s 0 (Req.banks s (req (.read []) none))).isSome = true := by decide +kernel
theorem wit_reply_traps : ({ req (.read []) none with failed := some (0, 0) } : Req).trap? ≠ none := by decide +kernel
/-- An answer whose bytes the own core store still owes; and one whose register's bank is taken. -/
theorem wit_reply_lacks : Req.lacks (owned 1 (.read (cpart 8 8).loc 8 0)) 0 wreq = true := by decide +kernel
theorem wit_reply_bank : takeBanks (base.updCore 0 fun k => { k with banks := [(3, base.cyc)] }) 0 [3] = none := by decide +kernel
theorem wit_reply_queue : let s := base.setQueue 0 3 { base.queue 0 3 with ents := [⟨⟨0, 0⟩, none, none, 4⟩] }
    ∃ e ∈ (s.queue 0 3).ents, e.seq = 4 := by decide +kernel
theorem wit_publication : let s := A [5] { base with pubs := [(5, ⟨0, [], .resume 0 true⟩)], threads := [(0, { thr with outstanding := some 5 })] }
    s.pubs.get? 5 = some ⟨0, [], .resume 0 true⟩ ∧ s.thread? 0 = some { thr with outstanding := some 5 } := by decide +kernel
theorem wit_publication_more : (⟨0, [1], .send 3⟩ : Pub).waits ≠ [] ∧ (⟨0, [], .send 3⟩ : Pub).after = .send 3
    ∧ (⟨0, [], .waitArrive 0 0 1⟩ : Pub).after = .waitArrive 0 0 1 ∧ (⟨0, [], .retire 0 0⟩ : Pub).after = .retire 0 0
    ∧ (⟨0, [], .job 0 4 1⟩ : Pub).after = .job 0 4 1 := ⟨by decide, rfl, rfl, rfl, rfl⟩
def dep : Deposit := ⟨1, 0, 0, 0, 0, 0, 0, .g 127, 9, 0, 0, false⟩
theorem wit_deposit : let s := A [1, 0, 9] { base with deposits := [(9, dep)] }; s.deposits.get? 9 = some dep ∧ dep.lost = false
    ∧ s.thread? (slotKey dep.core dep.slot) = some thr ∧ thr.ctag = dep.ctag ∧ thr.group = dep.group ∧ dep.reg.inside thr = true := by decide +kernel
theorem wit_deposit_lost : ({ dep with lost := true } : Deposit).lost = true ∧ clusterOf ({ dep with srcCore := 8 } : Deposit).srcCore ≠ clusterOf dep.core := by
  decide
/-- The slot's thread has another tag, and its parked owner has the deposit's. -/
def lentTo : State := ((A [1, 0, 9] { base with deposits := [(9, dep)] }).setThread 0 { thr with ctag := 5 }).setSlot 0 { (base.slot 0) with lent := some thr }
theorem wit_deposit_owner : lentTo.thread? (slotKey dep.core dep.slot) = some { thr with ctag := 5 } ∧ (lentTo.slot (slotKey dep.core dep.slot)).lent = some thr
    ∧ ¬ ({ thr with ctag := 5 } : Thread).ctag = dep.ctag ∧ thr.ctag = dep.ctag ∧ thr.group = dep.group ∧ 127 < thr.gSize
    ∧ ({ dep with reg := .g 128 } : Deposit).reg.inside thr = false := by decide +kernel
theorem wit_deposit_error : errAt { base with errs := [(.deposit 9, false)] } (.deposit 9) = some false
    ∧ errAt { base with errs := [(.deposit 9, true)] } (.deposit 9) = some true := by decide
theorem wit_deposit_dropped : (RegName.g 128).inside thr = false ∧ base.thread? (slotKey 0 1) = none := by decide
theorem wit_idle_expiry : let t := { thr with st := .blocked, idle := some 0 }; (A [0, 0] (base.setThread 0 t)).thread? (slotKey 0 0) = some t
    ∧ t.idle = some base.cyc := by decide
theorem wit_gate : (base.core 0).laneAt ≠ some base.cyc ∧ ({ base.core 0 with laneAt := some base.cyc } : CoreSt).laneAt = some base.cyc
    ∧ ({ base.core 0 with vecWakeAt := some base.cyc } : CoreSt).vecWakeAt = some base.cyc := by decide
/-- The 64th cycle of an empty core, and the 24th of its wake. -/
theorem wit_core_gate : let s := { State.reset with cyc := 64, cores := [(3, { CoreSt.reset with power := .active })] }
    (s.core 3).power = .active ∧ coreQuiet s 3 = true ∧ (s.core 3).idleSince + 64 ≤ s.cyc ∧ ({ CoreSt.reset with power := .waking 40 } : CoreSt).power = .waking 40 ∧ 40 + 24 ≤ s.cyc := by decide +kernel
theorem wit_core_reset : let s := base.updCore 0 fun k => { k with dups := [⟨3, 1, .held, 0, 0, false, [], false, 0⟩], resetting := true }
    (s.core 0).resetting = true ∧ ⟨3, 1, .held, 0, 0, false, [], false, 0⟩ ∈ (s.core 0).dups := by decide +kernel
theorem wit_scrub : siteBank (.gfile 0 1) ≠ none ∧ (base.core 0).banks = [] ∧ errAt { base with errs := [(.gfile 0 1, false)] } (.gfile 0 1) = some false
    ∧ (base.cluster 0).err.ce ≠ BitVec.allOnes 32 := by decide

/-! ### Witnesses: packets -/

/-- A packet of 6 words, in two flits. -/
def pkt : NetPkt := ⟨body .message [1, 2, 3, 4, 5, 6], packetFlits (body .message [1, 2, 3, 4, 5, 6]), [], true, false⟩
theorem wit_head : let s := A [9] { base with packets := [(9, pkt)], nextId := 10 }
    9 < s.nextId ∧ (s.packets.get? 9).map (·.body) = some pkt.body ∧ 0 ∉ pkt.lost ∧ (s.core 0).resetting = false
    ∧ pkt.body.cls ≠ .fullEmpty ∧ dupOf s 0 3 1 = none ∧ (s.core 0).dups.length < 256 ∧ (s.core 0).spill = [] ∧ (s.core 0).arrivals.length < 32 := by decide +kernel
def arr : Arrival := ⟨body .message [7], none, none⟩
/-- The first arrival that spills, and the first that is refused. -/
theorem wit_head_spills : let k := { CoreSt.reset with arrivals := List.replicate 32 arr, spill := List.replicate 203 arr }
    32 ≤ k.arrivals.length ∧ k.spill.length < 204 ∧ 204 ≤ (List.replicate 204 arr).length ∧ 256 ≤ (List.replicate 256 (⟨3, 1, .held, 0, 0, false, [], false, 0⟩ : DupEntry)).length := by decide +kernel
def dupd (e : DupEntry) : State := { base with packets := [(9, { pkt with headIn := true })], nextId := 10 }.updCore 0 fun k => { k with dups := [e] }
def held : DupEntry := ⟨3, 1, .held, 0, 0, false, [], false, 0⟩
theorem wit_head_again : dupOf (dupd { held with st := .admitted }) 0 3 1 = some { held with st := .admitted }
    ∧ dupOf (dupd { held with ended := true }) 0 3 1 = some { held with ended := true } := by decide +kernel
theorem wit_flit_lost : pkt.flits.length = 2 ∧ 1 ∉ pkt.lost ∧ ¬ (0 = 0 ∧ pkt.headIn = true) ∧ pkt.closed = true
    ∧ 0 ∈ ({ pkt with lost := [0] } : NetPkt).lost ++ [1] := by decide +kernel
/-- Three flits, of which the last is not yet given and the second is lost. -/
theorem wit_flit_skipped : let p : NetPkt := { pkt with flits := packetFlits (body .message (List.replicate 14 1)), closed := false, headIn := true }
    p.flits.length = 3 ∧ 1 ∉ p.lost ∧ (1 ∈ p.lost ++ [1]) ∧ 2 ∉ p.lost ++ [1] ∧ (1 < 2 ∧ 2 < p.flits.length) ∧ held.ended = false := by decide +kernel
theorem wit_flits : (body .message [1, 2, 3, 4, 5, 6]).words.length ≤ 32 ∧ (packetFlits (body .message [1, 2, 3, 4, 5]))[0]?.isSome = true := by decide +kernel
theorem wit_end : let s := A [9] (dupd held); 9 < s.nextId ∧ (s.packets.get? 9).map (·.headIn) = some true ∧ dupOf s 0 3 1 ≠ none ∧ pkt.lost = []
    ∧ (∀ a ∈ (s.core 0).arrivals ++ (s.core 0).spill, a.lost = none) ∧ held.ended = false ∧ held.headAt = 0 := by decide +kernel
theorem wit_end_lost : ({ pkt with lost := [1] } : NetPkt).flits.length - 1 ∈ ({ pkt with lost := [1] } : NetPkt).lost
    ∧ ({ pkt with lost := [0] } : NetPkt).flits.length - 1 ∉ ({ pkt with lost := [0] } : NetPkt).lost := by decide +kernel
theorem wit_spill_move : ((base.updCore 0 fun k => { k with spill := [arr] }).core 0).spill = [arr] := by decide +kernel
def came : State := { r12 with threads := [] }.updCore 0 fun k => { k with arrivals := [{ arr with ended := some 0 }], dups := [{ held with ended := true }] }
theorem wit_admit : oldestArrival ((came.core 0).arrivals ++ (came.core 0).spill) = some { arr with ended := some 0 }
    ∧ packetDead came arr.body = false ∧ came.halted 0 = false ∧ (admitBody came 0 arr.body).isSome = true := by decide +kernel
theorem wit_accept_ended : { arr with ended := some 0 } ∈ (came.core 0).arrivals ++ (came.core 0).spill ∧ came.cyc = 0
    ∧ (dupOf came 0 3 1).map (·.st) = some .held := by decide +kernel
theorem wit_admit_dead : packetDead { came with groups := [] } arr.body = true := by decide +kernel
theorem wit_admit_halted : let s := came.updLaunch 0 fun l => { l with halted := true }; packetDead s arr.body = false ∧ s.halted 0 = true := by decide +kernel
theorem wit_admit_context : (admitBody came 0 (body .migration ((List.range 12).map fun n => BitVec.ofNat 64 n))).isSome = true
    ∧ ((List.range 12).map fun n => (BitVec.ofNat 64 n : Word)).length = 12 := by decide +kernel
def ret : Retained := ⟨{ body .message [7] with dest := 5, src := 0 }, .sent, 0, 0, 0⟩
/-- A reply with identifier 9 is on its way to the sender of `r`. -/
def sent (r : Retained) : State := { base with packets := [(9, pkt)], nextId := 10 }.updCore 0 fun k => { k with retained := [r] }
theorem wit_replies : let s := A [0, 1, 5, 9] (sent ret); s.packets.has 9 = true ∧ s.packets.has 8 = false ∧ retainedOf s 0 1 5 = some ret ∧ (s.core 0).resetting = false ∧ ret.nBounce < 2
    ∧ 2 ≤ ({ ret with nBounce := 2 } : Retained).nBounce ∧ feThread s 0 1 = none ∧ ret.rstate = .sent ∧ ret.tSend = 0 ∧ ret.nSend < 16 := by decide +kernel
/-- A reply, and an older one of the same core to the same core. -/
def rpl : NetPkt := { pkt with flits := pkt.flits.map fun f => { f with vc := 1 } }
theorem wit_reply_order : olderReply (sent ret) 9 = false ∧ olderReply { sent ret with packets := [(8, rpl), (9, rpl)] } 9 = true := by decide +kernel
theorem wit_reply_held : (((sent ret).updCore 0 fun k => { k with resetting := true }).core 0).resetting = true := by decide +kernel
/-- A copy of the packet on its way, beside the FREE. -/
theorem wit_free_waits : isReply pkt = false ∧ ({ dupd held with packets := [(9, rpl), (10, pkt)] } : State).packets.erase 9 = [(10, pkt)]
    ∧ pkt.headIn = false ∧ (pkt.body.src, pkt.body.seq, pkt.body.dest) = (3, 1, 0) := ⟨by decide +kernel, rfl, rfl, rfl⟩
theorem wit_free : (dupOf (dupd { held with st := .admitted }) 0 3 1).map (·.st) = some .admitted := by decide +kernel
/-- A full-empty request of core 3 for a word of core 0. -/
def feBody (op : FeOp) : PktBody := ⟨.fullEmpty, 0, 3, 1, 0, 0, 0, [7], 0, some (op, 0xFF * 2 ^ 48 + 8, 0xFF000000000008, 0), []⟩
def feAsk (op : FeOp) : State := A [9] ({ base with packets := [(9, ⟨feBody op, packetFlits (feBody op), [], true, true⟩)], nextId := 10 }.updCore 0 fun k => { k with dups := [held] })
theorem wit_remote_fe : ((feAsk .stfe).packets.get? 9).map (·.body) = some (feBody .stfe) ∧ (takeTurn (feAsk .stfe) [(0xFF * 2 ^ 48 + 8, 8)] 0).isSome = true
    ∧ owed (feAsk .stfe) 3 (feBody .stfe).know [(0xFF * 2 ^ 48 + 8, 8)] = false ∧ dupOf (feAsk .stfe) 0 3 1 = some held
    ∧ packetDead (feAsk .stfe) (feBody .stfe) = false ∧ ((feAsk .stfe).core 0).feWait = [] ∧ (feAsk .stfe).errs = []
    ∧ isFull (feAsk .stfe) (0xFF * 2 ^ 48 + 8) = false ∧ tileHolds (feAsk .stfe) (0xFF * 2 ^ 48 + 8) 8 = false := by decide +kernel
theorem wit_fe_parked : let w : FeWaiter := ⟨0xFF * 2 ^ 48 + 8, .ldfe, none, none, none, some (feBody .ldfe), 0⟩
    w ∈ ((base.updCore 0 fun k => { k with feWait := [w] }).core 0).feWait ∧ w.body = some (feBody .ldfe) := by decide +kernel
/-- The requester's side: its thread waits with the request it sent. -/
def reqBody : PktBody := ⟨.fullEmpty, 5, 0, 1, 0, 0, 0, [0], 0, some (.ldfe, 0xFF * 2 ^ 48 + 8, 0xFF000000000008, 0), []⟩
def feInstr : Instr := .ldfe alone (.g 5) ⟨2, .none, .none⟩
def feThr : Thread := { thr with outstanding := some 3, fe := some (feInstr, reqBody, none), feBudget := 1 }
def feWaits : State := (sent { ret with body := reqBody }).setThread 0 feThr
theorem wit_fe_answer : feThread feWaits 0 1 = some (0, feThr, feInstr, reqBody) ∧ feWaits.thread? 0 = some feThr ∧ (feWaits.core 0).resetting = false
    ∧ (takeBanks feWaits 0 (feBanks feThr feInstr)).isSome = true ∧ retainedOf feWaits 0 1 5 = some { ret with body := reqBody } ∧ feThr.feBudget ≠ 0 ∧ ({ feThr with feBudget := 0 } : Thread).feBudget = 0 := by decide +kernel
theorem wit_fe_resend : let s := A [0, 0] (base.setThread 0 feThr); s.thread? (slotKey 0 0) = some feThr ∧ feThr.fe = some (feInstr, reqBody, none)
    ∧ (s.core 0).retained = [] ∧ retentionFree s 0 = true := by decide +kernel

/-! ### Results of events -/

theorem test_gaffer_mask : ((fired .gafferStep [0, 0] (grp { b2 with pfb := [(0, maskRec)] })).group? 0 0).map (fun g => (g.barrier.gpc, g.barrier.nextSeq))
    = some (1, 1) := by decide +kernel
theorem test_gaffer_loop : ((fired .gafferStep [0, 0] (grp { b2 with gpc := 1, pfb := [(1, loopRec)] })).group? 0 0).map (fun g => (g.barrier.gpc, g.barrier.lstk))
    = some (0, [(1, 2)]) := by decide +kernel
theorem test_write_masked : let s := fired .arrivalAtHome [9] { base with reqs := [(9, wreq)], pubs := [(5, ⟨0, [9], .nothing⟩)], mem := [⟨0xFF * 2 ^ 48 + 65, 8⟩] }
    (readNum s (0xFF * 2 ^ 48 + 64) 2, s.reqs.get? 9) = (0x801, none) := by decide +kernel
theorem test_deposit_lands : gOf (fired .depositLanding [1, 0, 9] { base with deposits := [(9, dep)] }) 127 = 9 := by decide +kernel
theorem test_core_gates : ((fired .coreGate [3] { State.reset with cyc := 64, cores := [(3, { CoreSt.reset with power := .active })] }).core 3).power = .gated := by decide +kernel
/-- A packet of a halted launch is accepted at the end of the cycle, and waits. -/
theorem test_packet_end_accepts : ((acceptEnded (fired .packetEndArrival [9] (((dupd held).updCore 0 fun k => { k with arrivals := [arr] }).updLaunch 0 fun l => { l with halted := true })) 0).packets.map fun p => (p.1, p.2.body.dest, p.2.body.src)) = [(10, 3, 0)] := by
  decide +kernel
theorem test_flit_words : (packetFlits (body .message [1, 2, 3, 4, 5, 6])).map (·.nw.toNat) = [6, 0] := by decide +kernel
theorem test_bounce_counts : (retainedOf (fired .replyBounce [0, 1, 5, 9] (sent ret)) 0 1 5).map (·.nBounce) = some 1 := by decide +kernel
theorem test_fe_budget_spent : causeOf (fired .replyRetry [0, 1, 1, 9] (feWaits.setThread 0 { feThr with feBudget := 0 })) = some .record := by decide +kernel

/-! ### Witnesses: engines -/

def jobOf (k : JobKind) (ph : JobPhase) : Job := { job0 with kind := k, phase := ph }
/-- One job in queue 0 of cluster 0, at cycle 8. -/
def eng (j : Job) : State := { cs.setJobQueue 0 0 { JobQueue.reset with issued := 1, jobs := [j] } with cyc := 8 }
theorem wit_matrix_start : let s := A [0] (eng (jobOf (.mma true false 0 1 2) .queued)); (s.cluster 0).engine = none
    ∧ (nextMatrix s 0).map (·.1) = some 0 ∧ nextMatrix cs 0 = none := by decide +kernel
def running (k : JobKind) : State := A [0] ((eng (jobOf k .running)).updCluster 0 fun k => { k with engine := some ⟨0, 1, 0, 8, 4⟩ })
/-- The job's read tiles drain for it. -/
def drains (s : State) : State := updTile (updTile s 0 1 fun t => { t with st := .draining, job := jobId 0 1 }) 0 2 fun t => { t with st := .draining, job := jobId 0 1 }
theorem wit_matrix_end : let s := drains (running (.mma true false 0 1 2))
    runningJob s 0 = some (⟨0, 1, 0, 8, 4⟩, jobOf (.mma true false 0 1 2) .running) ∧ s.errs = [] ∧ (jobTime s 0 (.mma true false 0 1 2)).1 = 4
    ∧ (s.tile 0 (baseHandle s 0 1)).st = .draining ∧ (s.tile 0 (baseHandle s 0 1)).job = jobId 0 1
    ∧ (s.tile 0 1).fmt = 1 ∧ (s.tile 0 2).fmt = 1 ∧ (s.tile 0 1).gv = false ∧ (s.tile 0 2).gv = false ∧ (s.tile 0 1).cols = (s.tile 0 2).cols
    ∧ (s.tile 0 2).rows ≤ 64 ∧ 1 ≤ (s.tile 0 1).cols := by decide +kernel
theorem wit_matrix_end_others : (runningJob (running (.mzero 0 3)) 0).map (·.2.kind) = some (.mzero 0 3)
    ∧ (jobTime cs 0 (.mwr 0 3)).1 = 4 ∧ (cs.tile 0 3).gv = false ∧ (cs.tile 0 3).fmt = 3 ∧ (cs.tile 0 3).cols ≤ 64 := by decide +kernel
/-- A pair of BFP8 rows, and of integer rows. -/
theorem wit_mma_rows : mmaTag 1 1 = some 3 ∧ Tag.isBfp 15 = true ∧ Tag.isBfp 1 = false ∧ (mmaTag 15 15).isSome = true
    ∧ (([1, 2] : List Nat).zip [3, 4]).take (2 * chunkLen 15) ≠ [] ∧ ((([1, 2] : List Nat).zip [3, 4]).take (2 * chunkLen 15)).length ≤ 32 := by decide +kernel
/-- Row 3 of an `mrd` of a0 into tile 6, and the same row while a higher class has a bank of it. -/
def reading : State := { updTile (eng (jobOf (.mrd 0 6 true) .ended)) 0 6 fun t => { t with job := jobId 0 1 } with args := [0, 0, 3, 1] }
theorem wit_mrd_row : findJob reading 0 0 1 = some (jobOf (.mrd 0 6 true) .ended) ∧ stillFills reading 0 0 (jobOf (.mrd 0 6 true) .ended) = true ∧ reading.errs = []
    ∧ (takeEngineRow reading 0 6 3).isSome = true ∧ takeEngineRow (reading.updCore 0 fun k => { k with banks := [(csBank 0x560, 8)] }) 0 6 3 = none
    ∧ (reading.tile 0 6).isBfp = false ∧ (reading.acc 0 0).atag = 3 ∧ Tag.isInt 1 = true ∧ Tag.isFlt 5 = true ∧ Tag.bits 1 < 32 := by decide +kernel
theorem wit_matrix_complete : let j := jobOf (.mma true false 0 1 2) .ended; let s := A [0, 0, 1] (eng j)
    (1 : Nat) < 2 ^ 32 ∧ j.seq.toNat = 1 ∧ (s.jobQueue 0 0).jobs = [j] ∧ j.canc = false ∧ stillFills s 0 0 j = false := by decide +kernel
/-- Its job ended behind one that still runs. -/
theorem wit_matrix_behind : let j := jobOf (.mma true false 0 1 2) .ended
    let s := A [0, 0, 1] (cs.setJobQueue 0 0 { JobQueue.reset with issued := 2, jobs := [{ job0 with seq := 0 }, j] })
    findJob s 0 0 1 = some j ∧ (s.jobQueue 0 0).jobs.head? ≠ some j ∧ job0.phase ≠ .complete := by decide +kernel
theorem wit_matrix_fills : let j := jobOf (.mrd 0 6 false) .ended
    stillFills (updTile (A [0, 0, 1] (eng j)) 0 6 fun t => { t with job := jobId 0 1 }) 0 0 j = true := by decide +kernel
/-- Four rows of 8 bytes from offset 0 of s2, the own core store. -/
def cdesc : CopyDesc := { descOf (2 * 2 ^ 48) (32 + 4 * 2 ^ 32 + 8 * 2 ^ 48) 0 0 with seg := 2 }
def cpyJob (out : Bool) (ph : JobPhase) : Job := jobOf (.cpy 6 out cdesc sthr.segs[2]) ph
def copying (out : Bool) (ph : JobPhase) : State := { updTile cs 0 6 (fun t => { t with st := if out then .draining else .filling, arrived := 0, job := jobId 4 1 }) with
  cyc := 8 } |>.setJobQueue 0 4 { JobQueue.reset with issued := 1, jobs := [cpyJob out ph] }
theorem wit_copy_start : startable (copying false .queued) 0 4 = some (cpyJob false .queued) ∧ startable (copying true .queued) 0 4 = some (cpyJob true .queued)
    ∧ startable cs 0 4 = none := by decide +kernel
theorem wit_row_lands : let s := A [0, 4, 3, 1] (updTile (copying false .running) 0 6 fun t => { t with arrived := 24 }); let t := s.tile 0 6; let j := cpyJob false .running
    findJob s 0 4 1 = some j ∧ j.canc = false ∧ stillFills s 0 4 j = true ∧ t.isBfp = false ∧ Tag.bits t.fmt % 8 = 0 ∧ (3 : Nat) < t.rows ∧ s.errs = []
    ∧ turned (takeRow s 0 6 3 0 ((copyStream 4 j cdesc sthr.segs[2]).banked t 3)) = true ∧ (copyStream 4 j cdesc sthr.segs[2]).missing s 0 false t 3 = [] ∧ rowHeld s 0 6 3 = false ∧ t.arrived + t.cols * 1 = t.expected
    ∧ findByte s 0 j.core j.ctag sthr.segs[2] false j.declined (cdesc.o0 + 3 * cdesc.stride) = .at_ 0xFF000000000060 := by decide +kernel
theorem wit_row_waits : turned (takeRow ((copying false .running).updCore 0 fun k => { k with banks := [(csBank 0x560, 8)] }) 0 6 3 0 []) = false := by decide +kernel
theorem wit_last_read : let s := A [0, 4, 1] (copying true .running); let j := cpyJob true .running
    findJob s 0 4 1 = some j ∧ j.phase = .running ∧ (s.tile 0 6).gv = false ∧ (s.tile 0 6).st = .draining ∧ (s.tile 0 6).job = jobId 4 j.seq ∧ s.errs = []
    ∧ drainMissing s 0 6 (copyStream 4 j cdesc sthr.segs[2]) = []
    ∧ findByte s 0 j.core j.ctag sthr.segs[2] true j.declined (cdesc.o0 + 8) = .at_ 0xFF000000000008 := by decide +kernel
theorem wit_last_read_turns : PlainTile ((copying true .running).tile 0 6) ∧ turned (takeRows (copying true .running) 0 6 0) = true
    ∧ turned (takeRows ((copying true .running).updCore 0 fun k => { k with banks := [(csBank 0x560, 8)] }) 0 6 0) = false := by
  refine ⟨by constructor <;> decide +kernel, by decide +kernel, by decide +kernel⟩
theorem wit_copy_complete : ((copying true .ended).jobQueue 0 4).jobs = [cpyJob true .ended] ∧ (cpyJob true .ended).phase = .ended
    ∧ (cpyJob true .ended).pendingWrites = 0 := by decide +kernel
def fencing : State := A [1, 2] ({ (cs.setJobQueue 0 0 { JobQueue.reset with issued := 1, jobs := [job0] }) with fences := [(2, ⟨0, [(0, 1)]⟩)] })
theorem wit_fence : fencing.fences.get? 2 = some ⟨0, [(0, 1)]⟩ ∧ (fencing.jobQueue 0 0).jobs = [job0] ∧ job0.seq = 1
    ∧ ((([(0, 1)] : List (Nat × BitVec 32)).map (·.1)).Nodup) := by decide +kernel
def subscribed (st : TileState) (x : Sub) : State := (updTile cs 0 6 fun t => { t with st := st, sub := some 0 }).updCluster 0 fun k => { k with subs := [(0, x)] }
def sub0 : Sub := ⟨6, 1, true, 2, 0, 0, cdesc, sthr.segs[2], [0], 0, 0, 0, 0, 0, 0, [(0, 0)], [], []⟩
theorem wit_subscription : let s := A [0, 0, 0] (subscribed .empty sub0); (s.cluster 0).subs.get? 0 = some sub0 ∧ (s.tile 0 6).st = .empty
    ∧ (s.tile 0 6).sub = some 0 ∧ sub0.next.getD 0 0 < sub0.t ∧ s.halted sub0.launch = false ∧ sub0.writes.get? 0 = some 0 ∧ 0 < sub0.next.length := by decide +kernel
/-- A storer whose slot drains its window 0. -/
def storing : State := subscribed .draining sub0
theorem wit_storer_read : (storing.tile 0 6).sub = some 0 ∧ (storing.cluster 0).subs.get? 0 = some sub0 ∧ sub0.storer = true ∧ sub0.next.getD (6 - sub0.h0) 0 = 0
    ∧ (storing.tile 0 6).st = .draining ∧ ({ sub0 with writes := [] } : Sub).writes.get? 0 = none ∧ storing.errs = [] ∧ PlainTile (storing.tile 0 6) ∧ turned (takeRows storing 0 6 0) = true
    ∧ drainMissing storing 0 6 (subStream 0 0 sub0 0) = [] := by unfold PlainTile; decide +kernel

/-! ### Witnesses: paging -/

/-- A present page of 128 KiB at number 1, in HBM frame 2, readable and writable; the partition owns HBM frames 0 to 7. -/
def page1 : PageEntry := ⟨true, true, true, false, 0, 0, false, 0, 0, 1, 2, 0⟩
def paged : State := { m12 with partitions := [(0, { part0 with frames := [(0, 0, 8 * 2 ^ 17 - 1)] })] }
def heldM (m : Bool) : State := writeBytes paged (0xFE * 2 ^ 48 + 256 * 185) (toBytes 32 (numOfPage { page1 with mg := m }))
def held1 : State := heldM false
theorem wit_walk_hits : probe held1 0 (1 * 2 ^ 17) 0 = some page1 := by decide +kernel
def waiter : Thread := { sthr with st := .blocked, cause := some .translation, parkedOn := some 0x20000 }
def miss (n : Nat) : Miss := ⟨0, 1, n, [.thread 0]⟩
def walking (n : Nat) (s : State) : State := A [0, 5] ({ s.setThread 0 waiter with threads := [(0, waiter)] }.updCluster 0 fun k => { k with misses := [(5, miss n)] })
theorem wit_walk : ((walking 0 held1).cluster 0).misses.get? 5 = some (miss 0) ∧ probe (walking 0 held1) 0 (1 * 2 ^ 17) 0 = some page1
    ∧ probe (walking 0 paged) 0 (1 * 2 ^ 17) 0 = none ∧ ((walking 2 paged).cluster 0).misses.get? 5 = some (miss 2)
    ∧ probe (walking 2 paged) 0 (1 * 2 ^ 17) 2 = none ∧ (walking 2 paged).thread? 0 = some waiter ∧ waitsForPage waiter 0 1 = true
    ∧ (paged.cluster 0).misses.get? 5 = none := by decide +kernel
def parked : Thread := { sthr with st := .parked, parkedOn := some 0x20000, parkPlace := .frame }
def faulted (a : List Nat) : State := A a { paged with threads := [(0, parked)], futures := [⟨0, 1, [0]⟩] }
theorem wit_pager : (faulted [0, 1]).futures.find? (fun f => f.ctag == 0 && f.page == 1) = some ⟨0, 1, [0]⟩
    ∧ (∀ key ∈ [0], ((faulted [0, 1]).slot key).lent = none ∧ savedParked (faulted [0, 1]) 0 1 key = false) ∧ (faulted [0, 1]).thread? 0 = some parked ∧ parkedAt parked 0 1 = true
    ∧ parked.parkedOn = some 0x20000 ∧ ([0, 1, 1] : List Nat) = [(0 : BitVec 16).toNat, 1, 1] := by decide +kernel
theorem wit_pager_lent : let s := A [0, 1] { paged with slots := [(0, { SlotSt.reset with lent := some parked })], futures := [⟨0, 1, [0]⟩] }
    s.futures.find? (fun f => f.ctag == 0 && f.page == 1) = some ⟨0, 1, [0]⟩ ∧ (s.slot 0).lent = some parked ∧ s.thread? 0 = some sthr ∧ movable s sthr = true
    ∧ movable s { sthr with outstanding := some 1 } = false := by decide +kernel
/-- A halted context in the save area holds the waiter. -/
theorem wit_pager_saved : savedParked { m12 with halts := [(0, ⟨0, none, some 0, none, [], [0],
    [⟨0, .reset, [], [(0, parked)], [], [], [], [], [], [], []⟩], none⟩)] } 0 1 0 = true := by decide +kernel
theorem wit_decline_copy : let s := A [0, 1, 0] (paged.setJobQueue 0 4 { JobQueue.reset with jobs := [{ job0 with waits := [1] }] })
    (∀ g ∈ s.futures, ¬ (g.ctag = 0 ∧ g.page = 1)) ∧ { job0 with waits := [1] } ∈ (s.jobQueue 0 4).jobs := by decide +kernel
theorem wit_entry_frames : (page1.v && !frameOk m12 page1) = true ∧ frameOk held1 page1 = true := by decide +kernel
/-- A change that waits: a write to the old frame is on its way. -/
theorem wit_entry_waits : let s := A [2 ^ 64 + 0x40000, 2 ^ 17] { heldM false with reqs := [(9, { wreq with kind := .write (2 ^ 64 + 0x40008) [some 1] none none })] }
    s.args = [2 ^ 64 + 0x40000, 2 ^ 17] ∧ rangeBusy s (2 ^ 64 + 0x40000) (2 ^ 17) = true ∧ rangeBusy held1 (2 ^ 64 + 0x40000) (2 ^ 17) = false
    ∧ ([0] : List Nat).length ≠ 2 ∧ page1.tier.toNat < 2 ∧ pageLoc 0 page1 (1 * 2 ^ 17) = some (2 ^ 64 + 0x40000) := by decide +kernel
theorem wit_entry_refused : (3 : BitVec 2).toNat ≥ 3 ∧ (1 : BitVec 39).toNat % pageUnits { page1 with size := 1 } ≠ 0 := by decide
theorem entries_of {s : State} {tag : BitVec 16} {c : Context} {p : Partition} (hc : s.contexts.get? tag.toNat = some c) (hp : s.partOf tag = some p)
    {e : PageEntry} {cl b i : Nat} (h1 : cl ∈ p.clusters) (h2 : b < 256) (h3 : i < 8) (he : e.v = true) (ht : e.ctag = tag)
    (h : pageOfNum (readNum s (vaultLoc cl (c.ptRoot.toNat % 2 ^ 22 + 256 * b) + 32 * i) 32) = e) : e ∈ allEntries s tag := by
  simp only [allEntries, hc, hp, List.mem_filter, List.mem_flatMap, List.mem_range]
  exact ⟨⟨cl, h1, b, h2, by simpa [bucketEntries] using ⟨i, h3, h⟩⟩, by simp [he, ht]⟩
theorem entry_read {s : State} {tag : BitVec 16} {c : Context} {p : Partition} (hc : s.contexts.get? tag.toNat = some c) (hp : s.partOf tag = some p)
    {e : PageEntry} (h : e ∈ allEntries s tag) : e.v = true ∧ ∃ cl ∈ p.clusters, ∃ b, b < 256 ∧ ∃ i, i < 8
      ∧ pageOfNum (readNum s (vaultLoc cl (c.ptRoot.toNat % 2 ^ 22 + 256 * b) + 32 * i) 32) = e := by
  simp only [allEntries, hc, hp, List.mem_filter, List.mem_flatMap, List.mem_range, bucketEntries, List.mem_map] at h
  obtain ⟨⟨cl, hcl, b, hb, x, ⟨i, hi, rfl⟩, rfl⟩, hv⟩ := h
  simp only [Bool.and_eq_true] at hv
  exact ⟨hv.1, cl, hcl, b, hb, i, hi, rfl⟩
theorem read_zero {s : State} {a : Nat} (h : ∀ i, i < 32 → readByte s (a + i) = 0) : (pageOfNum (readNum s a 32)).v = false := by
  have : readBytes s a 32 = List.replicate 32 0 := List.ext_getElem (by simp [readBytes]) fun i h1 _ => by
    simp only [readBytes, List.length_map, List.length_range] at h1
    simp only [readBytes, List.getElem_map, List.getElem_range, List.getElem_replicate, h i h1]
  rw [readNum, this]
  decide
/-- It holds one page entry, in bucket 185. -/
theorem held_entries {m : Bool} {e : PageEntry} (h : e ∈ allEntries (heldM m) 0) : e = { page1 with mg := m } := by
  obtain ⟨hv, cl, hcl, b, hb, i, hi, he⟩ := entry_read (c := ctx0) (p := { part0 with frames := [(0, 0, 8 * 2 ^ 17 - 1)] }) rfl rfl h
  obtain rfl : cl = 0 := by simpa [part0] using hcl
  by_cases hbi : b = 185 ∧ i = 0
  · obtain ⟨rfl, rfl⟩ := hbi
    rw [← he]; cases m <;> decide +kernel
  · rw [← he, read_zero] at hv
    · cases hv
    · intro k hk
      rw [heldM, readByte_writeBytes, if_neg]
      · rfl
      · simp [vaultLoc, ctx0, toBytes]
        omega
theorem paged_entries : allEntries paged 0 = [] := List.eq_nil_iff_forall_not_mem.2 fun e h => by
  obtain ⟨hv, cl, -, b, -, i, -, rfl⟩ := entry_read (c := ctx0) (p := { part0 with frames := [(0, 0, 8 * 2 ^ 17 - 1)] }) (by decide +kernel) (by decide +kernel) h
  rw [read_zero fun k _ => rfl] at hv
  cases hv
theorem held_fits {m : Bool} {e : PageEntry} (ht : e.ctag = 0) (h : samePage { page1 with mg := m } e = true) :
    (allEntries (heldM m) e.ctag).any (fun f => pagesOverlap f e && !samePage f e) = false := by
  rw [List.any_eq_false, ht]
  intro f hf
  simp [held_entries hf, h]
theorem wit_entry_overlaps : let e := { page1 with size := 1, vpn := 0, frame := 0 }; e.v = true ∧ page1 ∈ allEntries held1 e.ctag
    ∧ pagesOverlap page1 e = true ∧ samePage page1 e = false := by
  refine ⟨rfl, ?_, by decide +kernel⟩
  apply entries_of (c := ctx0) (p := { part0 with frames := [(0, 0, 8 * 2 ^ 17 - 1)] }) (cl := 0) (b := 185) (i := 0)
  all_goals decide +kernel
theorem wit_entry : entryAllowed paged page1 = true ∧ (entryPlace paged page1).isSome = true ∧ (paged.core 0).buffer = [] := by
  refine ⟨?_, by decide +kernel, by decide +kernel⟩
  unfold entryAllowed entryFits
  rw [show page1.ctag = 0 from rfl, paged_entries]
  decide +kernel
theorem wit_migrate_absent : walk paged 0 (1 * 2 ^ 17) = none := by decide +kernel
theorem wit_page_migrate : walk held1 0 (1 * 2 ^ 17) = some page1 ∧ page1.tier.toNat < 2 ∧ (1 : BitVec 2).toNat < 2 ∧ page1.mg = false := by decide +kernel
theorem wit_migrate_first : entryAllowed held1 { page1 with mg := true } = true ∧ (entryPlace held1 { page1 with mg := true }).isSome = true := by
  refine ⟨?_, by decide +kernel⟩
  unfold entryAllowed entryFits held1
  rw [held_fits rfl (by decide)]
  decide +kernel
def page2 : PageEntry := { page1 with frame := 4 }
theorem wit_migrate_last : let s := heldM true; walk s 0 (1 * 2 ^ 17) = some { page1 with mg := true } ∧ rangeBusy s (pageRange s { page1 with mg := true }).1 (pageRange s { page1 with mg := true }).2 = false
    ∧ pageLoc 0 { page1 with mg := true } (1 * 2 ^ 17) = some (2 ^ 64 + 0x40000) ∧ pageLoc 0 page2 (1 * 2 ^ 17) = some (2 ^ 64 + 0x80000)
    ∧ ∃ s1, changeEntry s page2 = some s1 ∧ Memory.wf s1.mem := by
  refine ⟨by decide +kernel, by decide +kernel, by decide +kernel, by decide +kernel, ?_⟩
  have ha : entryAllowed (heldM true) page2 = true := by
    unfold entryAllowed entryFits
    rw [held_fits rfl (by decide)]
    decide +kernel
  simp only [changeEntry, ha]
  exact ⟨_, rfl, by decide +kernel⟩
theorem wit_migrate_busy : pageRange (heldM true) { page1 with mg := true } = (2 ^ 64 + 0x40000, 2 ^ 17) := by decide +kernel

/-! ### Witnesses: root monitor -/

theorem wit_descriptor : let g : Segment := ⟨64, 64, true, true, false, false, 0, .core, 0⟩; m12.contexts.get? 0 = some ctx0 ∧ descriptorBad m12 0 g = false ∧ 3 < ctx0.sdtSize
    ∧ (3 : Nat) < 2 ^ 12 ∧ 131072 < (131072 - 56 : BitVec 56).toNat + (64 : BitVec 48).toNat ∧ ctx0.sdtSize ≤ 9
    ∧ meetsSystem (0xFE * 2 ^ 48 + 0x26FFF8) 16 = true ∧ meetsSystem (0xFE * 2 ^ 48 + 0x26FFF8) 8 = false ∧ m12.contexts.get? 1 = none := by decide +kernel
/-- Tag 5 belongs to partition 0, as tag 0 does; only tag 0 has a thread. -/
def tagged (l : List ResTag) : State := { m12 with contexts := [(0, ctx0), (5, ctx0), (6, ctx0)], partitions := [(0, { part0 with tags := [0, 5, 6] })] }.updCore 0 fun k => { k with tags := l }
/-- The context's page-table shard stands at offset 0 of the vault of cluster 0. -/
theorem wit_descriptor_shard : meetsShard m12 0 0 8 = true ∧ meetsShards m12 0 (0xFE * 2 ^ 48 + 65528) 8 = true
    ∧ meetsShards m12 0 (0xFE * 2 ^ 48 + 65536) 8 = false := by decide +kernel
theorem wit_reside : let s := tagged [⟨0, 0, 0, 0, 0⟩, ⟨5, 0, 0, 0, 0⟩]; s.partitions.find? (fun p => p.2.clusters.contains (clusterOf 0)) = some (0, { part0 with tags := [0, 5, 6] })
    ∧ s.pidOf 6 = some 0 ∧ (∃ r ∈ (s.core 0).tags, r.ctag = 5) ∧ (∀ r ∈ (s.core 0).tags, r.ctag ≠ 6) ∧ (s.core 0).tags.length < 16
    ∧ (∀ t ∈ threadsOn s 0, t.2.ctag ≠ 5) ∧ (∃ t ∈ threadsOn s 0, t.2.ctag = 0) := by decide +kernel
theorem wit_reside_full : 16 ≤ ((tagged ((List.range 16).map fun n => ⟨BitVec.ofNat 16 (n + 10), 0, 0, 0, 0⟩)).core 0).tags.length := by decide +kernel
theorem wit_window_register : m12.contexts.get? 0 = some ctx0 ∧ ctx0.windows.has 3 = false ∧ (3 : Nat) < 64 ∧ gridLegal ⟨false, Config.moduleId, 0xFF000000000000, 0x1000, 1, 1, 0⟩ = true
    ∧ gridLegal ⟨false, 0, 0, 0x1000, 2, 0, 0⟩ = false ∧ ({ ctx0 with windows := [(3, ⟨false, 0, 0, 0, 0, 0, 0⟩)] } : Context).windows.has 3 = true := by
  refine ⟨rfl, rfl, by decide, ?_, by decide, rfl⟩
  unfold gridLegal
  decide +kernel
/-- A window on another module, whose first page is to stand at page 1. -/
def peerWin : WindowEntry := ⟨false, Config.moduleId + 1, 0xFF000000000000, 0x40000, 1, 1, 0⟩
theorem peer_module : peerWin.module ≠ Config.moduleId := fun h => by
  have := congrArg BitVec.toNat h
  simp only [peerWin, BitVec.toNat_add] at this
  have := Config.moduleId.isLt
  simp at *
  omega
theorem wit_peers : peerWin.module ≠ Config.moduleId ∧ entryPlace paged (peerEntry 0 peerWin 0 1) = some (0xFE * 2 ^ 48 + 256 * 185)
    ∧ ∃ s1, writePeers paged 0 peerWin [1] = some s1 := by
  refine ⟨peer_module, by decide +kernel, ?_⟩
  have hf : entryFits paged (peerEntry 0 peerWin 0 1) = true := by
    unfold entryFits
    rw [show (peerEntry 0 peerWin 0 1).ctag = 0 from rfl, paged_entries]
    decide +kernel
  have hp : entryPlace paged (peerEntry 0 peerWin 0 1) = some (0xFE * 2 ^ 48 + 256 * 185) := by decide +kernel
  simp [writePeers, peer_module, hf, writePage, hp, show 0 < peerWin.wsize.toNat from by decide]
/-- Cluster 4 is free and no partition's; cluster 0 has a thread. -/
theorem wit_assign : let s := A [4, 0] m12; (s.cluster 4).larder = none ∧ (∀ t ∈ s.threads, clusterOf (coreOf t.1) ≠ 4) ∧ s.slots = []
    ∧ s.partitions.get? 0 = some part0 ∧ (∀ q ∈ s.partitions, 4 ∉ q.2.clusters) ∧ (4 : Nat) < 2048 ∧ (∃ t ∈ s.threads, clusterOf (coreOf t.1) = 0) := by decide +kernel
/-- An entry for partition 1, whose one cluster is 4, with tag 9 and queue 5. -/
def entry1 : PartEntry := ⟨.rect 0 0 4 1 1, [⟨9, 0, 64, 0xFE000001000000, 0⟩], [5], [(0, 2 ^ 30, 2 ^ 30 + 2 ^ 20 - 1)], 1, false, 0⟩
theorem wit_assign_entry : entryDenied m12 1 entry1 = none ∧ shapeHas 4 entry1.shape = true ∧ shapeHas 5 entry1.shape = false
    ∧ shapeHas 0 part0.shape = true ∧ shapeHas 4 part0.shape = false ∧ m12.partitions.get? 1 = none := by decide +kernel
theorem wit_assign_asked : let s := A [4, 1] { m12 with asked := [(1, entry1)] }; s.args = 4 :: (some 1 : Option Nat).toList
    ∧ (some 1 : Option Nat).bind s.asked.get? = some entry1 ∧ entryDenied s 1 entry1 = none := by decide +kernel
theorem test_assign_writes_entry : ((fired .partitionAssign [4, 1] { m12 with asked := [(1, entry1)] }).partitions.get? 1).map (fun p => (p.clusters, p.tags, p.jobs))
    = some ([4], [9], [5]) := by decide +kernel
theorem wit_assign_denied : shapeLegal (.rect 0 9 0 8 1) = false ∧ shapeHas 0 (.rect 0 0 0 1 1) = true ∧ (0xFE000001000008 : BitVec 56).toNat % 65536 ≠ 0
    ∧ (64 : Nat) ≤ 64 ∧ (1024 : Nat) ≤ 1024 := by decide +kernel
theorem wit_unassign : let s := A [0] { m12 with threads := [] }; (s.cluster 0).larder = none ∧ s.threads = [] ∧ s.slots = [] ∧ s.partitions.get? 0 = some part0 := by decide +kernel
/-- A write to page 2 of the host for function 0 of partition 0. -/
theorem wit_ats : let s := A [0, 2 * 4096] { m12 with reqs := [(9, { wreq with kind := .write (3 * 2 ^ 64 + 2 * 4096 + 8) [some 1] none none })] }
    homeOf (3 * 2 ^ 64 + 2 * 4096 + 8) = .host 0 (2 * 4096 + 8) ∧ s.partitions.get? 0 = some part0 ∧ part0.vfn = 0
    ∧ (s.reqs.get? 9).map (·.performed) = some false ∧ (A [0, 4096] m12).reqs = [] := by decide +kernel
theorem wit_bar2_page : let s := heldM true; isWindow 0x20000 = false ∧ walk s 0 0x20000 = some { page1 with mg := true } ∧ s.pidOf 0 = some 0 ∧ page1.w = true
    ∧ page1.tier.toNat < 2 ∧ (s.partOf 0).map (·.frames) = some [(0, 0, 8 * 2 ^ 17 - 1)] ∧ page1.frame.toNat * 2 ^ 17 ≤ 8 * 2 ^ 17 - 1
    ∧ pageLoc 0 { page1 with mg := true } 0x20000 = some (2 ^ 64 + 0x40000) := by decide +kernel

/-! ### Results of engine and paging events -/

/-- Bytes at the start of tiles 1 and 2. -/
def loaded : State := wrote 0 3 0x030201 (wrote 0x100 3 0x01FF02 (drains (running (.mma true false 0 1 2))))
theorem test_mma_accumulates : ((fired .matrixJobEnd [0] (loaded.setAcc 0 0 { Acc.reset with atag := 3, data := [(0, 100)] })).acc 0 0).data.getD 0 0 = 103 := by decide +kernel
theorem test_matrix_starts : ((fired .matrixJobStart [0] (eng (jobOf (.mma true false 0 1 2) .queued))).cluster 0).engine = some ⟨0, 1, 4, 8, 4⟩ := by decide +kernel
theorem test_walk_ends : ((fired .walkProbe [0, 5] (walking 0 held1)).cluster 0).tcache = [page1] := by decide +kernel
theorem test_walk_faults : stateOf (fired .walkProbe [0, 5] (walking 2 paged)) = some .parked := by decide +kernel
theorem test_row_lands : readNum (fired .bytesLand [0, 4, 3, 1] (wrote 96 2 0x0201 (copying false .running))) (0xFF * 2 ^ 48 + 0x560) 2 = 0x0201 := by decide +kernel

/-! ### Witnesses: hub -/

/-- 256 bytes from fields: byte offset and value. -/
def bytes256 (fs : List (Nat × Nat)) : List Byte := toBytes 256 (fs.map fun f => f.2 * 2 ^ (8 * f.1)).sum
def hubDa (o : Nat) : Nat := 0xFF * 2 ^ 48 + o
/-- A launch of one group, with its header at 0x1000, its trap ring at 0x2000 and its record at 0x3000 of a core store. -/
def launchPkt : List Byte := bytes256 ([(0, hubDa 0x1000), (8, 1), (12, 1), (16, 1), (20, 1), (21, 16), (22, 4), (24, 0xFFFF), (80, hubDa 0x2000), (88, 4),
  (128, hubDa 0x3000), (254, 1), (255, 0xA5)] ++ (List.range 8).map fun k => (48 + 2 * k, 0xFFFF))
def headerB : List Byte := toBytes 64 (1 + 8 * 2 ^ 16 + 3 * 2 ^ 64 + 1 * 2 ^ 160 + 2 * 2 ^ 192)
def hubPart : Partition := { part0 with tags := [0], jobs := [0], priv := true }
def hubCtx : Context := { ctx0 with descs := [(2, ⟨0xFF000000000800, 12, false, false, true, false, 1, .code, 2⟩)] }
def hq1 : HQueue := { HQueue.reset with en := true, qbase := 0xFF000000000400, qkick := 1 }
/-- Queue 0, in the partition of tag 0, holds one packet. -/
def hubOn (cls : List Nat) (pkt : List Byte) : State :=
  let m := memPutAll (memPutAll [] (hubDa 0x400) pkt) (hubDa 0x1000) headerB
  { m12 with mem := m, contexts := [(0, hubCtx)], hqueues := [(0, hq1)], args := [0], partitions := [(0, { hubPart with clusters := cls })] }
abbrev hub : List Byte → State := hubOn [0]
theorem hub_tag (cls : List Nat) (pkt : List Byte) : queueTag (hubOn cls pkt) 0 = some 0 := by
  simp [queueTag, show queuePart (hubOn cls pkt) 0 = some (0, { hubPart with clusters := cls }) from rfl, hubPart, part0, Nat.mod_one]
theorem hub_reads {cls : List Nat} {pkt : List Byte} (h : daBytes (hubOn cls pkt) 0 (hubDa 0x400) 256 = some pkt ∧ pkt.getD 255 0 = 0xA5) :
    readable (hubOn cls pkt) 0 = some (0, pkt) := by
  unfold readable slotBytes
  rw [hub_tag]
  simp [aheadOf, show (hubOn cls pkt).hq 0 = hq1 from rfl, show hubStarts (hubOn cls pkt) = true from rfl, hq1, HQueue.reset, HQueue.log, lapParity]
  have h1 : daBytes (hubOn cls pkt) (0#16) 71776119061218304 256 = some pkt := h.1
  have h2 : pkt[255]?.getD 0#8 = 165#8 := by simpa using h.2
  simp [h1, h2]
theorem wit_readable : readable (hub launchPkt) 0 = some (0, launchPkt) ∧ queuePart (hub launchPkt) 0 = some (0, hubPart) ∧ queueTag (hub launchPkt) 0 = some 0 :=
  ⟨hub_reads (by decide +kernel), rfl, hub_tag _ _⟩

/-- Result of a check, as a launch. -/
def checkedLaunch : Checked → Option Launch
  | .launch x => some x
  | .absent _ => none
theorem checked_is {c : Checked} {y : Launch} (h : checkedLaunch c = some y) : c = .launch y := by cases c <;> simp_all [checkedLaunch]
def inSlot (pkt : List Byte) : Launch := launchOfBytes (hub pkt) 0 0 0 0 none false pkt
theorem wit_launch : ∃ y, checkLaunch (hub launchPkt) (inSlot launchPkt) hubPart (some 0) launchPkt = .launch y ∧ y.refusal = 0
    ∧ y.order = [0] ∧ (inSlot launchPkt).refusal = 0 := by
  have h : ((checkedLaunch (checkLaunch (hub launchPkt) (inSlot launchPkt) hubPart (some 0) launchPkt)).map fun y => (y.refusal, y.order)) = some (0, [0]) := by decide +kernel
  obtain ⟨y, hy, e⟩ := Option.map_eq_some_iff.1 h
  simp only [Prod.mk.injEq] at e
  exact ⟨y, checked_is hy, e.1, e.2, rfl⟩
theorem wit_launch_index : (launchPkt.getD 252 0).toNat ≠ 1 % 256 := by decide +kernel
/-- The header on an absent page: the partition has no page table yet. -/
def absentPkt : List Byte := bytes256 ([(0, 0x40000), (8, 1), (12, 1), (16, 1), (20, 1), (21, 16), (22, 4), (24, 0xFFFF), (80, hubDa 0x2000), (88, 4),
  (128, hubDa 0x3000), (254, 1), (255, 0xA5)] ++ (List.range 8).map fun k => (48 + 2 * k, 0xFFFF))
def absentLaunch : Launch := launchOfBytes (hubOn [] absentPkt) 0 0 0 0 none false absentPkt
theorem wit_launch_absent : readable (hubOn [] absentPkt) 0 = some (0, absentPkt) ∧ checkLaunch (hubOn [] absentPkt) absentLaunch { hubPart with clusters := [] } (some 0) absentPkt = .absent [2] := by
  refine ⟨hub_reads (by decide +kernel), ?_⟩
  have h : checkedLaunch (checkLaunch (hubOn [] absentPkt) absentLaunch { hubPart with clusters := [] } (some 0) absentPkt) = none
      ∧ (match checkLaunch (hubOn [] absentPkt) absentLaunch { hubPart with clusters := [] } (some 0) absentPkt with
        | .absent l => l
        | .launch _ => []) = [2] := by decide +kernel
  revert h
  generalize checkLaunch (hubOn [] absentPkt) absentLaunch { hubPart with clusters := [] } (some 0) absentPkt = c
  cases c <;> simp [checkedLaunch]
/-- A graph of two launches, at 0x4000, with an edge from the first to the second, at 0x5000. -/
def graphPkt : List Byte := bytes256 [(0, hubDa 0x4000), (8, 2), (12, 1), (16, hubDa 0x5000), (254, 2), (255, 0xA5)]
def hubG : State := { hub graphPkt with mem := memPutAll (memPutAll (memPutAll (hub graphPkt).mem (hubDa 0x4000) launchPkt) (hubDa 0x4100) launchPkt) (hubDa 0x5000) (toBytes 4 0x10000) }
theorem wit_graph : readable (hub graphPkt) 0 = some (0, graphPkt) ∧ addressPacketBad graphPkt 0 24 = false ∧ fieldAt graphPkt 8 4 = 2
    ∧ fieldAt graphPkt 16 8 % 8 = 0 ∧ scopeCode graphPkt = 0 ∧ daBytes hubG 0 (fieldAt graphPkt 0 8) 512 = some (launchPkt ++ launchPkt)
    ∧ daBytes hubG 0 (fieldAt graphPkt 16 8) 4 = some (toBytes 4 0x10000) ∧ peel 2 [(0, 1)] (List.range 2) = []
    ∧ (checkMembers hubG 0 0 0 0 hubPart false 1 (launchPkt ++ launchPkt) (List.range 2)).2 = []
    ∧ (∀ e ∈ hubG.launches, e.1 ≤ hubG.launches.length) ∧ peel 2 [(0, 1), (1, 0)] (List.range 2) ≠ [] :=
  ⟨hub_reads (by decide +kernel), by decide +kernel⟩
def wordPkt (type v : Nat) : List Byte := bytes256 [(0, hubDa 0x6000), (8, v), (254, type), (255, 0xA5)]
theorem wit_word_packets : readable (hub (wordPkt 3 5)) 0 = some (0, wordPkt 3 5) ∧ addressPacketBad (wordPkt 3 5) 0 16 = false ∧ scopeCode (wordPkt 3 5) = 0
    ∧ daBytes (hub (wordPkt 3 5)) 0 (hubDa 0x6000) 8 = some (toBytes 8 0) ∧ fieldAt (wordPkt 3 5) 8 8 = 5
    ∧ addressPacketBad (wordPkt 3 5) 1 16 = true :=
  ⟨hub_reads (by decide +kernel), by decide +kernel⟩
def cancelPkt : List Byte := bytes256 [(254, 5), (255, 0xA5)]
theorem wit_packet_signal : readable (hub (wordPkt 4 5)) 0 = some (0, wordPkt 4 5) ∧ addressPacketBad (wordPkt 4 5) 0 16 = false ∧ scopeCode (wordPkt 4 5) = 0 :=
  ⟨hub_reads (by decide +kernel), by decide +kernel, by decide +kernel⟩
theorem wit_cancel : readable (hub cancelPkt) 0 = some (0, cancelPkt) ∧ trailerCode cancelPkt (some 0) = 0 ∧ zerosAt cancelPkt [(16, 236)] = true ∧ fieldAt cancelPkt 8 8 = 0
    ∧ scopeCode cancelPkt = 0 ∧ (((hub cancelPkt).launch? 0).map fun x => (x.pid, decide (x.st ≠ .complete))) = some (0, true) ∧ (hub cancelPkt).halts = []
    ∧ ((hub cancelPkt).group? 0 0).map (·.st) = some .running ∧ SMap.sorted (hub cancelPkt).groups = true :=
  ⟨hub_reads (by decide +kernel), by decide +kernel⟩
def started (p : PktState) : State := { hub cancelPkt with hqueues := [(0, { hq1 with started := [(0, p)] })] }
theorem wit_poll : ((started (.wait 0xFF000000006000 5)).hq 0).started.get? 0 = some (.wait 0xFF000000006000 5) ∧ queueTag (hub cancelPkt) 0 = some 0 :=
  ⟨rfl, hub_tag _ _⟩
/-- Packet 0 was cancelled before it was read; the queue's slots lie at `base`. -/
def unread (pkt : List Byte) (base : BitVec 56) : State := { hub pkt with hqueues := [(0, { hq1 with qbase := base, started := [(0, .cancelled)] })] }
theorem unread_slot (pkt : List Byte) (base : BitVec 56) : queueTag (unread pkt base) 0 = some 0
    ∧ slotBytes (unread pkt base) 0 0 = daBytes (unread pkt base) 0 base.toNat 256 := by
  have h : queueTag (unread pkt base) 0 = some 0 := by
    simp [queueTag, show queuePart (unread pkt base) 0 = some (0, hubPart) from rfl, hubPart, part0, Nat.mod_one]
  exact ⟨h, by simp [slotBytes, h, show (unread pkt base).hq 0 = { hq1 with qbase := base, started := [(0, .cancelled)] } from rfl]⟩
theorem wit_cancelled : ((unread launchPkt 0).hq 0).started.get? 0 = some .cancelled ∧ slotBytes (unread launchPkt 0xFF000000000400) 0 0 = some launchPkt
    ∧ slotBytes (unread cancelPkt 0xFF000000000400) 0 0 = some cancelPkt ∧ slotBytes (unread launchPkt 0x40000) 0 0 = none
    ∧ launchPkt.getD 255 0 = lapParity 0 4 ∧ launchPkt.getD 254 0 = 1 ∧ cancelPkt.getD 255 0 = lapParity 0 4 ∧ 3 ≤ (cancelPkt.getD 254 0).toNat :=
  ⟨rfl, (unread_slot _ _).2.trans (by decide +kernel), (unread_slot _ _).2.trans (by decide +kernel), (unread_slot _ _).2.trans (by decide +kernel),
    by decide +kernel, by decide +kernel, by decide +kernel, by decide +kernel⟩
/-- The fence scope 5 waits for fabric operations of the queue's launches; a take-over and an absent page hold the write. -/
theorem wit_signal : let s := started (.signal 0xFF000000006000 5 5); (s.hq 0).started.get? (s.hq 0).qdone.toNat = some (.signal 0xFF000000006000 5 5)
    ∧ s.fabops = [] ∧ mayWrite s (.signal 0) = true ∧ hubReaches s 0 0xFF000000006000 8 = true ∧ hubReaches s 0 0x40000 8 = false
    ∧ mayWrite { s with sched := { s.sched with takeover := some 9 } } (.signal 0) = false
    ∧ mayWrite { s with sched := { s.sched with held := [.launch 0] } } (.signal 0) = false := by decide +kernel
theorem wit_signal_fabric : let f : FabOp := ⟨.put, 0, 0, 0, 8, [], 0, 0, 0, 0⟩
    ∃ e ∈ ({ started (.signal 0xFF000000006000 5 5) with fabops := [(3, f)] } : State).fabops, ∃ x, (started .complete).launch? e.2.launch = some x ∧ x.queue = 0 :=
  ⟨_, List.mem_singleton.2 rfl, _, rfl, rfl⟩
theorem wit_jctl : let s := started (.launch 0); s.args = [0] ∧ SMap.sorted s.hqueues = true ∧ s.hqueues.get? 0 = some { hq1 with started := [(0, .launch 0)] }
    ∧ (hq1.qkick - hq1.qread).toNat < 2 ^ 31 ∧ s.halts = [] := by decide +kernel
/-- A kick of 16 slots is the most that 16 slots take. -/
theorem wit_kick : let h := { hq1 with qkick := 0 }; h.en = true ∧ ((16 : BitVec 32) - h.qread).toNat ≤ 2 ^ (h.qsize.toNat + 4)
    ∧ ¬ ((17 : BitVec 32) - h.qread).toNat ≤ 2 ^ (h.qsize.toNat + 4) ∧ (16 : BitVec 32).toNat < 2 ^ 31 := by decide
theorem wit_registers : queueAllocated (hub cancelPkt) 0 0xFF000000000500 (slotsBytes 0) 0 = true ∧ queueAllocated (hub cancelPkt) 0 0xFF000008000000 (slotsBytes 0) 0 = false ∧
    let h := { hq1 with en := false }; h.en = false ∧ (∀ e ∈ h.started, e.2 = .complete) ∧ (0xFF000000000500 : BitVec 64).toNat % 256 = 0
    ∧ (∃ p ∈ (hub cancelPkt).partitions, 0 ∈ p.2.jobs) ∧ 13 ≤ (13 : BitVec 4).toNat ∧ ¬ (∀ e ∈ ({ h with started := [(0, .launch 0)] } : HQueue).started, e.2 = .complete) := by decide
/-- A write of the host that waits, and what waits behind it. -/
theorem wit_posted : (hub cancelPkt).posted = [] ∧ ({ hub cancelPkt with posted := [.memory 0 8 [1], .kick 0 2] } : State).posted ≠ [] := by decide +kernel

/-! ### Witnesses: launches and groups -/

/-- Launch 0 has two groups along x, the second after the first. -/
def two : Launch := { loadedLaunch with grid := (2, 1, 1), order := [0, 1], next := 1, deps := [(1, 0, 0)], recAddr := 0xFF000000003000 }
def twos (x : Launch) (gs : List (Nat × Group)) (a : List Nat) : State := A a { m12 with
  launches := [(0, x)], groups := gs.map fun g => (groupKey 0 g.1, g.2), partitions := [(0, hubPart)], contexts := [(0, hubCtx)] }
theorem wit_enter : let s := twos two [(0, Group.fresh)] [0]; s.launch? 0 = some two ∧ two.order[two.next]? = some 1 ∧ two.st = .ready ∧ two.cancelled = false
    ∧ two.cnt < 65536 ∧ ({ two with next := 2 } : Launch).order[2]? = none := by decide
theorem wit_release_group : let g1 := Group.fresh; let s := twos { two with next := 2 } [(0, { Group.fresh with st := .retired }), (1, g1)] [0, 1]
    ({ two with next := 2 } : Launch).order[1]? = some 1 ∧ s.group? 0 1 = some g1 ∧ 1 < two.grid.1 * two.grid.2.1 * two.grid.2.2 ∧ g1.st = .waiting ∧ two.cancelled = false
    ∧ (s.group? 0 0).map (·.st) = some .retired ∧ ((coords two.grid 0).1 : Int) + 1 = (coords two.grid 1).1 := by decide
theorem wit_release_waits : (twos { two with next := 2 } [(0, { Group.fresh with st := .running }), (1, Group.fresh)] [0, 1]).group? 0 0
    = some { Group.fresh with st := .running } := by decide
theorem wit_age : ({ two with readySince := some 0 } : Launch).readySince = some 0 ∧ (600000 - 0) % 600000 = 0 ∧ 4 ≤ two.priority ∧ 4 < two.effPriority := by decide
def placing : State := { twos two [(0, { Group.fresh with st := .released })] [] with threads := [] }.updCore 0 fun k => { k with tags := [⟨0, 0, 0, 0, 0⟩] }
theorem wit_place : nextReleased placing 0 two = some 0 ∧ two.order[0]? = some 0 ∧ (placeGroup placing 0 0 0 [⟨0, 0, 0⟩]).isOk = true
    ∧ two.header.rot ≤ 3 ∧ placing.rotLen 0 ≤ 64
    ∧ placing.sched.lastPlace = none ∧ placing.launch? 0 = some two := by decide +kernel
/-- Rank 0 missing, a slot in use, and a cluster outside the span. -/
theorem wit_place_refused : ([⟨1, 0, 0⟩] : List Place).length = two.header.threads ∧ (∀ p ∈ ([⟨1, 0, 0⟩] : List Place), p.rank ≠ 0) ∧ slotFree m12 (slotKey 0 0) = false
    ∧ clusterOf 8 ∉ rectangle 0 two.header.spanW two.header.spanH ∧ nextReleased placing 0 two ≠ some 1 := by decide +kernel
def startable0 : Launch := { two with header := { two.header with store := 128, vault := 64 }, coreImage := (0xFF000000001000, 64) }
def toStart : Group := { Group.fresh with st := .running, places := [⟨0, 0, 0⟩], store := [(0, 0x400)], vault := [(0, 0)] }
def starting : State := (twos startable0 [(0, toStart)] [0, 0]).updCluster 0 fun k => { k with code := [⟨0, [0], [], true, false⟩] }
theorem wit_start : starting.launch? 0 = some startable0 ∧ starting.group? 0 0 = some toStart ∧ toStart.st = .running ∧ toStart.started = false ∧ toStart.cancelled = false
    ∧ (∀ cl ∈ starting.span 0 0 0, codeLoaded starting cl 0 = true) ∧ coreActive starting 0 = true ∧ fillEnded starting 0 0 = true ∧ starting.halted 0 = false
    ∧ absentPages starting 0 0xFF000000001000 64 = [] ∧ (daBytes starting 0 0xFF000000001000 64).map (·.length) = some 64
    ∧ (daBytes starting 0 0 0) = some [] ∧ SMap.sorted toStart.store = true ∧ SMap.sorted toStart.vault = true
    ∧ (∀ e ∈ toStart.store, e.1 < 16384 ∧ e.2 % 64 = 0 ∧ e.2 + 128 ≤ 131072) ∧ (∀ e ∈ toStart.vault, e.1 < 2048 ∧ e.2 % 64 = 0 ∧ e.2 + 64 ≤ 0x270000) := by decide +kernel
theorem wit_start_waits : codeLoaded (twos startable0 [(0, toStart)] [0, 0]) 1 0 = false := by decide +kernel
/-- One word of code at 0x800 of core store 0. -/
def coded : State := (twos { two with header := { two.header with codeIdx := 2 } } [] [0, 0]).updCluster 0 fun k => { k with code := [⟨0, [], [], false, false⟩] }
theorem wit_code : (coded.cluster 0).code.find? (fun b => b.launch == 0) = some ⟨0, [], [], false, false⟩ ∧ (kernelCode coded 0).base.toNat = 0xFF000000000800
    ∧ (portLoc coded 0 0 0xFF000000000800).isSome = true ∧ portLoc coded 0 0 0x40000 = none := by decide +kernel
def doneGroup : Group := { Group.fresh with st := .running, started := true, held := [0], places := [⟨0, 0, 0⟩] }
theorem wit_retire : let s := { twos two [(0, doneGroup)] [0, 0] with threads := [] }; s.group? 0 0 = some doneGroup ∧ groupDone s 0 0 doneGroup = true ∧ s.halted 0 = false
    ∧ (∀ c ∈ doneGroup.held, (s.core c).buffer = [] ∧ underWay s c = []) ∧ s.pubs = [] := by decide +kernel
theorem wit_retire_waits : groupDone (twos two [(0, doneGroup)] [0, 0]) 0 0 doneGroup = false ∧ (⟨0, [1], .retire 0 0⟩ : Pub).after = .retire 0 0 := by decide +kernel
theorem wit_group_cancel : (twos two [(0, doneGroup)] [0, 0]).group? 0 0 = some doneGroup ∧ doneGroup.st = .running ∧ doneGroup.cancelled = false := by decide
def gone : Launch := { two with next := 2, retired := 2 }
theorem wit_complete : let s := twos gone [(0, { Group.fresh with st := .retired }), (1, { Group.fresh with st := .retired })] [0]
    s.launch? 0 = some gone ∧ launchDone s 0 gone = true ∧ mayEnd s gone = true ∧ mayWrite s (.launch 0) = true ∧ mayWrite { s with sched := { s.sched with failed := 2 } } (.launch 0) = false
    ∧ gone.recAddr ≠ 0 ∧ gone.recAddr.toNat % 64 = 0 ∧ hubReaches s 0 gone.recAddr.toNat 64 = true ∧ hubReaches s 0 0x40000 64 = false ∧ gone.sigAddr = 0 ∧ gone.graph = none
    ∧ launchDone s 0 two = false := by decide +kernel
theorem wit_complete_signal : let x := { gone with sigAddr := 0xFF000000003040 }; x.sigAddr ≠ 0 ∧ x.sigAddr.toNat % 8 = 0 ∧ hubReaches m12 0 x.sigAddr.toNat 8 = true := by decide +kernel

/-! ### Witnesses: power, halts, host -/

theorem wit_power : (1024 : BitVec 12).toNat % 64 = 0 ∧ 2048 % 64 = 0 ∧ (2048 : BitVec 12).toNat ≤ 2048 ∧ 110 ≤ (110 : BitVec 8).toNat ∧ (m12.die 0).temp.toNat < 110
    ∧ (95 : BitVec 8).toNat < 100 ∧ m12.partitions.get? 0 = some part0 ∧ m12.halts.get? 0 = none ∧ m12.sched.failed = 0
    ∧ ({ m12.sched with failed := 1 } : Sched).failed ≠ 0 := by decide
theorem wit_standby : m12.sched.failed = 0 ∧ ({ m12.sched with failed := 1 } : Sched).failed = 1
    ∧ ({ m12.sched with failed := 3 } : Sched).failed ≠ 0 ∧ ({ m12.sched with failed := 3 } : Sched).failed ≠ 1 := by decide
theorem wit_boot : m12.boot.steps = 0 ∧ m12.boot.failed = none ∧ ({ m12.boot with failed := some 2 } : BootSt).failed ≠ none := by decide
def halt0 : Halt := ⟨0, none, none, none, [], [], [], none⟩
/-- Launch 0 of partition 0, with one running group, and a halt. -/
def halting (h : Halt) (a : List Nat) : State := { twos two [(0, doneGroup)] a with halts := [(0, h)] }
theorem wit_halt_request : (twos two [(0, doneGroup)] [0]).partitions.get? 0 = some hubPart ∧ (twos two [] [0]).halts.get? 0 = none
    ∧ (twos two [] [0, 0]).launch? 0 = some two ∧ two.pid = 0 ∧ two.st ≠ .complete ∧ (twos two [] [1]).partitions.get? 1 = none
    ∧ (halting { halt0 with launch := some 0 } [0]).halts.get? 0 = some { halt0 with launch := some 0 } := by decide +kernel
theorem wit_halt_effect : let s := halting halt0 [0]; let ls := haltLaunches s 0 halt0; s.halts.get? 0 = some halt0 ∧ halt0.taken = none
    ∧ haltReady s ls (haltCores s 0 halt0) = true ∧ halt0.older = none ∧ ls = [0] ∧ s.halted 0 = false ∧ haltClusters s ls = [0] := by decide +kernel
def openThr : Thread := { sthr with packet := some ⟨5, 1, [7]⟩ }
theorem wit_halt_waits : let s := { halting halt0 [0, 0] with threads := [(0, openThr)] }
    haltReady s (haltLaunches s 0 halt0) (haltCores s 0 halt0) = false ∧ halt0.requestedAt = 0 ∧ s.thread? 0 = some openThr ∧ coreOf 0 ∈ haltCores s 0 halt0 := by decide +kernel
def taken : Halt := { halt0 with taken := some 0, clusters := [0] }
def larders : State := (halting taken [0]).updCluster 0 fun k => { k with larder := some 0 }
/-- Two open packets of partition 0: that of a slot's thread, and that of the parked owner of a lent slot. -/
theorem wit_lent : ({ halting halt0 [0, 0] with slots := [(0, { SlotSt.reset with lent := some openThr })] } : State).slot 0 = { SlotSt.reset with lent := some openThr } := by
  decide +kernel
theorem wit_held : let s := halting halt0 [0]; heldByHalt s [0] ⟨5, .barrierRelease, [0, 0]⟩ = true ∧ droppedByHalt s [0] ⟨5, .gafferRecordRead, [0, 0, 0]⟩ = true
    ∧ heldByHalt s [0] ⟨5, .powerWindow, []⟩ = false ∧ droppedByHalt s [0] ⟨5, .powerWindow, []⟩ = false := by decide +kernel
theorem wit_save : (larders.cluster 0).larder = some 0 ∧ larders.halts.get? 0 = some taken ∧ clusterBusy larders 0 = false
    ∧ clusterBusy { larders with reqs := [(9, wreq)] } 0 = true ∧ 7 < 8 ∧ 31 < 32 ∧ 0x26F < 0x270 := by decide +kernel
/-- Onto its own cluster, and from cluster 0 onto cluster 1. -/
theorem wit_restore : restoreAllowed larders 0 taken (haltLaunches larders 0 taken) [0] = true ∧ larders.sched.stopped = false ∧ taken.saved = []
    ∧ restoreAllowed { larders with partitions := [(0, { hubPart with clusters := [0, 1] })] } 0 taken (haltLaunches larders 0 taken) [1] = true
    ∧ restoreAllowed larders 0 taken (haltLaunches larders 0 taken) [1] = false ∧ SMap.sorted larders.threads = true ∧ SMap.sorted larders.gfile = true
    ∧ SMap.sorted larders.mem = true := by decide +kernel
/-- Kernels that are loaded and not, images that are there, a publication of a `wait`. -/
theorem wit_restore_when : let ls := haltLaunches larders 0 taken
    let empty : State := larders.updCluster 0 fun k => { k with code := [] }
    (∀ c ∈ codeClusters larders ls, codeLoaded larders c.1 c.2 = true) ∧ ¬ (∀ c ∈ codeClusters empty ls, codeLoaded empty c.1 c.2 = true)
    ∧ imagePages larders ls = [] ∧ larders.pubs = [] ∧ (⟨0, [], .waitArrive 0 0 0⟩ : Pub).after = .waitArrive 0 0 0 ∧ 0 ∈ ls := by decide +kernel
def resuming : State := { halting { taken with resumeAt := some 0 } [0] with launches := [(0, { two with halted := true })] }
theorem wit_resume : resuming.halts.get? 0 = some { taken with resumeAt := some 0 } ∧ resuming.cyc = 0 ∧ (haltLaunches resuming 0 taken).filter resuming.halted = [0]
    ∧ resuming.thread? 0 = some sthr ∧ sthr.launch = 0 := by decide +kernel
theorem wit_resuming_halt : resuming.partitions.get? 0 = some hubPart ∧ ({ taken with resumeAt := some 0 } : Halt).launch = none
    ∧ ({ taken with resumeAt := some 0 } : Halt).resumeAt ≠ none := by decide +kernel
theorem wit_register_write : m12.boot.failed = none ∧ 63 < 64 ∧ (0x18 : Nat) % 8 = 0 ∧ (∃ pid p, queuePart (hub cancelPkt) 0 = some (pid, p) ∧ p.vfn = 0) ∧ queuePart (hub cancelPkt) 1 = none
    ∧ 0x300008 + 16 * 31 < 0x300208 := ⟨rfl, by decide, by decide, ⟨0, hubPart, rfl, rfl⟩, rfl, by decide⟩
/-- Function 0's BAR2 window begins at 0x40 of core store 0, readable and writable. -/
def fn0 : FuncSt := { FuncSt.reset with b2da := 0xFF000000000040 }
def bar : State := A [0, 8, 2] { hub cancelPkt with functions := [(0, fn0)] }
theorem wit_bar2 : bar2Bytes bar fn0 false 8 2 = some [(hubDa 0x48, false), (hubDa 0x49, false)] ∧ bar2Bytes bar fn0 true 8 2 = some [(hubDa 0x48, false), (hubDa 0x49, false)]
    ∧ ([(hubDa 0x48, false), (hubDa 0x49, false)].map (·.1)).Nodup ∧ tileHolds bar (hubDa 0x48) 1 = false ∧ bar2Bytes bar { fn0 with b2da := 0x40000 } false 0 1 = none := by decide +kernel
/-- The last bytes of a BAR2 of 1 GiB, a write that waits for a tile, and a mailbox that owes the answer to request 1. -/
theorem wit_bar2_inside : 2 ^ 30 - 2 + 2 ≤ 2 ^ (30 + min fn0.bar2Code.toNat 6) ∧ ¬ 2 ^ 30 - 1 + 2 ≤ 2 ^ (30 + min fn0.bar2Code.toNat 6)
    ∧ tileHolds { bar with clusters := [(0, { ClusterSt.reset with tiles := [(6, tl 1 .filling 72)] })] } (hubDa 0x48) 1 = true
    ∧ ({ bar with posted := [.memory 0 8 [1]] } : State).posted = [.memory 0 8 [1]]
    ∧ ({ fn0 with doeBusy := true, doeRequests := 1 } : FuncSt).doeRequests = 1 ∧ (List.replicate 64 (0 : Byte)).length = 64 := by decide +kernel
/-- A data flit in sequence whose CRC holds, one whose CRC fails, and one out of sequence. -/
def flit (kind : BitVec 4) : LinkFlit := let f : LinkFlit := ⟨0, kind, 0, 0, 5, [], 0⟩; { f with crc := Config.crc32 (flitBody f) }
theorem wit_link : Config.crc32 (flitBody (flit 1)) = (flit 1).crc ∧ (flit 1).kind = 1 ∧ (flit 1).seq = (m12.link 0).expected
    ∧ Config.crc32 (flitBody { flit 1 with crc := ~~~(flit 1).crc }) ≠ ~~~(flit 1).crc ∧ (flit 1).seq ≠ ({ m12.link 0 with expected := 1 } : LinkPort).expected
    ∧ Config.crc32 (flitBody (flit 2)) = (flit 2).crc ∧ Config.crc32 (flitBody (flit 3)) = (flit 3).crc ∧ (flit 2).kind = 2 ∧ (flit 3).kind = 3 := by
  refine ⟨rfl, rfl, rfl, fun h => ?_, by decide, rfl, rfl, rfl, rfl⟩
  have h2 : (flit 1).crc = ~~~(flit 1).crc := h
  have := congrArg (fun x : BitVec 32 => x.getLsbD 0) h2
  simp at this
theorem wit_replay : let s := A [0, 0] { m12 with cyc := 2048, links := [(0, { LinkPort.reset with replay := [(flit 1, 0)] })] }
    (s.link 0).replay.head? = some (flit 1, 0) ∧ (flit 1).seq.toNat = 0 ∧ 0 + 2048 ≤ s.cyc ∧ ¬ 0 + 2048 ≤ 2047 := ⟨rfl, rfl, by decide, by decide⟩
theorem wit_boot_fails : ({ bytes := [], signature := [], key := [], version := 0 } : BootImage).key.length ≠ 1793 := by decide

/-! ### Memory -/

theorem wit_canonical : ∃ s', Memory.wf m12.mem ∧ step m12 = .next s' := ⟨_, by decide, rfl⟩
theorem test_write_zero_removed : memPut (memPut [] 5 1) 5 0 = [] := by decide

/-! ### Results of hub and package events -/

theorem test_kick_taken : ((fired (.qkick 0 2) [] (hub launchPkt)).hq 0).qkick = 2 := by decide +kernel
theorem test_group_enters : ((fired .scoreboardEnter [0] (twos two [(0, Group.fresh)] [])).launch? 0).map (·.cnt) = some 2 := by decide +kernel
theorem test_group_releases : ((fired .groupRelease [0, 1] (twos { two with next := 2 } [(0, { Group.fresh with st := .retired }), (1, Group.fresh)] [])).group? 0 1).map (·.st)
    = some .released := by decide +kernel
theorem test_image_lands : readNum (fired .groupStart [0, 0] { starting with mem := memPutAll [] (hubDa 0x1000) [1, 2] }) (hubDa 0x400) 2 = 0x0201 := by decide +kernel
theorem test_record_valid : (readByte (fired .launchComplete [0] (twos gone [] [])) (hubDa 0x303F)).toNat = 0xA5 := by decide +kernel
theorem test_cap : ((fired (.cap 0 1024) [] m12).die 0).cap = 1024 := by decide +kernel
theorem test_cap_not_multiple : ((fired (.cap 0 1025) [] m12).die 0).cap = 2048 := by decide +kernel
theorem test_hot : ((fired (.tempUpdate 0 100) [] m12).die 0).ecap = 1024 := by decide +kernel
theorem test_halt_takes_effect : ((fired .haltTakeEffect [0] (halting halt0 [])).launch? 0).map (·.halted) = some true := by decide +kernel
theorem test_resumes : ((fired .restoreIssueResume [0] resuming).launch? 0).map (·.halted) = some false := by decide +kernel
theorem test_bar2_write : readNum (fired (.bar2Write 0 8 [1, 2]) [] bar) (hubDa 0x48) 2 = 0x0201 := by decide +kernel
theorem test_route : (fired (.routeTableWrite 7 3) [] m12).routes.getD 7 0 = 3 := by decide +kernel
theorem test_error_clears : (((fired (.registerWrite (.errors 0) 0 5) [] (m12.updCluster 0 fun k => { k with err := { k.err with ce := 7 } })).cluster 0).err).ce = 2 := by
  decide +kernel

end Sys2Proof.Tests
end

section
/-! The host port and the links (R388, R415, R425 to R435): what each write of a register, access to BAR2, request of a mailbox,
flit of Claom Link and write of a route does, and the statement `HostPortAndLinkEvents`, which is put together from that. -/

namespace Sys2Proof.Machine

/-! ### The meanings of the host's events and of the links' -/

section
variable (s : State)

@[simp] theorem exec_cap (d : Nat) (v : BitVec 12) : exec (.cap d v) s = .next (writeCap s d v) := rfl
@[simp] theorem exec_qbase (q : Nat) (v : BitVec 64) : exec (.qbase q v) s = execQbase q v s := rfl
@[simp] theorem exec_qctl (q : Nat) (v : BitVec 64) : exec (.qctl q v) s = execQctl q v s := rfl
@[simp] theorem exec_qkick (q : Nat) (v : BitVec 32) : exec (.qkick q v) s = execQkick q v s := rfl
@[simp] theorem exec_registerWrite (p : RegPlace) (off : Nat) (v : BitVec 64) :
    exec (.registerWrite p off v) s = execRegisterWrite p off v s := rfl
@[simp] theorem exec_bar2Read : exec .bar2Read s = execBar2Read s := rfl
@[simp] theorem exec_bar2Write (f off : Nat) (bs : List (BitVec 8)) : exec (.bar2Write f off bs) s = execBar2Write f off bs s := rfl
@[simp] theorem exec_doeDiscovery : exec .doeDiscovery s = execDoeDiscovery s := rfl
@[simp] theorem exec_doeIdeKm (f : Nat) (o : List (BitVec 8)) : exec (.doeIdeKm f o) s = execDoeIdeKm f o s := rfl
@[simp] theorem exec_doeAttestation (f : Nat) (n : List (BitVec 8)) :
    exec (.doeAttestation f n) s = execDoeAttestation f n s := rfl
@[simp] theorem exec_linkFlitReceive (p : Nat) (x : LinkFlit) : exec (.linkFlitReceive p x) s = execLinkFlitReceive p x s := rfl
@[simp] theorem exec_linkReplayTimeout : exec .linkReplayTimeout s = execLinkReplayTimeout s := rfl
@[simp] theorem exec_routeTableWrite (m : Nat) (v : BitVec 16) :
    exec (.routeTableWrite m v) s = execRouteTableWrite m v s := rfl

/-! ### A function's block -/

@[simp] theorem function_updFunction (f : Nat) (g : FuncSt → FuncSt) :
    (updFunction s f g).functions.getD f .reset = g (s.functions.getD f .reset) := SMap.getD_put_self ..

theorem function_countHerr (f : Nat) : (countHerr s f).functions.getD f .reset = { s.functions.getD f .reset with
    herr := if (s.functions.getD f .reset).herr = BitVec.allOnes 32 then (s.functions.getD f .reset).herr
      else (s.functions.getD f .reset).herr + 1 } := function_updFunction ..

end

/-! ### The order of the host's writes (R343, R432) -/

section
variable {s : State} {w : HostWrite}

/-- What a state of no waiting writes is without its list of them. -/
theorem posted_nil_eq (h : s.posted = []) : { s with posted := [] } = s := by rw [← h]

/-- The only write that waits, tried: it is performed, or waits for the next cycle. -/
theorem drainHost_one (h : s.posted = [w]) : drainHost 1 s
    = (performHost { s with posted := [] } w).getD (later 1 (.bar2Write 0 0 []) [0] s) := by
  simp only [drainHost, h]; split <;> simp [*]

/-- A write of the host that nothing precedes is tried at once. -/
theorem hostWrite_of_idle (h : s.posted = []) : hostWrite s w
    = (performHost s w).getD (later 1 (.bar2Write 0 0 []) [0] { s with posted := [w] }) := by
  rw [hostWrite, if_pos (by simp [h]), drainHost_one rfl]; simp only [posted_nil_eq h]

/-- A write of the host behind others is put behind them. -/
theorem hostWrite_of_busy (h : s.posted ≠ []) : hostWrite s w = { s with posted := s.posted ++ [w] } := by
  rw [hostWrite, if_neg (by simp [h])]

/-- The oldest write waits, and so do all. -/
theorem drainHost_of_waiting {r : List HostWrite} (h : s.posted = w :: r) (hw : performHost { s with posted := r } w = none) :
    drainHost s.posted.length s = later 1 (.bar2Write 0 0 []) [0] s := by
  simp only [h, List.length_cons, drainHost, hw]

/-- A register of BAR0 is written at once where no write waits. -/
theorem exec_bar0 (h : s.posted = []) (f off : Nat) (v : BitVec 64) :
    exec (.registerWrite (.bar0 f) off v) s = .next (writeBar0 s f off v) := by
  simp [execRegisterWrite, hostWrite_of_idle h, performHost]

end

/-! ### Writes of BAR0 (R429 to R431) -/

theorem seesQueue_iff {s : State} {f q : Nat} :
    seesQueue s f q = true ↔ q < 1024 ∧ (f = 0 ∨ ∃ pid p, queuePart s q = some (pid, p) ∧ p.vfn = f) := by
  unfold seesQueue; split <;> simp_all

section
variable {s : State} {f : Nat}

theorem writeBar0_of_ignored {off : Nat} (v : BitVec 64) (h : s.boot.failed ≠ none ∨ off % 8 ≠ 0) : writeBar0 s f off v = s := by
  rw [writeBar0, if_pos]
  rcases h with h | h
  · exact .inl (Option.isSome_iff_ne_none.mpr h)
  · exact .inr (.inr h)

variable (hf : f < 64) (hb : s.boot.failed = none)
include hf hb

theorem writeBar0_herr (v : BitVec 64) :
    writeBar0 s f 0x18 v = updFunction s f fun x => { x with herr := x.herr &&& ~~~(v.setWidth 32) } := by
  simp [writeBar0, hb, hf]

theorem writeBar0_cap {d : Nat} (hd : d < 8) (v : BitVec 64) :
    writeBar0 s f (0x100 + 8 * d) v = if f = 0 then writeCap s d (v.setWidth 12) else s := by
  have h8 : (0x100 + 8 * d) % 8 = 0 := by omega
  rw [writeBar0, if_neg (by simp [hb, h8, hf]), if_neg (by omega)]
  split
  · rw [if_pos (by omega), show (0x100 + 8 * d - 0x100) / 8 = d by omega]
  · rw [if_neg (by omega), if_neg (by omega), if_neg (by omega), if_neg (by omega)]

theorem writeBar0_queue {q r : Nat} (hq : q < 1024) (hr : r < 64) (h8 : r % 8 = 0) (v : BitVec 64) :
    writeBar0 s f (0x100000 + 64 * q + r) v = if seesQueue s f q then writeQueueReg s q r v else s := by
  have h8 : (0x100000 + 64 * q + r) % 8 = 0 := by omega
  have hn : (0x100000 + 64 * q + r - 0x100000) / 64 = q := by omega
  have hm : (0x100000 + 64 * q + r - 0x100000) % 64 = r := by omega
  rw [writeBar0, if_neg (by simp [hb, h8, hf]), if_neg (by omega), if_neg (by omega), if_pos (by omega)]
  simp only [hn, hm]

theorem writeBar0_intMap {q : Nat} (hq : q < 1024) (v : BitVec 64) : writeBar0 s f (0x200000 + 8 * q) v
    = if seesQueue s f q then { s with intMap := s.intMap.put ⟨0, false⟩ q ⟨v.setWidth 5, v.getLsbD 7⟩ } else s := by
  have h8 : (0x200000 + 8 * q) % 8 = 0 := by omega
  have hn : (0x200000 + 8 * q - 0x200000) / 8 = q := by omega
  rw [writeBar0, if_neg (by simp [hb, h8, hf]), if_neg (by omega), if_neg (by omega), if_neg (by omega), if_pos (by omega)]
  simp only [hn]

theorem writeBar0_vector {n : Nat} (hn : n < 64) (v : BitVec 64) : writeBar0 s f (0x300000 + 8 * n) v = writeVector s f n v := by
  have h8 : (0x300000 + 8 * n) % 8 = 0 := by omega
  rw [writeBar0, if_neg (by simp [hb, h8, hf]), if_neg (by omega), if_neg (by omega), if_neg (by omega), if_neg (by omega),
    if_pos (by omega), show (0x300000 + 8 * n - 0x300000) / 8 = n by omega]

end

/-- What stands in a queue's block and takes no write. -/
theorem writeQueueReg_of_readOnly (s : State) (q : Nat) {r : Nat} (v : BitVec 64) (h : r ≠ 0 ∧ r ≠ 8 ∧ r ≠ 0x10 ∧ r ≠ 0x28) :
    writeQueueReg s q r v = s := by
  unfold writeQueueReg; split <;> simp_all

/-- A write anywhere else in BAR0 is ignored (R429). -/
theorem writeBar0_of_unknown (s : State) (f off : Nat) (v : BitVec 64) (h18 : off ≠ 0x18)
    (hcap : ¬ (f = 0 ∧ 0x100 ≤ off ∧ off < 0x140))
    (hq : ¬ (0x100000 ≤ off ∧ off < 0x110000 ∧ (off % 64 = 0 ∨ off % 64 = 8 ∨ off % 64 = 0x10 ∨ off % 64 = 0x28)))
    (hi : ¬ (0x200000 ≤ off ∧ off < 0x202000)) (hv : ¬ (0x300000 ≤ off ∧ off < 0x300200)) : writeBar0 s f off v = s := by
  unfold writeBar0
  rw [if_neg h18, if_neg hcap, if_neg hi, if_neg hv]
  by_cases hb : 0x100000 ≤ off ∧ off < 0x110000
  · have hr := writeQueueReg_of_readOnly s ((off - 0x100000) / 64) (r := (off - 0x100000) % 64) v (by omega)
    simp [hb, hr]
  · simp [hb]

/-! ### The MSI-X table (R431) -/

section
variable (s : State) (f n : Nat) (v : Word)

/-- The first word of a vector's entry is kept. -/
theorem writeVector_address :
    writeVector s f (2 * n) v = updFunction s f fun x => { x with table := x.table.set (2 * n) v } := by
  simp [writeVector]

/-- The word with a vector's mask bit, written with 1 there: the vector is masked. -/
theorem writeVector_masked (hv : v.getLsbD 32 = true) : writeVector s f (2 * n + 1) v = updFunction s f fun x =>
    { x with table := x.table.set (2 * n + 1) v, masked := x.masked.filter (· != n) ++ [n] } := by
  have hn : (2 * n + 1) / 2 = n := by omega
  simp [writeVector, hv, hn]

/-- The word with a vector's mask bit, written with 0 there: the vector is unmasked, and is sent where it was pending. -/
theorem writeVector_unmasked (hv : v.getLsbD 32 = false) : writeVector s f (2 * n + 1) v = updFunction s f fun x =>
    { x with
      table := x.table.set (2 * n + 1) v
      masked := x.masked.filter (· != n)
      msiPending := if n ∈ x.msiPending then x.msiPending.filter (· != n) else x.msiPending
      msiSent := if n ∈ x.msiPending then x.msiSent ++ [n] else x.msiSent } := by
  have hn : (2 * n + 1) / 2 = n := by omega
  simp only [writeVector, hn, hv]
  congr 1; funext x
  by_cases hp : n ∈ x.msiPending <;> simp [hp]

end

/-! ### Reads of BAR0 (R388, R415, R430, R431) -/

/-- A field of a register that is put together as a number. -/
theorem extract_ofNat {n start len : Nat} {y : BitVec len} (h : n % 2 ^ 64 / 2 ^ start % 2 ^ len = y.toNat) :
    (BitVec.ofNat 64 n).extractLsb' start len = y :=
  BitVec.eq_of_toNat_eq (by simpa [Nat.shiftRight_eq_div_pow] using h)

/-- A bit of a register that is put together as a number. -/
theorem getLsbD_ofNat_eq {n i : Nat} {b : Bool} (h : n % 2 ^ 64 / 2 ^ i % 2 = b.toNat) : (BitVec.ofNat 64 n).getLsbD i = b := by
  rw [BitVec.getLsbD, BitVec.toNat_ofNat, Nat.testBit_eq_decide_div_mod_eq, h]; cases b <;> rfl

/-- A register that holds one field holds it in its low bits, with zeros above. -/
theorem setWidth_fields {w : Nat} (x : BitVec w) (h : w ≤ 64) :
    (x.setWidth 64).setWidth w = x ∧ (x.setWidth 64).extractLsb' w (64 - w) = 0 := by
  constructor
  · ext i hi; simp [hi]; omega
  · ext i hi; simp

section
variable {s : State} {f : Nat} (hf : f < 64) (hb : s.boot.failed = none)
include hf hb

theorem readBar0_control {off : Nat} (h : off < 0x100) (h8 : off % 8 = 0) :
    readBar0 s f off = readControl f (s.functions.getD f .reset) off := by
  simp [readBar0, hb, hf, h, h8]

theorem readBar0_power {d : Nat} (hd : d < 8) : readBar0 s f (0x100 + 8 * d) = if f = 0 then readPower (s.die d) else 0 := by
  have h8 : (0x100 + 8 * d) % 8 = 0 := by omega
  simp only [readBar0]
  rw [if_neg (by simp [hb, h8, hf]), if_neg (by omega)]
  split
  · rw [if_pos (by omega), show (0x100 + 8 * d - 0x100) / 8 = d by omega]
  · rw [if_neg (by omega), if_neg (by omega), if_neg (by omega), if_neg (by omega), if_neg (by omega)]

theorem readBar0_queue {q r : Nat} (hq : q < 1024) (hr : r < 64) (h8 : r % 8 = 0) :
    readBar0 s f (0x100000 + 64 * q + r) = if seesQueue s f q then readQueueReg (s.hq q) r else 0 := by
  have h8 : (0x100000 + 64 * q + r) % 8 = 0 := by omega
  have hn : (0x100000 + 64 * q + r - 0x100000) / 64 = q := by omega
  have hm : (0x100000 + 64 * q + r - 0x100000) % 64 = r := by omega
  simp only [readBar0, hn, hm]
  rw [if_neg (by simp [hb, h8, hf]), if_neg (by omega), if_neg (by omega), if_pos (by omega)]

theorem readBar0_intMap {q : Nat} (hq : q < 1024) : readBar0 s f (0x200000 + 8 * q)
    = if seesQueue s f q then BitVec.ofNat 64 ((s.intMap.getD q ⟨0, false⟩).vec.toNat + 128 * (s.intMap.getD q ⟨0, false⟩).ien.toNat)
      else 0 := by
  have h8 : (0x200000 + 8 * q) % 8 = 0 := by omega
  have hn : (0x200000 + 8 * q - 0x200000) / 8 = q := by omega
  simp only [readBar0, hn]
  rw [if_neg (by simp [hb, h8, hf]), if_neg (by omega), if_neg (by omega), if_neg (by omega), if_pos (by omega)]

end

/-- The function number and `BOOTF` (R430). -/
theorem readControl_number {f : Nat} (hf : f < 64) (x : FuncSt) : (readControl f x 0).extractLsb' 0 6 = BitVec.ofNat 6 f
    ∧ (readControl f x 0).getLsbD 6 = x.bootf ∧ (readControl f x 0).extractLsb' 7 57 = 0 := by
  have hx := Bool.toNat_le x.bootf
  refine ⟨extract_ofNat ?_, getLsbD_ofNat_eq ?_, extract_ofNat ?_⟩ <;> simp <;> omega

/-- `THALT` and `SFATAL` (R430). -/
theorem readControl_halts (f : Nat) (x : FuncSt) : (readControl f x 0x20).getLsbD 0 = x.thalt
    ∧ (readControl f x 0x20).getLsbD 1 = x.sfatal ∧ (readControl f x 0x20).extractLsb' 2 62 = 0 := by
  have ht := Bool.toNat_le x.thalt
  have hs := Bool.toNat_le x.sfatal
  refine ⟨getLsbD_ofNat_eq ?_, getLsbD_ofNat_eq ?_, extract_ofNat ?_⟩ <;> simp <;> omega

/-- The fields of a die's power register (R415). -/
theorem readPower_fields (x : DieSt) : (readPower x).extractLsb' 0 12 = x.cap ∧ (readPower x).extractLsb' 12 12 = x.ecap
    ∧ (readPower x).extractLsb' 24 8 = x.temp ∧ (readPower x).getLsbD 32 = x.hot ∧ (readPower x).extractLsb' 33 31 = 0 := by
  have hc := x.cap.isLt
  have he := x.ecap.isLt
  have ht := x.temp.isLt
  have hh := Bool.toNat_le x.hot
  refine ⟨extract_ofNat ?_, extract_ofNat ?_, extract_ofNat ?_, getLsbD_ofNat_eq ?_, extract_ofNat ?_⟩ <;> simp <;> omega

/-- The fields of `QCTL` (R388). -/
theorem readQueueReg_ctl (h : HQueue) : (readQueueReg h 8).extractLsb' 0 4 = h.qsize ∧ (readQueueReg h 8).getLsbD 4 = h.qhost
    ∧ (readQueueReg h 8).extractLsb' 5 11 = 0 ∧ (readQueueReg h 8).extractLsb' 16 10 = h.job
    ∧ (readQueueReg h 8).extractLsb' 26 5 = 0 ∧ (readQueueReg h 8).getLsbD 31 = h.en
    ∧ (readQueueReg h 8).extractLsb' 32 32 = 0 := by
  have hs := h.qsize.isLt
  have hh := Bool.toNat_le h.qhost
  have hj := h.job.isLt
  have he := Bool.toNat_le h.en
  refine ⟨extract_ofNat ?_, getLsbD_ofNat_eq ?_, extract_ofNat ?_, extract_ofNat ?_, extract_ofNat ?_, getLsbD_ofNat_eq ?_,
    extract_ofNat ?_⟩ <;> simp <;> omega

/-- The fields of an entry of the interrupt map (R431). -/
theorem intMap_fields (e : IntMap) : let v := BitVec.ofNat 64 (e.vec.toNat + 128 * e.ien.toNat)
    v.extractLsb' 0 5 = e.vec ∧ v.getLsbD 7 = e.ien ∧ v.extractLsb' 5 2 = 0 ∧ v.extractLsb' 8 56 = 0 := by
  have hv := e.vec.isLt
  have hi := Bool.toNat_le e.ien
  refine ⟨extract_ofNat ?_, getLsbD_ofNat_eq ?_, extract_ofNat ?_, extract_ofNat ?_⟩ <;> simp <;> omega

/-! ### Device addresses within a page (R314 to R317) -/

/-- Addresses of one 128 KiB page lie in the same page of each size. -/
theorem div_pageShift_congr {a b : Nat} (h : a / 2 ^ 17 = b / 2 ^ 17) (z : Nat) : a / 2 ^ pageShift z = b / 2 ^ pageShift z := by
  rw [pageShift, Nat.pow_add, ← Nat.div_div_eq_div_mul, ← Nat.div_div_eq_div_mul, h]

theorem probe_congr (s : State) (tag : BitVec 16) {a b : Nat} (h : a / 2 ^ 17 = b / 2 ^ 17) (z : Nat) :
    probe s tag a z = probe s tag b z := by
  have hb : bucketLoc s tag a z = bucketLoc s tag b z := by simp only [bucketLoc, div_pageShift_congr h]
  simp only [probe, hb, pageMatches, h]

/-- A walk finds the same page for every address of a 128 KiB page. -/
theorem walk_congr (s : State) (tag : BitVec 16) {a b : Nat} (h : a / 2 ^ 17 = b / 2 ^ 17) : walk s tag a = walk s tag b := by
  simp only [walk, probe_congr s tag h]

theorem isWindow_congr {a b : Nat} (h : a / 2 ^ 17 = b / 2 ^ 17) : isWindow a = isWindow b := by
  have : a / 2 ^ 48 = b / 2 ^ 48 := by omega
  simp only [isWindow, this]

/-- Within a 128 KiB page, an offset in a page of any size is the same offset of the device address. -/
theorem mod_pageShift_add {a k : Nat} (h : a % 2 ^ 17 + k < 2 ^ 17) (z : Nat) :
    (a + k) % 2 ^ pageShift z = a % 2 ^ pageShift z + k := by
  have hs : 2 ^ pageShift z = 2 ^ 17 * 2 ^ (5 * z) := by rw [pageShift, Nat.pow_add]
  have hd : (a + k) / 2 ^ 17 = a / 2 ^ 17 := by omega
  rw [hs, Nat.mod_mul, Nat.mod_mul, hd]; omega

theorem pageLoc_add {pid : Nat} {e : PageEntry} {a k l : Nat} (h : a % 2 ^ 17 + k < 2 ^ 17) (hl : pageLoc pid e a = some l) :
    pageLoc pid e (a + k) = some (l + k) := by
  simp only [pageLoc, mod_pageShift_add h] at hl ⊢
  split at hl <;> simp_all <;> omega

/-- The locations of a 128 KiB page follow each other as its addresses do. -/
theorem daLoc_add {s : State} {tag : BitVec 16} {a k l : Nat} (h : a % 2 ^ 17 + k < 2 ^ 17) (hl : daLoc s tag a = some l) :
    daLoc s tag (a + k) = some (l + k) := by
  have hp : (a + k) / 2 ^ 17 = a / 2 ^ 17 := by omega
  simp only [daLoc, isWindow_congr hp, walk_congr s tag hp] at hl ⊢
  split at hl
  · simp_all
  · obtain ⟨e, he, hl⟩ := Option.bind_eq_some_iff.mp hl
    simp_all [pageLoc_add h hl]

/-! ### Bytes that the hub writes -/

section
variable {s : State} {w : Writer}

/-- A write for no launch leaves no trace record. -/
theorem traceWrite_of_noLaunch (hw : w.launch = none) (loc : Nat) (da : BitVec 56) (n : Nat) : traceWrite s w loc da n = s :=
  if_neg (by simp [tracing, hw])

/-- One piece of a write of the hub, the bytes `bs` going to `da` and on. -/
def writePiece (w : Writer) (da : Nat) (bs : List Byte) (s : State) (p : Option Nat × Nat × Nat) : State :=
  match p.1 with
  | some l => performWrite (noteHost s l) w l (BitVec.ofNat 56 p.2.1) ((bs.drop (p.2.1 - da)).take p.2.2)
  | none => s

theorem daWrite_eq_foldl (s : State) (tag : BitVec 16) (w : Writer) (da : Nat) (bs : List Byte) :
    daWrite s tag w da bs = (daRange s tag da bs.length).foldl (writePiece w da bs) s := rfl

/-- The parts of the state that no write of the hub touches: threads, granule tags and the host's writes that wait. -/
abbrev besideMemory (s : State) : SMap Thread × SMap (BitVec 4) × List HostWrite := (s.threads, s.gtags, s.posted)

theorem besideMemory_noteHost (s : State) (loc : Nat) : besideMemory (noteHost s loc) = besideMemory s := by
  unfold noteHost; split
  · split <;> rfl
  all_goals rfl

theorem besideMemory_markDirty (s : State) (loc n : Nat) : besideMemory (markDirty s loc n) = besideMemory s := by
  simp only [markDirty]; split <;> rfl

theorem besideMemory_performWrite (hw : w.launch = none) (loc : Nat) (da : BitVec 56) (bs : List Byte) :
    besideMemory (performWrite s w loc da bs) = besideMemory s := by
  unfold performWrite; split
  · rfl
  · rw [traceWrite_of_noLaunch hw, besideMemory_markDirty]; rfl

theorem besideMemory_writePiece (hw : w.launch = none) (da : Nat) (bs : List Byte) (s : State) (p : Option Nat × Nat × Nat) :
    besideMemory (writePiece w da bs s p) = besideMemory s := by
  unfold writePiece; split
  · rw [besideMemory_performWrite hw, besideMemory_noteHost]
  · rfl

theorem besideMemory_daWrite (hw : w.launch = none) (tag : BitVec 16) (da : Nat) (bs : List Byte) :
    besideMemory (daWrite s tag w da bs) = besideMemory s := by
  rw [daWrite_eq_foldl]; exact foldl_keeps besideMemory _ (besideMemory_writePiece hw da bs) _ s

/-- What a byte reads as after a piece of `k` bytes, the bytes of the write from number `i` on, went to location `l`. -/
theorem readByte_writePiece (hw : w.launch = none) {da i k : Nat} {bs : List Byte} (hk : i + k ≤ bs.length) (s : State) (l a : Nat) :
    readByte (writePiece w da bs s (some l, da + i, k)) a
      = if l ≤ a ∧ a < l + k then bs.getD (i + (a - l)) 0 else readByte s a := by
  have hlen : ((bs.drop i).take k).length = k := by simp; omega
  simp only [writePiece, readByte, Nat.add_sub_cancel_left]
  rw [mem_performWrite _ _ _ _ _ (by simp [tracing, hw]), getD_memPutAll, hlen, noteHost_mem]
  refine if_ctx_congr Iff.rfl (fun h => ?_) fun _ => rfl
  rw [List.getD_eq_getElem?_getD, List.getElem?_take_of_lt (by omega), List.getElem?_drop, ← List.getD_eq_getElem?_getD]

end

/-- The pieces of a write, from its byte `i` on, put every byte of it at its location and change no other byte, where `at_ j` is the
location of byte `j` and no two bytes have the same. -/
theorem readByte_foldl_writePiece {s : State} {tag : BitVec 16} {w : Writer} (hw : w.launch = none) {da : Nat} {bs : List Byte}
    {at_ : Nat → Nat} (hat : ∀ j < bs.length, daLoc s tag ((da + j) % 2 ^ 56) = some (at_ j))
    (hinj : ∀ j < bs.length, ∀ k < bs.length, at_ j = at_ k → j = k) (fuel : Nat) :
    ∀ (i n : Nat) (r : State), i + n = bs.length → (n = 0 ∨ (da + i) % 2 ^ 17 + n ≤ fuel * 2 ^ 17) →
      (∀ j, i ≤ j → j < bs.length →
        readByte ((daPieces s tag fuel (da + i) n).foldl (writePiece w da bs) r) (at_ j) = bs.getD j 0)
      ∧ ∀ a, (∀ j, i ≤ j → j < bs.length → at_ j ≠ a) →
        readByte ((daPieces s tag fuel (da + i) n).foldl (writePiece w da bs) r) a = readByte r a := by
  induction fuel with
  | zero => exact fun i n r hn hfuel => ⟨fun j _ _ => by omega, fun _ _ => rfl⟩
  | succ fuel ih =>
    intro i n r hn hfuel
    by_cases h0 : n = 0
    · subst h0; exact ⟨fun j _ _ => by omega, fun _ _ => rfl⟩
    have hrun : ∀ j, j < min n (2 ^ 17 - (da + i) % 2 ^ 17) → at_ (i + j) = at_ i + j := fun j hj => by
      have hadd : (da + (i + j)) % 2 ^ 56 = (da + i) % 2 ^ 56 + j := by omega
      have hloc := daLoc_add (k := j) (by omega) (hat i (by omega))
      rw [← hadd, hat (i + j) (by omega)] at hloc
      exact Option.some.inj hloc
    simp only [daPieces, if_neg h0, hat i (by omega), List.foldl_cons]
    generalize hk : min n (2 ^ 17 - (da + i) % 2 ^ 17) = k at hrun
    obtain ⟨hin, hout⟩ := ih (i + k) (n - k) (writePiece w da bs r (some (at_ i), da + i, k)) (by omega) (by omega)
    rw [← Nat.add_assoc] at hin hout
    refine ⟨fun j hij hj => ?_, fun a ha => ?_⟩
    · by_cases hjk : j < i + k
      · obtain ⟨m, rfl⟩ := Nat.exists_eq_add_of_le hij
        rw [hout _ fun j' hj' hlt he => by have := hinj _ hlt _ hj he; omega, readByte_writePiece hw (by omega), hrun m (by omega),
          if_pos (by omega), Nat.add_sub_cancel_left]
      · exact hin j (by omega) hj
    · rw [hout a fun j hj => ha j (by omega), readByte_writePiece hw (by omega), if_neg]
      rintro ⟨h1, h2⟩
      have hm := hrun (a - at_ i) (by omega)
      exact ha (i + (a - at_ i)) (by omega) (by omega) (by omega)

/-- A write of the hub for no launch stores its bytes, where every byte has a location of its own, and nothing more. -/
theorem readByte_daWrite {s : State} {tag : BitVec 16} {w : Writer} (hw : w.launch = none) {da : Nat} {bs : List Byte}
    {at_ : Nat → Nat} (hat : ∀ j < bs.length, daLoc s tag ((da + j) % 2 ^ 56) = some (at_ j))
    (hinj : ∀ j < bs.length, ∀ k < bs.length, at_ j = at_ k → j = k) :
    (∀ j < bs.length, readByte (daWrite s tag w da bs) (at_ j) = bs.getD j 0)
      ∧ ∀ a, (∀ j < bs.length, at_ j ≠ a) → readByte (daWrite s tag w da bs) a = readByte s a := by
  obtain ⟨hin, hout⟩ := readByte_foldl_writePiece hw hat hinj (bs.length / 2 ^ 17 + 2) 0 bs.length s (by omega) (by omega)
  exact ⟨fun j => hin j (by omega), fun a ha => hout a fun j _ => ha j⟩

/-! ### BAR2 (R432) -/

section
variable {s : State} {tag : BitVec 16} {store : Bool} {f off n : Nat}

theorem inBar2_iff : inBar2 s f off n = true
    ↔ f < 64 ∧ off + n ≤ 2 ^ (30 + min (s.functions.getD f .reset).bar2Code.toNat 6) := by
  rw [inBar2, Bool.and_eq_true, decide_eq_true_iff, decide_eq_true_iff, FuncSt.bar2Size]

/-- A byte of BAR2 outside the windows: none where its page gives no right or is no page of the partition. -/
theorem bar2Byte_of_page {da : Nat} {e : PageEntry} {p : Partition} (hda : isWindow da = false) (he : walk s tag da = some e)
    (hp : s.partOf tag = some p) : bar2Byte s tag store da
      = if (if store then e.w else e.r) = true ∧ (2 ≤ e.tier.toNat
            ∨ ∃ f ∈ p.frames, f.1 = e.tier.toNat ∧ f.2.1 ≤ e.frame.toNat * 2 ^ 17 ∧ e.frame.toNat * 2 ^ 17 ≤ f.2.2)
        then (pageLoc ((s.pidOf tag).getD 0) e da).map fun l => (l, e.mg) else none := by
  simp only [bar2Byte, hda, he, hp, Bool.false_eq_true, if_false]
  refine if_ctx_congr ?_ (fun _ => rfl) fun _ => rfl
  simp [and_assoc]

/-- Where an access to a byte of BAR2 is allowed, it goes where the hub finds the address. -/
theorem daLoc_of_bar2Byte {da : Nat} {l : Nat × Bool} (h : bar2Byte s tag store da = some l) : daLoc s tag da = some l.1 := by
  rcases hda : isWindow da
  · rcases he : walk s tag da with _ | e
    · simp [bar2Byte, hda, he] at h
    rcases hp : s.partOf tag with _ | p
    · simp [bar2Byte, hda, he, hp] at h
    rw [bar2Byte_of_page hda he hp, Option.ite_none_right_eq_some] at h
    obtain ⟨x, hx, rfl⟩ := Option.map_eq_some_iff.mp h.2
    simp [daLoc, hda, he, hx]
  · simp only [bar2Byte, hda, if_true] at h
    split at h
    · cases h; simp [daLoc, hda]
    · cases h

/-- The places of an access are those of its bytes, in order. -/
theorem map_bar2Byte {x : FuncSt} {ls : List (Nat × Bool)} (h : bar2Bytes s x store off n = some ls) :
    (List.range n).map (fun i => bar2Byte s x.b2tag store ((x.b2da.toNat + off + i) % 2 ^ 56)) = ls.map some := by
  unfold bar2Bytes at h
  split at h
  · cases h
  generalize List.range n = is at h ⊢
  induction is generalizing ls with
  | nil => cases h; rfl
  | cons i r ih =>
    rw [List.foldr_cons] at h
    split at h
    · rename_i y rest hy hr
      cases h; simp only [List.map_cons, hy, ih hr]
    · cases h

theorem length_bar2Bytes {x : FuncSt} {ls : List (Nat × Bool)} (h : bar2Bytes s x store off n = some ls) : ls.length = n := by
  simpa using (congrArg List.length (map_bar2Byte h)).symm

/-- Byte `i` of an access lies where the hub finds its address. -/
theorem daLoc_of_bar2Bytes {x : FuncSt} {ls : List (Nat × Bool)} (h : bar2Bytes s x store off n = some ls) {i : Nat}
    (hi : i < n) {l : Nat × Bool} (hl : ls[i]? = some l) : daLoc s x.b2tag ((x.b2da.toNat + off + i) % 2 ^ 56) = some l.1 := by
  have hm := congrArg (·[i]?) (map_bar2Byte h)
  simp only [List.getElem?_map, List.getElem?_range hi, hl, Option.map_some, Option.some.injEq] at hm
  exact daLoc_of_bar2Byte hm

end

section
variable {s : State} {f off : Nat} {bs : List Byte} {ls : List (Nat × Bool)}

theorem performHost_of_refused (h : bar2Bytes s (s.functions.getD f .reset) true off bs.length = none) :
    performHost s (.memory f off bs) = some (countHerr s f) := by
  simp only [performHost, h]

/-- A write waits for a page that migrates and for a tile that holds one of its bytes. -/
theorem performHost_of_held (h : bar2Bytes s (s.functions.getD f .reset) true off bs.length = some ls)
    (hl : ∃ l ∈ ls, l.2 = true ∨ tileHolds s l.1 1 = true) : performHost s (.memory f off bs) = none := by
  simp only [performHost, h]
  exact if_pos (by simpa using hl)

/-- Another write that is allowed is performed: it stores its bytes, where each has a place of its own, and nothing more. -/
theorem performHost_stores (h : bar2Bytes s (s.functions.getD f .reset) true off bs.length = some ls)
    (hl : ∀ l ∈ ls, l.2 = false ∧ tileHolds s l.1 1 = false) (hnd : (ls.map (·.1)).Nodup) :
    ∃ s', performHost s (.memory f off bs) = some s'
      ∧ s'.threads = s.threads ∧ s'.gtags = s.gtags ∧ s'.posted = s.posted
      ∧ (∀ (k : Nat) (l : Nat × Bool) (b : Byte), ls[k]? = some l → bs[k]? = some b → readByte s' l.1 = b)
      ∧ ∀ a, a ∉ ls.map (·.1) → readByte s' a = readByte s a := by
  have hlen := length_bar2Bytes h
  have hget : ∀ j < bs.length, ls[j]? = some (ls.getD j (0, false)) := fun j hj => by
    rw [List.getD_eq_getElem?_getD, List.getElem?_eq_getElem (by omega)]; rfl
  obtain ⟨hin, hout⟩ := readByte_daWrite (w := ⟨none, 0, 0, 0, some hostAgent, s.cyc⟩)
    (da := ((s.functions.getD f .reset).b2da.toNat + off) % 2 ^ 56) (at_ := fun j => (ls.getD j (0, false)).1) rfl
    (fun j hj => by
      rw [show ∀ a, (a % 2 ^ 56 + j) % 2 ^ 56 = (a + j) % 2 ^ 56 from fun a => by omega]
      exact daLoc_of_bar2Bytes h hj (hget j hj))
    (fun j hj k hk he => by
      refine (List.Nodup.getElem_inj_iff hnd (hi := by simpa [hlen]) (hj := by simpa [hlen])).mp ?_
      simpa [List.getD_eq_getElem?_getD, hlen, hj, hk] using he)
  obtain ⟨ht, hg, hp⟩ : _ ∧ _ ∧ _ := by
    simpa using besideMemory_daWrite (s := s) (w := ⟨none, 0, 0, 0, some hostAgent, s.cyc⟩) rfl (s.functions.getD f .reset).b2tag
      (((s.functions.getD f .reset).b2da.toNat + off) % 2 ^ 56) bs
  refine ⟨_, ?_, ht, hg, hp, fun k l b hk hb => ?_, fun a ha => hout a fun j hj he => ha ?_⟩
  · simp only [performHost, h]
    exact if_neg (by simpa using hl)
  · have hj := (List.getElem?_eq_some_iff.mp hb).1
    obtain rfl : ls.getD k (0, false) = l := Option.some.inj ((hget k hj).symm.trans hk)
    rw [hin k hj, List.getD_eq_getElem?_getD, hb]; rfl
  · exact List.mem_map.mpr ⟨_, List.mem_of_getElem? (hget j hj), he⟩

/-- An access of the host that lies in BAR2 is a write of the host. -/
theorem exec_bar2Write_first (ha : s.args = []) : exec (.bar2Write f off bs) s
    = .next (if inBar2 s f off bs.length then hostWrite s (.memory f off bs) else s) := by
  simp only [exec_bar2Write, execBar2Write, ha]

/-- With a number the event tries the writes that wait. -/
theorem exec_bar2Write_again {k : Nat} (ha : s.args = [k]) : exec (.bar2Write f off bs) s = .next (drainHost s.posted.length s) := by
  simp only [exec_bar2Write, execBar2Write, ha]

end

/-! ### Reads of BAR2 (R432) -/

section
variable {s : State} {f off n : Nat} (ha : s.args = [f, off, n])
include ha

theorem bar2Read_of_outside (h : ¬ inBar2 s f off n = true) : exec .bar2Read s = .next s := by
  simp [execBar2Read, ha, h]

variable (hin : inBar2 s f off n = true)
include hin

theorem bar2Read_of_behind (hp : s.posted ≠ []) : exec .bar2Read s = .next (later 1 .bar2Read [f, off, n] s) := by
  simp [execBar2Read, ha, hin, hp]

variable (hp : s.posted = [])
include hp

theorem bar2Read_of_allowed {ls : List (Nat × Bool)} (h : bar2Bytes s (s.functions.getD f .reset) false off n = some ls) :
    exec .bar2Read s = .next (updFunction s f fun x => { x with bar2 := some (ls.map fun l => readByte s l.1) }) := by
  simp [execBar2Read, ha, hin, hp, h]

theorem bar2Read_of_refused (h : bar2Bytes s (s.functions.getD f .reset) false off n = none) :
    exec .bar2Read s = .next (updFunction (countHerr s f) f fun x => { x with bar2 := none }) := by
  simp [execBar2Read, ha, hin, hp, h]

end

/-! ### DOE (R433) -/

section
variable {s : State} {f n : Nat}

/-- A mailbox to which a request has been written: what stood in it is gone. -/
def requested (x : FuncSt) : FuncSt := { x with doe := [], doeRequests := x.doeRequests + 1, doeBusy := true }

/-- A request is answered later, by the event it is given. -/
theorem askDoe_eq (hf : f < 64) (ev : Instr) (as : List Nat) : askDoe s f ev as =
    { updFunction s f requested with
      fresh := s.fresh + 1
      pending := s.pending ++ [⟨s.cyc + s.tripLen, ev, as ++ [(s.functions.getD f .reset).doeRequests + 1]⟩] } := by
  rw [askDoe, if_neg (by omega)]; rfl

theorem tripLen_pos (s : State) : 0 < s.tripLen := by unfold State.tripLen; omega

/-- An answer whose request is no longer the last one, or is answered already, is none. -/
theorem answerDoe_of_ended (h : (s.functions.getD f .reset).doeBusy = false ∨ (s.functions.getD f .reset).doeRequests ≠ n)
    (bs : List Byte) : answerDoe s f n bs = s := by
  rw [answerDoe, if_neg]; rintro ⟨hb, hn⟩; rcases h with h | h <;> simp_all

/-- The answer to the last request: while the boot chain has stopped it is only the failed step's number (R420). -/
theorem answerDoe_of_asked (hb : (s.functions.getD f .reset).doeBusy = true) (hn : (s.functions.getD f .reset).doeRequests = n)
    (bs : List Byte) : answerDoe s f n bs = updFunction s f fun x =>
      { x with doe := s.boot.failed.elim bs fun step => [BitVec.ofNat 8 step], doeBusy := false } := by
  rw [answerDoe, if_pos ⟨hb, hn⟩, respond]
  rcases s.boot.failed with _ | step
  · rfl
  · have : toBytes 1 step = [BitVec.ofNat 8 step] := by
      simp only [toBytes, List.cons.injEq, and_true]; exact BitVec.eq_of_toNat_eq (by simp)
    simp only [this, Option.elim_some]

/-- The entries of a discovery response: the three types of a mailbox, each but the last naming the next. -/
theorem doeEntries_doeTypes : doeEntries Config.doeTypes
    = [1, 0, 0, 1, 1, 0, Config.ideKmType, 2] ++ toBytes 2 Config.falungalVendor.toNat ++ [0x80, 0] := rfl

end

/-! ### Claom Link (R434) -/

@[simp] theorem link_setLink (s : State) (p : Nat) (x : LinkPort) : (s.setLink p x).link p = x := SMap.getD_put_self ..

/-- Timers change nothing but what is due. -/
theorem armReplay_eq (s : State) (p : Nat) (qs : List (BitVec 12)) :
    armReplay s p qs = { s with pending := (armReplay s p qs).pending } := by
  unfold armReplay
  induction qs generalizing s with
  | nil => rfl
  | cons q r ih => rw [List.foldl_cons, ih]; rfl

@[simp] theorem link_armReplay (s : State) (p k : Nat) (qs : List (BitVec 12)) : (armReplay s p qs).link k = s.link k := by
  rw [armReplay_eq]; rfl
@[simp] theorem mem_armReplay (s : State) (p : Nat) (qs : List (BitVec 12)) : (armReplay s p qs).mem = s.mem := by rw [armReplay_eq]
@[simp] theorem threads_armReplay (s : State) (p : Nat) (qs : List (BitVec 12)) : (armReplay s p qs).threads = s.threads := by
  rw [armReplay_eq]

/-- A port from `x` to `y`: some of the flits that wait, in their order, have gone into the replay buffer and out. -/
def SendsOn (x y : LinkPort) : Prop := ∃ more,
  y = { x with waiting := y.waiting, replay := x.replay ++ more, out := x.out ++ more.map (·.1) }
    ∧ x.waiting = more.map (·.1) ++ y.waiting

theorem SendsOn.refl (x : LinkPort) : SendsOn x x := ⟨[], by simp, by simp⟩

/-- The first flit that waits is sent, and then others. -/
theorem SendsOn.cons {x y : LinkPort} {g : LinkFlit} {r : List LinkFlit} {cyc : Nat} (hw : x.waiting = g :: r)
    (h : SendsOn { x with waiting := r, replay := x.replay ++ [(g, cyc)], out := x.out ++ [g] } y) : SendsOn x y := by
  obtain ⟨more, heq, hwait⟩ := h
  exact ⟨(g, cyc) :: more, by rw [heq]; simp, by simpa [hw] using hwait⟩

theorem fillReplay_sendsOn (cyc fuel : Nat) (x : LinkPort) : SendsOn x (fillReplay cyc fuel x).1 := by
  fun_induction fillReplay cyc fuel x with
  | case2 fuel x g r hw _ y more hy ih => exact SendsOn.cons hw (by rwa [hy] at ih)
  | _ => exact SendsOn.refl _

/-- With fuel for every flit that waits, all are sent, or as many as the buffer of 512 has room for. -/
theorem fillReplay_ends (cyc fuel : Nat) (x : LinkPort) (h : x.waiting.length ≤ fuel) :
    (fillReplay cyc fuel x).1.waiting = [] ∨ 512 ≤ (fillReplay cyc fuel x).1.replay.length := by
  fun_induction fillReplay cyc fuel x with
  | case1 x => exact .inl (List.length_eq_zero_iff.mp (Nat.le_zero.mp h))
  | case2 fuel x g r hw _ y more hy ih => rw [hy] at ih; exact ih (by simpa [hw] using h)
  | case3 fuel x g r hw hfull => exact .inr (Nat.le_of_not_lt hfull)
  | case4 fuel x hw => exact .inl hw

/-- What sending on does to a port: flits go out until none waits or the replay buffer is full. -/
theorem link_pumpLink (s : State) (p : Nat) :
    (pumpLink s p).link p = (fillReplay s.cyc (s.link p).waiting.length (s.link p)).1 := by
  exact (link_armReplay ..).trans (link_setLink ..)

@[simp] theorem mem_pumpLink (s : State) (p : Nat) : (pumpLink s p).mem = s.mem := mem_armReplay ..
@[simp] theorem threads_pumpLink (s : State) (p : Nat) : (pumpLink s p).threads = s.threads := threads_armReplay ..

theorem pumpLink_sendsOn (s : State) (p : Nat) : SendsOn (s.link p) ((pumpLink s p).link p) := by
  rw [link_pumpLink]; exact fillReplay_sendsOn ..

theorem pumpLink_ends (s : State) (p : Nat) :
    ((pumpLink s p).link p).waiting = [] ∨ 512 ≤ ((pumpLink s p).link p).replay.length := by
  rw [link_pumpLink]; exact fillReplay_ends _ _ _ le_rfl

/-! ### Flits that arrive, and flits sent again (R434) -/

/-- A port whose flits are acknowledged up to the number of `f`. -/
def acknowledged (x : LinkPort) (f : LinkFlit) : LinkPort :=
  { x with replay := x.replay.filter fun e => decide (2 ^ 11 ≤ (f.ackSeq - e.1.seq).toNat) }

/-- The flits of a replay buffer that a negative acknowledgement asks for: those from its number on. -/
def askedAgain (x : LinkPort) (f : LinkFlit) : List (LinkFlit × Nat) :=
  x.replay.filter fun e => decide ((e.1.seq - f.ackSeq).toNat < 2 ^ 11)

/-- A port whose flits `es` were sent again in cycle `cyc`. -/
def resent (x : LinkPort) (cyc : Nat) (es : List (LinkFlit × Nat)) : LinkPort :=
  { x with replay := es.map fun e => (e.1, cyc), out := x.out ++ es.map (·.1) }

section
variable {s : State} {port : Nat} {f : LinkFlit}

theorem linkFlitReceive_of_noPort (hp : 16 ≤ port) : exec (.linkFlitReceive port f) s = .next s := by
  simp [execLinkFlitReceive, hp]

variable (hp : port < 16)
include hp

/-- The negative acknowledgement of a flit that fails its CRC, or of a data flit out of sequence: it names the flit that is
expected. -/
theorem linkFlitReceive_of_refused (h : Config.crc32 (flitBody f) ≠ f.crc ∨ (f.kind = 1 ∧ f.seq ≠ (s.link port).expected)) :
    exec (.linkFlitReceive port f) s = .next (s.setLink port { s.link port with
      out := (s.link port).out ++ [controlFlit f 3 (s.link port).expected] }) := by
  by_cases hc : Config.crc32 (flitBody f) = f.crc
  · obtain ⟨hk, hseq⟩ := h.resolve_left (not_not_intro hc)
    simp [execLinkFlitReceive, hp, hc, hk, hseq]
  · simp [execLinkFlitReceive, hp, hc]

variable (hc : Config.crc32 (flitBody f) = f.crc)
include hc

theorem linkFlitReceive_of_expected (hk : f.kind = 1) (hseq : f.seq = (s.link port).expected) :
    exec (.linkFlitReceive port f) s = .next (s.setLink port { s.link port with
      expected := (s.link port).expected + 1
      received := (s.link port).received ++ [f]
      out := (s.link port).out ++ [controlFlit f 2 f.seq] }) := by
  simp [execLinkFlitReceive, hp, hc, hk, hseq]

/-- An acknowledgement: the flits up to its number leave the replay buffer, and flits that wait follow. -/
theorem linkFlitReceive_of_ack (hk : f.kind = 2) : exec (.linkFlitReceive port f) s = .next
    (pumpLink (s.setLink port (acknowledged (s.link port) f)) port) := by
  simp [execLinkFlitReceive, hp, hc, hk, acknowledged]

/-- What an acknowledgement does to its port. -/
theorem linkFlitReceive_ack_spec (hk : f.kind = 2) : ∃ s' more, exec (.linkFlitReceive port f) s = .next s' ∧ s'.mem = s.mem
    ∧ s'.threads = s.threads ∧ (s'.link port).replay = (acknowledged (s.link port) f).replay ++ more
    ∧ (s.link port).waiting = more.map (·.1) ++ (s'.link port).waiting ∧ (s'.link port).expected = (s.link port).expected
    ∧ ((s'.link port).waiting = [] ∨ 512 ≤ (s'.link port).replay.length) := by
  obtain ⟨more, heq, hwait⟩ := pumpLink_sendsOn (s.setLink port (acknowledged (s.link port) f)) port
  rw [link_setLink] at heq hwait
  exact ⟨_, more, linkFlitReceive_of_ack hp hc hk, mem_pumpLink .., threads_pumpLink .., congrArg (·.replay) heq, hwait,
    congrArg (·.expected) heq, pumpLink_ends ..⟩

theorem linkFlitReceive_of_nack (hk : f.kind = 3) : exec (.linkFlitReceive port f) s
    = .next (pumpLink (armReplay (s.setLink port (resent (s.link port) s.cyc (askedAgain (s.link port) f))) port
        ((askedAgain (s.link port) f).map (·.1.seq))) port) := by
  simp [execLinkFlitReceive, hp, hc, hk, resent, askedAgain, Function.comp_def]

/-- What a negative acknowledgement does to its port. -/
theorem linkFlitReceive_nack_spec (hk : f.kind = 3) : ∃ s', exec (.linkFlitReceive port f) s = .next s' ∧ s'.mem = s.mem
    ∧ s'.threads = s.threads ∧ let again := (askedAgain (s.link port) f).map (·.1)
      ∃ more, (s'.link port).out = (s.link port).out ++ again ++ more.map (·.1)
        ∧ (s'.link port).replay = (again.map fun g => (g, s.cyc)) ++ more
        ∧ (s.link port).waiting = more.map (·.1) ++ (s'.link port).waiting
        ∧ ((s'.link port).waiting = [] ∨ 512 ≤ (s'.link port).replay.length) := by
  obtain ⟨more, heq, hwait⟩ := pumpLink_sendsOn (armReplay (s.setLink port (resent (s.link port) s.cyc (askedAgain (s.link port) f)))
    port ((askedAgain (s.link port) f).map (·.1.seq))) port
  rw [link_armReplay, link_setLink] at heq hwait
  refine ⟨_, linkFlitReceive_of_nack hp hc hk, (mem_pumpLink ..).trans (mem_armReplay ..),
    (threads_pumpLink ..).trans (threads_armReplay ..), more, congrArg (·.out) heq, (congrArg (·.replay) heq).trans ?_, hwait,
    pumpLink_ends ..⟩
  simp only [resent, List.map_map, Function.comp_def]

theorem linkFlitReceive_of_otherKind (h1 : f.kind ≠ 1) (h2 : f.kind ≠ 2) (h3 : f.kind ≠ 3) :
    exec (.linkFlitReceive port f) s = .next s := by
  have hne : ∀ n : BitVec 4, f.kind ≠ n → f.kind.toNat ≠ n.toNat := fun n h he => h (BitVec.eq_of_toNat_eq he)
  simp only [exec_linkFlitReceive, execLinkFlitReceive, if_neg (Nat.not_le.mpr hp), hc, ne_eq, not_true_eq_false, if_false]
  split
  · exact absurd ‹_› (hne 1 h1)
  · exact absurd ‹_› (hne 2 h2)
  · exact absurd ‹_› (hne 3 h3)
  · rfl

end

section
variable {s : State} {port seq : Nat} (ha : s.args = [port, seq])
include ha

/-- A timer of a flit that is not the oldest, or that was sent again since, does nothing. -/
theorem linkReplayTimeout_of_early (h : ∀ e ∈ (s.link port).replay.head?, e.1.seq.toNat ≠ seq ∨ s.cyc < e.2 + 2048) :
    exec .linkReplayTimeout s = .next s := by
  rcases hx : (s.link port).replay with _ | ⟨e, r⟩
  · simp [execLinkReplayTimeout, ha, hx]
  · have he := h e (by simp [hx])
    simp only [exec_linkReplayTimeout, execLinkReplayTimeout, ha, hx]
    exact if_neg (by omega)

/-- The oldest flit, 2,048 cycles after it was sent: all that is not acknowledged is sent again. -/
theorem linkReplayTimeout_of_due {e : LinkFlit × Nat} (he : (s.link port).replay.head? = some e) (hs : e.1.seq.toNat = seq)
    (ht : e.2 + 2048 ≤ s.cyc) : exec .linkReplayTimeout s
      = .next (armReplay (s.setLink port (resent (s.link port) s.cyc (s.link port).replay)) port
          ((s.link port).replay.map (·.1.seq))) := by
  obtain ⟨r, hx⟩ := List.head?_eq_some_iff.mp he
  simp only [exec_linkReplayTimeout, execLinkReplayTimeout, ha, hx]
  exact (if_pos ⟨hs, ht⟩).trans (by simp only [resent, List.map_map, Function.comp_def])

end

/-! ### The parts of the statement -/

section
variable {s : State} {f : Nat}

/-- What an event does that changes one function's block only. -/
theorem sets_function {ev : Instr} {g : FuncSt → FuncSt} (h : exec ev s = .next (updFunction s f g)) :
    ∃ s', exec ev s = .next s' ∧ s' = { s with functions := s'.functions }
      ∧ s'.functions.getD f .reset = g (s.functions.getD f .reset) :=
  ⟨_, h, rfl, function_updFunction s f g⟩

theorem exec_monitor (hf : f < 64) (off : Nat) (v : BitVec 64) :
    exec (.registerWrite (.monitor f) off v) s = .next (updFunction s f fun x => writeMonitor x v off) := by
  simp [execRegisterWrite, hf]

theorem writeMonitor_of_other {off : Nat} (h8 : off ≠ 8) (h16 : off ≠ 0x10) (x : FuncSt) (v : BitVec 64) :
    writeMonitor x v off = x := by
  unfold writeMonitor; split <;> simp_all

theorem exec_rebar (hf : f < 64) (off : Nat) {v : BitVec 64} (hv : v.toNat ≤ 6) : exec (.registerWrite (.rebar f) off v) s
    = .next (updFunction s f fun x => { x with bar2Code := v.setWidth 3 }) := by
  simp [execRegisterWrite, hf, hv]

theorem exec_rebar_of_illegal (off : Nat) {v : BitVec 64} (h : 64 ≤ f ∨ 6 < v.toNat) :
    exec (.registerWrite (.rebar f) off v) s = .next s := by
  rw [exec_registerWrite, execRegisterWrite, if_neg (by omega)]

end

section
variable {s : State} {f q : Nat} (hf : f < 64) (hp : s.posted = []) (hb : s.boot.failed = none) (v : BitVec 64)
include hf hp hb

/-- A register of a queue that the function sees takes the write that R388 gives it. -/
theorem exec_bar0_queue (hs : seesQueue s f q = true) {r : Nat} (hr : r < 64) (h8 : r % 8 = 0) :
    exec (.registerWrite (.bar0 f) (0x100000 + 64 * q + r) v) s = .next (writeQueueReg s q r v) := by
  rw [exec_bar0 hp, writeBar0_queue hf hb (seesQueue_iff.mp hs).1 hr h8, if_pos hs]

/-- The registers of a queue that the function does not see take no write. -/
theorem exec_bar0_unseen (hq : q < 1024) (hs : ¬ seesQueue s f q = true) {r off : Nat} (hr : r < 8)
    (ho : off = 0x100000 + 64 * q + 8 * r ∨ off = 0x200000 + 8 * q) : exec (.registerWrite (.bar0 f) off v) s = .next s := by
  rcases ho with rfl | rfl
  · rw [exec_bar0 hp, writeBar0_queue hf hb hq (by omega) (by omega), if_neg hs]
  · rw [exec_bar0 hp, writeBar0_intMap hf hb hq, if_neg hs]

/-- The block of a queue that the function sees, and its entry of the interrupt map (R388, R390, R431). -/
theorem exec_bar0_seen (hs : seesQueue s f q = true) {off : Nat} : let ev : Instr := .registerWrite (.bar0 f) off v
    (off = 0x100000 + 64 * q → exec ev s = exec (.qbase q v) s)
    ∧ (off = 0x100008 + 64 * q → exec ev s = exec (.qctl q v) s)
    ∧ (off = 0x100010 + 64 * q → exec ev s = exec (.qkick q (v.setWidth 32)) s)
    ∧ (off = 0x100018 + 64 * q ∨ off = 0x100020 + 64 * q → exec ev s = .next s)
    ∧ (off = 0x100028 + 64 * q → ∃ s', exec ev s = .next s' ∧ s' = { s with hqueues := s'.hqueues }
        ∧ s'.hq q = { s.hq q with qign := (s.hq q).qign &&& ~~~(v.setWidth 16) })
    ∧ (off = 0x200000 + 8 * q → ∃ s', exec ev s = .next s' ∧ s' = { s with intMap := s'.intMap }
        ∧ s'.intMap.getD q ⟨0, false⟩ = ⟨v.setWidth 5, v.getLsbD 7⟩) := by
  have hreg (r : Nat) (hr : r < 64) (h8 : r % 8 = 0) (ho : off = 0x100000 + 64 * q + r) :
      exec (.registerWrite (.bar0 f) off v) s = .next (writeQueueReg s q r v) := ho ▸ exec_bar0_queue hf hp hb v hs hr h8
  refine ⟨fun h => ?_, fun h => ?_, fun h => ?_, fun h => ?_, fun h => ?_, ?_⟩
  · rw [hreg 0 (by omega) rfl (by omega), exec_qbase, execQbase, if_neg (by simp [hb])]; rfl
  · rw [hreg 8 (by omega) rfl (by omega), exec_qctl, execQctl, if_neg (by simp [hb])]; rfl
  · rw [hreg 0x10 (by omega) rfl (by omega), exec_qkick, execQkick, if_neg (by simp [hp]), if_neg (by simp [hb])]; rfl
  · rcases h with h | h
    · exact hreg 0x18 (by omega) rfl (by omega)
    · exact hreg 0x20 (by omega) rfl (by omega)
  · exact ⟨_, hreg 0x28 (by omega) rfl (by omega), rfl, (State.hq_setHq ..).trans (if_pos rfl)⟩
  · rintro rfl
    exact ⟨_, by rw [exec_bar0 hp, writeBar0_intMap hf hb (seesQueue_iff.mp hs).1, if_pos hs], rfl, SMap.getD_put_self ..⟩

/-- The word with a vector's mask bit (R431). -/
theorem exec_bar0_mask {n : Nat} (hn : n < 32) : ∃ s', exec (.registerWrite (.bar0 f) (0x300008 + 16 * n) v) s = .next s'
    ∧ s' = { s with functions := s'.functions } ∧ let x := s.functions.getD f .reset; let y := s'.functions.getD f .reset
      y.table = x.table.set (2 * n + 1) v ∧ (n ∈ y.masked ↔ v.getLsbD 32 = true)
      ∧ (v.getLsbD 32 = false → n ∈ x.msiPending → y.msiSent = x.msiSent ++ [n] ∧ n ∉ y.msiPending)
      ∧ (v.getLsbD 32 = true → y.msiPending = x.msiPending ∧ y.msiSent = x.msiSent) := by
  have hev : exec (.registerWrite (.bar0 f) (0x300008 + 16 * n) v) s = .next (writeVector s f (2 * n + 1) v) := by
    rw [exec_bar0 hp, ← writeBar0_vector hf hb (by omega)]; congr 2; omega
  rcases hv : v.getLsbD 32
  · rw [writeVector_unmasked _ _ _ _ hv] at hev
    obtain ⟨s', hs, hframe, hx⟩ := sets_function hev
    exact ⟨s', hs, hframe, by simp [hx], by simp [hx], fun _ hm => by simp [hx, hm], nofun⟩
  · rw [writeVector_masked _ _ _ _ hv] at hev
    obtain ⟨s', hs, hframe, hx⟩ := sets_function hev
    exact ⟨s', hs, hframe, by simp [hx], by simp [hx], nofun, fun _ => by simp [hx]⟩

end

section
variable {s : State} {f q : Nat} (hf : f < 64) (hb : s.boot.failed = none) (hq : q < 1024)
include hf hb hq

/-- A queue that the function does not see reads as zero (R429). -/
theorem readBar0_unseen (hs : ¬ seesQueue s f q = true) :
    (∀ o, o < 8 → readBar0 s f (0x100000 + 64 * q + 8 * o) = 0) ∧ readBar0 s f (0x200000 + 8 * q) = 0 :=
  ⟨fun o ho => by rw [readBar0_queue hf hb hq (by omega) (by omega), if_neg hs], by rw [readBar0_intMap hf hb hq, if_neg hs]⟩

/-- The block of a queue that the function sees. -/
theorem readBar0_seen (hs : seesQueue s f q = true) {r : Nat} (hr : r < 64) (h8 : r % 8 = 0) :
    readBar0 s f (0x100000 + 64 * q + r) = readQueueReg (s.hq q) r := by
  rw [readBar0_queue hf hb hq hr h8, if_pos hs]

/-- The fields of the block, with zeros in what is reserved (R388), and those of the queue's entry of the interrupt map (R431). -/
theorem readBar0_seen_fields (hs : seesQueue s f q = true) : let h := s.hq q
    let at_ (o : Nat) : BitVec 64 := readBar0 s f (0x100000 + 64 * q + o)
    let r := readBar0 s f (0x200000 + 8 * q)
    let e := s.intMap.getD q ⟨0, false⟩
    ((at_ 0).setWidth 56 = h.qbase ∧ (at_ 0).extractLsb' 56 8 = 0)
    ∧ ((at_ 8).extractLsb' 0 4 = h.qsize ∧ (at_ 8).getLsbD 4 = h.qhost ∧ (at_ 8).extractLsb' 5 11 = 0
      ∧ (at_ 8).extractLsb' 16 10 = h.job ∧ (at_ 8).extractLsb' 26 5 = 0 ∧ (at_ 8).getLsbD 31 = h.en
      ∧ (at_ 8).extractLsb' 32 32 = 0)
    ∧ at_ 16 = h.qkick.setWidth 64 ∧ at_ 24 = h.qread.setWidth 64 ∧ at_ 32 = h.qdone.setWidth 64
    ∧ at_ 40 = h.qign.setWidth 64 ∧ at_ 48 = 0 ∧ at_ 56 = 0
    ∧ r.extractLsb' 0 5 = e.vec ∧ r.getLsbD 7 = e.ien ∧ r.extractLsb' 5 2 = 0 ∧ r.extractLsb' 8 56 = 0 := by
  intro h at_ r e
  have hat (o : Nat) (ho : o < 64) (h8 : o % 8 = 0) : at_ o = readQueueReg h o := readBar0_seen hf hb hq hs ho h8
  refine ⟨?_, ?_, hat 16 (by omega) rfl, hat 24 (by omega) rfl, hat 32 (by omega) rfl, hat 40 (by omega) rfl,
    hat 48 (by omega) rfl, hat 56 (by omega) rfl, ?_⟩
  · rw [hat 0 (by omega) rfl]; exact setWidth_fields h.qbase (by omega)
  · rw [hat 8 (by omega) rfl]; exact readQueueReg_ctl h
  · rw [show r = _ from (readBar0_intMap hf hb hq).trans (if_pos hs)]; exact intMap_fields e

end

end Sys2Proof.Machine

namespace Sys2Proof.Proofs
open Sys2Proof.Machine

/-- Settles O59: it holds. Each part of the statement is one event or register, whose meaning the lemmas above give; the write of
BAR2 is an induction over the 128 KiB pieces of its range, and the replay buffer one over the flits that wait. -/
theorem hostPortAndLinkEvents : Obligations.HostPortAndLinkEvents := by
  unfold Obligations.HostPortAndLinkEvents
  refine ⟨⟨?errors, ?monitor, ?behind, ?bar0⟩, ?reads, ⟨?bar2Read, ?bar2Write, ?bar2Again, ?bar2Byte, ?doe⟩, ?flit, ?timeout,
    ?route⟩
  case errors =>
    exact fun s cl v => ⟨fun off h => by simp [execRegisterWrite, h], writeErrors s cl v, rfl, rfl,
      fun k hk => (State.cluster_updCluster ..).trans (if_neg hk), (State.cluster_updCluster ..).trans (if_pos rfl)⟩
  case monitor =>
    intro s f off v x sets
    refine ⟨fun hf => ⟨sets_function (exec_monitor hf 8 v), sets_function (exec_monitor hf 0x10 v),
      fun hv => sets_function (exec_rebar hf off hv), fun h8 h16 => ?_⟩, exec_rebar_of_illegal off⟩
    have := sets_function (exec_monitor (s := s) hf off v)
    rwa [writeMonitor_of_other h8 h16] at this
  case behind => exact fun s f off v h => by rw [exec_registerWrite, execRegisterWrite, hostWrite_of_busy h]
  case bar0 =>
    intro s f off v hf hp ev x sees
    have hev : exec ev s = .next (writeBar0 s f off v) := exec_bar0 hp f off v
    refine ⟨fun h => by rw [hev, writeBar0_of_ignored v h], fun hb => ⟨?_, ?_, ?_, fun q hq => ?_, ?_, ?_, fun hu => ?_⟩⟩
    · rintro rfl; exact sets_function (by rw [hev, writeBar0_herr hf hb])
    · rintro d hd rfl rfl; rw [hev, writeBar0_cap hf hb hd, if_pos rfl, exec_cap]
    · rintro d hd rfl h0; rw [hev, writeBar0_cap hf hb hd, if_neg h0]
    · rw [show sees q ↔ _ from seesQueue_iff.symm]
      exact ⟨fun hs r hr ho => exec_bar0_unseen hf hp hb v hq hs hr ho, fun hs => exec_bar0_seen hf hp hb v hs⟩
    · rintro n hn rfl
      refine sets_function (g := fun x => { x with table := x.table.set (2 * n) v }) ?_
      rw [hev, ← writeVector_address, ← writeBar0_vector hf hb (by omega)]; congr 2; omega
    · rintro n hn rfl; exact exec_bar0_mask hf hp hb v hn
    · obtain ⟨h18, hcap, hq, hi, hv⟩ : _ ∧ _ ∧ _ ∧ _ ∧ _ := by simpa only [not_or] using hu
      rw [hev, writeBar0_of_unknown s f off v h18 hcap hq hi hv]
  case reads =>
    intro s f hf hb x r sees
    have hc (off : Nat) (h : off < 0x100) (h8 : off % 8 = 0) : r off = readControl f x off := readBar0_control hf hb h h8
    refine ⟨?_, ?_, ?_, ?_, ?_, fun d hd => ?_, fun q hq => ?_⟩
    · rw [hc 0 (by omega) rfl]; exact readControl_number hf x
    · rw [hc 8 (by omega) rfl]; exact setWidth_fields x.b2da (by omega)
    · rw [hc 0x10 (by omega) rfl]; exact setWidth_fields x.b2tag (by omega)
    · rw [hc 0x18 (by omega) rfl]; exact setWidth_fields x.herr (by omega)
    · rw [hc 0x20 (by omega) rfl]; exact readControl_halts f x
    · have hd := readBar0_power hf hb hd
      refine ⟨fun h0 => hd.trans (if_neg h0), fun h0 => ?_⟩
      rw [show r (0x100 + 8 * d) = _ from hd.trans (if_pos h0)]; exact readPower_fields (s.die d)
    · rw [show sees q ↔ seesQueue s f q = true by simp [sees, seesQueue_iff, hq]]
      exact ⟨readBar0_unseen hf hb hq, readBar0_seen_fields hf hb hq⟩
  case bar2Read =>
    intro s f off n ha x counted inside
    rw [show inside ↔ _ from inBar2_iff.symm]
    refine ⟨bar2Read_of_outside ha, bar2Read_of_behind ha, fun hin hp => ?_⟩
    rcases h : bar2Bytes s (x s) false off n with _ | ls
    · obtain hx := function_updFunction (countHerr s f) f fun x => { x with bar2 := none }
      rw [function_countHerr] at hx
      exact ⟨_, bar2Read_of_refused ha hin hp h, rfl, nofun, fun _ => ⟨congrArg (·.bar2) hx, congrArg (·.herr) hx⟩⟩
    · obtain ⟨s', hs, hframe, hx⟩ := sets_function (bar2Read_of_allowed ha hin hp h)
      refine ⟨s', hs, hframe, ?_, nofun⟩
      rintro _ ⟨⟩
      exact ⟨congrArg (·.bar2) hx, congrArg (·.herr) hx⟩
  case bar2Write =>
    intro s f off bs ha ev x inside
    rw [show inside ↔ _ from inBar2_iff.symm]
    have hev : exec ev s = _ := exec_bar2Write_first ha
    refine ⟨fun h => by rw [hev, if_neg h], fun hin hp => by rw [hev, if_pos hin, hostWrite_of_busy hp], fun hin hp h => ?_,
      fun ls hin hp h => ?_⟩
    · rw [hev, if_pos hin, hostWrite_of_idle hp, performHost_of_refused h]
      exact ⟨_, rfl, rfl, congrArg (·.herr) (function_countHerr s f)⟩
    · rw [hev, if_pos hin, hostWrite_of_idle hp]
      refine ⟨fun hl => by rw [performHost_of_held h hl]; rfl, fun hl hnd => ?_⟩
      obtain ⟨s', hs, ht, hg, -, hin, hout⟩ := performHost_stores h hl hnd
      exact ⟨s', by rw [hs]; rfl, ht, hg, hin, hout⟩
  case bar2Again =>
    intro s a b k bs w r ha hw ev s0
    have hev : exec ev s = _ := exec_bar2Write_again ha
    have hone : r = [] → exec ev s = .next ((performHost s0 w).getD (later 1 (.bar2Write 0 0 []) [0] s)) := fun hr => by
      subst hr; rw [hev, hw, ← drainHost_one hw]; rfl
    refine ⟨?_, ?_, ?_, ?_⟩
    · rintro f off v hr rfl; rw [hone hr, exec_bar0 rfl]; rfl
    · rintro q v hr rfl; rw [hone hr]; rfl
    · rintro f off cs ls rfl h hl
      rw [hev, drainHost_of_waiting hw (performHost_of_held h hl)]
    · rintro f off cs hr rfl x
      refine ⟨fun h => ?_, fun ls h hl hnd => ?_⟩
      · rw [hone hr, performHost_of_refused (s := s0) h]
        exact ⟨_, rfl, rfl, congrArg (·.herr) (function_countHerr s0 f)⟩
      · obtain ⟨s', hs, ht, -, hp, hin, hout⟩ := performHost_stores (s := s0) h hl hnd
        exact ⟨s', by rw [hone hr, hs]; rfl, hp, ht, hin, hout⟩
  case bar2Byte =>
    intro s tag store da e p pid hda he hp hpid right pa
    rw [bar2Byte_of_page hda he hp, hpid]
    refine ⟨fun hr => if_neg (by simp [right, hr]), fun htier hout => if_neg ?_, fun hr hin loc hloc => ?_⟩
    · rintro ⟨-, h | ⟨f, hf, hft, hlo, hhi⟩⟩
      · omega
      · have := hout f hf hft; omega
    · rw [if_pos ⟨hr, hin⟩, Option.getD_some, hloc]; rfl
  case doe =>
    intro s f nonce object x asks answers report types
    have hasks (ev : Instr) (as : List Nat) (hf : f < 64) (h : exec ev s = .next (askDoe s f ev as)) : asks ev as := by
      rw [askDoe_eq hf] at h
      exact ⟨_, s.cyc + s.tripLen, h, rfl, rfl, function_updFunction s f requested, Nat.lt_add_of_pos_right (tripLen_pos s), rfl⟩
    have hanswers (ev : Instr) (n : Nat) (bs : List Byte) (h : exec ev s = .next (answerDoe s f n bs)) : answers ev n bs := by
      refine ⟨fun he => by rw [h, answerDoe_of_ended he], fun hb hn => ?_⟩
      rw [answerDoe_of_asked hb hn] at h
      obtain ⟨s', hs, hframe, hx⟩ := sets_function h
      refine ⟨s', hs, hframe, congrArg (·.doeBusy) hx, (congrArg (·.doe) hx).trans ?_⟩
      cases s.boot.failed <;> rfl
    refine ⟨fun hf => ⟨fun ha => hasks _ _ hf ?_, fun ha => ⟨hasks _ _ hf ?_, hasks _ _ hf ?_⟩⟩, fun n ha => hanswers _ _ _ ?_,
      fun n ha => ⟨hanswers _ _ _ ?_, hanswers _ _ _ ?_⟩, ?_⟩
    · simp only [exec_doeDiscovery, execDoeDiscovery, ha]
    · simp only [exec_doeIdeKm, execDoeIdeKm, ha]
    · simp only [exec_doeAttestation, execDoeAttestation, ha]
    · simp only [exec_doeDiscovery, execDoeDiscovery, ha]; rfl
    · simp only [exec_doeIdeKm, execDoeIdeKm, ha]
    · simp only [exec_doeAttestation, execDoeAttestation, ha]; rfl
    · rw [show types = _ from doeEntries_doeTypes]; exact ⟨rfl, rfl, rfl, rfl⟩
  case flit =>
    intro s port f x ev nack acked before
    have hnack (hp : port < 16) (h : Config.crc32 (flitBody f) ≠ f.crc ∨ (f.kind = 1 ∧ f.seq ≠ x.expected)) : nack :=
      ⟨_, controlFlit f 3 x.expected, linkFlitReceive_of_refused hp h, rfl, link_setLink .., rfl, rfl, rfl⟩
    refine ⟨linkFlitReceive_of_noPort, fun hp hc => hnack hp (.inl hc), fun hp _ hk hseq => hnack hp (.inr ⟨hk, hseq⟩),
      fun hp hc hk hseq => ?_, fun hp hc hk => ?_, fun hp hc hk => ?_, linkFlitReceive_of_otherKind⟩
    · exact ⟨_, controlFlit f 2 f.seq, linkFlitReceive_of_expected hp hc hk hseq, rfl, link_setLink .., rfl, rfl, rfl⟩
    · have hkeep : (acknowledged x f).replay = x.replay.filter fun e => decide (¬ acked e) := by
        simp only [acknowledged, acked, Nat.not_lt]
      rw [← hkeep]; exact linkFlitReceive_ack_spec hp hc hk
    · have hagain : askedAgain x f = x.replay.filter fun e => decide (¬ before e) := by simp only [before, not_not, askedAgain]
      rw [← hagain]; exact linkFlitReceive_nack_spec hp hc hk
  case timeout =>
    intro s port seq ha x
    refine ⟨linkReplayTimeout_of_early ha, fun e he hs ht => ⟨_, linkReplayTimeout_of_due ha he hs ht, ?_⟩⟩
    rw [armReplay_eq]
    exact ⟨rfl, congrArg (·.out) (link_setLink ..), congrArg (·.replay) (link_setLink ..)⟩
  case route =>
    intro s m mask
    by_cases hm : 4096 ≤ m
    · exact ⟨{ s with refused := some .form }, (exec_routeTableWrite ..).trans (if_pos hm), rfl, fun _ => ⟨rfl, rfl⟩, fun h => by omega⟩
    · exact ⟨{ s with routes := s.routes.put 0 m mask, refused := none }, (exec_routeTableWrite ..).trans (if_neg hm), rfl, fun h => absurd h hm,
        fun _ => ⟨rfl, SMap.getD_put_self .., fun k hk => SMap.getD_put_ne _ hk⟩⟩

end Sys2Proof.Proofs
end

section
/-! The instruction word (R11 to R30, R55 to R63): decoding and encoding are inverse to each other, field by field: the families of
`FN` values, the parts of `MOD`, the operand fields, the rows of the opcode table, and the checks of R28. -/

namespace Sys2Proof

/-! ### Fields of a word (R11) -/

/-- The fields of a packed word are those it was packed from. -/
theorem unpack_pack (f : Fields) : unpack (pack f) = f := by
  let w := f.op ++ f.fn ++ f.gn ++ f.gp ++ f.hint ++ f.mod ++ f.opd ++ f.lo
  change Fields.mk (w.extractLsb' 88 8) (w.extractLsb' 80 8) (w.extractLsb' 79 1) (w.extractLsb' 76 3) (w.extractLsb' 68 8)
    (w.extractLsb' 60 8) (w.extractLsb' 40 20) (w.extractLsb' 0 40) = f
  simp (disch := decide) only [w, BitVec.extractLsb'_append_eq_of_le, BitVec.extractLsb'_append_eq_of_add_le, Nat.reduceSub,
    BitVec.extractLsb'_eq_self]

/-- A word is packed from its fields. -/
theorem pack_unpack (w : InstrWord) : pack (unpack w) = w := by
  change w.extractLsb' 88 8 ++ w.extractLsb' 80 8 ++ w.extractLsb' 79 1 ++ w.extractLsb' 76 3 ++ w.extractLsb' 68 8 ++
    w.extractLsb' 60 8 ++ w.extractLsb' 40 20 ++ w.extractLsb' 0 40 = w
  iterate 7 rw [BitVec.extractLsb'_append_extractLsb'_eq_extractLsb' (by rfl)]
  exact BitVec.extractLsb'_eq_self

/-! ### Variants in `FN` (R27, R55 to R63): what a family of `FN` values is read from, and what it is read as -/

@[simp] theorem rdW_fnW (w : Width) : rdW (fnW w) = some w := by cases w <;> rfl
@[simp] theorem rdWu_fnWu (w : Width) (u : Bool) : rdWu (fnWu w u) = some (w, u) := by cases w <;> cases u <;> rfl
@[simp] theorem rdWus_fnWus (w : Width) (u st : Bool) : rdWus (fnWus w u st) = some (w, u, st) := by
  cases w <;> cases u <;> cases st <;> rfl
@[simp] theorem rdWs_fnWs (w : Width) (st : Bool) : rdWs (fnWs w st) = some (w, st) := by cases w <;> cases st <;> rfl
@[simp] theorem rdCmp_fnCmp (w : Width) (u : Bool) {c : Cond} (h : c.ordered = true) : rdCmp (fnCmp w u c) = some (w, u, c) := by
  cases c <;> cases h <;> cases w <;> cases u <;> rfl
@[simp] theorem rdTable_fnTable : ∀ t, rdTable (fnTable t) = some t := by decide
@[simp] theorem rdFmt_fnFmt (f : FFmt) : rdFmt (fnFmt f) = some f := by cases f <;> rfl
@[simp] theorem rdFcmp_fnFcmp (f : FFmt) (c : Cond) : rdFcmp (fnFcmp f c) = some (f, c) := by cases f <;> cases c <;> rfl
@[simp] theorem rdCvt_fnCvt (k : CvtKind) : rdCvt (fnCvt k) = some k := by
  cases k with
  | ff src dst => cases src <;> cases dst <;> rfl
  | fi src u => cases src <;> cases u <;> rfl
  | fromInt dst u => cases dst <;> cases u <;> rfl
@[simp] theorem rdLd_fnLd {s : Size} {u : Bool} (h : (!u || s == .s1 || s == .s2 || s == .s4) = true) :
    rdLd (fnLd s u) = some (s, u) := by cases s <;> cases u <;> cases h <;> rfl
@[simp] theorem rdSize_fnSize (s : Size) : rdSize (fnSize s) = some s := by cases s <;> rfl
@[simp] theorem rdAop_fnAop (op : AtomOp) (wide : Bool) (ord : Order) : rdAop (fnAop op wide ord) = some (op, wide, ord) := by
  cases op <;> cases wide <;> cases ord <;> rfl
@[simp] theorem rdAtom_fnAtom (wide : Bool) (ord : Order) : rdAtom (fnAtom wide ord) = some (wide, ord) := by
  cases wide <;> cases ord <;> rfl
@[simp] theorem rdAld_fnAtom (wide : Bool) {ord : Order} (h : (ord == .rlx || ord == .acq) = true) :
    rdAld (fnAtom wide ord) = some (wide, ord) := by cases wide <;> cases ord <;> cases h <;> rfl
@[simp] theorem rdAst_fnAtom (wide : Bool) {ord : Order} (h : (ord == .rlx || ord == .rel) = true) :
    rdAst (fnAtom wide ord) = some (wide, ord) := by cases wide <;> cases ord <;> cases h <;> rfl
@[simp] theorem rdTag18_fnTag : ∀ t : BitVec 4, (decide (1 ≤ t.toNat) && decide (t.toNat ≤ 8)) = true → rdTag18 (fnTag t) = some t := by
  decide
@[simp] theorem rdTag915_fnTag : ∀ t : BitVec 4, decide (9 ≤ t.toNat) = true → rdTag915 (fnTag t) = some t := by decide
@[simp] theorem rdTag58_fnTag : ∀ t : BitVec 4, (decide (5 ≤ t.toNat) && decide (t.toNat ≤ 8)) = true → rdTag58 (fnTag t) = some t := by
  decide
@[simp] theorem rdArith_fnArith (a : Bool) : rdArith (fnArith a) = some a := by cases a <;> rfl
@[simp] theorem rdCond_fnCond (c : Cond) : rdCond (fnCond c) = some c := by cases c <;> rfl
@[simp] theorem rdRed_fnRed (o : RedOp) : rdRed (fnRed o) = some o := by cases o <;> rfl
@[simp] theorem rdKcmp_fnKcmp {c : Cond} (back : Bool) (h : c.ordered = true) : rdKcmp (fnKcmp c back) = some (c, back) := by
  cases c <;> cases h <;> cases back <;> rfl
@[simp] theorem rdMlog_fnMlog (f : MlogFn) : rdMlog (fnMlog f) = some f := by cases f <;> rfl

theorem fnW_of_rdW : ∀ b, ∀ w ∈ rdW b, fnW w = b := by decide +kernel
theorem fnWu_of_rdWu : ∀ b, ∀ x ∈ rdWu b, fnWu x.1 x.2 = b := by decide +kernel
theorem fnWus_of_rdWus : ∀ b, ∀ x ∈ rdWus b, fnWus x.1 x.2.1 x.2.2 = b := by decide +kernel
theorem fnWs_of_rdWs : ∀ b, ∀ x ∈ rdWs b, fnWs x.1 x.2 = b := by decide +kernel
theorem fnCmp_of_rdCmp : ∀ b, ∀ x ∈ rdCmp b, fnCmp x.1 x.2.1 x.2.2 = b ∧ x.2.2.ordered = true := by decide +kernel
theorem fnTable_of_rdTable : ∀ b, ∀ t ∈ rdTable b, fnTable t = b := by decide +kernel
theorem fnFmt_of_rdFmt : ∀ b, ∀ f ∈ rdFmt b, fnFmt f = b := by decide +kernel
theorem fnFcmp_of_rdFcmp : ∀ b, ∀ x ∈ rdFcmp b, fnFcmp x.1 x.2 = b := by decide +kernel
theorem fnCvt_of_rdCvt : ∀ b, ∀ k ∈ rdCvt b, fnCvt k = b := by decide +kernel
theorem fnLd_of_rdLd : ∀ b, ∀ x ∈ rdLd b, fnLd x.1 x.2 = b ∧ (!x.2 || x.1 == .s1 || x.1 == .s2 || x.1 == .s4) = true := by decide +kernel
theorem fnSize_of_rdSize : ∀ b, ∀ s ∈ rdSize b, fnSize s = b := by decide +kernel
theorem fnAop_of_rdAop : ∀ b, ∀ x ∈ rdAop b, fnAop x.1 x.2.1 x.2.2 = b := by decide +kernel
theorem fnAtom_of_rdAtom : ∀ b, ∀ x ∈ rdAtom b, fnAtom x.1 x.2 = b := by decide +kernel
theorem fnAtom_of_rdAld : ∀ b, ∀ x ∈ rdAld b, fnAtom x.1 x.2 = b ∧ (x.2 == .rlx || x.2 == .acq) = true := by decide +kernel
theorem fnAtom_of_rdAst : ∀ b, ∀ x ∈ rdAst b, fnAtom x.1 x.2 = b ∧ (x.2 == .rlx || x.2 == .rel) = true := by decide +kernel
theorem fnTag_of_rdTag18 : ∀ b, ∀ t ∈ rdTag18 b, fnTag t = b ∧ (decide (1 ≤ t.toNat) && decide (t.toNat ≤ 8)) = true := by decide +kernel
theorem fnTag_of_rdTag915 : ∀ b, ∀ t ∈ rdTag915 b, fnTag t = b ∧ decide (9 ≤ t.toNat) = true := by decide +kernel
theorem fnTag_of_rdTag58 : ∀ b, ∀ t ∈ rdTag58 b, fnTag t = b ∧ (decide (5 ≤ t.toNat) && decide (t.toNat ≤ 8)) = true := by decide +kernel
theorem fnArith_of_rdArith : ∀ b, ∀ a ∈ rdArith b, fnArith a = b := by decide +kernel
theorem fnCond_of_rdCond : ∀ b, ∀ c ∈ rdCond b, fnCond c = b := by decide +kernel
theorem fnRed_of_rdRed : ∀ b, ∀ o ∈ rdRed b, fnRed o = b := by decide +kernel
theorem fnKcmp_of_rdKcmp : ∀ b, ∀ x ∈ rdKcmp b, fnKcmp x.1 x.2 = b ∧ x.1.ordered = true := by decide +kernel
theorem fnMlog_of_rdMlog : ∀ b, ∀ f ∈ rdMlog b, fnMlog f = b := by decide +kernel

/-! ### Use of `MOD` (R23 to R26, R38) -/

/-- The eight bits of `MOD`, put together from their parts. -/
theorem modOf_of_parts : ∀ m : BitVec 8, (m.extractLsb' 0 3).toNat < 6 →
    modOf (Rnd.ofCode (m.extractLsb' 0 3)) (m.getLsbD 3) (m.extractLsb' 4 3) (m.getLsbD 7) = m := by decide +kernel

/-! ### Operand fields (R14, R36) -/

theorem fieldCls_append (c : BitVec 3) (v : BitVec 17) : fieldCls (c ++ v) = c := BitVec.extractLsb'_append_eq_left
theorem fieldVal_append (c : BitVec 3) (v : BitVec 17) : fieldVal (c ++ v) = v := BitVec.extractLsb'_append_eq_right
theorem fieldCls_append_fieldVal (b : BitVec 20) : fieldCls b ++ fieldVal b = b := by
  rw [fieldCls, fieldVal, BitVec.extractLsb'_append_extractLsb'_eq_extractLsb' (by rfl)]
  exact BitVec.extractLsb'_eq_self

theorem XReg.num_of_ofNum : ∀ n, ∀ r ∈ XReg.ofNum n, r.num = n := by decide +kernel

/-- An operand that has a field of its own. -/
def Opnd.encodable : Opnd → Bool
  | .none | .wide _ => false
  | _ => true

theorem rdOpnd_enc {o : Opnd} (h : o.encodable = true) : rdOpnd o.enc = o ∧ valueOk o.enc = true := by
  cases o with
  | none => cases h
  | wide v => cases h
  | g n => revert n; decide +kernel
  | v n => revert n; decide
  | k n => revert n; decide
  | p n => revert n; decide
  | m n => revert n; decide
  | q n => revert n; decide
  | s n => revert n; decide
  | x r => cases r <;> decide
  | acc n => revert n; decide
  | bg n => revert n; decide +kernel
  | imm v => simp [rdOpnd, valueOk, Opnd.enc, fieldCls_append, fieldVal_append]

theorem append_fieldVal {b : BitVec 20} (c : BitVec 3) (h : (fieldCls b).toNat = c.toNat) :
    c ++ BitVec.ofNat 17 (fieldVal b).toNat = b := by
  rw [← BitVec.eq_of_toNat_eq h, BitVec.ofNat_toNat, BitVec.setWidth_eq, fieldCls_append_fieldVal]

/-- A field of class 110, from the five bits of its sub-kind and the twelve of its value. -/
theorem append_subKind {b : BitVec 20} (k : BitVec 5) (hc : (fieldCls b).toNat = 6)
    (hk : (fieldVal b).toNat / 4096 = k.toNat) : 6#3 ++ k ++ (fieldVal b).extractLsb' 0 12 = b := by
  have hs : b.extractLsb' 12 5 = k := BitVec.eq_of_toNat_eq (by
    rw [← hk, fieldVal, BitVec.extractLsb'_toNat, BitVec.extractLsb'_toNat]; omega)
  have hc : fieldCls b = 6#3 := BitVec.eq_of_toNat_eq hc
  have hv : (fieldVal b).extractLsb' 0 12 = b.extractLsb' 0 12 := by
    rw [fieldVal, BitVec.extractLsb'_extractLsb'_of_le (by decide)]
  rw [← hs, ← hc, hv, fieldCls, BitVec.extractLsb'_append_extractLsb'_eq_extractLsb' (by rfl),
    BitVec.extractLsb'_append_extractLsb'_eq_extractLsb' (by rfl)]
  exact BitVec.extractLsb'_eq_self

/-- A field whose value bits are legal is the field of an operand (R14). -/
theorem exists_enc_of_valueOk {b : BitVec 20} (h : valueOk b = true) : ∃ o : Opnd, o.encodable = true ∧ o.enc = b := by
  have hlow : BitVec.ofNat 12 ((fieldVal b).toNat % 4096) = (fieldVal b).extractLsb' 0 12 := BitVec.eq_of_toNat_eq (by simp)
  unfold valueOk at h
  dsimp only at h
  split at h
  case h_1 hc => exact ⟨.g ⟨_, of_decide_eq_true h⟩, rfl, append_fieldVal 0#3 hc⟩
  case h_2 hc => exact ⟨.v ⟨_, of_decide_eq_true h⟩, rfl, append_fieldVal 1#3 hc⟩
  case h_3 hc => exact ⟨.k ⟨_, of_decide_eq_true h⟩, rfl, append_fieldVal 2#3 hc⟩
  case h_4 hc =>
    have hlt := of_decide_eq_true h
    by_cases h8 : (fieldVal b).toNat < 8
    · exact ⟨.p ⟨_, h8⟩, rfl, append_fieldVal 3#3 hc⟩
    · refine ⟨.m ⟨(fieldVal b).toNat - 8, by omega⟩, rfl, ?_⟩
      rw [Opnd.enc, show 8 + ((fieldVal b).toNat - 8) = (fieldVal b).toNat by omega, append_fieldVal 3#3 hc]
  case h_5 hc => exact ⟨.q ⟨_, of_decide_eq_true h⟩, rfl, append_fieldVal 4#3 hc⟩
  case h_6 hc => exact ⟨.s ⟨_, of_decide_eq_true h⟩, rfl, append_fieldVal 5#3 hc⟩
  case h_7 hc =>
    split at h
    case h_1 hk =>
      obtain ⟨r, hr⟩ := Option.isSome_iff_exists.mp h
      exact ⟨.x r, rfl, by rw [Opnd.enc, XReg.num_of_ofNum _ r hr, append_subKind 0#5 hc hk]⟩
    case h_2 hk => exact ⟨.acc ⟨_, of_decide_eq_true h⟩, rfl, by rw [Opnd.enc, hlow, append_subKind 1#5 hc hk]⟩
    case h_3 hk => exact ⟨.bg ⟨_, of_decide_eq_true h⟩, rfl, by rw [Opnd.enc, hlow, append_subKind 2#5 hc hk]⟩
    case h_4 => cases h
  case h_8 h0 h1 h2 h3 h4 h5 h6 =>
    have hc : (fieldCls b).toNat = 7 := by clear hlow; generalize fieldCls b = c at *; revert c; decide
    exact ⟨.imm (fieldVal b), rfl, by rw [Opnd.enc]; simpa using append_fieldVal 7#3 hc⟩

/-- A class that one entry of a list makes listed is listed. -/
theorem classOk_of_mem {b : BitVec 20} {cs : List Cls} {c : Cls} (hc : c ∈ cs) (h : classOk b [c] = true) : classOk b cs = true := by
  have hany {p : Cls → Bool} (hp : [c].any p = true) : cs.any p = true :=
    List.any_eq_true.mpr ⟨c, hc, by simpa using hp⟩
  have hmem {e : Cls} (h : [c].contains e = true) : cs.contains e = true := by simp_all
  unfold classOk at h ⊢
  dsimp only at h ⊢
  split at h
  case h_1 => exact hany h
  case h_2 => exact hmem h
  case h_3 => exact hmem h
  case h_4 => split at h <;> simp only [*, if_true, if_false, hmem h]
  case h_5 => exact hany h
  case h_6 => exact hmem h
  case h_7 =>
    split at h
    case h_1 => exact hany h
    case h_2 => exact hmem h
    case h_3 => exact hmem h
    case h_4 =>
      obtain (h | h) | h := by simpa only [Bool.or_eq_true] using h
      · simp only [hany h, Bool.true_or]
      · simp only [hmem h, Bool.or_true, Bool.true_or]
      · simp only [hmem h, Bool.or_true]
  case h_8 => exact hany h

/-- The field of an operand of a kind has that kind's class. -/
theorem classOk_of_fits {o : Opnd} {c : Cls} (h : o.fits c = true) : classOk o.enc [c] = true := by
  cases o with
  | none => cases h
  | wide v => cases h
  | g n => cases c <;> simp [Opnd.fits] at h <;> (revert n; decide +kernel)
  | v n => cases c <;> simp [Opnd.fits] at h; revert n; decide
  | k n => cases c <;> simp [Opnd.fits] at h; revert n; decide
  | p n => cases c <;> simp [Opnd.fits] at h; revert n; decide
  | m n => cases c <;> simp [Opnd.fits] at h; revert n; decide
  | q n => cases c <;> simp [Opnd.fits] at h <;> (revert n; decide)
  | s n => cases c <;> simp [Opnd.fits] at h; revert n; decide
  | x r => cases c <;> simp [Opnd.fits] at h <;> (cases r <;> decide)
  | acc n => cases c <;> simp [Opnd.fits] at h; revert n; decide
  | bg n => cases c <;> simp [Opnd.fits] at h; revert n; decide +kernel
  | imm z => cases c <;> simp_all [Opnd.fits, classOk, Opnd.enc, fieldCls_append]

theorem Opnd.encodable_of_fits {o : Opnd} {c : Cls} (h : o.fits c = true) : o.encodable = true := by
  cases o with
  | none => cases h
  | wide v => cases h
  | _ => rfl

/-- A field passes its checks where it is zero and unused, or where it is the field of an operand that the entry admits. -/
theorem checkField_none_iff {k : Nat} {b : BitVec 20} {cs : List Cls} :
    checkField k b cs = none ↔ if cs = [] then b = 0 else (rdOpnd b).admitted cs = true ∧ (rdOpnd b).enc = b := by
  unfold checkField
  by_cases hcs : cs = []
  · simp [hcs]
  have hadm (o : Opnd) : o.admitted cs = cs.any o.fits := if_neg hcs
  rw [if_neg hcs, if_neg hcs]
  constructor
  · intro h
    split at h
    · cases h
    split at h
    · next hv =>
      obtain ⟨hv, ha⟩ := Bool.and_eq_true_iff.mp hv
      obtain ⟨o, ho, rfl⟩ := exists_enc_of_valueOk hv
      exact ⟨ha, by rw [(rdOpnd_enc ho).1]⟩
    · cases h
  · rintro ⟨ha, he⟩
    obtain ⟨c, hc, hf⟩ := List.any_eq_true.mp (hadm _ ▸ ha)
    have hcls := classOk_of_mem hc (classOk_of_fits hf)
    have hv := (rdOpnd_enc (Opnd.encodable_of_fits hf)).2
    rw [he] at hcls hv
    simp [hcls, hv, ha]

/-- The field of an operand that an entry admits passes its checks, and the operand is read back from it where the entry uses
the field. -/
theorem checkField_enc {o : Opnd} {cs : List Cls} (k : Nat) (h : o.admitted cs = true) : checkField k o.enc cs = none := by
  rw [checkField_none_iff]
  split
  · next hcs => subst hcs; simp [Opnd.admitted] at h; subst h; rfl
  · next hcs =>
    obtain ⟨c, hc, hf⟩ := List.any_eq_true.mp ((if_neg hcs).symm.trans h)
    rw [(rdOpnd_enc (Opnd.encodable_of_fits hf)).1]
    exact ⟨h, rfl⟩

/-- What an operand field is read as, for an entry that admits `cs` in it: nothing where the field is unused. -/
def readField (cs : List Cls) (b : BitVec 20) : Opnd := if cs = [] then .none else rdOpnd b

theorem readField_enc {o : Opnd} {cs : List Cls} (h : o.admitted cs = true) : readField cs o.enc = o := by
  unfold readField
  split
  · next hcs => subst hcs; simp [Opnd.admitted] at h; exact h.symm
  · next hcs =>
    obtain ⟨c, hc, hf⟩ := List.any_eq_true.mp ((if_neg hcs).symm.trans h)
    exact (rdOpnd_enc (Opnd.encodable_of_fits hf)).1

theorem readField_of_check {k : Nat} {b : BitVec 20} {cs : List Cls} (h : checkField k b cs = none) :
    (readField cs b).admitted cs = true ∧ (readField cs b).enc = b := by
  rw [checkField_none_iff] at h
  unfold readField
  split at h <;> simp_all [Opnd.admitted, Opnd.enc]

/-! ### What an entry of the opcode table reads of the fields -/

theorem readField_of_ne {cs : List Cls} {b : BitVec 20} (h : cs ≠ []) : readField cs b = rdOpnd b := if_neg h

namespace Shape
variable (s : Shape) (f : Fields)

/-- A word of the wide form of R26. -/
def isWide : Bool := s.wi && f.wi
/-- Operands D, A and B; in the wide form A is D. -/
def opD : Opnd := readField s.d f.opd
def opA : Opnd := if s.a = [] then .none else if s.isWide f then s.opD f else rdOpnd f.opa
def opB : Opnd := if s.isWide f then .wide f.lo else readField s.b f.opb
/-- The bits of `MOD`[6:4] that carry a variant. -/
def opM : BitVec 3 :=
  match s.m with
  | .zero => 0
  | .low1 => bit3 f.m0
  | .low2 => bit3of2 f.m01
  | .any => f.m
/-- `MOD`, of the bits that the entry uses. -/
def opMod : BitVec 8 := modOf (if s.rnd then f.rnd else .dyn) (s.sat && f.sat) (s.opM f) (s.isWide f)

end Shape

/-- An instruction of the row that a word's `OP` and `FN` name, with what its entry reads of the word. -/
structure Fields.Holds (f : Fields) (i : Instr) : Prop where
  operands : i.operands = some (i.shape.opD f, i.shape.opA f, i.shape.opB f)
  fields : fieldsOf i = some (mkFields f.op f.fn f.ctl (i.shape.opMod f) (i.shape.opD f) (i.shape.opA f) (i.shape.opB f))
  variant : i.variantOk = true

/-- What is read from a field is no wide immediate. -/
@[simp] theorem rdOpnd_isWide (b : BitVec 20) : (rdOpnd b).isWide = false := by
  unfold rdOpnd
  dsimp only
  repeat' split
  all_goals rfl

theorem Fields.wb_isWide (f : Fields) : f.wb.isWide = f.wi := by
  unfold Fields.wb
  split
  · next h => exact h.symm
  · next h => exact (rdOpnd_isWide _).trans (Bool.eq_false_iff.mpr h).symm

theorem Fields.segBits_mem (f : Fields) : segBits f.mem = f.m := by
  refine BitVec.eq_of_toNat_eq ?_
  have := f.m.isLt
  simp only [segBits, Fields.mem, Fin.ofNat, BitVec.toNat_ofNat]; omega

theorem sendrValue_ne_nil (d : Opnd) : sendrValue d ≠ [] := by cases d <;> exact List.cons_ne_nil _ _

/-! ### The rows of the opcode table: what a word of a row holds -/

section
variable {f : Fields} {i : Instr}

/-- An instruction with a row's `OP`, `FN` and use of `MOD`, and the operands that its entry reads. -/
theorem Fields.Holds.intro {op fn mod : BitVec 8} {d a b : Opnd}
    (hi : fieldsOf i = some (mkFields op fn f.ctl mod d a b)) (ho : i.operands = some (d, a, b))
    (hop : f.op.toNat = op.toNat) (hfn : fn = f.fn) (hmod : mod = i.shape.opMod f)
    (hd : d = i.shape.opD f) (ha : a = i.shape.opA f) (hb : b = i.shape.opB f) (hv : i.variantOk = true) : f.Holds i := by
  obtain rfl := BitVec.eq_of_toNat_eq hop
  subst hfn hmod hd ha hb
  exact ⟨ho, hi, hv⟩

/-- A row with one value of `FN`. -/
theorem holds_of_fn {n : BitVec 8} {j : Instr} (h : (if f.fn = n then some j else none) = some i)
    (hj : n = f.fn → f.Holds j) : f.Holds i := by
  obtain ⟨hn, rfl⟩ : f.fn = n ∧ j = i := by simpa using h
  exact hj hn.symm

/-- A row of a forward form, `FN` 0, and a backward form, `FN` 1 (R63). -/
theorem holds_of_pair {j k : Instr} (h : (if f.fn = 0 then some j else if f.fn = 1 then some k else none) = some i)
    (hj : 0 = f.fn → f.Holds j) (hk : 1 = f.fn → f.Holds k) : f.Holds i := by
  split at h
  · next hn => exact Option.some.inj h ▸ hj hn.symm
  · exact holds_of_fn h hk

/-- A row with a family of values of `FN`. -/
theorem holds_of_family {α : Type} {rd : BitVec 8 → Option α} {j : α → Instr} (h : (rd f.fn).map j = some i)
    (hj : ∀ x ∈ rd f.fn, f.Holds (j x)) : f.Holds i := by
  obtain ⟨x, hx, rfl⟩ := Option.map_eq_some_iff.mp h
  exact hj x hx

theorem buildInt_holds (h : buildInt f = some i) : f.Holds i := by
  have wide (r : Rnd) (t : Bool) (m : BitVec 3) := congrArg (modOf r t m) f.wb_isWide
  unfold buildInt at h
  split at h
  case h_17 hop | h_18 hop | h_19 hop | h_20 hop | h_21 hop | h_22 hop | h_23 hop =>
    exact holds_of_family h fun _ hx => .intro rfl rfl hop (fnW_of_rdW _ _ hx) rfl rfl rfl rfl rfl
  case h_2 hop | h_7 hop | h_8 hop | h_9 hop | h_26 hop =>
    exact holds_of_family h fun _ hx => .intro rfl rfl hop (fnWu_of_rdWu _ _ hx) rfl rfl rfl rfl rfl
  case h_3 hop | h_10 hop | h_11 hop =>
    exact holds_of_family h fun _ hx => .intro rfl rfl hop (fnWu_of_rdWu _ _ hx) (wide ..) rfl rfl rfl rfl
  case h_4 hop | h_5 hop =>
    exact holds_of_family h fun _ hx => .intro rfl rfl hop (fnWus_of_rdWus _ _ hx) (wide ..) rfl rfl rfl rfl
  case h_6 hop => exact holds_of_family h fun _ hx => .intro rfl rfl hop (fnWus_of_rdWus _ _ hx) rfl rfl rfl rfl rfl
  case h_12 hop => exact holds_of_family h fun _ hx => .intro rfl rfl hop (fnWs_of_rdWs _ _ hx) rfl rfl rfl rfl rfl
  case h_28 hop =>
    refine holds_of_family h fun ⟨w, u, c⟩ hx => ?_
    obtain ⟨hfn, hc⟩ := fnCmp_of_rdCmp _ _ hx
    have hd : (Instr.cmp f.ctl w u c f.d f.wa f.wb).shape.opD f = f.d :=
      readField_of_ne (by dsimp only [Instr.shape]; split <;> simp)
    exact .intro rfl rfl hop hfn (wide ..) hd.symm (by rw [Shape.opA, hd]; rfl) rfl hc
  case h_29 hop => exact holds_of_family h fun _ hx => .intro rfl rfl hop (fnTable_of_rdTable _ _ hx) rfl rfl rfl rfl rfl
  case h_13 hop | h_14 hop | h_15 hop | h_16 hop =>
    exact holds_of_fn h fun hfn => .intro rfl rfl hop hfn (wide ..) rfl rfl rfl rfl
  case h_30 hop =>
    exact holds_of_fn h fun hfn => .intro rfl rfl hop hfn rfl
      (readField_of_ne (by dsimp only [Instr.shape]; split <;> simp)).symm rfl rfl rfl
  case h_32 => cases h
  all_goals
    next hop => exact holds_of_fn h fun hfn => .intro rfl rfl hop hfn rfl rfl rfl rfl rfl

theorem buildFloat_holds (h : buildFloat f = some i) : f.Holds i := by
  unfold buildFloat at h
  split at h
  case h_11 hop => exact holds_of_family h fun _ hx => .intro rfl rfl hop (fnFcmp_of_rdFcmp _ _ hx) rfl rfl rfl rfl rfl
  case h_12 hop => exact holds_of_family h fun _ hx => .intro rfl rfl hop (fnCvt_of_rdCvt _ _ hx) rfl rfl rfl rfl rfl
  case h_15 => cases h
  all_goals
    next hop => exact holds_of_family h fun _ hx => .intro rfl rfl hop (fnFmt_of_rdFmt _ _ hx) rfl rfl rfl rfl rfl

theorem buildCtl_holds (h : buildCtl f = some i) : f.Holds i := by
  unfold buildCtl at h
  split at h
  case h_10 => cases h
  all_goals
    next hop => exact holds_of_fn h fun hfn => .intro rfl rfl hop hfn rfl rfl rfl rfl rfl

theorem buildMem_holds (h : buildMem f = some i) : f.Holds i := by
  have seg := congrArg (modOf .dyn false · false) f.segBits_mem
  unfold buildMem at h
  split at h
  case h_1 hop =>
    refine holds_of_family h fun ⟨z, u⟩ hx => ?_
    obtain ⟨hfn, hz⟩ := fnLd_of_rdLd _ _ hx
    exact .intro rfl rfl hop hfn seg (readField_of_ne (by dsimp only [Instr.shape]; split <;> simp [cReg])).symm rfl rfl hz
  case h_2 hop =>
    exact holds_of_family h fun z hx => .intro rfl rfl hop (fnSize_of_rdSize _ _ hx) seg
      (readField_of_ne (by dsimp only [Instr.shape]; split <;> simp [cInt])).symm rfl rfl rfl
  case h_10 hop => exact holds_of_family h fun _ hx => .intro rfl rfl hop (fnAop_of_rdAop _ _ hx) seg rfl rfl rfl rfl
  case h_11 hop => exact holds_of_family h fun _ hx => .intro rfl rfl hop (fnAtom_of_rdAtom _ _ hx) seg rfl rfl rfl rfl
  case h_12 hop =>
    exact holds_of_family h fun _ hx => .intro rfl rfl hop (fnAtom_of_rdAld _ _ hx).1 seg rfl rfl rfl (fnAtom_of_rdAld _ _ hx).2
  case h_13 hop =>
    exact holds_of_family h fun _ hx => .intro rfl rfl hop (fnAtom_of_rdAst _ _ hx).1 seg rfl rfl rfl (fnAtom_of_rdAst _ _ hx).2
  case h_7 hop | h_14 hop | h_15 hop | h_16 hop => exact holds_of_fn h fun hfn => .intro rfl rfl hop hfn rfl rfl rfl rfl rfl
  case h_18 => cases h
  all_goals
    next hop => exact holds_of_fn h fun hfn => .intro rfl rfl hop hfn seg rfl rfl rfl rfl

theorem buildVec_holds (h : buildVec f = some i) : f.Holds i := by
  have seg := congrArg (modOf .dyn false · false) f.segBits_mem
  unfold buildVec at h
  split at h
  case h_19 hop => exact holds_of_family h fun _ hx => .intro rfl rfl hop (fnArith_of_rdArith _ _ hx) rfl rfl rfl rfl rfl
  case h_20 hop => exact holds_of_family h fun _ hx => .intro rfl rfl hop (fnCond_of_rdCond _ _ hx) rfl rfl rfl rfl rfl
  case h_22 hop =>
    exact holds_of_family h fun _ hx => .intro rfl rfl hop (fnTag_of_rdTag18 _ _ hx).1 rfl rfl rfl rfl (fnTag_of_rdTag18 _ _ hx).2
  case h_23 hop =>
    exact holds_of_family h fun _ hx => .intro rfl rfl hop (fnTag_of_rdTag915 _ _ hx).1 rfl rfl rfl rfl (fnTag_of_rdTag915 _ _ hx).2
  case h_24 hop =>
    exact holds_of_family h fun _ hx => .intro rfl rfl hop (fnTag_of_rdTag58 _ _ hx).1 rfl rfl rfl rfl (fnTag_of_rdTag58 _ _ hx).2
  case h_26 hop =>
    refine holds_of_fn h fun hfn => .intro rfl rfl hop hfn rfl rfl rfl ?_ rfl
    show f.bcastB = readField (if f.a.isVec then cInt else []) f.opb
    unfold Fields.bcastB
    split <;> rfl
  case h_29 hop | h_30 hop => exact holds_of_family h fun _ hx => .intro rfl rfl hop (fnRed_of_rdRed _ _ hx) rfl rfl rfl rfl rfl
  case h_32 hop | h_34 hop => exact holds_of_family h fun _ hx => .intro rfl rfl hop (fnTable_of_rdTable _ _ hx) seg rfl rfl rfl rfl
  case h_36 hop => exact holds_of_family h fun _ hx => .intro rfl rfl hop (fnTable_of_rdTable _ _ hx) rfl rfl rfl rfl rfl
  case h_33 hop | h_35 hop => exact holds_of_fn h fun hfn => .intro rfl rfl hop hfn seg rfl rfl rfl rfl
  case h_40 => cases h
  all_goals
    next hop => exact holds_of_fn h fun hfn => .intro rfl rfl hop hfn rfl rfl rfl rfl rfl

theorem buildIvl_holds (h : buildIvl f = some i) : f.Holds i := by
  have seg := congrArg (modOf .dyn false · false) f.segBits_mem
  unfold buildIvl at h
  split at h
  case h_25 hop =>
    refine holds_of_family h fun ⟨c, back⟩ hx => ?_
    obtain ⟨hfn, hc⟩ := fnKcmp_of_rdKcmp _ _ hx
    cases back <;> exact .intro rfl rfl hop hfn rfl rfl rfl rfl hc
  case h_28 hop | h_29 hop => exact holds_of_fn h fun hfn => .intro rfl rfl hop hfn seg rfl rfl rfl rfl
  case h_31 hop =>
    refine holds_of_fn h fun hfn => .intro rfl rfl hop hfn rfl rfl rfl ?_ rfl
    exact (readField_of_ne (by dsimp only [Instr.shape]; split <;> simp)).symm
  case h_32 hop =>
    refine holds_of_family h fun fn hx => .intro rfl rfl hop (fnMlog_of_rdMlog _ _ hx) rfl ?_ rfl ?_ rfl
    · exact (readField_of_ne (by dsimp only [Instr.shape]; split <;> simp)).symm
    · show _ = readField (if fn.unary then [] else [.m]) f.opb
      split <;> rfl
  case h_33 => cases h
  case h_17 hop | h_18 hop | h_19 hop | h_20 hop | h_21 hop | h_22 hop | h_23 hop | h_24 hop | h_26 hop | h_27 hop | h_30 hop =>
    exact holds_of_fn h fun hfn => .intro rfl rfl hop hfn rfl rfl rfl rfl rfl
  all_goals
    next hop =>
      exact holds_of_pair h (fun hfn => .intro rfl rfl hop hfn rfl rfl rfl rfl rfl)
        fun hfn => .intro rfl rfl hop hfn rfl rfl rfl rfl rfl

theorem buildCore_holds (h : buildCore f = some i) : f.Holds i := by
  have seg := congrArg (modOf .dyn false · false) f.segBits_mem
  unfold buildCore at h
  split at h
  case h_1 hop | h_2 hop | h_12 hop => exact holds_of_fn h fun hfn => .intro rfl rfl hop hfn seg rfl rfl rfl rfl
  case h_7 hop =>
    exact holds_of_fn h fun hfn => .intro rfl rfl hop hfn rfl
      (readField_of_ne (by dsimp only [Instr.shape]; split <;> simp)).symm rfl rfl rfl
  case h_8 hop =>
    exact holds_of_fn h fun hfn => .intro rfl rfl hop hfn rfl rfl (if_neg (sendrValue_ne_nil f.d)).symm rfl rfl
  case h_14 => cases h
  all_goals
    next hop => exact holds_of_fn h fun hfn => .intro rfl rfl hop hfn rfl rfl rfl rfl rfl

theorem buildClu_holds (h : buildClu f = some i) : f.Holds i := by
  unfold buildClu at h
  split at h
  case h_15 => cases h
  all_goals
    next hop => exact holds_of_fn h fun hfn => .intro rfl rfl hop hfn rfl rfl rfl rfl rfl

theorem buildFab_holds (h : buildFab f = some i) : f.Holds i := by
  unfold buildFab at h
  split at h
  case h_7 => cases h
  all_goals
    next hop => exact holds_of_fn h fun hfn => .intro rfl rfl hop hfn rfl rfl rfl rfl rfl

theorem buildSys_holds (h : buildSys f = some i) : f.Holds i := by
  unfold buildSys at h
  split at h
  case h_5 hop =>
    refine holds_of_fn h fun hfn => ?_
    split
    · next hm => exact .intro rfl rfl hop hfn (congrArg (modOf .dyn false · false) (congrArg bit3 hm.symm)) rfl rfl rfl rfl
    · next hm =>
      exact .intro rfl rfl hop hfn
        (congrArg (modOf .dyn false · false) (congrArg bit3 (Bool.eq_false_iff.mpr hm).symm)) rfl rfl rfl rfl
  case h_7 => cases h
  all_goals
    next hop => exact holds_of_fn h fun hfn => .intro rfl rfl hop hfn rfl rfl rfl rfl rfl

end

theorem build_holds {f : Fields} {i : Instr} (h : build f = some i) : f.Holds i := by
  unfold build at h
  split at h; · exact buildInt_holds h
  split at h; · exact buildFloat_holds h
  split at h; · exact buildCtl_holds h
  split at h; · exact buildMem_holds h
  split at h; · exact buildVec_holds h
  split at h; · exact buildIvl_holds h
  split at h; · exact buildCore_holds h
  split at h; · exact buildClu_holds h
  split at h; · exact buildFab_holds h
  exact buildSys_holds h

/-! ### The checks of a word (R28) -/

theorem bit1_getLsbD : ∀ b : BitVec 1, bit1 (b.getLsbD 0) = b := by decide

theorem Fields.gnBit_ctl (f : Fields) : f.ctl.gnBit = f.gn := bit1_getLsbD _

theorem Fields.gpBits_ctl (f : Fields) : f.ctl.gpBits = f.gp := by
  refine BitVec.eq_of_toNat_eq ?_
  have := f.gp.isLt
  simp only [Ctl.gpBits, Fields.ctl, Fin.ofNat, BitVec.toNat_ofNat]; omega

theorem hintBits_of_parts : ∀ b : BitVec 8, b.extractLsb' 0 6 = 0 → bit1 (b.getLsbD 7) ++ bit1 (b.getLsbD 6) ++ 0#6 = b := by
  decide +kernel

theorem Fields.hintBits_ctl {f : Fields} (h : f.hint.extractLsb' 0 6 = 0) : f.ctl.hintBits = f.hint := hintBits_of_parts _ h

theorem MUse.bit3_of_low1 : ∀ m : BitVec 3, m.toNat < 2 → bit3 (m.getLsbD 0) = m := by decide
theorem MUse.bit3of2_of_low2 : ∀ m : BitVec 3, m.toNat < 4 → bit3of2 (m.extractLsb' 0 2) = m := by decide

theorem Fields.m0_eq (f : Fields) : f.m0 = f.m.getLsbD 0 := by simp [Fields.m0, Fields.m]

/-- The low bits of a field are a field. -/
theorem extractLsb'_low {k start n m : Nat} (h : m ≤ n) (x : BitVec k) :
    (x.extractLsb' start n).extractLsb' 0 m = x.extractLsb' start m := by
  refine BitVec.eq_of_getLsbD_eq fun j hj => ?_
  simp [hj, hj.trans_le h]

theorem Fields.m01_eq (f : Fields) : f.m01 = f.m.extractLsb' 0 2 := (extractLsb'_low (by decide) _).symm

theorem Shape.opM_of_allows {s : Shape} {f : Fields} (h : s.m.allows f.m = true) : s.opM f = f.m := by
  unfold MUse.allows at h
  unfold Shape.opM
  cases hm : s.m <;> simp only [hm, decide_eq_true_eq] at h ⊢
  case zero => exact h.symm
  case low1 => rw [f.m0_eq, MUse.bit3_of_low1 _ h]
  case low2 => rw [f.m01_eq, MUse.bit3of2_of_low2 _ h]

theorem modOk_iff {s : Shape} {f : Fields} : modOk s f = true ↔
    (s.rnd = true ∨ f.mod.extractLsb' 0 3 = 0) ∧ (s.sat = true ∨ f.sat = false) ∧ s.m.allows f.m = true
      ∧ (s.wi = true ∨ f.wi = false) := by
  simp [modOk, and_assoc]

theorem Shape.isWide_of_modOk {s : Shape} {f : Fields} (h : modOk s f = true) : s.isWide f = f.wi := by
  obtain ⟨-, -, -, h | h⟩ := modOk_iff.mp h <;> simp [Shape.isWide, h]

/-- `MOD` holds nothing but what the entry uses of it. -/
theorem Shape.opMod_of_modOk {s : Shape} {f : Fields} (hr : (f.mod.extractLsb' 0 3).toNat < 6) (h : modOk s f = true) :
    s.opMod f = f.mod := by
  obtain ⟨hrnd, hsat, hm, -⟩ := modOk_iff.mp h
  have h1 : (if s.rnd then f.rnd else .dyn) = f.rnd := by
    split
    · rfl
    · next hs => rw [Fields.rnd, hrnd.resolve_left hs]; rfl
  have h2 : (s.sat && f.sat) = f.sat := by rcases hsat with h | h <;> simp [h]
  rw [Shape.opMod, h1, h2, Shape.opM_of_allows hm, Shape.isWide_of_modOk h]
  exact modOf_of_parts _ hr

theorem isWide_of_admitted {o : Opnd} {cs : List Cls} (h : o.admitted cs = true) : o.isWide = false := by
  rw [← readField_enc h, readField]
  split
  · rfl
  · exact rdOpnd_isWide _

theorem loBits_of_not_wide {a b : Opnd} (h : b.isWide = false) : loBits a b = a.enc ++ b.enc := by
  cases b with
  | wide v => cases h
  | _ => rfl

theorem Fields.opa_append_opb (f : Fields) : f.opa ++ f.opb = f.lo :=
  (BitVec.extractLsb'_append_extractLsb'_eq_extractLsb' (by rfl)).trans BitVec.extractLsb'_eq_self

theorem checkFields_none_iff {s : Shape} {f : Fields} : checkFields s f = none ↔
    checkField 0 f.opd s.d = none ∧ (f.wi = false → checkField 1 f.opa s.a = none ∧ checkField 2 f.opb s.b = none) := by
  unfold checkFields
  cases checkField 0 f.opd s.d <;> cases f.wi <;> cases checkField 1 f.opa s.a <;> simp

/-- The checks of R28 that follow the choice of the row. -/
structure Fields.Passes (f : Fields) (s : Shape) : Prop where
  hint : f.hint.extractLsb' 0 6 = 0
  rounding : (f.mod.extractLsb' 0 3).toNat < 6
  mod : modOk s f = true
  fields : checkFields s f = none

/-- A word decodes where its `OP` is assigned, its `FN` names a row, and the row's checks pass. -/
theorem decode_eq_ok_iff {w : InstrWord} {i : Instr} : decode w = .ok i ↔
    assignedOp (unpack w).op = true ∧ build (unpack w) = some i ∧ (unpack w).Passes i.shape := by
  constructor
  · intro h
    unfold decode at h
    dsimp only at h
    split at h; · cases h
    split at h; · cases h
    split at h; · cases h
    split at h; · cases h
    split at h; · cases h
    split at h; · cases h
    split at h; · cases h
    split at h; · cases h
    rename_i hop _ j hb hhint hround hmod _ hfields
    cases h
    exact ⟨by simpa using hop, hb, of_not_not hhint, Nat.not_le.mp hround, by simpa using hmod, hfields⟩
  · rintro ⟨hop, hb, hp⟩
    have h0 : w ≠ 0 := by rintro rfl; exact absurd hop (by decide)
    have h1 : w ≠ BitVec.allOnes 96 := by rintro rfl; exact absurd hop (by decide)
    have hr : ¬ 6 ≤ ((unpack w).mod.extractLsb' 0 3).toNat := Nat.not_le.mpr hp.rounding
    simp only [decode, h0, h1, hop, hb, hp.hint, hr, hp.mod, hp.fields, if_false, Bool.not_true, Bool.false_eq_true, ne_eq, not_true]

section
variable {f : Fields} {s : Shape}

theorem Shape.opA_of_narrow (h : s.isWide f = false) : s.opA f = readField s.a f.opa := by
  simp only [Shape.opA, h, Bool.false_eq_true, if_false, readField]
theorem Shape.opB_of_narrow (h : s.isWide f = false) : s.opB f = readField s.b f.opb := by
  simp only [Shape.opB, h, Bool.false_eq_true, if_false]
theorem Shape.opB_of_wide (h : s.isWide f = true) : s.opB f = .wide f.lo := if_pos h
theorem Shape.opA_of_wide (h : s.isWide f = true) : s.opA f = if s.a = [] then .none else s.opD f := by
  simp only [Shape.opA, h, if_true]

variable (hp : f.Passes s)
include hp

theorem Fields.Passes.opD : (s.opD f).admitted s.d = true ∧ (s.opD f).enc = f.opd :=
  readField_of_check (checkFields_none_iff.mp hp.fields).1

theorem Fields.Passes.narrow (h : s.isWide f = false) : ((s.opA f).admitted s.a = true ∧ (s.opA f).enc = f.opa)
    ∧ (s.opB f).admitted s.b = true ∧ (s.opB f).enc = f.opb := by
  obtain ⟨ha, hb⟩ := (checkFields_none_iff.mp hp.fields).2 (Shape.isWide_of_modOk hp.mod ▸ h)
  rw [Shape.opA_of_narrow h, Shape.opB_of_narrow h]
  exact ⟨readField_of_check ha, readField_of_check hb⟩

theorem Fields.Passes.loBits : loBits (s.opA f) (s.opB f) = f.lo := by
  cases h : s.isWide f
  · obtain ⟨⟨-, ha⟩, hadm, hb⟩ := hp.narrow h
    rw [loBits_of_not_wide (isWide_of_admitted hadm), ha, hb, f.opa_append_opb]
  · rw [Shape.opB_of_wide h, Sys2Proof.loBits]

end

section
variable {f : Fields} {i : Instr}

/-- The fields of a word that passes its row's checks are those of the row's instruction. -/
theorem Fields.Holds.fieldsOf_eq (h : f.Holds i) (hp : f.Passes i.shape) : fieldsOf i = some f := by
  rw [h.fields, mkFields, f.gnBit_ctl, f.gpBits_ctl, f.hintBits_ctl hp.hint, Shape.opMod_of_modOk hp.rounding hp.mod, hp.loBits,
    hp.opD.2]

/-- An instruction whose word passes its row's checks is well-formed. -/
theorem Fields.Holds.wellFormed (h : f.Holds i) (hp : f.Passes i.shape) : i.wellFormed = true := by
  rw [Instr.wellFormed, h.operands]
  dsimp only
  rw [h.variant, hp.opD.1, Bool.true_and, Bool.true_and]
  cases hw : i.shape.isWide f
  · obtain ⟨⟨ha, -⟩, hb, -⟩ := hp.narrow hw
    rw [isWide_of_admitted hb, ha, hb]; rfl
  · have hwi : i.shape.wi = true := (Bool.and_eq_true_iff.mp hw).1
    rw [Shape.opB_of_wide hw, Shape.opA_of_wide hw, hwi]
    simp [Opnd.isWide]

end
end Sys2Proof

namespace Sys2Proof.Proofs

/-- Settles O2: a word that decodes holds a row's `OP` and `FN` (`build_holds`), and the row's checks leave no bit of it
unread. -/
theorem decodedWordEncodesBack : Obligations.DecodedWordEncodesBack := by
  intro w i h
  obtain ⟨-, hb, hp⟩ := decode_eq_ok_iff.mp h
  have hh := build_holds hb
  exact ⟨by rw [encode, hh.fieldsOf_eq hp, Option.map_some, pack_unpack], hh.wellFormed hp⟩

/-- Settles O4: the two words and the assignment of `OP` are the first checks, and the later ones passed for a word that decodes. -/
theorem decodingRejects : Obligations.DecodingRejects := by
  refine ⟨rfl, rfl, fun w h0 h1 hop => ?_, fun w i h => ?_⟩
  · have hop : assignedOp (unpack w).op = false := hop
    rw [decode, if_neg h0, if_neg h1]; simp [hop]
  · obtain ⟨hop, -, hp⟩ := decode_eq_ok_iff.mp h
    exact ⟨hop, (extractLsb'_low (by decide) w).symm.trans hp.hint,
      extractLsb'_low (m := 3) (n := 8) (by decide) w ▸ hp.rounding⟩

/-- Settles O3: each word is decoded. -/
theorem specWordsDecode : Obligations.SpecWordsDecode := by
  refine ⟨?_, ?_, ?_, ?_, ?_, ?_, ?_, ?_, ?_, ?_, ?_⟩ <;> decide

end Sys2Proof.Proofs

namespace Sys2Proof

/-! ### The word of an instruction: what its fields hold, and that its row builds it back -/

/-- The parts of `MOD` are those it was put together from. -/
theorem modOf_parts (r : Rnd) (t : Bool) (m : BitVec 3) (w : Bool) :
    (modOf r t m w).extractLsb' 0 3 = r.code ∧ (modOf r t m w).getLsbD 3 = t ∧ (modOf r t m w).extractLsb' 4 3 = m
      ∧ (modOf r t m w).getLsbD 7 = w := by
  cases r <;> cases t <;> cases w <;> revert m <;> decide

theorem getLsbD_bit3 (b : Bool) : (bit3 b).getLsbD 0 = b := by cases b <;> rfl
theorem extract_bit3of2 : ∀ p : BitVec 2, (bit3of2 p).extractLsb' 0 2 = p := by decide

section
variable {mod : BitVec 8} {r : Rnd} {t : Bool} {m : BitVec 3} {w : Bool}
theorem code_of_mod (h : modOf r t m w = mod) : mod.extractLsb' 0 3 = r.code := h ▸ (modOf_parts r t m w).1
theorem rnd_of_mod (h : modOf r t m w = mod) : Rnd.ofCode (mod.extractLsb' 0 3) = r := by
  rw [code_of_mod h]; cases r <;> rfl
theorem sat_of_mod (h : modOf r t m w = mod) : mod.getLsbD 3 = t := h ▸ (modOf_parts r t m w).2.1
theorem m_of_mod (h : modOf r t m w = mod) : mod.extractLsb' 4 3 = m := h ▸ (modOf_parts r t m w).2.2.1
theorem wi_of_mod (h : modOf r t m w = mod) : mod.getLsbD 7 = w := h ▸ (modOf_parts r t m w).2.2.2
theorem m0_of_mod {b : Bool} (h : modOf r t (bit3 b) w = mod) : mod.getLsbD 4 = b := by
  rw [← getLsbD_bit3 b, ← m_of_mod h, BitVec.getLsbD_extractLsb']; rfl
theorem m01_of_mod {p : BitVec 2} (h : modOf r t (bit3of2 p) w = mod) : mod.extractLsb' 4 2 = p := by
  rw [← extract_bit3of2 p, ← m_of_mod h, extractLsb'_low (by decide)]

theorem mem_of_mod {f : Fields} {x : MemRef} (h : modOf r t (segBits x) w = f.mod) (ha : x.base = f.a) (hb : x.off = f.b) :
    f.mem = x := by
  obtain ⟨seg, base, off⟩ := x
  obtain rfl : base = f.a := ha
  obtain rfl : off = f.b := hb
  rw [Fields.mem, Fields.m, m_of_mod h]
  congr 1
  exact Fin.ext (by simp only [Fin.ofNat, segBits, BitVec.toNat_ofNat]; omega)
end

theorem Fields.bcastB_eq (f : Fields) : f.bcastB = readField (if f.a.isVec then cInt else []) f.opb := by
  unfold Fields.bcastB
  split <;> rfl

theorem mlogB_eq (fn : MlogFn) (b : BitVec 20) : (if fn.unary then .none else rdOpnd b) = readField (if fn.unary then [] else [.m]) b := by
  split <;> rfl

section
variable {f : Fields}

theorem build_vbcast (hop : f.op = 0x79) (hfn : f.fn = 0) : build f = some (.vbcast f.ctl f.d f.a f.bcastB) := by
  simp [build, hop, buildVec, hfn]

theorem build_mlog {fn : MlogFn} (hop : f.op = 0xAF) (hfn : rdMlog f.fn = some fn) :
    build f = some (.mlog f.ctl fn f.d f.a (if fn.unary then .none else f.b)) := by
  simp [build, hop, buildIvl, hfn]

theorem build_cyc (hop : f.op = 0xE4) (hfn : f.fn = 0) :
    build f = some (if f.m0 then .cycDeadline f.ctl f.d f.a else .cyc f.ctl f.d) := by
  simp [build, hop, buildSys, hfn]

end

theorem build_of_fields {i : Instr} {f : Fields} (h : fieldsOf i = some f) (hc : i.ctl = some f.ctl)
    (ho : i.operands = some (i.shape.opD f, i.shape.opA f, i.shape.opB f)) (hv : i.variantOk = true) : build f = some i := by
  obtain ⟨op, fn, gn, gp, hint, mod, opd, lo⟩ := f
  cases i <;> cases hc
  all_goals
    injection h with h
    injection h with hop hfn hgn hgp hhint hmod hopd hlo
    clear hgn hgp hhint hopd hlo
    subst hop hfn
    injection ho with ho
    obtain ⟨hd, ho⟩ := Prod.mk.inj ho
    obtain ⟨ha, hb⟩ := Prod.mk.inj ho
    clear ho
    dsimp only [Instr.shape] at hd ha hb
  case ldfe r | stfe r | ldfp r | chk r | stag r | ltag r | vst r | vstx r | kld r | kst r | qld r | qst r | pref r | migrate r =>
    obtain rfl := mem_of_mod hmod ha hb
    cases hd
    rfl
  case ld z u d r =>
    obtain rfl := mem_of_mod hmod ha hb
    obtain rfl : d = _ := hd.trans (readField_of_ne (by split <;> simp [cReg]))
    exact (congrArg (Option.map _) (rdLd_fnLd hv)).trans rfl
  case st z d r =>
    obtain rfl := mem_of_mod hmod ha hb
    obtain rfl : d = _ := hd.trans (readField_of_ne (by split <;> simp [cInt]))
    exact (congrArg (Option.map _) (rdSize_fnSize z)).trans rfl
  case aop op w ord d r =>
    obtain rfl := mem_of_mod hmod ha hb
    cases hd
    exact (congrArg (Option.map _) (rdAop_fnAop op w ord)).trans rfl
  case acas w ord d r =>
    obtain rfl := mem_of_mod hmod ha hb
    cases hd
    exact (congrArg (Option.map _) (rdAtom_fnAtom w ord)).trans rfl
  case ald w ord d r =>
    obtain rfl := mem_of_mod hmod ha hb
    cases hd
    exact (congrArg (Option.map _) (rdAld_fnAtom w hv)).trans rfl
  case ast w ord d r =>
    obtain rfl := mem_of_mod hmod ha hb
    cases hd
    exact (congrArg (Option.map _) (rdAst_fnAtom w hv)).trans rfl
  case vld tag d r | vldx tag d r =>
    obtain rfl := mem_of_mod hmod ha hb
    cases hd
    exact (congrArg (Option.map _) (rdTable_fnTable tag)).trans rfl
  case cmp w u k d a b =>
    obtain rfl : b = Fields.wb ⟨0x1C, fnCmp w u k, gn, gp, hint, mod, opd, lo⟩ := hb
    obtain rfl : d = _ := hd.trans (readField_of_ne (by split <;> simp))
    obtain rfl : a = _ := ha.trans (if_neg (List.cons_ne_nil _ _))
    rw [Shape.opD, readField_of_ne (by split <;> simp)]
    exact (congrArg (Option.map _) (rdCmp_fnCmp w u hv)).trans rfl
  case pmov d a | xmov d a =>
    rw [Shape.opA_of_narrow rfl] at ha
    dsimp only at ha
    cases ha
    obtain rfl : d = _ := hd.trans (readField_of_ne (by split <;> simp))
    rfl
  case sendr d a b =>
    unfold Shape.opD at hd
    dsimp only at hd
    cases hd
    cases hb
    obtain rfl : a = _ := ha.trans (if_neg (sendrValue_ne_nil _))
    rfl
  case vbcast d a b =>
    cases hd
    rw [Shape.opA_of_narrow rfl] at ha
    dsimp only at ha
    cases ha
    cases hb
    exact (build_vbcast rfl rfl).trans (by rw [Fields.bcastB_eq]; rfl)
  case kset d a b =>
    cases hd
    rw [Shape.opA_of_narrow rfl] at ha
    dsimp only at ha
    cases ha
    obtain rfl : b = _ := hb.trans (readField_of_ne (by dsimp only; split <;> simp))
    rfl
  case mlog fn d a b =>
    cases ha
    cases hb
    obtain rfl : d = _ := hd.trans (readField_of_ne (by dsimp only; split <;> simp))
    exact (build_mlog rfl (rdMlog_fnMlog fn)).trans (by rw [Fields.b, mlogB_eq]; rfl)
  case cyc d =>
    cases hd
    exact (build_cyc rfl rfl).trans (by rw [Fields.m0, m0_of_mod (b := false) hmod]; rfl)
  case cycDeadline d a =>
    cases hd
    cases ha
    exact (build_cyc rfl rfl).trans (by rw [Fields.m0, m0_of_mod (b := true) hmod]; rfl)
  all_goals
    cases hd
    cases ha
    cases hb
  case shl w | shr w | sar w | rot w | clz w | ctz w | popc w => exact (congrArg (Option.map _) (rdW_fnW w)).trans rfl
  case mov w u | movi w u | mulh w u | div w u | rem w u | min w u | max w u | ext w u =>
    exact (congrArg (Option.map _) (rdWu_fnWu w u)).trans rfl
  case add w u t | sub w u t | mul w u t => exact (congrArg (Option.map _) (rdWus_fnWus w u t)).trans rfl
  case abs w t => exact (congrArg (Option.map _) (rdWs_fnWs w t)).trans rfl
  case plog t => exact (congrArg (Option.map _) (rdTable_fnTable t)).trans rfl
  case vtag t => exact (congrArg (Option.map _) (rdTable_fnTable t)).trans rfl
  case fadd k r | fsub k r | fmul k r | fma k r | fdiv k r | fsqrt k r | frnd k r =>
    obtain rfl := rnd_of_mod hmod
    exact (congrArg (Option.map _) (rdFmt_fnFmt k)).trans rfl
  case fmin k | fmax k | fabs k | fneg k | fclass k => exact (congrArg (Option.map _) (rdFmt_fnFmt k)).trans rfl
  case fcmp k c => exact (congrArg (Option.map _) (rdFcmp_fnFcmp k c)).trans rfl
  case fcvt k r t =>
    obtain rfl := rnd_of_mod hmod
    obtain rfl := sat_of_mod hmod
    exact (congrArg (Option.map _) (rdCvt_fnCvt k)).trans rfl
  case vred o r t | vscan o r t =>
    obtain rfl := rnd_of_mod hmod
    obtain rfl := sat_of_mod hmod
    exact (congrArg (Option.map _) (rdRed_fnRed o)).trans rfl
  case vadd r t | vsub r t | vmul r t | vfma r t | vrcp r t | vrsqrt r t | vexp2 r t | vlog2 r t | vdiv r t | vsqrt r t | vdot r t =>
    obtain rfl := rnd_of_mod hmod
    obtain rfl := sat_of_mod hmod
    rfl
  case vabs t | vneg t =>
    obtain rfl := sat_of_mod hmod
    rfl
  case sel m | lea m | vsel m | tdef m =>
    obtain rfl := m_of_mod hmod
    rfl
  case spawn b | kmk b | klo b | khi b | kmid b | kwid b =>
    obtain rfl := m0_of_mod hmod
    rfl
  case mma t p | mmac t p | mrd t p =>
    obtain rfl := sat_of_mod hmod
    obtain rfl := m01_of_mod hmod
    rfl
  case mzero p | mwr p | cpy p =>
    obtain rfl := m01_of_mod hmod
    rfl
  case vcvt g r t p =>
    obtain rfl := rnd_of_mod hmod
    obtain rfl := sat_of_mod hmod
    obtain rfl := m01_of_mod hmod
    exact (congrArg (Option.map _) (rdTag18_fnTag g hv)).trans rfl
  case vbfp g r t p =>
    obtain rfl := rnd_of_mod hmod
    obtain rfl := sat_of_mod hmod
    obtain rfl := m01_of_mod hmod
    exact (congrArg (Option.map _) (rdTag915_fnTag g hv)).trans rfl
  case vunbfp g r t p =>
    obtain rfl := rnd_of_mod hmod
    obtain rfl := sat_of_mod hmod
    obtain rfl := m01_of_mod hmod
    exact (congrArg (Option.map _) (rdTag58_fnTag g hv)).trans rfl
  case vshr ar => exact (congrArg (Option.map _) (rdArith_fnArith ar)).trans rfl
  case vcmp k => exact (congrArg (Option.map _) (rdCond_fnCond k)).trans rfl
  case kcmpF k => exact (congrArg (Option.map _) (rdKcmp_fnKcmp false hv)).trans rfl
  case kcmpB k => exact (congrArg (Option.map _) (rdKcmp_fnKcmp true hv)).trans rfl
  all_goals rfl

/-- What the word of an instruction is made of: a row's assigned `OP`, the parts of `MOD` that the row's entry uses, and the
instruction's guard, hints and operands. -/
structure Instr.Word (i : Instr) (f : Fields) (c : Ctl) (d a b : Opnd) (r : Rnd) (t : Bool) (m : BitVec 3) : Prop where
  ctl : i.ctl = some c
  operands : i.operands = some (d, a, b)
  fields : f = mkFields f.op f.fn c (modOf r t m (i.shape.wi && b.isWide)) d a b
  op : assignedOp f.op = true
  rnd : i.shape.rnd = true ∨ r = .dyn
  sat : i.shape.sat = true ∨ t = false
  m : i.shape.m.allows m = true

theorem MUse.low1_allows (b : Bool) : MUse.low1.allows (bit3 b) = true := by cases b <;> rfl
theorem MUse.low2_allows : ∀ p : BitVec 2, MUse.low2.allows (bit3of2 p) = true := by decide

theorem word_of_fieldsOf {i : Instr} {f : Fields} (h : fieldsOf i = some f) : ∃ c d a b r t m, i.Word f c d a b r t m := by
  cases i <;> cases h
  case spawn | kmk | klo | khi | kmid | kwid =>
    exact ⟨_, _, _, _, _, _, _, rfl, rfl, rfl, rfl, .inr rfl, .inr rfl, MUse.low1_allows _⟩
  case mma | mmac | mrd =>
    exact ⟨_, _, _, _, _, _, _, rfl, rfl, rfl, rfl, .inr rfl, .inl rfl, MUse.low2_allows _⟩
  case vcvt | vbfp | vunbfp =>
    exact ⟨_, _, _, _, _, _, _, rfl, rfl, rfl, rfl, .inl rfl, .inl rfl, MUse.low2_allows _⟩
  case mzero | mwr | cpy =>
    exact ⟨_, _, _, _, _, _, _, rfl, rfl, rfl, rfl, .inr rfl, .inr rfl, MUse.low2_allows _⟩
  case vabs | vneg => exact ⟨_, _, _, _, _, _, _, rfl, rfl, rfl, rfl, .inr rfl, .inl rfl, rfl⟩
  case fadd | fsub | fmul | fma | fdiv | fsqrt | frnd =>
    exact ⟨_, _, _, _, _, _, _, rfl, rfl, rfl, rfl, .inl rfl, .inr rfl, rfl⟩
  case fcvt | vadd | vsub | vmul | vfma | vrcp | vrsqrt | vexp2 | vlog2 | vdiv | vsqrt | vred | vscan | vdot =>
    exact ⟨_, _, _, _, _, _, _, rfl, rfl, rfl, rfl, .inl rfl, .inl rfl, rfl⟩
  all_goals exact ⟨_, _, _, _, _, _, _, rfl, rfl, rfl, rfl, .inr rfl, .inr rfl, rfl⟩

theorem getLsbD_bit1 (b : Bool) : (bit1 b).getLsbD 0 = b := by cases b <;> rfl

theorem hintBits_parts (t d : Bool) : (bit1 t ++ bit1 d ++ 0#6).getLsbD 7 = t ∧ (bit1 t ++ bit1 d ++ 0#6).getLsbD 6 = d
    ∧ (bit1 t ++ bit1 d ++ 0#6).extractLsb' 0 6 = 0 := by cases t <;> cases d <;> decide

theorem mkFields_ctl (op fn mod : BitVec 8) (c : Ctl) (d a b : Opnd) : (mkFields op fn c mod d a b).ctl = c := by
  obtain ⟨gn, gp, t, h⟩ := c
  have hgp : Fin.ofNat 8 (BitVec.ofNat 3 gp.val).toNat = gp := Fin.ext (by simp [Fin.ofNat])
  obtain ⟨ht, hd, -⟩ := hintBits_parts t h
  simp only [Fields.ctl, mkFields, Ctl.gnBit, Ctl.gpBits, Ctl.hintBits, getLsbD_bit1, hgp, ht, hd]

theorem Rnd.code_lt (r : Rnd) : r.code.toNat < 6 := by cases r <;> decide

section
variable {i : Instr} {f : Fields} {c : Ctl} {d a b : Opnd} {r : Rnd} {t : Bool} {m : BitVec 3}
  (h : i.Word f c d a b r t m)
include h

theorem Instr.Word.ctl_eq : f.ctl = c := by rw [h.fields, mkFields_ctl]
theorem Instr.Word.mod_eq : modOf r t m (i.shape.wi && b.isWide) = f.mod := by rw [h.fields]; rfl
theorem Instr.Word.opd_eq : f.opd = d.enc := by rw [h.fields]; rfl
theorem Instr.Word.lo_eq : f.lo = loBits a b := by rw [h.fields]; rfl
theorem Instr.Word.hint_eq : f.hint = c.hintBits := by rw [h.fields]; rfl

theorem Instr.Word.modOk : modOk i.shape f = true := by
  have hm := h.mod_eq
  rw [modOk_iff, Fields.sat, Fields.m, Fields.wi, sat_of_mod hm, m_of_mod hm, wi_of_mod hm]
  refine ⟨h.rnd.imp_right ?_, h.sat, h.m, ?_⟩
  · rintro rfl
    exact code_of_mod hm
  · cases i.shape.wi <;> simp

/-- The fields A and B of a narrow form. -/
theorem Instr.Word.narrow (hb : b.isWide = false) : f.opa = a.enc ∧ f.opb = b.enc := by
  rw [Fields.opa, Fields.opb, h.lo_eq, loBits_of_not_wide hb]
  exact ⟨BitVec.extractLsb'_append_eq_left, BitVec.extractLsb'_append_eq_right⟩

variable (hwf : i.wellFormed = true)
include hwf

/-- The parts of a well-formed thread instruction's being well-formed. -/
theorem Instr.Word.wellFormed : i.variantOk = true ∧ d.admitted i.shape.d = true
    ∧ if b.isWide then i.shape.wi = true ∧ a = (if i.shape.a = [] then .none else d)
      else a.admitted i.shape.a = true ∧ b.admitted i.shape.b = true := by
  rw [Instr.wellFormed, h.operands] at hwf
  obtain ⟨hvd, hab⟩ := Bool.and_eq_true_iff.mp hwf
  obtain ⟨hv, hd⟩ := Bool.and_eq_true_iff.mp hvd
  refine ⟨hv, hd, ?_⟩
  split at hab <;> simp_all

theorem Instr.Word.isWide : i.shape.isWide f = b.isWide := by
  have hb := (h.wellFormed hwf).2.2
  rw [Shape.isWide, Fields.wi, wi_of_mod h.mod_eq]
  split at hb <;> simp_all

theorem Instr.Word.opD_eq : i.shape.opD f = d := by
  rw [Shape.opD, h.opd_eq, readField_enc (h.wellFormed hwf).2.1]

theorem Instr.Word.operands_eq : i.operands = some (i.shape.opD f, i.shape.opA f, i.shape.opB f) := by
  obtain ⟨-, -, hab⟩ := h.wellFormed hwf
  have hw := h.isWide hwf
  rw [h.operands, h.opD_eq hwf]
  cases hb : b.isWide
  · rw [hb, if_neg Bool.false_ne_true] at hab
    obtain ⟨hA, hB⟩ := h.narrow hb
    rw [Shape.opA_of_narrow (hw.trans hb), Shape.opB_of_narrow (hw.trans hb), hA, hB, readField_enc hab.1, readField_enc hab.2]
  · rw [hb, if_pos rfl] at hab
    rw [Shape.opA_of_wide (hw.trans hb), Shape.opB_of_wide (hw.trans hb), h.opD_eq hwf, ← hab.2, h.lo_eq]
    cases b with
    | wide v => rfl
    | _ => cases hb

theorem Instr.Word.passes : f.Passes i.shape where
  hint := by rw [h.hint_eq]; exact (hintBits_parts _ _).2.2
  rounding := by rw [code_of_mod h.mod_eq]; exact Rnd.code_lt r
  mod := h.modOk
  fields := by
    obtain ⟨-, hd, hab⟩ := h.wellFormed hwf
    rw [checkFields_none_iff, h.opd_eq]
    refine ⟨checkField_enc 0 hd, fun hwi => ?_⟩
    have hb : b.isWide = false := by rw [← h.isWide hwf, Shape.isWide, hwi, Bool.and_false]
    rw [hb, if_neg Bool.false_ne_true] at hab
    obtain ⟨hA, hB⟩ := h.narrow hb
    rw [hA, hB]
    exact ⟨checkField_enc 1 hab.1, checkField_enc 2 hab.2⟩

end
end Sys2Proof

namespace Sys2Proof.Proofs

/-- Settles O1: the word of an instruction holds its row's `OP`, `FN` and use of `MOD`, from which the row builds it back, and it
passes the row's checks. -/
theorem encodedInstructionDecodesBack : Obligations.EncodedInstructionDecodesBack := by
  intro i w hwf he
  obtain ⟨f, hf, rfl⟩ := Option.map_eq_some_iff.mp he
  obtain ⟨c, d, a, b, r, t, m, h⟩ := word_of_fieldsOf hf
  rw [decode_eq_ok_iff, unpack_pack]
  exact ⟨h.op, build_of_fields hf (h.ctl_eq ▸ h.ctl) (h.operands_eq hwf) (h.wellFormed hwf).1, h.passes hwf⟩

end Sys2Proof.Proofs
end

section
/-! What a thread's issue does before its instruction (R13, R28, R210). -/

namespace Sys2Proof.Machine

variable {s : State} {key : Nat} {t : Thread}

/-- Errors of a code buffer move neither the thread that issues nor the turn. -/
theorem codeErrors_cursor (cl l : Nat) : (codeErrors s cl l).cur = s.cur ∧ (codeErrors s cl l).turn = s.turn := by
  unfold codeErrors
  split <;> exact ⟨rfl, rfl⟩

/-- What precedes an issue names the thread and moves the turn on to the next core. -/
theorem prepare_cursor : (prepare s key t).cur = key ∧ (prepare s key t).turn = coreOf key + 1 := by
  unfold prepare
  extract_lets c s1 s2 s3
  have h2 : s2.cur = key ∧ s2.turn = coreOf key + 1 := by
    unfold s2
    split
    · split <;> exact ⟨rfl, rfl⟩
    · exact ⟨rfl, rfl⟩
  have h3 : s3.cur = key ∧ s3.turn = coreOf key + 1 := by
    obtain ⟨hc, ht⟩ := codeErrors_cursor (s := s2) (clusterOf c) t.launch
    exact ⟨hc.trans h2.1, ht.trans h2.2⟩
  split
  · exact h3
  · exact h3
  · exact h3

section
variable {core : Nat} {b : CodeBuf} (hb : codeOf s (clusterOf core) t.launch = some b) (hl : b.loaded = true)
include hb hl

/-- The fetch of a thread whose code is loaded traps where a check of it fails. -/
theorem fetch_check {x : Trap} (hf : fetchCheck t b = some x) : fetch s core t = .trap x := by simp [fetch, hb, hl, hf]

/-- The fetch of a thread whose code is loaded and whose checks pass is its decoded word. -/
theorem fetch_instr {i : Instr} (hf : fetchCheck t b = none) (hw : decode (fetchWord s b t) = .ok i) :
    fetch s core t = .instr i := by simp [fetch, hb, hl, hf, hw]

/-- The fetch of a word that does not decode traps with its first failed check. -/
theorem fetch_illegal {e : Illop} (hf : fetchCheck t b = none) (hw : decode (fetchWord s b t) = .error e) :
    fetch s core t = .trap ⟨0x01, e.detail, 0⟩ := by simp [fetch, hb, hl, hf, hw]

end

section
variable (hp : s.phase = .issue) (hn : nextIssue s = some (key, t)) (hi : issues s key t = true)
  (he : issueError s key t = none) (hd : predDelay s key = false)
include hp hn hi he hd

/-- A step of a thread that issues and has no error to report runs the instruction that its fetch gives. -/
theorem step_of_fetch_instr {i : Instr} (hf : fetch (prepare s key t) (coreOf key) t = .instr i) :
    step s = exec i (prepare s key t) := by simp [step, stepOnce, runThread, hp, hn, hi, he, hd, hf]

/-- A step of a thread that issues and has no error to report takes the trap that its fetch gives. -/
theorem step_of_fetch_trap {x : Trap} (hf : fetch (prepare s key t) (coreOf key) t = .trap x) :
    step s = .next (takeTrap (prepare s key t) key x) := by simp [step, stepOnce, runThread, hp, hn, hi, he, hd, hf]

end

/-- A fetch beyond the code segment fails the first check. -/
theorem fetchCheck_beyond {b : CodeBuf} (h : t.cseg.kind = .null ∨ t.cseg.limit.toNat < 12 * t.pc.toNat + 12) :
    fetchCheck t b = some (eBounds (detail 8 2 0 0) (BitVec.ofNat 64 (12 * t.pc.toNat))) := by
  unfold fetchCheck
  rw [if_pos (h.imp_right Or.inl)]

/-- Every thread instruction issues: its meaning is its body, after the window checks and the guard. The named instructions
share a body with others, which is unfolded to. -/
theorem exec_eq_issue {i : Instr} {c : Ctl} (h : i.ctl = some c) (s : State) : ∃ body, exec i s = issue i s body := by
  cases i
  all_goals cases h
  all_goals unfold exec
  all_goals dsimp only [execAbs, execAdd, execAnd, execAndn, execBext, execClz, execCmp, execCtz, execDiv, execExt, execFabs,
    execFadd, execFclass, execFcmp, execFcvt, execFdiv, execFmax, execFmin, execFmul, execFneg, execFrnd,
    execFsqrt, execFsub, execGet, execKabsB, execKabsF, execKaddB, execKaddF, execKcap, execKcmpF, execKdivB,
    execKdivF, execKexpB, execKexpF, execKfmaB, execKhi, execKin, execKlo, execKlogB, execKlogF, execKmaxB,
    execKmaxF, execKmid, execKminB, execKminF, execKmulB, execKmulF, execKnegB, execKnegF, execKreluB, execKreluF,
    execKscaleB, execKscaleF, execKsqrB, execKsqrF, execKsqrtB, execKsqrtF, execKsubB, execKsubF, execKwid,
    execLdfe, execLdfp, execLea, execMax, execMin, execMma, execMmac, execMov, execMul, execMulh, execOr,
    execPlog, execPmov, execPopc, execPut, execPuts, execRem, execRot, execSar, execShl, execShr, execStfe,
    execSub, execVabs, execVadd, execVand, execVclamp, execVcvt, execVdiv, execVexp2, execVfma, execVlog2,
    execVmax, execVmin, execVmul, execVneg, execVor, execVrcp, execVrsqrt, execVshl, execVshr, execVsqrt,
    execVsub, execVunbfp, execVxor, execXor]
  all_goals exact ⟨_, rfl⟩

end Sys2Proof.Machine
end

section
namespace Sys2Proof.Proofs
open Sys2Proof.Machine

/-- Settles O5: the phase, the turn and the absence of errors leave a step's fetch, which is the decoded word. -/
theorem stepRunsTheDecodedInstruction : Obligations.StepRunsTheDecodedInstruction := by
  unfold Obligations.StepRunsTheDecodedInstruction
  intro s key t b hp hn hi he hd hb hl hf
  refine ⟨prepare_cursor.1, prepare_cursor.2, fun i hw => ?_, fun e hw => ?_⟩
  · exact step_of_fetch_instr hp hn hi he hd (fetch_instr hb hl hf hw)
  · exact step_of_fetch_trap hp hn hi he hd (fetch_illegal hb hl hf hw)

/-- Settles O6: the fetch's first check, and the window checks that precede every instruction's body. -/
theorem fetchAndWindowTraps : Obligations.FetchAndWindowTraps := by
  unfold Obligations.FetchAndWindowTraps
  refine ⟨fun s key t b hp hn hi he hd hb hl hout => ?_, fun i c s t n hc ht hn => ?_⟩
  · exact step_of_fetch_trap hp hn hi he hd (fetch_check hb hl (fetchCheck_beyond hout))
  · obtain ⟨body, hbody⟩ := exec_eq_issue hc s
    have hw : windowTrap t i = some (eWindow n.kind n.field n.index) := by rw [windowTrap, hn]; rfl
    rw [hbody, issue_window hc ht hw]

end Sys2Proof.Proofs
end

section
namespace Sys2Proof.Machine

/-- A step without flags leaves the status to the hints. -/
theorem orFlags_zero (status : BitVec 32) : orFlags status 0 = status := by simp [orFlags]

/-- What a disabled instruction leaves: its thread stepped, and the note of a lane instruction. -/
theorem exec_disabled {i : Instr} {c : Ctl} {s : State} {t : Thread} (hc : i.ctl = some c) (ht : s.thread? s.cur = some t)
    (hw : windowTrap t i = none) (hg : guardMask t c (Instr.lane i) = 0) :
    exec i s = .next (noteLane (s.setThread s.cur (t.stepped (t.pc + 1) c.d (Instr.lane i) 0 (s.cyc + 1) none)) (coreOf s.cur) i) := by
  obtain ⟨body, hbody⟩ := exec_eq_issue hc s
  rw [hbody, issue_disabled hc ht hw hg]

end Sys2Proof.Machine

namespace Sys2Proof.Proofs
open Sys2Proof.Machine

/-- Settles O7: the step of the thread, and the note of its core's last lane instruction, are all that moves. -/
theorem disabledInstructionOnlySteps : Obligations.DisabledInstructionOnlySteps := by
  unfold Obligations.DisabledInstructionOnlySteps
  intro i c s t hc ht hw hg
  refine ⟨_, exec_disabled hc ht hw hg, ?_⟩
  generalize hs : s.setThread s.cur (t.stepped (t.pc + 1) c.d (Instr.lane i) 0 (s.cyc + 1) none) = s1
  obtain ⟨⟨k, hk⟩, hother, a, ha⟩ := noteLane_frame s1 (coreOf s.cur) i
  have hthread (n : Nat) : (noteLane s1 (coreOf s.cur) i).thread? n = s1.thread? n := by rw [hk]; rfl
  have hcore (n : Nat) : s1.core n = s.core n := by rw [← hs]; rfl
  refine ⟨?_, ?_, fun n hn => ?_, fun n hn => ?_, ?_⟩
  · rw [hthread, ← hs, State.thread?_setThread, if_pos rfl, Thread.stepped, orFlags_zero]
  · rw [hk, ← hs]; rfl
  · rw [hthread, ← hs, State.thread?_setThread, if_neg hn]
  · rw [hother n hn, hcore]
  · rw [ha, hcore]

end Sys2Proof.Proofs
end

section
/-! What the completion of an instruction leaves (R210, R219): the banks it was granted, its own accesses, its pushes, the note of a
lane instruction, its thread's step, and the reply it awaits. -/

namespace Sys2Proof.Machine

/-- Between `s` and `s'` nothing moved but core `n` and what is pending. -/
structure CoreFrame (n : Nat) (s s' : State) : Prop where
  rest : s' = { s with cores := s'.cores, pending := s'.pending }
  others : ∀ k, k ≠ n → s'.core k = s.core k

namespace CoreFrame

variable {n : Nat} {s s1 s2 : State}

theorem refl (n : Nat) (s : State) : CoreFrame n s s := ⟨rfl, fun _ _ => rfl⟩

theorem trans (h1 : CoreFrame n s s1) (h2 : CoreFrame n s1 s2) : CoreFrame n s s2 where
  rest := by rw [h2.rest, h1.rest]
  others k hk := (h2.others k hk).trans (h1.others k hk)

theorem setCore (k : CoreSt) : CoreFrame n s (s.setCore n k) :=
  ⟨rfl, fun j hj => by rw [State.core_setCore, if_neg hj]⟩

theorem later (d : Nat) (ev : Instr) (args : List Nat) : CoreFrame n s (Machine.later d ev args s) := ⟨rfl, fun _ _ => rfl⟩

theorem noteLane (i : Instr) : CoreFrame n s (Machine.noteLane s n i) := by
  obtain ⟨⟨k, hk⟩, hj, -⟩ := noteLane_frame s n i
  exact ⟨by rw [hk], hj⟩

theorem pushAll (w : Nat) (l : List (Nat × VReg)) : CoreFrame n s (Machine.pushAll s n w l) := by
  obtain ⟨⟨k, hk⟩, hj⟩ := pushAll_frame s n w l
  exact ⟨by rw [hk], hj⟩

theorem cyc (h : CoreFrame n s s1) : s1.cyc = s.cyc := by rw [h.rest]

theorem thread? (h : CoreFrame n s s1) (k : Nat) : s1.thread? k = s.thread? k := by rw [h.rest]; rfl

end CoreFrame

variable (x : Iss)

/-- The cycle of the last stage, the banks granted, and the state with them. -/
def Iss.granted : Nat × List (Nat × Nat) × State :=
  reserveBanks x.s x.core (Iss.addStage (x.lat + x.extra) x.writes x.stages) (x.lat + x.extra)

/-- The state with the core's own accesses entered. -/
def Iss.entered : State :=
  if x.own.isEmpty then x.granted.2.2
  else x.granted.2.2.updCore x.core fun k => { k with own := k.own ++ x.own.map (OwnAcc.timed x.granted.2.1 x.granted.1) }

/-- The state with the arrival of what a queue load fills entered. -/
def Iss.filling : State :=
  match x.fills with
  | some id => later (x.granted.1 - x.entered.cyc) .qldDataArrival [id] x.entered
  | none => x.entered

/-- The state with the results pushed and a lane instruction noted: all of a completion but its thread. -/
def Iss.pushed : State := noteLane (pushAll x.filling x.core x.granted.1 x.pushes) x.core x.i

/-- The thread after the completion. -/
def Iss.stepped (c : Ctl) : Thread :=
  { x.th.stepped (x.npc.getD (x.th.pc + 1)) c.d (Instr.lane x.i) x.flags
      (if x.wrote then x.granted.1 + 1 else x.pushed.cyc + 1)
      (if x.timed && (x.wrote || x.remote.isSome) then some (x.granted.1 - x.extra + 1) else none) with
    st := x.st, outstanding := x.remote, deposited := [], popped := if x.remote.isSome then x.th.popped else none }

/-- The state with the reply to a remote access entered, where one is due. -/
def Iss.replied (s : State) : State :=
  match x.reply, x.remote with
  | true, some id => later (x.granted.1 - s.cyc) .remoteAccessReply [id] s
  | _, _ => s

/-- A completion in its parts. -/
theorem Iss.finish_eq {c : Ctl} (h : x.gone = false) : x.finish c = x.replied (x.pushed.setThread x.key (x.stepped c)) := by
  unfold Iss.finish
  rw [h]
  rfl

theorem Iss.entered_frame : CoreFrame x.core x.s x.entered ∧ ∀ q, x.entered.queue x.core q = x.s.queue x.core q := by
  obtain ⟨b, hb⟩ := reserveBanks_state x.s x.core (Iss.addStage (x.lat + x.extra) x.writes x.stages) (x.lat + x.extra)
  have hg : x.granted.2.2 = x.s.setCore x.core { x.s.core x.core with banks := b } := hb
  unfold Iss.entered
  rw [hg]
  split
  · exact ⟨.setCore _, fun q => by simp [State.queue]⟩
  · exact ⟨(CoreFrame.setCore _).trans (.setCore _), fun q => by simp [State.queue, State.updCore]⟩

theorem Iss.filling_frame : CoreFrame x.core x.s x.filling ∧ ∀ q, x.filling.queue x.core q = x.s.queue x.core q := by
  obtain ⟨hf, hq⟩ := x.entered_frame
  unfold Iss.filling
  split
  · exact ⟨hf.trans (.later ..), hq⟩
  · exact ⟨hf, hq⟩

theorem Iss.pushed_frame : CoreFrame x.core x.s x.pushed :=
  (x.filling_frame.1.trans (.pushAll ..)).trans (.noteLane _)

/-- The core's queues hold the results behind what they held. -/
theorem Iss.pushed_ents (q : Nat) : (x.pushed.queue x.core q).ents.map (·.val)
    = (x.s.queue x.core q).ents.map (·.val) ++ (x.pushes.filter fun p => p.1 == q).map (·.2) := by
  rw [Iss.pushed, noteLane_queue, pushAll_ents, x.filling_frame.2]

theorem Iss.replied_frame (n : Nat) (s : State) : CoreFrame n s (x.replied s) ∧ ∀ q, (x.replied s).queue n q = s.queue n q := by
  unfold Iss.replied
  split
  · exact ⟨.later .., fun _ => rfl⟩
  · exact ⟨.refl .., fun _ => rfl⟩

/-- The last stage is that of the result, or later. -/
theorem Iss.le_granted : x.s.cyc + x.lat + x.extra ≤ x.granted.1 := by
  rw [Nat.add_assoc]; exact reserveBanks_le ..

/-- Without bank accesses the last stage is that of the result. -/
theorem Iss.granted_free (hs : x.stages = []) (hw : x.writes = []) : x.granted.1 = x.s.cyc + x.lat + x.extra := by
  rw [Iss.granted, hs, hw, Nat.add_assoc]; exact reserveBanks_none ..

end Sys2Proof.Machine

namespace Sys2Proof.Proofs
open Sys2Proof.Machine

/-- Settles O11: a completion is its thread's step between changes of its core and of what is pending. -/
theorem completionStepsTheThread : Obligations.CompletionStepsTheThread := by
  unfold Obligations.CompletionStepsTheThread
  intro x c hgone
  dsimp only
  rw [x.finish_eq hgone]
  obtain ⟨hreply, hqueue⟩ := x.replied_frame x.core (x.pushed.setThread x.key (x.stepped c))
  refine ⟨⟨x.stepped c, ?_, ?_, fun hw => ?_, fun hw => ?_, fun hw hs hb => ?_⟩, fun q => ?_, ?_, fun k hk => ?_, fun k hk => ?_⟩
  · rw [hreply.thread?, State.thread?_setThread, if_pos rfl]
  · rfl
  · simp [Iss.stepped, Thread.stepped, hw, x.pushed_frame.cyc]
  · simpa [Iss.stepped, Thread.stepped, hw, Nat.lt_succ_iff] using x.le_granted
  · simp [Iss.stepped, Thread.stepped, hw, x.granted_free hs hb]
  · rw [hqueue]; exact x.pushed_ents q
  · rw [hreply.rest, x.pushed_frame.rest]; rfl
  · rw [hreply.thread?, State.thread?_setThread, if_neg hk, x.pushed_frame.thread?]
  · exact (hreply.others k hk).trans (x.pushed_frame.others k hk)

end Sys2Proof.Proofs
end

section
/-! Scalar instructions whose sources are read: their bodies end, and they complete (R116 to R118, R126). -/

namespace Sys2Proof.Machine

/-- A write of the latency an instruction has stands for nothing. -/
theorem Iss.with_lat {x : Iss} {n : Nat} (h : x.lat = n) : { x with lat := n } = x := by rw [← h]

@[simp] theorem Iss.raise_lat (x : Iss) (f : Flags) : (x.raise f).lat = x.lat := rfl

section
variable {i : Instr} {s : State} {c : Ctl} {t : Thread} {d a b : Opnd} {va vb vd : Word} {y : Iss}

/-- A source that is read leaves the thread and the latency. -/
theorem Source1.keeps (h : Source1 (issueState i c t s) d a va y) : y.th = t ∧ y.lat = 7 := by
  obtain ⟨-, ha⟩ := h
  obtain ⟨hth, -, hlat, -⟩ := (int_reads ha).keeps
  exact ⟨hth, hlat⟩

theorem Source2.keeps (h : Source2 (issueState i c t s) d a b va vb y) : y.th = t ∧ y.lat = 7 := by
  obtain ⟨-, x1, ha, hb⟩ := h
  obtain ⟨hth, -, hlat, -⟩ := ((int_reads ha).trans (int_reads hb)).keeps
  exact ⟨hth, hlat⟩

theorem Source3.keeps (h : Source3 (issueState i c t s) d a b va vb vd y) : y.th = t ∧ y.lat = 7 := by
  obtain ⟨-, x1, x2, ha, hb, hd⟩ := h
  obtain ⟨hth, -, hlat, -⟩ := (((int_reads ha).trans (int_reads hb)).trans (int_reads hd)).keeps
  exact ⟨hth, hlat⟩

/-- An integer instruction of one source completes with its result. -/
theorem alu1_completes {f : Word → Word} (hi : Issues i s c t) (hs : Source1 (issueState i c t s) d a va y) :
    alu1 i d a s f = .next ((y.setInt d (f va)).finish c) := by
  obtain ⟨hq, ha⟩ := hs
  exact issue_ok hi (by rw [hq]; dsimp only [bind, Except.bind]; rw [ha]; rfl)

/-- An integer instruction of two sources completes with its result, later by its delay. -/
theorem alu2_completes {dly : Nat} {f : Word → Word → Word} (hi : Issues i s c t)
    (hs : Source2 (issueState i c t s) d a b va vb y) :
    alu2 i d a b dly s f = .next (({ y.setInt d (f va vb) with lat := 7 + dly } : Iss).finish c) := by
  obtain ⟨hq, x1, ha, hb⟩ := hs
  exact issue_ok hi (by rw [hq]; dsimp only [bind, Except.bind]; rw [ha]; dsimp only; rw [hb]; rfl)

/-- An integer instruction of two sources and no delay completes with its result. -/
theorem alu2_completes_undelayed {f : Word → Word → Word} (hi : Issues i s c t)
    (hs : Source2 (issueState i c t s) d a b va vb y) : alu2 i d a b 0 s f = .next ((y.setInt d (f va vb)).finish c) := by
  rw [alu2_completes hi hs, Iss.with_lat ((setInt_lat ..).trans hs.keeps.2)]

/-- A float instruction of one source completes with its result and its flags. -/
theorem flt1_completes {dly : Nat} {f : BitVec 32 → Word → Nat × Flags} (hi : Issues i s c t)
    (hs : Source1 (issueState i c t s) d a va y) :
    flt1 i d a dly s f = .next (({ (y.raise (f t.status va).2).setInt d (BitVec.ofNat 64 (f t.status va).1) with
      lat := 7 + dly } : Iss).finish c) := by
  obtain ⟨hth, -⟩ := hs.keeps
  obtain ⟨hq, ha⟩ := hs
  exact issue_ok hi (by rw [hq]; dsimp only [bind, Except.bind]; rw [ha]; dsimp only; rw [hth]; rfl)

/-- A float instruction of two sources completes with its result and its flags. -/
theorem flt2_completes {dly : Nat} {f : BitVec 32 → Word → Word → Nat × Flags} (hi : Issues i s c t)
    (hs : Source2 (issueState i c t s) d a b va vb y) :
    flt2 i d a b dly s f = .next (({ (y.raise (f t.status va vb).2).setInt d (BitVec.ofNat 64 (f t.status va vb).1) with
      lat := 7 + dly } : Iss).finish c) := by
  obtain ⟨hth, -⟩ := hs.keeps
  obtain ⟨hq, x1, ha, hb⟩ := hs
  exact issue_ok hi (by
    rw [hq]; dsimp only [bind, Except.bind]; rw [ha]; dsimp only; rw [hb]; dsimp only; rw [hth]; rfl)

/-- `fma` completes with the sum of the product and D, rounded once. -/
theorem execFma_completes {f : FFmt} {r : Rnd} {w : Nat × Flags} (hi : Issues (.fma c f r d a b) s c t)
    (hs : Source3 (issueState (.fma c f r d a b) c t s) d a b va vb vd y)
    (hw : w = writeF (fmtOf f) (roundOf t.status r) false
      (xfma (roundOf t.status r) (readF f va) (readF f vb) (readF f vd))) :
    execFma c f r d a b s = .next (((y.raise w.2).setInt d (BitVec.ofNat 64 w.1)).finish c) := by
  obtain ⟨hth, -⟩ := hs.keeps
  obtain ⟨hq, x1, x2, ha, hb, hd⟩ := hs
  subst hw
  exact issue_ok hi (by
    rw [hq]; dsimp only [bind, Except.bind]; rw [ha]; dsimp only; rw [hb]; dsimp only; rw [hd]; dsimp only
    rw [Iss.mode, hth]; rfl)

end

/-- One exact operation on the sources' data, rounded once in the instruction's mode. -/
def roundedOnce (f : FFmt) (r : Rnd) (op : RMode → XVal → XVal → XVal × Flags) (status : BitVec 32) (va vb : Word) : Nat × Flags :=
  writeF (fmtOf f) (roundOf status r) false (op (roundOf status r) (readF f va) (readF f vb))

section
variable (c : Ctl) (f : FFmt) (r : Rnd) (d a b : Opnd) (s : State)

theorem exec_fadd : exec (.fadd c f r d a b) s = flt2 (.fadd c f r d a b) d a b 0 s (roundedOnce f r xadd) := rfl
theorem exec_fsub : exec (.fsub c f r d a b) s
    = flt2 (.fsub c f r d a b) d a b 0 s (roundedOnce f r fun m x y => xadd m x y.negate) := rfl
theorem exec_fmul : exec (.fmul c f r d a b) s = flt2 (.fmul c f r d a b) d a b 0 s (roundedOnce f r fun _ => xmul) := rfl
theorem exec_fdiv : exec (.fdiv c f r d a b) s
    = flt2 (.fdiv c f r d a b) d a b (fdivDelay f) s (roundedOnce f r fun _ => xdiv) := rfl
theorem exec_fsqrt : exec (.fsqrt c f r d a) s = flt1 (.fsqrt c f r d a) d a (fdivDelay f) s fun status va =>
    writeF (fmtOf f) (roundOf status r) false (xsqrt (readF f va)) := rfl
theorem exec_fma : exec (.fma c f r d a b) s = execFma c f r d a b s := rfl

end

/-- The cycle of a delayed float result, counted from its issue. -/
theorem fdivDelay_late (f : FFmt) : 7 + fdivDelay f = if f = .f64 then 23 else if f = .f32 then 15 else 7 := by
  cases f <;> rfl

end Sys2Proof.Machine

namespace Sys2Proof.Proofs
open Sys2Proof.Machine

/-- Settles O17: each instruction is the body of its number of sources, with its exact operation and its delay. -/
theorem floatArithmeticRoundsOnce : Obligations.FloatArithmeticRoundsOnce := by
  unfold Obligations.FloatArithmeticRoundsOnce
  refine ⟨fun i s c t f r d a b op va vb y hcase hi hs => ?_, fun s c t f r d a b va vb vd y hi hs => ?_,
    fun s c t f r d a va y hi hs => ?_⟩
  · cases i
    case fadd => cases hcase; cases hi.1; rw [exec_fadd, flt2_completes hi hs]; rfl
    case fsub => cases hcase; cases hi.1; rw [exec_fsub, flt2_completes hi hs]; rfl
    case fmul => cases hcase; cases hi.1; rw [exec_fmul, flt2_completes hi hs]; rfl
    case fdiv => cases hcase; cases hi.1; rw [exec_fdiv, flt2_completes hi hs, fdivDelay_late]; rfl
    all_goals cases hcase
  · rw [exec_fma, execFma_completes hi hs rfl]
  · rw [exec_fsqrt, flt1_completes hi hs, fdivDelay_late]

end Sys2Proof.Proofs
end

section
/-! Integer results fitted to a width and widened (R88, R117, R119, R120). -/

namespace Sys2Proof.Machine

theorem wbits_pos (w : Width) : 0 < wbits w := by cases w <;> decide
theorem wbits_le (w : Width) : wbits w ≤ 64 := by cases w <;> decide

/-- A number modulo 2^n, in the range of its signedness. -/
def wrapped (u : Bool) (n : Nat) (z : Int) : Int := if u then z % 2 ^ n else z.bmod (2 ^ n)

section
variable {n : Nat} (u : Bool) (z : Int)

theorem wrapped_dvd : (2 : Int) ^ n ∣ wrapped u n z - z := by
  cases u
  · exact_mod_cast Int.dvd_bmod_sub_self (x := z) (m := 2 ^ n)
  · exact Int.dvd_emod_sub_self

/-- Half of 2^n, as the bounds of a balanced remainder state it. -/
theorem half_two_pow (hn : 0 < n) : ((2 ^ n : Nat) : Int) / 2 = 2 ^ (n - 1) ∧ (((2 ^ n : Nat) : Int) + 1) / 2 = 2 ^ (n - 1) := by
  obtain ⟨m, rfl⟩ := Nat.exists_eq_succ_of_ne_zero hn.ne'
  push_cast [pow_succ]
  omega

theorem wrapped_range (hn : 0 < n) : leastInt u n ≤ wrapped u n z ∧ wrapped u n z ≤ greatestInt u n := by
  cases u
  · have hlo := Int.le_bmod (x := z) (Nat.two_pow_pos n)
    have hhi := Int.bmod_lt (x := z) (Nat.two_pow_pos n)
    rw [(half_two_pow hn).1] at hlo
    rw [(half_two_pow hn).2] at hhi
    exact ⟨hlo, Int.le_sub_one_of_lt hhi⟩
  · have h2 : (0 : Int) < 2 ^ n := by positivity
    exact ⟨Int.emod_nonneg z h2.ne', Int.le_sub_one_of_lt (Int.emod_lt_of_pos z h2)⟩

/-- A number in range wraps to itself. -/
theorem wrapped_of_range (hn : 0 < n) (hlo : leastInt u n ≤ z) (hhi : z ≤ greatestInt u n) : wrapped u n z = z := by
  cases u
  · refine Int.bmod_eq_of_le ?_ ?_
    · rw [(half_two_pow hn).1]; exact hlo
    · rw [(half_two_pow hn).2]; exact Int.lt_of_le_sub_one hhi
  · exact Int.emod_eq_of_lt hlo (Int.lt_of_le_sub_one hhi)

theorem leastInt_le_greatestInt : leastInt u n ≤ greatestInt u n := by
  have h1 : (0 : Int) < 2 ^ (n - 1) := by positivity
  have h2 : (0 : Int) < 2 ^ n := by positivity
  cases u
  · simp only [leastInt, greatestInt, Bool.false_eq_true, if_false]; omega
  · simp only [leastInt, greatestInt, if_true]; omega

end

/-- The two's complement reading of a number's low bits. -/
theorem toSigned_eq_toInt {n : Nat} (hn : 0 < n) (k : Nat) : toSigned n k = (BitVec.ofNat n k).toInt := by
  have h2 : 2 ^ n = 2 * 2 ^ (n - 1) := by rw [← pow_succ', Nat.sub_add_cancel hn]
  simp only [toSigned, BitVec.toInt_eq_toNat_cond, BitVec.toNat_ofNat]
  have hiff : k % 2 ^ n < 2 ^ (n - 1) ↔ 2 * (k % 2 ^ n) < 2 ^ n := by omega
  simp only [hiff]
  push_cast
  rfl

/-- A source's number is its low bits read as signed or unsigned. -/
theorem srcInt_eq_lowInt (u : Bool) (w : Width) (v : Word) : srcInt u w v = lowInt u (wbits w) v := by
  cases u
  · simp only [srcInt, readInt, lowInt, Bool.false_eq_true, if_false, toSigned_eq_toInt (wbits_pos w), BitVec.ofNat_toNat]
  · simp [srcInt, readInt, lowInt]

/-- A widened result is the low bits of the number, extended by its sign or by zeros. -/
theorem widen_eq (u : Bool) (w : Width) (k : Nat) : widen u w k
    = if u then (BitVec.ofNat (wbits w) k).setWidth 64 else (BitVec.ofNat (wbits w) k).signExtend 64 := by
  cases u
  · simp only [widen, Bool.false_eq_true, if_false, toSigned_eq_toInt (wbits_pos w)]; rfl
  · apply BitVec.eq_of_toNat_eq
    simp [widen]

theorem setWidth_widen (u : Bool) (w : Width) (k : Nat) : (widen u w k).setWidth (wbits w) = BitVec.ofNat (wbits w) k := by
  rw [widen_eq]
  cases u
  · ext j hj
    simp [BitVec.getElem_signExtend, hj, hj.trans_le (wbits_le w)]
  · rw [if_pos rfl, BitVec.setWidth_setWidth_of_le _ (wbits_le w), BitVec.setWidth_eq]

/-- A widened result is its low bits, extended. -/
theorem widen_widened (u : Bool) (w : Width) (k : Nat) : widen u w k
    = if u then ((widen u w k).setWidth (wbits w)).setWidth 64 else ((widen u w k).setWidth (wbits w)).signExtend 64 := by
  rw [setWidth_widen, ← widen_eq]

/-- A number of the width's bits reads, widened, as itself wrapped. -/
theorem lowInt_widen_ofInt (u : Bool) (w : Width) (z : Int) :
    lowInt u (wbits w) (widen u w (ofInt (wbits w) z)) = wrapped u (wbits w) z := by
  have hz : BitVec.ofNat (wbits w) (ofInt (wbits w) z) = BitVec.ofInt (wbits w) z := by
    apply BitVec.eq_of_toNat_eq
    have h2 : (0 : Int) < 2 ^ wbits w := by positivity
    rw [BitVec.toNat_ofNat, BitVec.toNat_ofInt, ofInt, Nat.mod_eq_of_lt]
    · norm_cast
    · have := Int.emod_lt_of_pos z h2
      have := Int.emod_nonneg z h2.ne'
      zify [this]
      rwa [Int.toNat_of_nonneg (by assumption)]
  rw [lowInt, setWidth_widen, hz]
  cases u
  · rw [if_neg Bool.false_ne_true, BitVec.toInt_ofInt]; rfl
  · rw [if_pos rfl, BitVec.toNat_ofInt, Int.toNat_of_nonneg (Int.emod_nonneg _ (by positivity))]
    simp [wrapped]

/-- An exact result that is fitted and widened is what the rules say it is. -/
theorem fitsAs_fitW (sat u : Bool) (w : Width) (z : Int) : FitsAs sat u (wbits w) z (fitW sat u w z) := by
  refine ⟨?_, widen_widened ..⟩
  cases sat
  · rw [if_neg Bool.false_ne_true, fitW, fitInt, if_neg Bool.false_ne_true, lowInt_widen_ofInt]
    exact ⟨wrapped_dvd u z, wrapped_range u z (wbits_pos w)⟩
  · have hfit : fitInt true u (wbits w) z
        = ofInt (wbits w) (max (leastInt u (wbits w)) (min (greatestInt u (wbits w)) z)) := rfl
    rw [if_pos rfl, fitW, hfit, lowInt_widen_ofInt]
    exact wrapped_of_range u _ (wbits_pos w) (le_max_left _ _)
      (max_le (leastInt_le_greatestInt u) (min_le_left _ _))

/-- What a source's low bits read as lies in the range of its signedness. -/
theorem lowInt_range (u : Bool) (w : Width) (v : Word) :
    leastInt u (wbits w) ≤ lowInt u (wbits w) v ∧ lowInt u (wbits w) v ≤ greatestInt u (wbits w) := by
  have hv : wrapped u (wbits w) (lowInt u (wbits w) v) = lowInt u (wbits w) v := by
    cases u
    · exact BitVec.toInt_bmod_cancel (v.setWidth (wbits w))
    · simp only [wrapped, lowInt, if_true]
      exact_mod_cast Nat.mod_eq_of_lt (v.setWidth (wbits w)).isLt
  rw [← hv]
  exact wrapped_range u _ (wbits_pos w)

/-- A source that is widened is its own low bits. -/
theorem fitsAs_widen (u : Bool) (w : Width) (v : Word) : FitsAs false u (wbits w) (lowInt u (wbits w) v) (widen u w v.toNat) := by
  refine ⟨?_, widen_widened ..⟩
  have hlow : lowInt u (wbits w) (widen u w v.toNat) = lowInt u (wbits w) v := by
    rw [lowInt, lowInt, setWidth_widen, BitVec.ofNat_toNat]
  rw [if_neg Bool.false_ne_true, hlow, sub_self]
  exact ⟨dvd_zero _, lowInt_range u w v⟩

/-- What fits a number without saturation fits every number that differs from it by a multiple of 2^n. -/
theorem FitsAs.congr {u : Bool} {n : Nat} {z z' : Int} {r : Word} (h : FitsAs false u n z r) (hz : (2 : Int) ^ n ∣ z - z') :
    FitsAs false u n z' r := by
  simp only [FitsAs, Bool.false_eq_true, if_false] at h ⊢
  obtain ⟨⟨hd, hr⟩, hw⟩ := h
  exact ⟨⟨by simpa using dvd_add hd hz, hr⟩, hw⟩

/-- An operation on the numbers of two sources, fitted and widened. -/
theorem fitsAs_op (sat u : Bool) (w : Width) (f : Int → Int → Int) (va vb : Word) :
    FitsAs sat u (wbits w) (f (lowInt u (wbits w) va) (lowInt u (wbits w) vb)) (fitW sat u w (f (srcInt u w va) (srcInt u w vb))) := by
  rw [srcInt_eq_lowInt, srcInt_eq_lowInt]
  exact fitsAs_fitW ..

/-- The quotient is that rounded toward zero, up to the wrap of the least number by −1. -/
theorem divRem_quotient (u : Bool) (w : Width) (p q : Int) :
    (2 : Int) ^ wbits w ∣ (divRem u w p q).1 - (if q = 0 then -1 else p.tdiv q) := by
  unfold divRem
  by_cases hq : q = 0
  · simp [hq]
  · rw [if_neg hq, if_neg hq]
    split
    case isTrue h =>
      obtain ⟨-, hp, hq1⟩ := h
      have h2 : (2 : Int) ^ wbits w = 2 * 2 ^ (wbits w - 1) := by rw [← pow_succ', Nat.sub_add_cancel (wbits_pos w)]
      rw [hq1, Int.tdiv_neg, Int.tdiv_one, hp, h2]
      exact ⟨-1, by ring⟩
    case isFalse => simp [truncDiv]

/-- The remainder is that of the quotient rounded toward zero. -/
theorem divRem_remainder (u : Bool) (w : Width) (p q : Int) : (divRem u w p q).2 = if q = 0 then p else p.tmod q := by
  unfold divRem
  by_cases hq : q = 0
  · simp [hq]
  · rw [if_neg hq, if_neg hq]
    split
    case isTrue h =>
      obtain ⟨-, -, hq1⟩ := h
      simp [hq1]
    case isFalse => simp [truncDiv, Int.tmod_def, mul_comm]

/-- The cycle of a delayed quotient, counted from its issue. -/
theorem divDelay_late (w : Width) : 7 + divDelay w = if w = .i64 then 23 else if w = .i32 then 15 else 7 := by
  cases w <;> rfl

/-- Integer arithmetic of two sources is its operation on their numbers, fitted and widened. -/
theorem exec_arith {i : Instr} {sat u : Bool} {w : Width} {d a b : Opnd} {f : Int → Int → Int}
    (h : arithCase i = some (sat, u, w, d, a, b, f)) (s : State) :
    exec i s = alu2 i d a b 0 s fun x y => fitW sat u w (f (srcInt u w x) (srcInt u w y)) := by
  cases i
  case add => cases h; rfl
  case sub => cases h; rfl
  case mul => cases h; rfl
  case mulh => cases h; rfl
  case min => cases h; rfl
  case max => cases h; rfl
  all_goals cases h

section
variable (c : Ctl) (w : Width) (u st : Bool) (d a b : Opnd) (s : State)

theorem exec_div : exec (.div c w u d a b) s
    = alu2 (.div c w u d a b) d a b (divDelay w) s fun x y => fitW false u w (divRem u w (srcInt u w x) (srcInt u w y)).1 := rfl
theorem exec_rem : exec (.rem c w u d a b) s
    = alu2 (.rem c w u d a b) d a b (divDelay w) s fun x y => fitW false u w (divRem u w (srcInt u w x) (srcInt u w y)).2 := rfl
theorem exec_mov : exec (.mov c w u d a) s = alu1 (.mov c w u d a) d a s fun v => widen u w v.toNat := rfl
theorem exec_movi : exec (.movi c w u d b) s = execMovi c w u d b s := rfl
theorem exec_abs : exec (.abs c w st d a) s
    = alu1 (.abs c w st d a) d a s fun x => fitW st false w ((srcInt false w x).natAbs : Int) := rfl

end

/-- `movi` completes with its immediate widened. -/
theorem execMovi_completes {c : Ctl} {w : Width} {u : Bool} {d b : Opnd} {s : State} {t : Thread} {vb : Word} {y : Iss}
    (hi : Issues (.movi c w u d b) s c t) (hq : (issueState (.movi c w u d b) c t s).queues [] [d] = .ok ())
    (hb : (issueState (.movi c w u d b) c t s).int 2 b = .ok (vb, y)) :
    execMovi c w u d b s = .next ((y.setInt d (widen u w vb.toNat)).finish c) :=
  issue_ok hi (by rw [hq]; dsimp only [bind, Except.bind]; rw [hb]; rfl)

end Sys2Proof.Machine

namespace Sys2Proof.Proofs
open Sys2Proof.Machine

/-- Settles O13: each instruction is the body of its number of sources, and its result is an exact number fitted and widened. -/
theorem arithmeticResults : Obligations.ArithmeticResults := by
  unfold Obligations.ArithmeticResults
  refine ⟨fun i s c t sat u w d a b f va vb y hcase hi hs => ?_, ⟨fun s c t w u d a va y hi hs => ?_,
    fun s c t w u d b vb y hi hq hb => ?_, fun s c t w sat d a va y hi hs => ?_⟩, fun s c t w u d a b va vb y => ?_⟩
  · exact ⟨_, fitsAs_op sat u w f va vb, by rw [exec_arith hcase, alu2_completes_undelayed hi hs]⟩
  · exact ⟨_, fitsAs_widen u w va, by rw [exec_mov, alu1_completes hi hs]⟩
  · exact ⟨_, fitsAs_widen u w vb, by rw [exec_movi, execMovi_completes hi hq hb]⟩
  · refine ⟨_, fitsAs_fitW sat false w _, ?_⟩
    rw [exec_abs, alu1_completes hi hs, srcInt_eq_lowInt, Int.natCast_natAbs]
  · dsimp only
    rw [← divDelay_late]
    refine ⟨fun hi hs => ?_, fun hi hs => ?_⟩
    · exact ⟨_, (fitsAs_fitW false u w _).congr (divRem_quotient u w _ _), by
        rw [exec_div, alu2_completes hi hs, srcInt_eq_lowInt, srcInt_eq_lowInt]⟩
    · rw [← divRem_remainder u w]
      exact ⟨_, fitsAs_fitW .., by rw [exec_rem, alu2_completes hi hs, srcInt_eq_lowInt, srcInt_eq_lowInt]⟩

end Sys2Proof.Proofs
end

section
/-! Operands read and written, and the queue rules of an instruction (R14 to R18, R116, R148, R219, R220, R228). -/

namespace Sys2Proof.Machine

/-! ### Storage errors -/

/-- A site whose error is dropped has none. -/
@[simp] theorem errAt_dropErr_self (s : State) (x : ErrSite) : errAt (dropErr s x) x = none := by
  simp [errAt, dropErr, List.find?_filter]

namespace Iss

variable {x : Iss} {stage : Nat}

section
variable {site : ErrSite} {why : Nat}

theorem check_clean (h : errAt x.s site = none) : x.check site why = .ok x := by rw [check, h]

theorem check_poisoned (h : errAt x.s site = some true) :
    x.check site why = .error (.trap (eMachine why 0) (some fun s => countUe s x.cl why (x.core % 8))) := by rw [check, h]

theorem check_correctable (h : errAt x.s site = some false) :
    x.check site why = .ok { x with s := countCe (dropErr x.s site) x.cl, extra := x.extra + 2 } := by rw [check, h]

end

/-! ### Entries of the register files -/

section
variable {e : Nat}

theorem readG_clean (h : errAt x.s (.gfile x.core e) = none) :
    x.readG stage e = .ok (x.s.gfile.getD (gKey x.core e) 0, x.atStage stage [gBank e]) := by
  rw [readG, check_clean (x := x.atStage stage [gBank e]) h]; rfl

theorem readG_poisoned (h : errAt x.s (.gfile x.core e) = some true) :
    x.readG stage e = .error (.trap (eMachine 1 0) (some fun s => countUe s x.cl 1 (x.core % 8))) := by
  rw [readG, check_poisoned (x := x.atStage stage [gBank e]) h]; rfl

theorem readG_correctable (h : errAt x.s (.gfile x.core e) = some false) :
    x.readG stage e = .ok (x.s.gfile.getD (gKey x.core e) 0,
      { x.atStage stage [gBank e] with s := countCe (dropErr x.s (.gfile x.core e)) x.cl, extra := x.extra + 2 }) := by
  rw [readG, check_correctable (x := x.atStage stage [gBank e]) h]; rfl

theorem readW_clean (h : errAt x.s (.wfile x.core e) = none) :
    x.readW stage e = .ok (x.s.wfile.getD (wKey x.core e) .zero, x.atStage stage [wBank e]) := by
  rw [readW, check_clean (x := x.atStage stage [wBank e]) h]; rfl

theorem readW_poisoned (h : errAt x.s (.wfile x.core e) = some true) :
    x.readW stage e = .error (.trap (eMachine 2 0) (some fun s => countUe s x.cl 2 (x.core % 8))) := by
  rw [readW, check_poisoned (x := x.atStage stage [wBank e]) h]; rfl

/-- A general or borrowed register is read and written as an entry of the general file. -/
theorem int_entry {o : Opnd} (h : (∃ n, o = .g n ∧ e = x.th.gBase + n.val) ∨ ∃ n, o = .bg n ∧ e = x.th.bBase + n.val) :
    x.int stage o = x.readG stage e ∧ ∀ v, x.setInt o v = x.writeG e v := by
  obtain ⟨n, rfl, rfl⟩ | ⟨n, rfl, rfl⟩ := h
  · exact ⟨rfl, fun _ => rfl⟩
  · exact ⟨rfl, fun _ => rfl⟩

/-- A vector or interval register is read and written as an entry of the wide file. -/
theorem vec_entry {o : Opnd} (h : (∃ n, o = .v n ∧ e = x.th.wBase + n.val)
      ∨ ∃ n, o = .k n ∧ e = x.th.wBase + (x.th.nv + 7) / 8 * 8 + n.val) :
    x.vec stage o = x.readW stage e ∧ ∀ v, x.setVec o v = x.writeW e v := by
  obtain ⟨n, rfl, rfl⟩ | ⟨n, rfl, rfl⟩ := h
  · exact ⟨rfl, fun _ => rfl⟩
  · exact ⟨rfl, fun _ => rfl⟩

/-- A result goes to its entry alone, whose error ends. -/
theorem writeG_state (v : Word) :
    (x.writeG e v).s.gfile = x.s.gfile.put 0 (gKey x.core e) v ∧ errAt (x.writeG e v).s (.gfile x.core e) = none
      ∧ (x.writeG e v).s = { x.s with gfile := (x.writeG e v).s.gfile, errs := (x.writeG e v).s.errs } :=
  ⟨rfl, errAt_dropErr_self .., rfl⟩

/-- A wide result goes to its entry alone; of the errors, its own may end. -/
theorem writeW_state (v : VReg) :
    (x.writeW e v).s.wfile = x.s.wfile.put .zero (wKey x.core e) v
      ∧ (x.writeW e v).s = { x.s with wfile := (x.writeW e v).s.wfile, errs := (x.writeW e v).s.errs } := by
  unfold writeW
  dsimp only
  split <;> exact ⟨rfl, rfl⟩

end

/-! ### Queues -/

/-- A queue whose head is popped, where `r` stood behind it. -/
def behindHead (x : Iss) (q : Nat) (r : List QEntry) : Queue :=
  { x.s.queue x.core q with head := BitVec.ofNat 4 (((x.s.queue x.core q).head.toNat + 1) % queueDepth q), ents := r }

/-- A clean head is popped: its entry is gone, and its queue alone moved. -/
theorem pop_clean {q : Nat} {stored : Bool} {e : QEntry} {r : List QEntry} (h : (x.s.queue x.core q).ents = e :: r)
    (hp : e.poison = none) (he : errAt x.s (.queue x.core q e.seq) = none) :
    x.pop q stored = .ok (e.val, { x with s := x.s.setQueue x.core q (x.behindHead q r) }) := by
  simp only [pop, h, hp, he]
  rfl

/-- A queue as an integer source gives its head's data. -/
theorem int_queue_clean {n : Fin 16} {e : QEntry} {r : List QEntry} (h : (x.s.queue x.core n.val).ents = e :: r)
    (hp : e.poison = none) (he : errAt x.s (.queue x.core n.val e.seq) = none) :
    x.int stage (.q n) = .ok (e.val.data.setWidth 64, { x with s := x.s.setQueue x.core n.val (x.behindHead n.val r) }) := by
  rw [int, pop_clean h hp he]; rfl

theorem owns_owner (qs : List Nat) (h : (x.s.core x.core).qOwner = some x.th.ctag) : x.owns qs = .ok () := by
  cases qs
  · rfl
  · rw [owns, if_pos h]

theorem owns_other {q : Nat} {r : List Nat} (h : (x.s.core x.core).qOwner ≠ some x.th.ctag) :
    x.owns (q :: r) = .error (.trap (eRights (detail (0x10 + q) 6 0 3) 0) none) := by rw [owns, if_neg h]

/-- What the source queues must hold and the destination queues must have room for (R18). -/
def QueuesAllow (x : Iss) (srcs dsts : List Nat) : Prop :=
  (∀ q ∈ srcs, (srcs.filter fun p => p == q).length ≤ filled x.s (x.s.queue x.core q))
    ∧ ∀ q ∈ dsts, (x.s.queue x.core q).ents.length - (srcs.filter fun p => p == q).length < queueDepth q

theorem queueReady_allowed {srcs dsts : List Nat} (h : x.QueuesAllow srcs dsts) : x.queueReady srcs dsts = .ok () := by
  rw [queueReady, if_pos]
  simpa only [Bool.and_eq_true, List.all_eq_true, decide_eq_true_eq, QueuesAllow] using h

theorem queueReady_refused {srcs dsts : List Nat} (h : ¬ x.QueuesAllow srcs dsts) :
    x.queueReady srcs dsts = .error (.hold .queue x.s) := by
  rw [queueReady, if_neg]
  simpa only [Bool.and_eq_true, List.all_eq_true, decide_eq_true_eq, QueuesAllow] using h

/-- The queue rules once the ownership check has passed. -/
theorem queues_owned {srcs dsts : List Opnd} (h : x.owns (queuesOf srcs ++ queuesOf dsts) = .ok ()) :
    x.queues srcs dsts = x.queueReady (queuesOf srcs) (queuesOf dsts) := by rw [queues, h]; rfl

end Iss

variable {s : State}

/-- A queue replaced: no other queue of its core and no other core moved. -/
theorem setQueue_frame (c q : Nat) (v : Queue) :
    (s.setQueue c q v).queue c q = v ∧ (∀ p, p ≠ q → (s.setQueue c q v).queue c p = s.queue c p)
      ∧ s.setQueue c q v = { s with cores := (s.setQueue c q v).cores }
      ∧ ∀ k, k ≠ c → (s.setQueue c q v).core k = s.core k := by
  refine ⟨?_, fun p hp => ?_, rfl, fun k hk => State.core_setQueue_ne _ _ _ _ _ hk⟩
  · rw [State.queue_setQueue, if_pos rfl]
  · rw [State.queue_setQueue, if_neg hp]

end Sys2Proof.Machine

namespace Sys2Proof.Proofs
open Sys2Proof.Machine

/-- Settles O10: each form of an operand by the rule of the storage it names, and the two checks of the queue rules in turn. -/
theorem operandsReadAndWrite : Obligations.OperandsReadAndWrite := by
  unfold Obligations.OperandsReadAndWrite
  refine ⟨fun x stage => ⟨fun o e h => ?_, fun _ => rfl, fun _ => rfl, rfl, fun n hn => ?_, fun n e r h hp he => ?_⟩,
    fun x v => ⟨fun o e h => ?_, rfl, fun n hn => ?_, fun n => rfl⟩,
    fun x stage v => ⟨fun o e h => ?_, fun n e r h hp he => ?_, fun n => rfl⟩, fun x srcs dsts => ?_⟩
  · rw [(Iss.int_entry h).1]
    refine ⟨fun he => ⟨_, Iss.readG_clean he, rfl⟩, fun he => ⟨_, Iss.readG_correctable he, ?_, rfl, rfl⟩, Iss.readG_poisoned⟩
    exact errAt_dropErr_self ..
  · simp [Iss.int, Iss.predOf, hn]
  · obtain ⟨hself, hq, hs, hk⟩ := setQueue_frame (s := x.s) x.core n.val (x.behindHead n.val r)
    exact ⟨_, Iss.int_queue_clean h hp he, rfl, (congrArg Queue.ents hself).trans rfl, hq, hs, hk⟩
  · dsimp only
    rw [(Iss.int_entry (stage := 0) h).2]
    obtain ⟨hg, he, hs⟩ := Iss.writeG_state (x := x) (e := e) v
    rw [hg]
    exact ⟨SMap.getD_put_self .., fun k hk => SMap.getD_put_ne _ hk, he, rfl, rfl, rfl, hs⟩
  · simp [Iss.setInt, Iss.writeP, Iss.setPred, hn]
  · rw [(Iss.vec_entry h).1, (Iss.vec_entry (stage := stage) h).2]
    obtain ⟨hw, hs⟩ := Iss.writeW_state (x := x) (e := e) v
    refine ⟨fun he => ⟨_, Iss.readW_clean he, rfl⟩, Iss.readW_poisoned, ?_, fun k hk => ?_, hs⟩
    · rw [hw]; exact SMap.getD_put_self ..
    · rw [hw]; exact SMap.getD_put_ne _ hk
  · exact ⟨_, Iss.pop_clean h hp he, congrArg Queue.ents (setQueue_frame ..).1⟩
  · dsimp only
    refine ⟨fun h => ?_, fun q r h ho => ?_, fun ho => ?_⟩
    · obtain ⟨ha, hb⟩ := List.append_eq_nil_iff.mp h
      rw [Iss.queues_owned (by rw [h]; rfl), ha, hb]; rfl
    · rw [Iss.queues, h, Iss.owns_other ho]; rfl
    · rw [Iss.queues_owned (Iss.owns_owner _ ho)]
      exact ⟨Iss.queueReady_allowed, Iss.queueReady_refused⟩

end Sys2Proof.Proofs
end

section
/-! A trap ring that runs past the end of the device addresses (R86, R311, R316, R394). The hub writes a record at its place modulo
2^56, where `daLoc` of the place itself walks the page table from another bucket. -/

namespace Sys2Proof.Machine

/-- A page of the first 128 KiB of context 0, at an HBM frame. -/
def firstPage (frame : BitVec 47) : PageEntry :=
  { v := true, r := true, w := true, xn := false, size := 0, tier := 0, mg := false, ptag := 0, ctag := 0, vpn := 0, frame := frame,
    module := 0 }

/-- A launch with a ring of two records, the second of which lies 2^56 from address 0, and with one record written. -/
def wrappingLaunch : Launch := { loadedLaunch with ringAddr := 0xFFFFFFFFFFFFC0, ringLog := 1, trapsWritten := 1 }

/-- The launch with the page table of its context on cluster 0: the page of address 0 in bucket 0, at frame 2, and an entry of the same
page in bucket 128, at frame 4, which only a walk of address 2^56 meets. -/
def wrappingRing : State :=
  let s : State := { State.reset with
    launches := [(0, wrappingLaunch)]
    contexts := [(0, { pid := 0, sdt := 0, descs := [], sdtSize := 0, ptRoot := 0, tagKey := 0, windows := [] })]
    partitions := [(0, ⟨.rect 0 0 0 1 1, [0], [0], [], [], 0, false, 0⟩)] }
  writeBytes (writeBytes s (vaultLoc 0 0) (toBytes 32 (numOfPage (firstPage 2)))) (vaultLoc 0 (256 * 128))
    (toBytes 32 (numOfPage (firstPage 4)))

/-- A record none of whose bytes reads as an unwritten one. -/
def wrappingRecord : List Byte := List.replicate 63 1

/-- The second record's place, and the location of it that `daLoc` gives, in frame 4. -/
def wrappingPlace : Nat := wrappingLaunch.ringAddr.toNat + 64 * (wrappingLaunch.trapsWritten % 2 ^ wrappingLaunch.ringLog)
def wrappingLoc : Nat := 2 ^ 64 + 4 * 2 ^ 17

/-- The ring's control block is read, and its place for the record is free, is reached and has a location. -/
theorem wrappingRing_reached :
    daBytes wrappingRing wrappingLaunch.ctag (wrappingLaunch.ringAddr.toNat - 64) 4 = some [0, 0, 0, 0]
      ∧ hubReaches wrappingRing wrappingLaunch.ctag wrappingPlace 64 = true
      ∧ daLoc wrappingRing wrappingLaunch.ctag wrappingPlace = some wrappingLoc := by decide +kernel

/-- The record is written elsewhere: in frame 2, the page of address 0. -/
theorem wrappingRing_written :
    (writeTrapRecord wrappingRing 0 0 wrappingRecord).map (readByte · wrappingLoc) = some unwritten := by decide +kernel

end Sys2Proof.Machine

namespace Sys2Proof.Proofs
open Sys2Proof.Machine

/-- Refutes O8: a ring whose next place is device address 2^56 takes the record at address 0, whose page the table holds at another
frame than the one that a walk of 2^56 itself meets in its own bucket. -/
theorem not_trapsAndTheirRecords : ¬ Obligations.TrapsAndTheirRecords := by
  unfold Obligations.TrapsAndTheirRecords
  intro h
  obtain ⟨-, -, ⟨hring, -⟩⟩ := h
  obtain ⟨hread, hreach, hloc⟩ := wrappingRing_reached
  obtain ⟨hwrite, -⟩ := hring wrappingRing 0 0 wrappingRecord [0, 0, 0, 0] wrappingLaunch rfl hread
  obtain ⟨s', hs', hbytes, -⟩ := hwrite wrappingLoc (by decide) hreach hloc (by decide) rfl
  have hfirst : readByte s' wrappingLoc = 1 := congrArg List.head! hbytes
  have hthere := wrappingRing_written
  rw [hs', Option.map_some, hfirst] at hthere
  exact absurd hthere (by decide)

end Sys2Proof.Proofs
end

section
/-! Bitwise, counting, selecting and comparing integer instructions (R119, R123 to R125). -/

namespace Sys2Proof.Machine

/-! ### The values that these instructions write -/

/-- A bitwise function is read at each bit from the truth table, under the bits of its sources. -/
theorem plogW_eq_table (tt : BitVec 4) (x y : Word) : plogW tt x y
    = BitVec.ofFnLE fun j : Fin 64 => tt.getLsbD ((if x.getLsbD j then 2 else 0) + (if y.getLsbD j then 1 else 0)) := by
  have hpick (b : Bool) (v : Word) (j : Nat) (hj : j < 64) : (if b then v else 0)[j] = (b && v[j]) := by cases b <;> simp
  ext j hj
  simp only [plogW, BitVec.getElem_or, hpick, BitVec.getElem_and, BitVec.getElem_not, BitVec.getElem_ofFnLE,
    BitVec.getLsbD_eq_getElem hj]
  cases x[j] <;> cases y[j] <;> simp

/-- A shift to the left by `n` is the product with 2^n. -/
theorem shiftLeft_eq_mul (y : Word) (n : Nat) : y <<< n = y * 2 ^ n := by
  apply BitVec.eq_of_toNat_eq
  simp [Nat.shiftLeft_eq, BitVec.toNat_mul, BitVec.toNat_pow]

section
variable {n v : Nat}

theorem clzN_le : clzN n v ≤ n := by unfold clzN; split <;> omega

/-- Above the highest one of an `n`-bit value stand zeros. -/
theorem testBit_above_clzN {j : Nat} (hj : j < clzN n v) : v.testBit (n - 1 - j) = false := by
  unfold clzN at hj
  split at hj
  case isTrue h0 => rw [h0, Nat.zero_testBit]
  case isFalse h0 =>
    exact Nat.testBit_lt_two_pow (((Nat.log2_lt h0).mp (Nat.lt_succ_self _)).trans_le (Nat.pow_le_pow_right (by decide) (by omega)))

/-- After the leading zeros stands a one. -/
theorem testBit_clzN (hv : v < 2 ^ n) (h : clzN n v < n) : v.testBit (n - 1 - clzN n v) = true := by
  unfold clzN at h ⊢
  split at h
  case isTrue h0 => omega
  case isFalse h0 =>
    have hlog := (Nat.log2_lt h0).mpr hv
    rw [if_neg h0, show n - 1 - (n - 1 - v.log2) = v.log2 by omega]
    exact Nat.testBit_log2 h0

theorem ctzN_le : ctzN n v ≤ n := by
  unfold ctzN
  cases h : (List.range n).find? fun i => v.testBit i with
  | none => exact le_rfl
  | some k => exact (List.mem_range.mp (List.mem_of_find?_eq_some h)).le

/-- Below the lowest one stand zeros. -/
theorem testBit_below_ctzN {j : Nat} (hj : j < ctzN n v) : v.testBit j = false := by
  have hn : j < n := hj.trans_le ctzN_le
  unfold ctzN at hj
  cases h : (List.range n).find? fun i => v.testBit i with
  | none => simpa using List.find?_eq_none.mp h j (List.mem_range.mpr hn)
  | some k =>
    rw [h] at hj
    obtain ⟨-, -, hlow⟩ := List.find?_range_eq_some.mp h
    simpa using hlow j hj

/-- After the trailing zeros stands a one. -/
theorem testBit_ctzN (h : ctzN n v < n) : v.testBit (ctzN n v) = true := by
  unfold ctzN at h ⊢
  cases hk : (List.range n).find? fun i => v.testBit i with
  | none => rw [hk] at h; exact absurd h (lt_irrefl n)
  | some k => exact List.find?_some (p := fun i => v.testBit i) hk

end

section
variable (va : Word) {n : Nat}

/-- The low bits of a source are those of the number that is counted in. -/
theorem testBit_low {j : Nat} (hj : j < n) : (va.toNat % 2 ^ n).testBit j = va.getLsbD j := by
  rw [Nat.testBit_mod_two_pow, decide_eq_true hj, Bool.true_and]; rfl

theorem clzN_counts (n : Nat) : let k := clzN n (va.toNat % 2 ^ n)
    k ≤ n ∧ (∀ j, j < k → va.getLsbD (n - 1 - j) = false) ∧ (k < n → va.getLsbD (n - 1 - k) = true) := by
  intro k
  have hlow : va.toNat % 2 ^ n < 2 ^ n := Nat.mod_lt _ (Nat.two_pow_pos n)
  have hk : k ≤ n := clzN_le
  refine ⟨hk, fun j hj => ?_, fun hkn => ?_⟩
  · rw [← testBit_low va (n := n) (by omega)]; exact testBit_above_clzN hj
  · rw [← testBit_low va (n := n) (by omega)]; exact testBit_clzN hlow hkn

theorem ctzN_counts (n : Nat) : let k := ctzN n (va.toNat % 2 ^ n)
    k ≤ n ∧ (∀ j, j < k → va.getLsbD j = false) ∧ (k < n → va.getLsbD k = true) := by
  intro k
  have hk : k ≤ n := ctzN_le
  refine ⟨hk, fun j hj => ?_, fun hkn => ?_⟩
  · rw [← testBit_low va (hj.trans_le hk)]; exact testBit_below_ctzN hj
  · rw [← testBit_low va hkn]; exact testBit_ctzN hkn

theorem popcN_eq_countP (n : Nat) : popcN n (va.toNat % 2 ^ n) = (List.range n).countP va.getLsbD := by
  rw [popcN, ← List.countP_eq_length_filter]
  exact List.countP_congr fun j hj => by rw [testBit_low va (List.mem_range.mp hj)]

end

/-- An item cut out of a source is widened as the source shifted down to it. -/
theorem widen_bitsAt (u : Bool) (w : Width) (va : Word) (pos : Nat) :
    widen u w (bitsAt va.toNat pos (wbits w)) = widen u w (va >>> pos).toNat := by
  have hlow : BitVec.ofNat (wbits w) (bitsAt va.toNat pos (wbits w)) = BitVec.ofNat (wbits w) (va >>> pos).toNat :=
    BitVec.eq_of_toNat_eq (by simp [bitsAt, Nat.shiftRight_eq_div_pow])
  rw [widen_eq, widen_eq, hlow]

/-- A condition holds of the order of two integers where it holds of them. -/
theorem holds_compare (k : Cond) (x y : Int) : Cond.holds k (some (compare x y)) = intHolds k x y := by
  rcases lt_trichotomy x y with h | h | h
  · rw [compare_lt_iff_lt.mpr h]; cases k <;> simp [Cond.holds, intHolds, h, h.ne, h.le, h.not_gt, h.not_ge]
  · rw [compare_eq_iff_eq.mpr h]; cases k <;> simp [Cond.holds, intHolds, h]
  · rw [compare_gt_iff_gt.mpr h]; cases k <;> simp [Cond.holds, intHolds, h, h.ne', h.le, h.not_gt, h.not_ge]

/-- A destination takes of a truth value what the rule says; none but predicates and integer destinations takes anything. -/
theorem setInt_truth (x : Iss) (d : Opnd) (b : Bool) : x.setInt d (truth d b) = x.setInt d (verdict d b) := by
  cases d <;> cases b <;> rfl

/-! ### The instructions -/

theorem exec_bit {i : Instr} {d a b : Opnd} {f : Word → Word → Word} (h : bitCase i = some (d, a, b, f)) (s : State) :
    exec i s = alu2 i d a b 0 s f := by
  cases i
  case and => cases h; rfl
  case or => cases h; rfl
  case xor => cases h; rfl
  case andn => cases h; rfl
  case lea c n d a b =>
    cases h
    have hf : (fun x y : Word => x + y * 2 ^ n.toNat) = fun (x y : Word) => x + y <<< n.toNat := by
      funext x y; rw [shiftLeft_eq_mul]
    rw [hf]; rfl
  case plog c tt d a b => cases h; rw [← funext₂ (plogW_eq_table tt)]; rfl
  all_goals cases h

section
variable (c : Ctl) (w : Width) (u : Bool) (d a b : Opnd) (s : State)

theorem exec_nop : exec (.nop c) s = issue (.nop c) s pure := rfl
theorem exec_pmov : exec (.pmov c d a) s = alu1 (.pmov c d a) d a s id := rfl
theorem exec_sel (n : BitVec 3) : exec (.sel c n d a b) s = execSel c n d a b s := rfl
theorem exec_clz : exec (.clz c w d a) s
    = alu1 (.clz c w d a) d a s fun x => BitVec.ofNat 64 (clzN (wbits w) (x.toNat % 2 ^ wbits w)) := rfl
theorem exec_ctz : exec (.ctz c w d a) s
    = alu1 (.ctz c w d a) d a s fun x => BitVec.ofNat 64 (ctzN (wbits w) (x.toNat % 2 ^ wbits w)) := rfl
theorem exec_popc : exec (.popc c w d a) s
    = alu1 (.popc c w d a) d a s fun x => BitVec.ofNat 64 (popcN (wbits w) (x.toNat % 2 ^ wbits w)) := rfl
theorem exec_ext : exec (.ext c w u d a b) s = alu2 (.ext c w u d a b) d a b 0 s fun x y =>
    widen u w (bitsAt x.toNat (wbits w * (y.toNat % (64 / wbits w))) (wbits w)) := rfl
theorem exec_cmp (k : Cond) : exec (.cmp c w u k d a b) s = alu2 (.cmp c w u k d a b) d a b 0 s fun x y =>
    truth d (Cond.holds k (some (compare (srcInt u w x) (srcInt u w y)))) := rfl

end

/-- The choice of `sel` is bit 0 of its predicate, and p0 reads as all ones. -/
theorem predOf_choice (t : Thread) (n : BitVec 3) (va vb : Word) :
    (if (Iss.predOf t n.toFin).getLsbD 0 then va else vb)
      = if n = 0 ∨ (t.preds[n.toNat]).getLsbD 0 = true then va else vb := by
  have h0 : n.toFin = 0 ↔ n = 0 := by rw [← BitVec.toFin_inj]; rfl
  by_cases hn : n = 0
  · rw [if_pos (Or.inl hn), Iss.predOf, if_pos (h0.mpr hn)]; rfl
  · rw [Iss.predOf, if_neg (mt h0.mp hn)]; simp only [hn, false_or]; rfl

/-- `sel` completes with the source that its predicate chooses. -/
theorem execSel_completes {c : Ctl} {n : BitVec 3} {d a b : Opnd} {s : State} {t : Thread} {va vb : Word} {y : Iss}
    (hi : Issues (.sel c n d a b) s c t) (hs : Source2 (issueState (.sel c n d a b) c t s) d a b va vb y) :
    execSel c n d a b s = .next ((y.setInt d (if n = 0 ∨ (t.preds[n.toNat]).getLsbD 0 = true then va else vb)).finish c) := by
  obtain ⟨hth, -⟩ := hs.keeps
  obtain ⟨hq, x1, ha, hb⟩ := hs
  rw [← predOf_choice]
  exact issue_ok hi (by
    rw [hq]; dsimp only [bind, Except.bind]; rw [ha]; dsimp only; rw [hb]; dsimp only; rw [hth]; rfl)

end Sys2Proof.Machine

namespace Sys2Proof.Proofs
open Sys2Proof.Machine

/-- Settles O14: each instruction is the body of its number of sources, and its value is the one that its rule states. -/
theorem bitwiseCountAndCompareResults : Obligations.BitwiseCountAndCompareResults := by
  unfold Obligations.BitwiseCountAndCompareResults
  refine ⟨⟨fun i s c t d a b f va vb y hcase hi hs => ?_, fun s c t d a va y hi hs => ?_,
      fun s c t n d a b va vb y hi hs => ?_⟩, fun s c t w u d a b va vb y => ⟨fun hi hs => ?_, fun hi hs => ?_, fun hi hs => ?_,
      fun hi hs => ?_⟩, fun s c t w u k d a b va vb y hi hs => ?_, fun s c t hi => ?_⟩
  · rw [exec_bit hcase, alu2_completes_undelayed hi hs]
  · rw [exec_pmov, alu1_completes hi hs, id]
  · rw [exec_sel, execSel_completes hi hs]
  · obtain ⟨hle, hzeros, hone⟩ := clzN_counts va (wbits w)
    exact ⟨_, hle, hzeros, hone, by rw [exec_clz, alu1_completes hi hs]⟩
  · obtain ⟨hle, hzeros, hone⟩ := ctzN_counts va (wbits w)
    exact ⟨_, hle, hzeros, hone, by rw [exec_ctz, alu1_completes hi hs]⟩
  · rw [exec_popc, alu1_completes hi hs, popcN_eq_countP]
  · exact ⟨_, fitsAs_widen u w _, by rw [exec_ext, alu2_completes_undelayed hi hs, widen_bitsAt]⟩
  · rw [exec_cmp, alu2_completes_undelayed hi hs, setInt_truth, holds_compare, srcInt_eq_lowInt, srcInt_eq_lowInt]
  · exact (exec_nop c s).trans (issue_ok hi rfl)

end Sys2Proof.Proofs
end

section
/-! What the root monitor grants and refuses of descriptors, resident tags and windows (R54, R72, R225, R226, R281, R311, R436). -/

namespace Sys2Proof.Machine

/-! ### The meanings of the root monitor's events -/

section
variable (s : State)

theorem exec_descriptorCreate (tag index : Nat) (g : Segment) :
    exec (.descriptorCreate tag index g) s = execDescriptorCreate tag index g s := rfl
theorem exec_contextTagReside (c : Nat) (tag : BitVec 16) (evict : Option (BitVec 16)) :
    exec (.contextTagReside c tag evict) s = execContextTagReside c tag evict s := rfl
theorem exec_windowRegister (tag n : Nat) (w : WindowEntry) (fab : Bool) :
    exec (.windowRegister tag n w fab) s = execWindowRegister tag n w fab s := rfl
theorem exec_atsInvalidation : exec .atsInvalidation s = execAtsInvalidation s := rfl

/-- A cluster with the partition it goes to, whose entry is the one that is asked for, or a cluster alone. -/
theorem exec_partitionAssign {cl : Nat} {part : Option Nat} (h : s.args = cl :: part.toList) :
    exec .partitionAssign s = assignCluster cl part (part.bind fun n => s.asked.get? n) s := by
  have hexec : exec .partitionAssign s = execPartitionAssign s := rfl
  rw [hexec, execPartitionAssign, h]
  cases part <;> rfl

end

/-! ### Descriptors (R72, R281, R315) -/

section
variable {s : State} {tag index pid : Nat} {g : Segment} {c : Context}

theorem descriptorBad_iff : descriptorBad s pid g = true ↔ g.kind = .res6 ∨ g.kind = .res7
    ∨ (g.kind = .core ∧ 131072 < g.base.toNat + g.limit.toNat)
    ∨ (g.kind = .vault ∧ (0x270000 < g.base.toNat + g.limit.toNat ∨ meetsShard s pid g.base.toNat g.limit.toNat = true))
    ∨ (g.kind = .memory
      ∧ (meetsSystem g.base.toNat g.limit.toNat = true ∨ meetsShards s pid g.base.toNat g.limit.toNat = true)) := by
  unfold descriptorBad
  cases g.kind <;> simp

theorem descriptorCreate_unknown (h : s.contexts.get? tag = none) :
    exec (.descriptorCreate tag index g) s = .next { s with refused := some .form } := by
  rw [exec_descriptorCreate, execDescriptorCreate, h]

theorem descriptorCreate_refused (hc : s.contexts.get? tag = some c)
    (hbad : descriptorBad s c.pid g = true ∨ c.sdtSize ≤ index ∨ 2 ^ 12 ≤ index) :
    exec (.descriptorCreate tag index g) s = .next { s with refused := some .form } := by
  rw [exec_descriptorCreate, execDescriptorCreate, hc]
  exact if_pos hbad

theorem descriptorCreate_granted (hc : s.contexts.get? tag = some c) (hgood : descriptorBad s c.pid g = false)
    (hsdt : index < c.sdtSize) (hindex : index < 2 ^ 12) : exec (.descriptorCreate tag index g) s = .next { s with
      contexts := s.contexts.set tag { c with descs := c.descs.set index { g with index := BitVec.ofNat 12 index } }
      refused := none } := by
  rw [exec_descriptorCreate, execDescriptorCreate, hc]
  refine if_neg ?_
  rintro (h | h | h)
  · rw [hgood] at h; exact Bool.false_ne_true h
  · exact hsdt.not_ge h
  · exact hindex.not_ge h

end

/-! ### Resident tags (R225, R226) -/

section
variable {s : State} {c : Nat} {tag e x : BitVec 16} {evict : Option (BitVec 16)}

theorem resident_iff : resident s c x = true ↔ ∃ r ∈ (s.core c).tags, r.ctag = x := by
  simp [resident]

theorem tagUnbound_iff : tagUnbound s c e = true ↔ ∀ t ∈ threadsOn s c, t.2.ctag ≠ e := by
  simp [tagUnbound]

@[simp] theorem resTagOf_ctag (s : State) (tag : BitVec 16) : (resTagOf s tag).ctag = tag := by
  unfold resTagOf; split <;> rfl

/-- A context tag of the partition to which a core's cluster belongs. -/
abbrev OfCorePartition (s : State) (c : Nat) (tag : BitVec 16) : Prop :=
  ∃ pid p, s.partitions.find? (fun p => p.2.clusters.contains (clusterOf c)) = some (pid, p) ∧ tag ∈ p.tags ∧ s.pidOf tag = some pid

/-- The machine with the entry of a tag written behind the entries `ts` on a core. -/
def residing (s : State) (c : Nat) (tag : BitVec 16) (ts : List ResTag) : State :=
  { (s.updCore c fun k => { k with tags := ts ++ [resTagOf s tag] }) with refused := none }

theorem tags_residing (ts : List ResTag) : ((residing s c tag ts).core c).tags = ts ++ [resTagOf s tag] :=
  congrArg CoreSt.tags (State.core_setCore_self s c _)

/-- The entry that is written stands among the core's. -/
theorem resTagOf_mem_residing (ts : List ResTag) : resTagOf s tag ∈ ((residing s c tag ts).core c).tags := by
  rw [tags_residing]; exact List.mem_append_right _ (List.mem_singleton_self _)

/-- The tags of a core after one was made resident. -/
theorem has_residing (ts : List ResTag) :
    (∃ r ∈ ((residing s c tag ts).core c).tags, r.ctag = x) ↔ x = tag ∨ ∃ r ∈ ts, r.ctag = x := by
  rw [tags_residing]
  constructor
  · rintro ⟨r, hr, rfl⟩
    rcases List.mem_append.mp hr with hr | hr
    · exact .inr ⟨r, hr, rfl⟩
    · rw [List.mem_singleton.mp hr]; exact .inl (resTagOf_ctag s tag)
  · rintro (rfl | ⟨r, hr, rfl⟩)
    · exact ⟨_, List.mem_append_right _ (List.mem_singleton_self _), resTagOf_ctag s x⟩
    · exact ⟨r, List.mem_append_left _ hr, rfl⟩

theorem exists_mem_filter_tags (ts : List ResTag) :
    (∃ r ∈ ts.filter (fun t => t.ctag != e), r.ctag = x) ↔ (∃ r ∈ ts, r.ctag = x) ∧ x ≠ e := by
  simp only [List.mem_filter, bne_iff_ne]
  constructor
  · rintro ⟨r, ⟨hr, hne⟩, rfl⟩; exact ⟨⟨r, hr, rfl⟩, hne⟩
  · rintro ⟨⟨r, hr, rfl⟩, hne⟩; exact ⟨r, ⟨hr, hne⟩, rfl⟩

theorem contextTagReside_foreign (h : ¬ OfCorePartition s c tag) :
    exec (.contextTagReside c tag evict) s = .next { s with refused := some .tags } := by
  rw [exec_contextTagReside]
  unfold execContextTagReside
  refine if_pos ?_
  rcases hf : s.partitions.find? (fun p => p.2.clusters.contains (clusterOf c)) with _ | ⟨pid, p⟩
  · rw [hf]; rfl
  · rw [hf]; simpa [imp_iff_not_or] using fun ht hp => h ⟨pid, p, hf, ht, hp⟩

/-- A tag of the core's partition is resident already, or is put in a free place or in that of another tag. -/
theorem contextTagReside_own (h : OfCorePartition s c tag) : exec (.contextTagReside c tag evict) s
    = if resident s c tag then .next { s with refused := none }
      else match evict with
        | some e => if !resident s c e then .next { s with refused := some .tags }
          else if tagUnbound s c e then .next (residing s c tag ((s.core c).tags.filter fun t => t.ctag != e))
          else .next { s with refused := some .busy }
        | none => if (s.core c).tags.length < 16 then .next (residing s c tag (s.core c).tags)
          else .next { s with refused := some .busy } := by
  obtain ⟨pid, p, hf, ht, hp⟩ := h
  rw [exec_contextTagReside]
  unfold execContextTagReside
  refine (if_neg (by rw [hf]; simp [ht, hp])).trans ?_
  cases evict <;> rfl

theorem contextTagReside_again (h : OfCorePartition s c tag) (hhas : ∃ r ∈ (s.core c).tags, r.ctag = tag) :
    exec (.contextTagReside c tag evict) s = .next { s with refused := none } := by
  rw [contextTagReside_own h, if_pos (resident_iff.mpr hhas)]

section
variable (h : OfCorePartition s c tag) (hnot : ¬ ∃ r ∈ (s.core c).tags, r.ctag = tag)
include h hnot

theorem contextTagReside_full (hfull : 16 ≤ (s.core c).tags.length) :
    exec (.contextTagReside c tag none) s = .next { s with refused := some .busy } := by
  rw [contextTagReside_own h, if_neg (mt resident_iff.mp hnot)]
  exact if_neg hfull.not_gt

theorem contextTagReside_placed (hroom : (s.core c).tags.length < 16) :
    exec (.contextTagReside c tag none) s = .next (residing s c tag (s.core c).tags) := by
  rw [contextTagReside_own h, if_neg (mt resident_iff.mp hnot)]
  exact if_pos hroom

theorem contextTagReside_evicts_absent (he : ¬ ∃ r ∈ (s.core c).tags, r.ctag = e) :
    exec (.contextTagReside c tag (some e)) s = .next { s with refused := some .tags } := by
  rw [contextTagReside_own h, if_neg (mt resident_iff.mp hnot)]
  exact if_pos (by rw [Bool.eq_false_iff.mpr (mt resident_iff.mp he)]; rfl)

theorem contextTagReside_evicts (he : ∃ r ∈ (s.core c).tags, r.ctag = e) : exec (.contextTagReside c tag (some e)) s
    = if tagUnbound s c e then .next (residing s c tag ((s.core c).tags.filter fun t => t.ctag != e))
      else .next { s with refused := some .busy } := by
  rw [contextTagReside_own h, if_neg (mt resident_iff.mp hnot)]
  exact if_neg (by rw [resident_iff.mpr he]; exact Bool.false_ne_true)

theorem contextTagReside_evicts_bound (he : ∃ r ∈ (s.core c).tags, r.ctag = e) (hbound : ∃ t ∈ threadsOn s c, t.2.ctag = e) :
    exec (.contextTagReside c tag (some e)) s = .next { s with refused := some .busy } := by
  rw [contextTagReside_evicts h hnot he]
  exact if_neg fun hu => by obtain ⟨t, ht, hte⟩ := hbound; exact tagUnbound_iff.mp hu t ht hte

theorem contextTagReside_evicts_unbound (he : ∃ r ∈ (s.core c).tags, r.ctag = e) (hunbound : ∀ t ∈ threadsOn s c, t.2.ctag ≠ e) :
    exec (.contextTagReside c tag (some e)) s = .next (residing s c tag ((s.core c).tags.filter fun t => t.ctag != e)) := by
  rw [contextTagReside_evicts h hnot he, if_pos (tagUnbound_iff.mpr hunbound)]

end

end

/-! ### Memory that a page entry's change leaves (R326, R332) -/

theorem mem_sendEntry (s : State) (c pub : Nat) (e : BufEntry) : (sendEntry s c pub e).2.mem = s.mem := rfl

theorem mem_sendEntries (s : State) (c : Nat) (es : List BufEntry) (ws : List Nat) (after : After) :
    (sendEntries s c es ws after).mem = s.mem :=
  List.foldlRecOn (motive := fun r : List Nat × State => r.2.mem = s.mem) es _ rfl fun r hr _ _ => (mem_sendEntry r.2 ..).trans hr

theorem mem_publishIf (p : BufEntry → Bool) (ws : List Nat) (after : After) (s : State) (c : Nat) :
    (publishIf p ws after s c).2.mem = s.mem := by
  simp only [publishIf, publishMarked]
  split
  · rfl
  · rw [mem_sendEntries]; rfl

theorem mem_publishPage (s : State) (e : PageEntry) : (publishPage s e).mem = s.mem := by
  unfold publishPage
  exact foldl_keeps State.mem _ (fun s c => mem_publishIf _ _ _ s c.1) s.cores s

/-- An entry of a page is written at its place, and no other byte changes. -/
theorem readByte_writePage {s s1 : State} {e : PageEntry} {loc : Nat} (hplace : entryPlace s e = some loc)
    (h : writePage s e = some s1) (a : Nat) : readByte s1 a
      = if loc ≤ a ∧ a < loc + 32 then (toBytes 32 (numOfPage e)).getD (a - loc) 0 else readByte s a := by
  rw [writePage, hplace] at h
  obtain rfl := Option.some.inj h
  have hmem (s1 : State) : (publishPage (dropTranslations s1 e) e).mem = s1.mem := mem_publishPage ..
  rw [readByte, hmem, mem_performWrite s hubWriter loc _ _ rfl, getD_memPutAll, length_toBytes]; rfl

/-! ### Windows (R54, R311, R436) -/

section
variable {s s1 : State} {tag n page loc : Nat} {w : WindowEntry} {fab : Bool} {c : Context}

/-- A window on the module itself, or one for which no page is named, has no peer page. -/
theorem writePeers_none (h : w.module = Config.moduleId ∨ s.args = []) : writePeers s tag w s.args = some s := by
  unfold writePeers
  split
  · rfl
  · rw [h.resolve_left ‹_›]; rfl

/-- The one peer page of a window is written as its entry. -/
theorem writePeers_single (hw : w.module ≠ Config.moduleId) (h : writePeers s tag w [page] = some s1) :
    writePage s (peerEntry tag w 0 page) = some s1 := by
  have hone : writePeers s tag w [page]
      = if 0 * 2 ^ 17 < w.wsize.toNat ∧ page < 2 ^ 39 ∧ entryFits s (peerEntry tag w 0 page)
        then writePage s (peerEntry tag w 0 page) else none := by
    simp only [writePeers, if_neg hw]
    exact bind_pure _
  rw [hone] at h
  exact (Option.ite_none_right_eq_some.mp h).2

theorem windowRegister_unknown (h : s.contexts.get? tag = none) :
    exec (.windowRegister tag n w fab) s = .next { s with refused := some .form } := by
  rw [exec_windowRegister, execWindowRegister, h]

theorem windowRegister_refused (hc : s.contexts.get? tag = some c)
    (hbad : 64 ≤ n ∨ c.windows.has n ∨ fab = false ∨ gridLegal w = false ∨ s.routes.getD w.module.toNat 0 = 0) :
    exec (.windowRegister tag n w fab) s = .next { s with refused := some .form } := by
  rw [exec_windowRegister, execWindowRegister, hc]
  exact if_pos (by simpa using hbad)

/-- The machine with a window registered: its entry in the context, and its counters at their reset values. -/
def registered (s : State) (tag n : Nat) (w : WindowEntry) (c : Context) : State :=
  { s with
    contexts := s.contexts.set tag { c with
      windows := c.windows.set n { w with wv := true, tsize := BitVec.ofNat 40 (w.wsize.toNat / gridTiles w) } }
    counters := s.counters.put .reset (64 * tag + n) .reset
    refused := none }

theorem counters_registered (s : State) (tag n : Nat) (w : WindowEntry) (c : Context) :
    (registered s tag n w c).counters.getD (64 * tag + n) .reset = .reset := by
  simp only [registered, SMap.getD_put_self]

/-- A window that no check refuses is registered once its peer pages are written. -/
theorem windowRegister_passed (hc : s.contexts.get? tag = some c) (hfree : c.windows.has n = false) (hn : n < 64)
    (hfab : fab = true) (hgrid : gridLegal w = true) (hroute : s.routes.getD w.module.toNat 0 ≠ 0) :
    exec (.windowRegister tag n w fab) s = match writePeers s tag w s.args with
        | none => .next { s with refused := some .form }
        | some s1 => .next (registered s1 tag n w c) := by
  rw [exec_windowRegister, execWindowRegister, hc]
  exact if_neg (by simpa [hfree, hfab, hgrid, hn] using hroute)

end

end Sys2Proof.Machine
end

section
/-! Clusters assigned and taken away, and partition entries written (R132, R217, R259, R316, R413, R414). -/

namespace Sys2Proof.Machine

/-! ### Maps and lists -/

/-- A map without the keys that `mine` names. -/
theorem SMap.getD_filter_keys {α : Type} (mine : Nat → Bool) (m : SMap α) (k : Nat) (d : α) :
    SMap.getD (m.filter fun e => !mine e.1) k d = if mine k then d else m.getD k d := by
  unfold SMap.getD
  induction m with
  | nil => simp [SMap.get?]
  | cons e r ih =>
    obtain ⟨n, v⟩ := e
    by_cases hk : k = n
    · subst hk; cases hn : mine k <;> simp_all [SMap.get?]
    · cases hn : mine n <;> simp_all [SMap.get?]

/-- A map whose values are changed by `f`. -/
theorem SMap.get?_map_values {α β : Type} (f : α → β) (m : SMap α) (k : Nat) :
    SMap.get? (m.map fun e => (e.1, f e.2)) k = (m.get? k).map f := by
  induction m with
  | nil => rfl
  | cons e r ih =>
    simp only [List.map_cons, SMap.get?, ih]
    split <;> rfl

theorem mem_insertNat {x n : Nat} {l : List Nat} : x ∈ insertNat n l ↔ x = n ∨ x ∈ l := by
  simp only [insertNat, List.mem_append, List.mem_cons, List.mem_filter, decide_eq_true_eq]
  constructor
  · tauto
  · rintro (rfl | hx)
    · tauto
    · rcases lt_trichotomy x n with h | h | h <;> tauto

theorem length_eraseDups_le {α : Type} [BEq α] [LawfulBEq α] (l : List α) : l.eraseDups.length ≤ l.length := by
  match l with
  | [] => exact le_rfl
  | a :: r =>
    rw [List.eraseDups_cons, List.length_cons, List.length_cons]
    exact Nat.succ_le_succ ((length_eraseDups_le _).trans (List.length_filter_le _ r))
termination_by l.length
decreasing_by exact Nat.lt_succ_of_le (List.length_filter_le _ r)

/-- A list that loses nothing when its duplicates are erased has none. -/
theorem nodup_of_length_eraseDups {α : Type} [BEq α] [LawfulBEq α] {l : List α} (h : l.eraseDups.length = l.length) : l.Nodup := by
  induction l with
  | nil => exact List.nodup_nil
  | cons a r ih =>
    rw [List.eraseDups_cons, List.length_cons, List.length_cons, Nat.succ_inj] at h
    have hall : r.filter (fun b => !b == a) = r :=
      List.filter_sublist.eq_of_length ((List.length_filter_le _ r).antisymm (h.symm.le.trans (length_eraseDups_le _)))
    rw [hall] at h
    exact List.nodup_cons.mpr ⟨fun ha => by simpa using List.filter_eq_self.mp hall a ha, ih h⟩

/-- A fold whose step for an item establishes a fact of the item that every step keeps establishes it of all its items. -/
theorem foldl_establishes {α β : Type} {P : α → β → Prop} {f : β → α → β} (hset : ∀ s a, P a (f s a))
    (hkeep : ∀ s a b, P b s → P b (f s a)) (l : List α) (s : β) : ∀ a ∈ l, P a (l.foldl f s) := by
  induction l generalizing s with
  | nil => exact fun _ h => nomatch h
  | cons b r ih =>
    refine List.forall_mem_cons.mpr ⟨?_, ih _⟩
    exact List.foldlRecOn (motive := P b) r f (hset s b) fun s hs a _ => hkeep s a b hs

/-! ### A cluster cleared (R132, R217, R259, R414) -/

/-- What the root monitor keeps beside the clusters: partitions, contexts, and the entries it is to write. -/
abbrev monitorTables (s : State) : SMap Partition × SMap Context × SMap PartEntry := (s.partitions, s.contexts, s.asked)

theorem readByte_clearStore (s : State) (c k : Nat) : readByte (clearStore s c) k
    = if coreLoc c 0 ≤ k ∧ k < coreLoc c 0 + 2 ^ 17 then unwritten else readByte s k := by
  rw [readByte, clearStore, mem_clearErrs, mem_wipePast]
  refine (SMap.getD_filter_keys (fun k => decide (coreLoc c 0 ≤ k) && decide (k < coreLoc c 0 + 2 ^ 17)) ..).trans ?_
  simp only [Bool.and_eq_true, decide_eq_true_eq]; rfl

theorem readByte_clearVault (s : State) (cl k : Nat) : readByte (clearVault s cl) k
    = if vaultLoc cl 0 ≤ k ∧ k < vaultLoc cl 0x300000 then unwritten else readByte s k := by
  refine (SMap.getD_filter_keys (fun k => decide (vaultLoc cl 0 ≤ k) && decide (k < vaultLoc cl 0x300000)) ..).trans ?_
  simp only [Bool.and_eq_true, decide_eq_true_eq]; rfl

theorem readByte_updCluster (s : State) (n k : Nat) (f : ClusterSt → ClusterSt) :
    readByte (s.updCluster n f) k = readByte s k := rfl
theorem core_updCluster (s : State) (n k : Nat) (f : ClusterSt → ClusterSt) : (s.updCluster n f).core k = s.core k := rfl
theorem monitorTables_updCluster (s : State) (n : Nat) (f : ClusterSt → ClusterSt) :
    monitorTables (s.updCluster n f) = monitorTables s := rfl
theorem core_clearVault (s : State) (cl k : Nat) : (clearVault s cl).core k = s.core k := rfl
theorem monitorTables_clearVault (s : State) (cl : Nat) : monitorTables (clearVault s cl) = monitorTables s := rfl

/-- Core `i` of a cluster as its assignment leaves it. -/
def clearCore (cl : Nat) (s : State) (i : Nat) : State :=
  (clearStore s (8 * cl + i)).updCore (8 * cl + i) fun k => { k with spawns := 0 }

/-- The eight cores of a cluster as its assignment leaves them. -/
def clearCores (cl : Nat) (s : State) : State := (List.range 8).foldl (clearCore cl) s

theorem clearCluster_eq (s : State) (cl : Nat) :
    clearCluster s cl = (clearVault (clearCores cl s) cl).updCluster cl fun k => { k with lastServed := 3 } := rfl

theorem readByte_clearCluster (s : State) (cl k : Nat) : readByte (clearCluster s cl) k
    = if vaultLoc cl 0 ≤ k ∧ k < vaultLoc cl 0x300000 then unwritten else readByte (clearCores cl s) k := by
  rw [clearCluster_eq, readByte_updCluster, readByte_clearVault]

/-- Core `i` of a cluster has the reset values that an assignment gives it. -/
structure CoreCleared (cl i : Nat) (s : State) : Prop where
  memory : ∀ o, o < 2 ^ 17 → readByte s (coreLoc (8 * cl + i) o) = unwritten
  spawns : (s.core (8 * cl + i)).spawns = 0

theorem readByte_clearCore (cl i k : Nat) (s : State) :
    readByte (clearCore cl s i) k = readByte (clearStore s (8 * cl + i)) k := rfl

theorem core_clearCore (cl i k : Nat) (s : State) : (clearCore cl s i).core k
    = if k = 8 * cl + i then { s.core (8 * cl + i) with spawns := 0 } else s.core k := State.core_updCore ..

theorem clearCore_clears (cl i : Nat) (s : State) : CoreCleared cl i (clearCore cl s i) := by
  refine ⟨fun o ho => ?_, ?_⟩
  · rw [readByte_clearCore, readByte_clearStore]
    exact if_pos (by unfold coreLoc; omega)
  · rw [core_clearCore, if_pos rfl]

theorem clearCore_keeps (cl i j : Nat) (s : State) (h : CoreCleared cl j s) : CoreCleared cl j (clearCore cl s i) := by
  obtain ⟨hmem, hspawns⟩ := h
  refine ⟨fun o ho => ?_, ?_⟩
  · rw [readByte_clearCore, readByte_clearStore, hmem o ho, ite_self]
  · rw [core_clearCore]
    split
    · rfl
    · exact hspawns

theorem coreCleared_clearCores (cl : Nat) (s : State) {i : Nat} (hi : i < 8) : CoreCleared cl i (clearCores cl s) :=
  foldl_establishes (P := CoreCleared cl) (f := clearCore cl) (fun s i => clearCore_clears cl i s)
    (fun s a b => clearCore_keeps cl a b s) (List.range 8) s i (List.mem_range.mpr hi)

theorem monitorTables_clearCores (cl : Nat) (s : State) : monitorTables (clearCores cl s) = monitorTables s :=
  foldl_keeps monitorTables (clearCore cl) (fun _ _ => rfl) (List.range 8) s

theorem monitorTables_clearCluster (s : State) (cl : Nat) : monitorTables (clearCluster s cl) = monitorTables s := by
  rw [clearCluster_eq, monitorTables_updCluster, monitorTables_clearVault, monitorTables_clearCores]

theorem vault_clearCluster (s : State) (cl : Nat) {o : Nat} (ho : o < 0x300000) :
    readByte (clearCluster s cl) (vaultLoc cl o) = unwritten := by
  rw [readByte_clearCluster]
  exact if_pos (by unfold vaultLoc; omega)

theorem core_clearCluster (s : State) (cl : Nat) {i : Nat} (hi : i < 8) : CoreCleared cl i (clearCluster s cl) := by
  obtain ⟨hmem, hspawns⟩ := coreCleared_clearCores cl s hi
  refine ⟨fun o ho => ?_, ?_⟩
  · rw [readByte_clearCluster, hmem o ho, ite_self]
  · rw [clearCluster_eq, core_updCluster, core_clearVault, hspawns]

theorem lastServed_clearCluster (s : State) (cl : Nat) : ((clearCluster s cl).cluster cl).lastServed = 3 := by
  rw [clearCluster_eq, State.cluster_updCluster, if_pos rfl]

/-! ### A partition entry (R316, R413, R427) -/

/-- What the root monitor has found of an entry that it takes: its form, its shape, page-table roots, queues, and that no cluster is
assigned under an earlier entry of the partition. -/
structure EntryTaken (s : State) (pid : Nat) (e : PartEntry) : Prop where
  number : pid < 64
  function : e.vfn < 64
  ownFunction : e.vfn ≠ 0 → ∀ q ∈ s.partitions, q.1 ≠ pid → q.2.vfn ≠ e.vfn
  tags : (e.tags.map (·.ctag)).Nodup
  shape : shapeLegal e.shape = true
  ownShape : ∀ x, x < 2048 → shapeHas x e.shape = true → ∀ q ∈ s.partitions, q.1 ≠ pid → shapeHas x q.2.shape = false
  roots : ∀ t ∈ e.tags, t.ptRoot.toNat / 2 ^ 48 = 0xFE ∧ t.ptRoot.toNat % 65536 = 0 ∧ t.ptRoot.toNat % 2 ^ 22 < 0x270000
  queues : ∀ j ∈ e.jobs, j < 1024 ∧ ∀ q ∈ s.partitions, q.1 ≠ pid → j ∉ q.2.jobs
  unassigned : ∀ p, s.partitions.get? pid = some p → p.clusters = []

/-- A check that finds nothing has passed, and so have those after it. -/
theorem passed_of_none {α : Type} {P : Prop} [Decidable P] {d : α} {o : Option α} (h : (if P then some d else o) = none) :
    ¬ P ∧ o = none := by
  split at h
  · exact nomatch h
  · exact ⟨‹_›, h⟩

theorem entryTaken_of_not_denied {s : State} {pid : Nat} {e : PartEntry} (h : entryDenied s pid e = none) : EntryTaken s pid e := by
  obtain ⟨hform, h⟩ := passed_of_none h
  obtain ⟨hshape, h⟩ := passed_of_none h
  obtain ⟨htags, h⟩ := passed_of_none h
  obtain ⟨hjobs, h⟩ := passed_of_none h
  obtain ⟨-, h⟩ := passed_of_none h
  obtain ⟨hbusy, -⟩ := passed_of_none h
  simp only [ne_eq, List.any_filter, List.any_eq_true, Bool.and_eq_true, bne_iff_ne, beq_iff_eq, Prod.exists, not_or, not_le,
    not_and, not_exists, Decidable.not_not, Bool.not_eq_eq_eq_not, Bool.not_true, List.mem_range, Bool.not_eq_false,
    Bool.not_eq_true, List.all_eq_false, decide_eq_true_eq, not_lt, and_imp, ↓existsAndEq, true_and, Classical.not_imp,
    List.contains_eq_mem, Bool.or_eq_true] at hform hshape htags hjobs
  obtain ⟨hnumber, hfunction, hown, hlength⟩ := hform
  obtain ⟨hlegal, hmeets⟩ := hshape
  exact {
    number := hnumber
    function := hfunction
    ownFunction := fun h0 q => hown h0 q.1 q.2
    tags := nodup_of_length_eraseDups (by simpa using hlength)
    shape := hlegal
    ownShape := fun x hx hs q => hmeets x hx hs q.1 q.2
    roots := htags.1
    queues := fun j hj => ⟨(hjobs j hj).1, fun q => (hjobs j hj).2 q.1 q.2⟩
    unassigned := fun p hp => by simpa [hp] using hbusy }

/-- An entry that is taken has none of the faults for which R413 and R316 refuse one. -/
theorem EntryTaken.faultless {s : State} {pid : Nat} {e : PartEntry} (h : EntryTaken s pid e) :
    ¬ (64 ≤ pid ∨ 64 ≤ e.vfn ∨ (e.vfn ≠ 0 ∧ ∃ q ∈ s.partitions, q.1 ≠ pid ∧ q.2.vfn = e.vfn) ∨ shapeLegal e.shape = false
      ∨ (∃ x, x < 2048 ∧ shapeHas x e.shape = true ∧ ∃ q ∈ s.partitions, q.1 ≠ pid ∧ shapeHas x q.2.shape = true)
      ∨ (∃ t ∈ e.tags, t.ptRoot.toNat / 2 ^ 48 ≠ 0xFE ∨ t.ptRoot.toNat % 65536 ≠ 0 ∨ 0x270000 ≤ t.ptRoot.toNat % 2 ^ 22)
      ∨ (∃ j ∈ e.jobs, 1024 ≤ j ∨ ∃ q ∈ s.partitions, q.1 ≠ pid ∧ j ∈ q.2.jobs)
      ∨ ∃ p, s.partitions.get? pid = some p ∧ p.clusters ≠ []) := by
  rintro (hn | hf | ⟨h0, q, hq, hne, hv⟩ | hs | ⟨x, hx, hs, q, hq, hne, hs'⟩ | ⟨t, ht, hr⟩ | ⟨j, hj, hjobs⟩ | ⟨p, hp, hc⟩)
  · exact h.number.not_ge hn
  · exact h.function.not_ge hf
  · exact h.ownFunction h0 q hq hne hv
  · rw [h.shape] at hs; exact nomatch hs
  · rw [h.ownShape x hx hs q hq hne] at hs'; exact nomatch hs'
  · obtain ⟨hwindow, halign, hbelow⟩ := h.roots t ht
    omega
  · obtain ⟨hlt, hown⟩ := h.queues j hj
    rcases hjobs with hge | ⟨q, hq, hne, hin⟩
    · exact hlt.not_ge hge
    · exact hown q hq hne hin
  · exact hc (h.unassigned p hp)

/-- The tables of a tag that stands in an entry. -/
def TagOf (pid : Nat) (m : SMap Context) (t : ResTag) : Prop :=
  ∃ c, m.get? t.ctag.toNat = some c ∧ c.pid = pid ∧ c.sdt = t.sdt ∧ c.ptRoot = t.ptRoot ∧ c.tagKey = t.tagKey

/-- The contexts with that of a tag of partition `pid` written; its descriptors and windows stand. -/
def setTag (pid : Nat) (m : SMap Context) (t : ResTag) : SMap Context :=
  m.set t.ctag.toNat ⟨pid, t.sdt, ((m.get? t.ctag.toNat).map (·.descs)).getD [], t.sdtSize.toNat, t.ptRoot, t.tagKey,
    ((m.get? t.ctag.toNat).map (·.windows)).getD []⟩

theorem contexts_writeEntry (s : State) (pid : Nat) (e : PartEntry) :
    ∃ m, (writeEntry s pid e).contexts = e.tags.foldl (setTag pid) m := by
  unfold writeEntry
  simp only
  split <;> exact ⟨_, rfl⟩

/-- Every tag of an entry has its tables once all are written, where no two are the same tag. -/
theorem tagOf_setTags (pid : Nat) (m : SMap Context) (ts : List ResTag) (h : (ts.map (·.ctag)).Nodup) :
    ∀ t ∈ ts, TagOf pid (ts.foldl (setTag pid) m) t := by
  induction ts using List.reverseRecOn with
  | nil => exact fun _ h => nomatch h
  | append_singleton ts u ih =>
    rw [List.map_append, List.nodup_append] at h
    obtain ⟨hts, -, hdiff⟩ := h
    rw [List.foldl_concat]
    intro t ht
    rcases List.mem_append.mp ht with ht | ht
    · obtain ⟨c, hc, hrest⟩ := ih hts t ht
      have hne : t.ctag.toNat ≠ u.ctag.toNat := fun he =>
        hdiff _ (List.mem_map_of_mem ht) _ (List.mem_singleton_self _) (BitVec.eq_of_toNat_eq he)
      exact ⟨c, by rw [setTag, SMap.get?_set, if_neg hne, hc], hrest⟩
    · rw [List.mem_singleton.mp ht]
      exact ⟨_, SMap.get?_set_self .., rfl, rfl, rfl, rfl⟩

theorem partition_writeEntry (s : State) (pid : Nat) (e : PartEntry) : (writeEntry s pid e).partitions.get? pid
    = some ⟨e.shape, [], e.tags.map (·.ctag), e.jobs, e.frames, e.vfn, e.priv, e.pasid⟩ := by
  unfold writeEntry
  simp only
  split <;> exact SMap.get?_set_self ..

theorem asked_writeEntry (s : State) (pid : Nat) (e : PartEntry) : (writeEntry s pid e).asked = s.asked := by
  unfold writeEntry
  simp only
  split <;> rfl

/-! ### Assignment (R413, R414) -/

/-- A cluster whose larder is empty and whose slots are all free. -/
abbrev ClusterFree (s : State) (cl : Nat) : Prop :=
  (s.cluster cl).larder = none ∧ (∀ t ∈ s.threads, clusterOf (coreOf t.1) ≠ cl)
    ∧ ∀ x ∈ s.slots, clusterOf (coreOf x.1) = cl → x.2.withheld = false ∧ x.2.lent = none

theorem clusterFree_iff {s : State} {cl : Nat} : clusterFree s cl = true ↔ ClusterFree s cl := by
  simp only [clusterFree, Bool.and_eq_true, List.all_eq_true, Bool.or_eq_true, bne_iff_ne, Option.isNone_iff_eq_none,
    Bool.not_eq_true', and_assoc, ← imp_iff_not_or]

/-- The machine with a cluster taken from the partition that has it. -/
def takenAway (s : State) (cl : Nat) : State :=
  { s with
    partitions := s.partitions.map fun e => (e.1, { e.2 with clusters := e.2.clusters.filter (· != cl) })
    refused := none }

theorem partition_takenAway {s : State} {cl pid : Nat} {p : Partition} (h : s.partitions.get? pid = some p) :
    (takenAway s cl).partitions.get? pid = some { p with clusters := p.clusters.filter (· != cl) } := by
  refine (SMap.get?_map_values (fun p : Partition => { p with clusters := p.clusters.filter (· != cl) }) ..).trans ?_
  rw [h]; rfl

/-- The machine in which a cluster is assigned: the entry of its partition written first, where one is asked for. -/
def withEntry (s : State) (pid : Nat) : Option PartEntry → State
  | some e => writeEntry s pid e
  | none => s

/-- The machine with a cluster entered in partition `pid`, whose entry is `p`. -/
def entered (s : State) (cl pid : Nat) (p : Partition) : State :=
  { s with
    partitions := s.partitions.set pid { p with clusters := insertNat cl p.clusters }
    asked := s.asked.erase pid
    refused := none }

/-- The machine with a cluster cleared and assigned to partition `pid`. -/
def assigned (s : State) (cl pid : Nat) (p : Partition) : State := entered (clearCluster s cl) cl pid p

section
variable (s : State) (cl pid : Nat) (p : Partition)

theorem readByte_entered (k : Nat) : readByte (entered s cl pid p) k = readByte s k := rfl
theorem core_entered (k : Nat) : (entered s cl pid p).core k = s.core k := rfl
theorem cluster_entered (k : Nat) : (entered s cl pid p).cluster k = s.cluster k := rfl
theorem contexts_entered : (entered s cl pid p).contexts = s.contexts := rfl
theorem asked_entered : (entered s cl pid p).asked = s.asked.erase pid := rfl

end

section
variable {s : State} {cl pid : Nat} {part : Option Nat} {entry : Option PartEntry} {p : Partition}

theorem assignCluster_noCluster (h : 2048 ≤ cl) : assignCluster cl part entry s = .next { s with refused := some .form } := if_pos h

theorem assignCluster_occupied (hcl : cl < 2048) (h : ¬ ClusterFree s cl) :
    assignCluster cl part entry s = .next { s with refused := some .busy } := by
  unfold assignCluster
  refine (if_neg hcl.not_ge).trans (if_pos ?_)
  rw [Bool.eq_false_iff.mpr (mt clusterFree_iff.mp h)]; rfl

theorem assignCluster_taken_away (hcl : cl < 2048) (h : ClusterFree s cl) :
    assignCluster cl none entry s = .next (takenAway s cl) := by
  unfold assignCluster
  refine (if_neg hcl.not_ge).trans (if_neg ?_)
  rw [clusterFree_iff.mpr h]; exact Bool.false_ne_true

theorem assignCluster_assigned_already (hcl : cl < 2048) (h : ClusterFree s cl) (hq : ∃ q ∈ s.partitions, cl ∈ q.2.clusters) :
    assignCluster cl (some pid) entry s = .next { s with refused := some .busy } := by
  unfold assignCluster
  refine (if_neg hcl.not_ge).trans <| (if_neg (by rw [clusterFree_iff.mpr h]; exact Bool.false_ne_true)).trans (if_pos ?_)
  simpa using hq

/-- What the assignment of a free cluster that is no partition's does: the entry asked for is checked, and then the shape. -/
theorem assignCluster_free (hcl : cl < 2048) (h : ClusterFree s cl) (hq : ∀ q ∈ s.partitions, cl ∉ q.2.clusters) :
    assignCluster cl (some pid) entry s = match entry.bind (entryDenied s pid) with
      | some d => .next { s with refused := some d }
      | none => match (withEntry s pid entry).partitions.get? pid with
        | none => .next { s with refused := some .form }
        | some p => if !(shapeHas cl p.shape) then .next { s with refused := some .shape }
          else .next (assigned (withEntry s pid entry) cl pid p) := by
  unfold assignCluster
  have hfree : ¬ (!clusterFree s cl) = true := by rw [clusterFree_iff.mpr h]; exact Bool.false_ne_true
  refine (if_neg hcl.not_ge).trans ((if_neg hfree).trans ((if_neg (by simpa using hq)).trans ?_))
  cases entry <;> rfl

end

/-- The entry that partition `pid` has when a cluster is assigned to it: the one it had, or the one that is written first. -/
def EntryFor (s : State) (pid : Nat) (entry : Option PartEntry) (p : Partition) : Prop :=
  (entry = none ∧ s.partitions.get? pid = some p)
  ∨ ∃ e, entry = some e ∧ entryDenied s pid e = none
    ∧ p = ⟨e.shape, [], e.tags.map (·.ctag), e.jobs, e.frames, e.vfn, e.priv, e.pasid⟩

section
variable {s : State} {cl pid : Nat} {entry : Option PartEntry} {p : Partition}

theorem EntryFor.not_denied (h : EntryFor s pid entry p) : entry.bind (entryDenied s pid) = none := by
  rcases h with ⟨rfl, -⟩ | ⟨e, rfl, he, -⟩
  · rfl
  · exact he

theorem EntryFor.partition (h : EntryFor s pid entry p) : (withEntry s pid entry).partitions.get? pid = some p := by
  rcases h with ⟨rfl, hp⟩ | ⟨e, rfl, -, rfl⟩
  · exact hp
  · exact partition_writeEntry s pid e

theorem asked_withEntry : (withEntry s pid entry).asked = s.asked := by
  cases entry
  · rfl
  · exact asked_writeEntry ..

theorem assignCluster_denied {e : PartEntry} {d : Denied} (hcl : cl < 2048) (h : ClusterFree s cl)
    (hq : ∀ q ∈ s.partitions, cl ∉ q.2.clusters) (he : entry = some e) (hd : entryDenied s pid e = some d) :
    assignCluster cl (some pid) entry s = .next { s with refused := some d } := by
  rw [assignCluster_free hcl h hq, he, Option.bind_some, hd]

theorem assignCluster_unknown (hcl : cl < 2048) (h : ClusterFree s cl) (hq : ∀ q ∈ s.partitions, cl ∉ q.2.clusters)
    (he : entry = none) (hp : s.partitions.get? pid = none) :
    assignCluster cl (some pid) entry s = .next { s with refused := some .form } := by
  rw [assignCluster_free hcl h hq, he, Option.bind_none]
  simp only [withEntry, hp]

/-- A cluster outside the shape is refused. -/
theorem assignCluster_outside (hcl : cl < 2048) (h : ClusterFree s cl) (hq : ∀ q ∈ s.partitions, cl ∉ q.2.clusters)
    (hp : EntryFor s pid entry p) (hshape : shapeHas cl p.shape = false) :
    assignCluster cl (some pid) entry s = .next { s with refused := some .shape } := by
  rw [assignCluster_free hcl h hq, hp.not_denied]
  simp only [hp.partition, hshape, Bool.not_false, if_true]

theorem assignCluster_granted (hcl : cl < 2048) (h : ClusterFree s cl) (hq : ∀ q ∈ s.partitions, cl ∉ q.2.clusters)
    (hp : EntryFor s pid entry p) (hshape : shapeHas cl p.shape = true) :
    assignCluster cl (some pid) entry s = .next (assigned (withEntry s pid entry) cl pid p) := by
  rw [assignCluster_free hcl h hq, hp.not_denied]
  simp only [hp.partition, hshape, Bool.not_true, Bool.false_eq_true, if_false]

end

section
variable (s : State) (cl pid : Nat) (p : Partition)

theorem partition_assigned :
    (assigned s cl pid p).partitions.get? pid = some { p with clusters := insertNat cl p.clusters } := SMap.get?_set_self ..

theorem asked_assigned : (assigned s cl pid p).asked = s.asked.erase pid := by
  obtain ⟨-, h⟩ := Prod.mk.inj (monitorTables_clearCluster s cl)
  obtain ⟨-, hasked⟩ := Prod.mk.inj h
  rw [assigned, asked_entered, hasked]

theorem contexts_assigned : (assigned s cl pid p).contexts = s.contexts := by
  obtain ⟨-, h⟩ := Prod.mk.inj (monitorTables_clearCluster s cl)
  obtain ⟨hcontexts, -⟩ := Prod.mk.inj h
  rw [assigned, contexts_entered, hcontexts]

theorem vault_assigned {o : Nat} (ho : o < 0x300000) : readByte (assigned s cl pid p) (vaultLoc cl o) = unwritten := by
  rw [assigned, readByte_entered, vault_clearCluster s cl ho]

theorem core_assigned {i : Nat} (hi : i < 8) : CoreCleared cl i (assigned s cl pid p) := by
  obtain ⟨hmem, hspawns⟩ := core_clearCluster s cl hi
  refine ⟨fun o ho => ?_, ?_⟩
  · rw [assigned, readByte_entered, hmem o ho]
  · rw [assigned, core_entered, hspawns]

theorem lastServed_assigned : ((assigned s cl pid p).cluster cl).lastServed = 3 := by
  rw [assigned, cluster_entered, lastServed_clearCluster]

/-- Every tag of an entry that was taken has its tables after the assignment. -/
theorem tagOf_assigned {e : PartEntry} (he : entryDenied s pid e = none) :
    ∀ t ∈ e.tags, TagOf pid (assigned (writeEntry s pid e) cl pid p).contexts t := by
  obtain ⟨m, hm⟩ := contexts_writeEntry s pid e
  rw [contexts_assigned, hm]
  exact tagOf_setTags pid m e.tags (entryTaken_of_not_denied he).tags

end

/-! ### Invalidations of the host's translations (R428) -/

/-- A location of host memory on a 4 KiB page of the function of its partition. -/
def onHostPage (s : State) (fnum page loc : Nat) : Bool :=
  match homeOf loc with
  | .host pid va => va / 4096 == page && (match s.partitions.get? pid with
      | some p => p.vfn == fnum
      | none => false)
  | _ => false

/-- A request that has still to read or write on such a page. -/
def awaitsHostPage (s : State) (fnum page : Nat) (r : Req) : Bool :=
  !r.performed && (match r.kind with
    | .write loc _ _ _ | .atomic loc _ _ | .tagRead loc | .tagWrite loc _ | .fe loc _ _ => onHostPage s fnum page loc
    | .read ps => ps.any fun p => onHostPage s fnum page p.1)

/-- The machine without the translation of a page in a function's ATS cache. -/
def withoutTranslation (s : State) (fnum page : Nat) : State :=
  updFunction s fnum fun x => { x with ats := x.ats.filter (· != page) }

theorem not_mem_withoutTranslation (s : State) (fnum page : Nat) :
    page ∉ ((withoutTranslation s fnum page).functions.getD fnum .reset).ats := by
  rw [withoutTranslation, function_updFunction]
  simp

theorem onHostPage_iff {s : State} {fnum page loc : Nat} : onHostPage s fnum page loc = true
    ↔ ∃ pid va p, homeOf loc = .host pid va ∧ va / 4096 = page ∧ s.partitions.get? pid = some p ∧ p.vfn = fnum := by
  unfold onHostPage
  cases homeOf loc with
  | host pid va => cases hp : s.partitions.get? pid <;> simp [hp]
  | _ => simp

theorem awaitsHostPage_iff {s : State} {fnum page : Nat} {r : Req} : awaitsHostPage s fnum page r = true
    ↔ r.performed = false ∧ ∃ loc,
      (∃ pid va p, homeOf loc = .host pid va ∧ va / 4096 = page ∧ s.partitions.get? pid = some p ∧ p.vfn = fnum)
      ∧ ((∃ bs a b, r.kind = .write loc bs a b) ∨ (∃ a b, r.kind = .atomic loc a b) ∨ (∃ a b, r.kind = .fe loc a b)
        ∨ r.kind = .tagRead loc ∨ (∃ c, r.kind = .tagWrite loc c) ∨ ∃ ps v, r.kind = .read ps ∧ (loc, v) ∈ ps) := by
  unfold awaitsHostPage
  simp only [← onHostPage_iff]
  cases r.kind with
  | read ps => simp [and_comm]
  | _ => simp

section
variable {s : State} {fnum iova : Nat}

theorem atsInvalidation_ignored (h : s.args = [fnum, iova]) (hno : s.boot.failed ≠ none ∨ 64 ≤ fnum) :
    exec .atsInvalidation s = .next s := by
  rw [exec_atsInvalidation, execAtsInvalidation, h]
  by_cases hf : 64 ≤ fnum
  · exact if_pos hf
  · refine (if_neg hf).trans (congrArg Host.Outcome.next (if_pos ?_))
    exact Option.isSome_iff_ne_none.mpr (hno.resolve_right hf)

/-- The translation is dropped, and the invalidation is tried again a cycle later while a request awaits its page. -/
theorem atsInvalidation_dropped (h : s.args = [fnum, iova]) (hboot : s.boot.failed = none) (hf : fnum < 64) :
    exec .atsInvalidation s = .next (if (s.reqs.any fun r => awaitsHostPage s fnum (iova / 4096) r.2) = true
      then later 1 .atsInvalidation [fnum, iova] (withoutTranslation s fnum (iova / 4096))
      else withoutTranslation s fnum (iova / 4096)) := by
  rw [exec_atsInvalidation, execAtsInvalidation, h]
  refine (if_neg hf.not_ge).trans (congrArg Host.Outcome.next ((if_neg ?_).trans rfl))
  rw [hboot]; exact Bool.false_ne_true

end

end Sys2Proof.Machine

namespace Sys2Proof.Proofs
open Sys2Proof.Machine

/-- Settles O54: each event of the root monitor is refused by the check that its rule states, or leaves what the rule states. -/
theorem rootMonitorGrants : Obligations.RootMonitorGrants := by
  unfold Obligations.RootMonitorGrants
  refine ⟨fun s tag index g => ?descriptor, fun s c tag evict => ?tag, fun s tag n w fab => ?window,
    fun s cl part hargs => ?cluster, fun s fnum iova hargs => ?translation⟩ <;> dsimp only
  case descriptor =>
    refine ⟨fun h => ?_, fun c hc hgood hsdt hindex => ⟨_, _, descriptorCreate_granted hc hgood hsdt hindex, rfl, rfl, rfl,
      SMap.get?_set_self .., SMap.get?_set_self .., fun i hi => by rw [SMap.get?_set, if_neg hi]⟩⟩
    rcases hc : s.contexts.get? tag with _ | c
    · exact descriptorCreate_unknown hc
    · simp only [hc, reduceCtorEq, Option.some.injEq, exists_eq_left'] at h
      exact descriptorCreate_refused hc (by rw [descriptorBad_iff]; tauto)
  case tag =>
    refine ⟨contextTagReside_foreign, contextTagReside_again, ?_, ?_, ?_⟩
    · rintro hk hnot rfl hfull
      exact contextTagReside_full hk hnot hfull
    · rintro hk hnot rfl hroom
      exact ⟨_, contextTagReside_placed hk hnot hroom, rfl, rfl, resTagOf_mem_residing _, fun x => has_residing _⟩
    · rintro e hk hnot rfl
      refine ⟨contextTagReside_evicts_absent hk hnot, contextTagReside_evicts_bound hk hnot, fun he hunbound =>
        ⟨_, contextTagReside_evicts_unbound hk hnot he hunbound, rfl, rfl, resTagOf_mem_residing _, fun x => ?_⟩⟩
      rw [has_residing, exists_mem_filter_tags]
  case window =>
    refine ⟨fun h => ?_, fun c hc => ⟨fun hhas => windowRegister_refused hc (.inr (.inl hhas)),
      fun hfree hn hfab hgrid hroute hp => ?_, writePeers_none, fun page loc s1 hw hpages hplace hs1 => ?_, fun s1 hfree hn hfab hgrid hroute hs1 => ?_⟩⟩
    · rcases hc : s.contexts.get? tag with _ | c
      · exact windowRegister_unknown hc
      · simp only [hc, reduceCtorEq, false_or] at h
        exact windowRegister_refused hc (by tauto)
    · rw [windowRegister_passed hc hfree hn hfab hgrid hroute, hp]
    · rw [hpages] at hs1
      have hread := readByte_writePage hplace (writePeers_single hw hs1)
      refine ⟨fun i hi => ?_, fun a ha => ?_⟩
      · rw [hread, if_pos (by omega), Nat.add_sub_cancel_left]
      · rw [hread, if_neg (by omega)]
    · rw [windowRegister_passed hc hfree hn hfab hgrid hroute, hs1]
      exact ⟨_, _, rfl, rfl, rfl, SMap.get?_set_self .., SMap.get?_set_self .., fun m hm => by rw [SMap.get?_set, if_neg hm],
        counters_registered ..⟩
  case cluster =>
    rw [exec_partitionAssign s hargs]
    refine ⟨assignCluster_noCluster, assignCluster_occupied, ?_, ?_⟩
    · rintro hcl hfree rfl
      exact ⟨_, assignCluster_taken_away hcl hfree, rfl, rfl, fun pid p hp =>
        ⟨_, partition_takenAway hp, fun x => by simp, rfl, rfl⟩⟩
    · rintro pid rfl hcl hfree
      refine ⟨assignCluster_assigned_already hcl hfree, fun hq => ⟨fun e he hbad => ?_, fun he hp => ?_, fun p he hp hshape => ?_,
        fun e he hok hshape => ?_, fun p hp hshape => ?_⟩⟩
      · rcases hd : entryDenied s pid e with _ | d
        · exact absurd hbad (entryTaken_of_not_denied hd).faultless
        · exact ⟨d, assignCluster_denied hcl hfree hq he hd⟩
      · exact assignCluster_unknown hcl hfree hq he hp
      · exact assignCluster_outside hcl hfree hq (.inl ⟨he, hp⟩) hshape
      · exact assignCluster_outside hcl hfree hq (.inr ⟨e, he, hok, rfl⟩) hshape
      · refine ⟨_, _, assignCluster_granted hcl hfree hq hp hshape, rfl, ?_, partition_assigned .., fun x => mem_insertNat, rfl,
          fun o => vault_assigned _ cl pid p, fun i o hi => (core_assigned _ cl pid p hi).memory o,
          fun i hi => (core_assigned _ cl pid p hi).spawns, lastServed_assigned .., fun e he t ht => ?_⟩
        · rw [asked_assigned, asked_withEntry]
        · rcases hp with ⟨hnone, -⟩ | ⟨e', he', hok, -⟩
          · exact nomatch he.symm.trans hnone
          · obtain rfl : e' = e := Option.some.inj (he'.symm.trans he)
            rw [he]
            exact tagOf_assigned s cl pid p hok t ht
  case translation =>
    refine ⟨fun n hn => atsInvalidation_ignored hargs (.inl (by simp [hn])), fun hf => atsInvalidation_ignored hargs (.inr hf),
      fun hboot hf => ?_⟩
    rw [atsInvalidation_dropped hargs hboot hf]
    by_cases hb : (s.reqs.any fun r => awaitsHostPage s fnum (iova / 4096) r.2) = true
    · obtain ⟨r, hr, hwaits⟩ := List.any_eq_true.mp hb
      rw [if_pos hb]
      exact ⟨_, rfl, rfl, rfl, not_mem_withoutTranslation s fnum _, fun _ => List.mem_append_right _ (List.mem_singleton_self _),
        fun hnone => absurd (awaitsHostPage_iff.mp hwaits) (hnone r hr)⟩
    · rw [if_neg hb]
      refine ⟨_, rfl, rfl, rfl, not_mem_withoutTranslation s fnum _, fun ⟨r, hr, hused⟩ => absurd ?_ hb, fun _ => rfl⟩
      exact List.any_eq_true.mpr ⟨r, hr, awaitsHostPage_iff.mpr hused⟩

end Sys2Proof.Proofs
end

section
/-! The machine right after reset (R79, R207, R217, R250, R388, R415). -/

namespace Sys2Proof.Proofs
open Sys2Proof.Machine

/-- Settles O9: reset lists nothing but the first power window, so each part reads as its own reset value. -/
theorem resetState : Obligations.ResetState := by
  unfold Obligations.ResetState
  refine ⟨⟨rfl, rfl, rfl, rfl, fun _ => rfl, fun _ => rfl, fun _ => rfl, fun _ => ⟨rfl, rfl, rfl, rfl, rfl⟩,
    ⟨rfl, rfl, rfl, rfl⟩, ⟨rfl, rfl, rfl⟩, rfl, rfl, rfl, rfl, List.mem_singleton_self _⟩, ?_⟩
  rw [reset_mem]
  decide

end Sys2Proof.Proofs
end

section
/-! What an operand's read and an instruction's completion leave of the thread and of the machine (R82, R118, R210, R228). -/

namespace Sys2Proof.Machine

/-- The completed thread stands in its slot. -/
theorem Iss.thread?_finish {x : Iss} {c : Ctl} (h : x.gone = false) : (x.finish c).thread? x.key = some (x.stepped c) := by
  rw [x.finish_eq h, (x.replied_frame x.core _).1.thread?, State.thread?_setThread, if_pos rfl]

/-- A completion writes neither memory nor the general file. -/
theorem Iss.mem_finish {x : Iss} {c : Ctl} (h : x.gone = false) : (x.finish c).mem = x.s.mem := by
  rw [x.finish_eq h, (x.replied_frame x.core _).1.rest, x.pushed_frame.rest]; rfl

theorem Iss.gfile_finish {x : Iss} {c : Ctl} (h : x.gone = false) : (x.finish c).gfile = x.s.gfile := by
  rw [x.finish_eq h, (x.replied_frame x.core _).1.rest, x.pushed_frame.rest]; rfl

/-- A completion that fills no queue entry and awaits no reply brings about no event. -/
theorem Iss.pending_finish {x : Iss} {c : Ctl} (h : x.gone = false) (hfills : x.fills = none) (hreply : x.reply = false) :
    (x.finish c).pending = x.s.pending := by
  have hentered : x.entered.pending = x.s.pending := by unfold Iss.entered; split <;> rfl
  have hfilling : x.filling = x.entered := by rw [Iss.filling, hfills]
  have hreplied (s : State) : x.replied s = s := by rw [Iss.replied, hreply]
  obtain ⟨⟨k, hnote⟩, -⟩ := noteLane_frame (pushAll x.filling x.core x.granted.1 x.pushes) x.core x.i
  obtain ⟨⟨k', hpush⟩, -⟩ := pushAll_frame x.filling x.core x.granted.1 x.pushes
  rw [x.finish_eq h, hreplied, State.setThread_pending, Iss.pushed, hnote, hpush, hfilling]
  exact hentered

/-- An instruction that leaves its thread READY completes. -/
theorem Iss.completed_finish {x : Iss} {c : Ctl} (h : x.gone = false) (hst : x.st = .ready) : Completed (x.finish c) x.key := by
  rw [Completed, Iss.thread?_finish h]
  exact ⟨hst, rfl⟩

end Sys2Proof.Machine
end

section
/-! An `mlog` that no word decodes to (R14, R16, R205): a function that is no test, with a predicate for its destination. `mIndex` reads
a field that names no m register as m0, which the instruction then writes. -/

namespace Sys2Proof.Machine

/-- `mlog` of a function that is no test writes the m register that its D field is read as. -/
theorem execMlog_writes {c : Ctl} {fn : MlogFn} {d a b : Opnd} {s : State} {t : Thread} {y : Iss}
    (hi : Issues (.mlog c fn d a b) s c t) (hy : (issueState (.mlog c fn d a b) c t s).claim 1 = .ok y)
    (hfn : mlogTest fn = none) :
    execMlog c fn d a b s = .next ((y.writeM (mIndex d) (triMap 64 (y.mask.getLsbD ·) y.th.mregs[mIndex d] fun j =>
      mlogLane fn (triLane y.th.mregs[mIndex a] j) (triLane y.th.mregs[mIndex b] j))).finish c) :=
  issue_ok hi (by rw [hy]; dsimp only [bind, Except.bind]; rw [hfn]; rfl)

/-- No guard and no hint. -/
def unguarded : Ctl := ⟨false, 0, false, false⟩

/-- The implication of m1 and m2, into p1. -/
def strayMlog : Instr := .mlog unguarded .imp (.p 1) (.m 1) (.m 2)

theorem strayMlog_illFormed : strayMlog.wellFormed = false := by decide

/-- A thread in slot 0, all of whose registers are 0. -/
def loneThread : State := { State.reset with threads := [(0, loadedThread State.reset)] }

theorem strayMlog_issues : Issues strayMlog loneThread unguarded (loadedThread State.reset) := by decide

/-- The implication is TRUE in every lane where m1 and m2 are FALSE. -/
theorem strayMlog_value : triMap 64 ((BitVec.allOnes 64).getLsbD ·) 0 (fun j => mlogLane .imp (triLane 0 j) (triLane 0 j)) ≠ 0 := by
  decide +kernel

/-- The instruction completes, and m0 changes. -/
theorem strayMlog_writes_m0 : ∃ s' t', exec strayMlog loneThread = .next s' ∧ Completed s' loneThread.cur
    ∧ s'.thread? loneThread.cur = some t' ∧ t'.mregs[(0 : Fin 8)] ≠ (loadedThread State.reset).mregs[(0 : Fin 8)] :=
  ⟨_, _, execMlog_writes strayMlog_issues rfl rfl, Iss.completed_finish rfl rfl, Iss.thread?_finish rfl, strayMlog_value⟩

end Sys2Proof.Machine

namespace Sys2Proof.Proofs
open Sys2Proof.Machine

/-- Refutes O12: an `mlog` that names p1 as its destination, for a function that writes an m register, changes m0. No word decodes to it,
but the statement asks for no well-formed instruction. -/
theorem not_computingLeavesTheRestUnchanged : ¬ Obligations.ComputingLeavesTheRestUnchanged := by
  unfold Obligations.ComputingLeavesTheRestUnchanged
  intro h
  obtain ⟨s', t', hexec, hdone, hthread, hm0⟩ := strayMlog_writes_m0
  have hframe := h strayMlog unguarded loneThread s' (loadedThread State.reset) rfl rfl rfl hexec hdone
  obtain ⟨-, -, hmregs, -⟩ := hframe.thread t' hthread
  exact hm0 (hmregs 0 (by decide))

end Sys2Proof.Proofs
end

section
/-! The path of a memory access (R71 to R73, R136, R312 to R315, R325): what its checks refuse, and what holds of an access that passes
them all. -/

namespace Sys2Proof.Machine

/-! ### The checks that need no address (R73) -/

section
variable {g : Segment} {w : Want}

theorem segCheck_bounds (h : g.kind = .null ∨ w.o < 0 ∨ (g.limit.toNat : Int) < w.o + w.n) :
    segCheck g w = .error (.trap (eBounds (w.detail 0) w.second) none) := by rw [segCheck, if_pos h]

theorem segCheck_rights (hk : g.kind ≠ .null) (ho : 0 ≤ w.o) (hn : w.o + w.n ≤ (g.limit.toNat : Int))
    (h : g.kind = .barrier ∨ (g.kind = .code ∧ w.kind ≠ .fetch) ∨ w.kind.allowed g.r g.w g.x g.t = false) :
    segCheck g w = .error (.trap (eRights (w.detail 0) w.second) none) := by
  rw [segCheck, if_neg (by simp only [hk, false_or]; omega)]
  split
  case isTrue => rfl
  case isFalse hkind =>
    rw [if_neg]
    rw [← or_assoc] at h
    simp [h.resolve_left hkind]

/-- An access that passes lies within the limit of a segment that grants it. -/
theorem segCheck_passed (h : segCheck g w = .ok ()) :
    g.kind ≠ .null ∧ 0 ≤ w.o ∧ w.o + w.n ≤ (g.limit.toNat : Int) ∧ w.kind.allowed g.r g.w g.x g.t = true := by
  unfold segCheck at h
  split at h
  case isTrue => exact nomatch h
  case isFalse hin =>
    simp only [not_or, Int.not_lt] at hin
    obtain ⟨hk, ho, hn⟩ := hin
    split at h
    case isTrue => exact nomatch h
    case isFalse =>
      split at h
      case isTrue hallowed => exact ⟨hk, ho, hn, hallowed⟩
      case isFalse => exact nomatch h

end

/-! ### Windows and pages (R313, R314) -/

section
variable {x : Iss} {w : Want}

/-- A piece as its address is resolved: a window address is its own location, any other lies on a page that the cluster holds. -/
def Located (x : Iss) (p : Part) : Prop :=
  (isWindow p.da = true → p.loc = p.da ∧ p.page = none)
    ∧ (isWindow p.da = false → ∃ e, p.page = some e ∧ cached x.s x.cl x.th.ctag p.da = some e)

/-- A translation that does not wait is the one its cluster holds. -/
theorem translate_cached {k : Access} {da : Nat} {e : PageEntry} (h : translate x k da = .ok e) :
    cached x.s x.cl x.th.ctag da = some e := by
  rcases hc : cached x.s x.cl x.th.ctag da with _ | e'
  · rw [translate, hc] at h; exact nomatch h
  · rw [translate, hc] at h
    dsimp only at h
    split at h
    case isTrue => exact nomatch h
    case isFalse => exact congrArg some (Except.ok.inj h)

/-- What a bind of two results is made of. -/
theorem bind_eq_ok {α β : Type} {m : Except Stop α} {f : α → Except Stop β} {b : β} (h : (m >>= f) = .ok b) :
    ∃ a, m = .ok a ∧ f a = .ok b := by
  cases m with
  | error e => exact nomatch h
  | ok a => exact ⟨a, rfl, h⟩

/-- The pieces located are those asked for, in their order. -/
theorem locate_located {l : List (Nat × Nat)} {ps : List Part} (h : locate x w l = .ok ps) :
    (ps.map fun p => (p.da, p.len)) = l ∧ ∀ p ∈ ps, Located x p := by
  induction l generalizing ps with
  | nil => cases h; simp
  | cons d r ih =>
    obtain ⟨da, n⟩ := d
    rw [locate] at h
    obtain ⟨p, qs, hfirst, hqs, rfl⟩ : ∃ p qs, ((p.da, p.len) = (da, n) ∧ Located x p)
        ∧ locate x w r = .ok qs ∧ p :: qs = ps := by
      split at h
      case isTrue hw =>
        obtain ⟨-, -, h⟩ := bind_eq_ok h
        obtain ⟨p, hp, h⟩ := bind_eq_ok h
        obtain ⟨qs, hqs, h⟩ := bind_eq_ok h
        cases hp
        exact ⟨_, qs, ⟨rfl, fun _ => ⟨rfl, rfl⟩, fun hn => absurd (hw.symm.trans hn) (by decide)⟩, hqs, Except.ok.inj h⟩
      case isFalse hw =>
        obtain ⟨e, he, h⟩ := bind_eq_ok h
        obtain ⟨p, hp, h⟩ := bind_eq_ok h
        obtain ⟨qs, hqs, h⟩ := bind_eq_ok h
        cases hp
        exact ⟨_, qs, ⟨rfl, fun hn => absurd hn hw, fun _ => ⟨e, rfl, translate_cached he⟩⟩, hqs, Except.ok.inj h⟩
    obtain ⟨hmap, hall⟩ := ih hqs
    exact ⟨by rw [List.map_cons, hfirst.1, hmap], List.forall_mem_cons.mpr ⟨hfirst.2, hall⟩⟩

theorem resolve_located {l : List (Nat × Nat)} {ps : List Part} (h : resolve x w l = .ok ps) :
    (ps.map fun p => (p.da, p.len)) = l ∧ ∀ p ∈ ps, Located x p := by
  obtain ⟨qs, hqs, h⟩ := bind_eq_ok h
  split at h
  · exact nomatch h
  · cases h; exact locate_located hqs

/-- Pages of which none lacks a right grant the access. -/
theorem badPage_none {k : Access} {ps : List Part} (h : badPage k ps = none) {p : Part} (hp : p ∈ ps) {e : PageEntry}
    (he : p.page = some e) :
    (k = .load → e.r = true) ∧ (k = .store → e.w = true) ∧ (k = .atomic → e.r = true ∧ e.w = true) := by
  have hgood := List.findSome?_eq_none_iff.mp h p hp
  simp only [he] at hgood
  refine ⟨?_, ?_, ?_⟩ <;> rintro rfl
  · simpa using hgood
  · simpa using hgood
  · grind

end

/-! ### The whole path (R139, R314) -/

section
variable {x : Iss} {g : Segment} {w : Want}

/-- The first checks decide before any other. -/
theorem path_refused {stop : Stop} (h : segCheck g w = .error stop) : path x g w = .error stop := by rw [path, h]; rfl

/-- Every check of an access that passes the path has passed. -/
theorem path_passed {ps : List Part} (h : path x g w = .ok ps) :
    segCheck g w = .ok ()
      ∧ ((pieces g x.core (w.n / 2 ^ 17 + 2) w.o.toNat w.n).all fun d => w.reach.ok (whereOf x.core d.1)) = true
      ∧ segDa g x.core w.o.toNat % w.align = 0
      ∧ resolve x w (pieces g x.core (w.n / 2 ^ 17 + 2) w.o.toNat w.n) = .ok ps
      ∧ badPage w.kind ps = none := by
  obtain ⟨⟨⟩, hseg, h⟩ := bind_eq_ok h
  dsimp only at h
  split at h
  case isTrue => exact nomatch h
  case isFalse hreach =>
    split at h
    case isTrue => exact nomatch h
    case isFalse halign =>
      obtain ⟨qs, hres, h⟩ := bind_eq_ok h
      split at h
      · exact nomatch h
      · split at h
        · exact nomatch h
        · rename_i hbad
          split at h
          · exact nomatch h
          · cases h
            exact ⟨hseg, by simpa using hreach, by simpa using halign, hres, hbad⟩

/-- Each piece of an access that passes is one of those that its segment gives, and within reach. -/
theorem path_reaches {ps : List Part} (h : path x g w = .ok ps) {p : Part} (hp : p ∈ ps) :
    w.reach.ok (whereOf x.core p.da) = true := by
  obtain ⟨-, hreach, -, hres, -⟩ := path_passed h
  rw [← (resolve_located hres).1] at hreach
  exact List.all_eq_true.mp hreach (p.da, p.len) (List.mem_map_of_mem hp)

end

/-! ### Window addresses (R312, R313) -/

section
variable (s : State) (ctag : BitVec 16) (w : Want)

/-- A window address with bits that must be zero. -/
theorem windowCheck_zeros {da : Nat} (h : (if da / 2 ^ 48 == 0xFF then bitsAt da 31 17 else bitsAt da 33 15) ≠ 0) :
    windowCheck s ctag w da = .error (.trap (eBounds (w.detail 12) w.second) none) := by
  unfold windowCheck
  exact if_pos h

/-- A window address that names a vault's offset. -/
theorem windowCheck_vault {cl off : Nat} (hcl : cl < 2 ^ 11) (hoff : off < 2 ^ 22) :
    windowCheck s ctag w (0xFE * 2 ^ 48 + cl * 2 ^ 22 + off)
      = if s.inPart ctag cl = false then .error (.trap (eRights (w.detail 13) w.second) none)
        else if off < 0x270000 then .ok () else .error (.trap (eRights (w.detail 14) w.second) none) := by
  have hkind : ((0xFE * 2 ^ 48 + cl * 2 ^ 22 + off) / 2 ^ 48 == 0xFF) = false := by rw [beq_eq_false_iff_ne]; omega
  have hzeros : bitsAt (0xFE * 2 ^ 48 + cl * 2 ^ 22 + off) 33 15 = 0 := by unfold bitsAt; omega
  have hcluster : (0xFE * 2 ^ 48 + cl * 2 ^ 22 + off) / 2 ^ 22 % 2 ^ 11 = cl := by omega
  have hoffset : (0xFE * 2 ^ 48 + cl * 2 ^ 22 + off) % 2 ^ 22 = off := by omega
  have hlarder : (decide (0x270000 ≤ off ∧ off < 0x300000) || decide (3145728 ≤ off)) = !decide (off < 0x270000) := by
    rw [Bool.eq_iff_iff]; simp; omega
  unfold windowCheck
  simp only [hkind, hzeros, hcluster, hoffset, hlarder]
  cases hpart : s.inPart ctag cl
  · simp [hpart]
  · by_cases hlow : off < 0x270000
    · simp [hpart, hlow]
    · simp [hpart, hlow]

/-- A window address that names a core's store. -/
theorem windowCheck_core {k o : Nat} (hk : k < 2 ^ 14) (ho : o < 2 ^ 17) :
    windowCheck s ctag w (0xFF * 2 ^ 48 + k * 2 ^ 17 + o)
      = if s.inPart ctag (k / 8) then .ok () else .error (.trap (eRights (w.detail 13) w.second) none) := by
  have hkind : ((0xFF * 2 ^ 48 + k * 2 ^ 17 + o) / 2 ^ 48 == 0xFF) = true := by rw [beq_iff_eq]; omega
  have hzeros : bitsAt (0xFF * 2 ^ 48 + k * 2 ^ 17 + o) 31 17 = 0 := by unfold bitsAt; omega
  have hcore : (0xFF * 2 ^ 48 + k * 2 ^ 17 + o) / 2 ^ 17 % 2 ^ 14 = k := by omega
  unfold windowCheck
  simp only [hkind, hzeros, hcore]
  cases hpart : s.inPart ctag (k / 8)
  · simp [hpart]
  · simp [hpart]

end

end Sys2Proof.Machine

namespace Sys2Proof.Proofs
open Sys2Proof.Machine

/-- Settles O24: the checks are taken in their order, and each leaves what it has found of an access that passes. -/
theorem addressChecks : Obligations.AddressChecks := by
  unfold Obligations.AddressChecks
  refine ⟨fun x g w => ⟨fun h => path_refused (segCheck_bounds h),
    fun hk ho hn h => path_refused (segCheck_rights hk ho hn h), fun ps h => ?_⟩, fun s ctag w cl off hcl hoff => ?_⟩
  · obtain ⟨hseg, -, halign, hres, hbad⟩ := path_passed h
    obtain ⟨hkind, ho, hn, hallowed⟩ := segCheck_passed hseg
    obtain ⟨hmap, hlocated⟩ := resolve_located hres
    refine ⟨hkind, ho, hn, hallowed, halign, fun p hp => path_reaches h hp, hmap, fun p hp => ?_⟩
    obtain ⟨hwindow, hpaged⟩ := hlocated p hp
    refine ⟨hwindow, fun hw => ?_⟩
    obtain ⟨e, he, hcached⟩ := hpaged hw
    exact ⟨e, he, hcached, badPage_none hbad hp he⟩
  · dsimp only
    refine ⟨fun hpart => ?_, fun hpart => ?_, fun z hz hz' => ?_, fun k o hk ho => ⟨?_, fun z hz hz' => ?_⟩⟩
    · rw [windowCheck_vault s ctag w hcl hoff, if_pos hpart]; rfl
    · rw [windowCheck_vault s ctag w hcl hoff, if_neg (by simp [hpart])]; simp [Want.detail, Want.second]
    · refine windowCheck_zeros s ctag w ?_
      rw [if_neg (by rw [beq_iff_eq]; omega)]; unfold bitsAt; omega
    · exact windowCheck_core s ctag w hk ho
    · refine windowCheck_zeros s ctag w ?_
      rw [if_pos (by rw [beq_iff_eq]; omega)]; unfold bitsAt; omega

end Sys2Proof.Proofs
end

section
/-! What reading an integer operand leaves of the machine (R18, R116, R228). -/

namespace Sys2Proof.Machine

/-- Only a core's queues, a cluster's error counts and the storage errors can move. -/
def ReadRest (s s' : State) : Prop := s' = { s with cores := s'.cores, clusters := s'.clusters, errs := s'.errs }

namespace ReadRest

theorem refl (s : State) : ReadRest s s := rfl

theorem trans {s s1 s2 : State} (h1 : ReadRest s s1) (h2 : ReadRest s1 s2) : ReadRest s s2 := by
  unfold ReadRest at *
  rw [h2, h1]

variable {s s' : State} (h : ReadRest s s')
include h

theorem cyc : s'.cyc = s.cyc := by rw [h]
theorem mem : s'.mem = s.mem := by rw [h]
theorem gfile : s'.gfile = s.gfile := by rw [h]

end ReadRest

variable {x y : Iss} {n : Nat}

theorem check_rest {site : ErrSite} {why : Nat} (h : x.check site why = .ok y) : ReadRest x.s y.s := by
  rcases he : errAt x.s site with _ | _ | _
  · rw [Iss.check_clean he] at h; cases h; rfl
  · rw [Iss.check_correctable he] at h; cases h; rfl
  · rw [Iss.check_poisoned he] at h; exact nomatch h

theorem readG_rest {e : Nat} {v : Word} (h : x.readG n e = .ok (v, y)) : ReadRest x.s y.s := by
  obtain ⟨z, hz, h⟩ := bind_eq_ok h
  cases h
  exact check_rest (x := x.atStage n [gBank e]) hz

theorem pop_rest {q : Nat} {stored : Bool} {v : VReg} (h : x.pop q stored = .ok (v, y)) : ReadRest x.s y.s := by
  rw [Iss.pop] at h
  split at h
  · exact nomatch h
  · dsimp only at h
    split at h
    · exact nomatch h
    · exact nomatch h
    · cases h; rfl
    · cases h; rfl

theorem int_rest {o : Opnd} {v : Word} (h : x.int n o = .ok (v, y)) : ReadRest x.s y.s := by
  cases o
  case g => exact readG_rest h
  case bg => exact readG_rest h
  case q =>
    obtain ⟨r, hr, h⟩ := bind_eq_ok h
    cases h
    exact pop_rest hr
  all_goals exact (Prod.mk.inj (Except.ok.inj h)).2 ▸ ReadRest.refl _

end Sys2Proof.Machine
end

section
/-! System instructions (R75, R78, R243 to R246). -/

namespace Sys2Proof.Machine

/-! ### `x.status` as `xwr` leaves it (R22, R24, R78) -/

/-- The hints move no bit but the deep-idle one. -/
theorem getLsbD_deepIdle (status : BitVec 32) (d lane : Bool) {i : Nat} (h : i ≠ 14) :
    (deepIdle status d lane).getLsbD i = status.getLsbD i := by
  have hbit : (0x4000 : BitVec 32).getLsbD i = false := by
    rw [show (0x4000 : BitVec 32) = BitVec.twoPow 32 14 by decide, BitVec.getLsbD_twoPow]
    simp [h.symm]
  unfold deepIdle
  split
  · rw [BitVec.getLsbD_or, hbit, Bool.or_false]
  · split
    · rw [BitVec.getLsbD_and, BitVec.getLsbD_not, hbit]
      by_cases hi : i < 32
      · simp [hi]
      · simp [hi, BitVec.getLsbD_of_ge status i (by omega)]
    · rfl

/-- The low `n` bits of a value put over those of an old one. -/
theorem getLsbD_over (old : BitVec 32) (v : Word) (n : Nat) {i : Nat} (h : i < 32) :
    ((old &&& BitVec.allOnes 32 <<< n) ||| (v.setWidth 32 &&& ~~~(BitVec.allOnes 32 <<< n))).getLsbD i
      = if i < n then v.getLsbD i else old.getLsbD i := by
  have hmask : (BitVec.allOnes 32 <<< n).getLsbD i = !decide (i < n) := by
    rw [BitVec.getLsbD_shiftLeft, BitVec.getLsbD_allOnes, decide_eq_true h, decide_eq_true (by omega : i - n < 32)]
    simp
  rw [BitVec.getLsbD_or, BitVec.getLsbD_and, BitVec.getLsbD_and, BitVec.getLsbD_not, hmask, BitVec.getLsbD_setWidth]
  by_cases hi : i < n
  · simp [hi, h]
  · simp [hi]

/-- A write takes the flags of the value, and its rounding code where that is legal; every other bit stands. -/
theorem getLsbD_statusWrite (old : BitVec 32) (v : Word) {i : Nat} (h : i < 32) : (statusWrite old v).getLsbD i
    = if i < (if rmLegal (v.extractLsb' 9 3) then 12 else 9) then v.getLsbD i else old.getLsbD i := by
  have hkeep : (if rmLegal (v.extractLsb' 9 3) then 0xFFFFF000 else 0xFFFFFE00 : BitVec 32)
      = BitVec.allOnes 32 <<< (if rmLegal (v.extractLsb' 9 3) then 12 else 9) := by split <;> decide
  rw [← getLsbD_over old v _ h, ← hkeep]
  rfl

/-- `x.status` after an `xwr` completes. -/
theorem status_after_write {old st : BitVec 32} {v : Word} {d lane : Bool} (h : st = deepIdle (statusWrite old v) d lane) :
    st.setWidth 9 = v.setWidth 9
      ∧ st.extractLsb' 9 3 = (if 1 ≤ (v.extractLsb' 9 3).toNat ∧ (v.extractLsb' 9 3).toNat ≤ 5 then v.extractLsb' 9 3
          else old.extractLsb' 9 3)
      ∧ st.extractLsb' 12 2 = old.extractLsb' 12 2 := by
  have hbits {i : Nat} (hi : i < 14) : st.getLsbD i
      = if i < (if rmLegal (v.extractLsb' 9 3) then 12 else 9) then v.getLsbD i else old.getLsbD i := by
    rw [h, getLsbD_deepIdle _ _ _ (by omega), getLsbD_statusWrite _ _ (by omega)]
  have hlegal : rmLegal (v.extractLsb' 9 3) = decide (1 ≤ (v.extractLsb' 9 3).toNat ∧ (v.extractLsb' 9 3).toNat ≤ 5) := by
    simp [rmLegal]
  refine ⟨?_, ?_, ?_⟩
  · apply BitVec.eq_of_getLsbD_eq
    intro i hi
    rw [BitVec.getLsbD_setWidth, BitVec.getLsbD_setWidth, hbits (by omega), if_pos (by split <;> omega)]
  · apply BitVec.eq_of_getLsbD_eq
    intro i hi
    rw [BitVec.getLsbD_extractLsb', hbits (by omega), hlegal]
    by_cases hl : 1 ≤ (v.extractLsb' 9 3).toNat ∧ (v.extractLsb' 9 3).toNat ≤ 5
    · rw [if_pos hl, decide_eq_true hl, if_pos rfl, if_pos (by omega), BitVec.getLsbD_extractLsb']
    · rw [if_neg hl, decide_eq_false hl, if_neg Bool.false_ne_true, if_neg (by omega), BitVec.getLsbD_extractLsb']
  · apply BitVec.eq_of_getLsbD_eq
    intro i hi
    rw [BitVec.getLsbD_extractLsb', BitVec.getLsbD_extractLsb', hbits (by omega), if_neg (by split <;> omega)]

/-! ### The instructions (R75, R243 to R246) -/

section
variable {s : State} {c : Ctl} {t : Thread} {d a : Opnd} {v : Word} {y : Iss}

theorem execTrap_traps (hi : Issues (.trap c a) s c t) (hq : (issueState (.trap c a) c t s).queues [a] [] = .ok ())
    (ha : (issueState (.trap c a) c t s).int 1 a = .ok (v, y)) :
    execTrap c a s = .next (takeTrap s s.cur ⟨0x0C, v.setWidth 32, v⟩) :=
  issue_trap hi (by rw [hq]; dsimp only [bind, Except.bind]; rw [ha])

theorem execBrk_traps (hi : Issues (.brk c) s c t) : execBrk c s = .next (takeTrap s s.cur ⟨0x0D, 0, 0⟩) :=
  issue_trap hi rfl

theorem execXrd_completes {r : XReg} (hi : Issues (.xrd c d (.x r)) s c t)
    (hq : (issueState (.xrd c d (.x r)) c t s).queues [] [d] = .ok ()) :
    execXrd c d (.x r) s
      = .next (((issueState (.xrd c d (.x r)) c t s).setInt d (specialValue s s.cur t r)).finish c) :=
  issue_ok hi (by rw [hq]; rfl)

theorem execXwr_completes {r : XReg} (hi : Issues (.xwr c (.x r) a) s c t)
    (hq : (issueState (.xwr c (.x r) a) c t s).queues [a] [] = .ok ())
    (ha : (issueState (.xwr c (.x r) a) c t s).int 1 a = .ok (v, y)) :
    execXwr c (.x r) a s = .next (({ y with th := setSpecial y.th r v, wrote := true } : Iss).finish c) :=
  issue_ok hi (by rw [hq]; dsimp only [bind, Except.bind]; rw [ha]; rfl)

theorem execCyc_completes (hi : Issues (.cyc c d) s c t) (hq : (issueState (.cyc c d) c t s).queues [] [d] = .ok ()) :
    execCyc c d s = .next (((issueState (.cyc c d) c t s).setInt d (BitVec.ofNat 64 s.cyc)).finish c) :=
  issue_ok hi (by rw [hq]; rfl)

/-- A deadline is waited for, and then the counter is read. -/
theorem execCycDeadline_early (hi : Issues (.cycDeadline c d a) s c t)
    (hs : Source1 (issueState (.cycDeadline c d a) c t s) d a v y) (h : s.cyc < v.toNat) :
    execCycDeadline c d a s = .next (holdThread s s.cur c.t .deadline) := by
  obtain ⟨hq, ha⟩ := hs
  have hcyc : y.s.cyc = s.cyc := (int_rest ha).cyc
  exact issue_hold hi (by
    rw [hq]; dsimp only [bind, Except.bind]; rw [ha]; dsimp only; rw [if_pos (hcyc ▸ h)]; rfl)

theorem execCycDeadline_reached (hi : Issues (.cycDeadline c d a) s c t)
    (hs : Source1 (issueState (.cycDeadline c d a) c t s) d a v y) (h : v.toNat ≤ s.cyc) :
    execCycDeadline c d a s = .next ((y.setInt d (BitVec.ofNat 64 s.cyc)).finish c) := by
  obtain ⟨hq, ha⟩ := hs
  have hcyc : y.s.cyc = s.cyc := (int_rest ha).cyc
  exact issue_ok hi (by
    rw [hq]; dsimp only [bind, Except.bind]; rw [ha]; dsimp only; rw [if_neg (by omega), hcyc]; rfl)

/-- Ownership of the queues is the first of the queue rules. -/
theorem owns_of_queues {x : Iss} {srcs : List Opnd} (h : x.queues srcs [] = .ok ()) : x.owns (Iss.queuesOf srcs) = .ok () := by
  obtain ⟨⟨⟩, ho, -⟩ := bind_eq_ok h
  rwa [Iss.queuesOf, Iss.queuesOf, List.filterMap_nil, List.append_nil] at ho

section
variable {l : Launch}

/-- Extent and coordinate in a dimension, of a group whose launch is recorded. -/
theorem gridOf_some (h : s.launch? t.launch = some l) :
    gridOf s t 0 = (l.grid.1, (coords l.grid t.group).1) ∧ gridOf s t 1 = (l.grid.2.1, (coords l.grid t.group).2.1)
      ∧ gridOf s t 2 = (l.grid.2.2, (coords l.grid t.group).2.2) := by
  refine ⟨?_, ?_, ?_⟩ <;> rw [gridOf, h] <;> rfl

theorem gridOf_none (h : s.launch? t.launch = none) (dim : Nat) : gridOf s t dim = (1, 0) := by rw [gridOf, h]

end

/-- An `idle` that issues: the thread is blocked, until its count has run where it has one. -/
def idling (y : Iss) (n : Nat) : Iss :=
  { y with
    s := if n = 0 then y.s else later n .idleExpiry [y.core, y.slot] y.s
    th := { y.th with idle := some (if n = 0 then 0 else y.s.cyc + n) }
    st := .blocked }

theorem idling_state (y : Iss) (n : Nat) : (idling y n).s.mem = y.s.mem ∧ (idling y n).s.gfile = y.s.gfile
    ∧ (n ≠ 0 → ⟨y.s.cyc + n, .idleExpiry, [y.core, y.slot]⟩ ∈ (idling y n).s.pending) := by
  unfold idling
  split
  case isTrue h => exact ⟨rfl, rfl, fun hn => absurd h hn⟩
  case isFalse => exact ⟨rfl, rfl, fun _ => List.mem_append_right _ (List.mem_singleton_self _)⟩

theorem execIdle_completes (hi : Issues (.idle c a) s c t) (hq : (issueState (.idle c a) c t s).queues [a] [] = .ok ())
    (ha : (issueState (.idle c a) c t s).int 1 a = .ok (v, y)) :
    execIdle c a s = .next ((idling y (v.toNat % 2 ^ 32)).finish c) := by
  have hcount : v.toNat % 2 ^ 32 = bitsAt v.toNat 0 32 := by rw [bitsAt, pow_zero, Nat.div_one]
  rw [hcount]
  exact issue_ok hi (by
    rw [owns_of_queues hq, hq]; dsimp only [bind, Except.bind, Except.toOption, Option.isNone]; rw [ha]; rfl)

end

end Sys2Proof.Machine

namespace Sys2Proof.Proofs
open Sys2Proof.Machine

/-- Settles O44: each instruction ends as its body does; `xwr` and `idle` complete with the thread that they write. -/
theorem systemInstructions : Obligations.SystemInstructions := by
  unfold Obligations.SystemInstructions
  intro s c t d a v y
  dsimp only
  refine ⟨execTrap_traps, execBrk_traps, fun r hi hq => (execXrd_completes hi hq).trans ?_, fun r hi hq ha => ?_, execCyc_completes,
    fun hi hs => ⟨execCycDeadline_early hi hs, execCycDeadline_reached hi hs⟩, fun hi hq ha => ?_⟩
  · refine congrArg (fun w => Host.Outcome.next ((Iss.setInt _ d w).finish c)) ?_
    cases hl : s.launch? t.launch with
    | none => cases r <;> simp only [specialValue, gridOf_none hl] <;> rfl
    | some l =>
      obtain ⟨hx, hy, hz⟩ := gridOf_some hl
      cases r <;> simp only [specialValue, hx, hy, hz] <;> rfl
  · have hrest := int_rest ha
    obtain ⟨s1, stages, extra, rfl⟩ := int_reads ha
    refine ⟨_, _, execXwr_completes hi hq ha, Iss.completed_finish rfl rfl, (Iss.mem_finish rfl).trans hrest.mem,
      Iss.thread?_finish rfl, ?_, ?_, ?_⟩
    · rintro rfl; exact ⟨rfl, rfl⟩
    · rintro rfl; exact ⟨rfl, rfl⟩
    · rintro rfl
      refine ⟨rfl, rfl, status_after_write (d := c.d) (lane := false) ?_⟩
      rw [← orFlags_zero (statusWrite t.status v)]; rfl
  · have hrest := int_rest ha
    have hcyc : y.s.cyc = s.cyc := hrest.cyc
    obtain ⟨hmem, hgfile, hpending⟩ := idling_state y (v.toNat % 2 ^ 32)
    rw [hcyc] at hpending
    obtain ⟨s1, stages, extra, rfl⟩ := int_reads ha
    refine ⟨_, _, execIdle_completes hi hq ha, (Iss.mem_finish rfl).trans (hmem.trans hrest.mem),
      (Iss.gfile_finish rfl).trans (hgfile.trans hrest.gfile), Iss.thread?_finish rfl, rfl, rfl, ?_, fun hn => ?_⟩
    · exact congrArg (fun k => some (if v.toNat % 2 ^ 32 = 0 then 0 else k + v.toNat % 2 ^ 32)) hcyc
    · rw [Iss.pending_finish rfl rfl rfl]; exact hpending hn

end Sys2Proof.Proofs
end

section
/-! Branches, calls and loops (R130). -/

namespace Sys2Proof.Machine

/-- A target in the range of a PC is taken. -/
theorem Iss.jump_taken {x : Iss} {target : Int} {p : BitVec 32} (h : (p.toNat : Int) = target) :
    x.jump target = .ok { x with npc := some p } := by
  have hp : BitVec.ofInt 32 target = p := by rw [← h]; simp
  rw [jump, if_neg (by have := p.isLt; omega), hp]

/-- A target outside the range traps as a fetch beyond its segment does. -/
theorem Iss.jump_refused {x : Iss} {target : Int} (h : target < 0 ∨ 2 ^ 32 ≤ target) :
    x.jump target = .error (.trap (eBounds (detail 8 2 0 0) (BitVec.ofInt 64 target)) none) := if_pos h

/-- An instruction goes to a target: it completes with its PC there, or takes the trap of a target outside the range. -/
def GoesTo (r : Host.Outcome State Fault Refusal) (s : State) (c : Ctl) (target : Int) (after : BitVec 32 → Iss) : Prop :=
  (∀ p : BitVec 32, (p.toNat : Int) = target → r = .next ((after p).finish c))
    ∧ (target < 0 ∨ 2 ^ 32 ≤ target → r = .next (takeTrap s s.cur (eBounds (detail 8 2 0 0) (BitVec.ofInt 64 target))))

variable {i : Instr} {s : State} {c : Ctl} {t : Thread} {d a b : Opnd} {off n : Word} {x y : Iss}

/-- A body that ends with a control transfer, and with what `g` adds to it, goes to its target. -/
theorem goesTo_of_jump {body : Iss → Except Stop Iss} {target : Int} {g : Iss → Iss} (hi : Issues i s c t)
    (hb : body (issueState i c t s) = (y.jump target >>= fun z => pure (g z))) :
    GoesTo (issue i s body) s c target fun p => g { y with npc := some p } :=
  ⟨fun _ hp => issue_ok hi (by rw [hb, Iss.jump_taken hp]; rfl), fun hout => issue_trap hi (by rw [hb, Iss.jump_refused hout]; rfl)⟩

/-- A relative target counts from the PC of the instruction. -/
theorem Iss.relative_eq (h : y.th = t) (off : Word) : y.relative off = y.jump (t.pc.toNat + off.toInt) := by rw [relative, h]

theorem execBr_goes (hi : Issues (.br c b) s c t) (hb : (issueState (.br c b) c t s).int 2 b = .ok (off, y)) :
    GoesTo (execBr c b s) s c (t.pc.toNat + off.toInt) fun p => { y with npc := some p } :=
  goesTo_of_jump (g := id) hi (by
    dsimp only [bind, Except.bind]; rw [hb]; dsimp only
    rw [Iss.relative_eq (int_reads hb).keeps.1]; exact (bind_pure _).symm)

theorem execBrr_goes (hi : Issues (.brr c a) s c t) (hq : (issueState (.brr c a) c t s).queues [a] [] = .ok ())
    (ha : (issueState (.brr c a) c t s).int 1 a = .ok (off, y)) :
    GoesTo (execBrr c a s) s c (t.pc.toNat + off.toInt) fun p => { y with npc := some p } :=
  goesTo_of_jump (g := id) hi (by
    rw [hq]; dsimp only [bind, Except.bind]; rw [ha]; dsimp only
    rw [Iss.relative_eq (int_reads ha).keeps.1]; exact (bind_pure _).symm)

theorem execCall_goes (hi : Issues (.call c d b) s c t) (hb : (issueState (.call c d b) c t s).int 2 b = .ok (off, y)) :
    GoesTo (execCall c d b s) s c (t.pc.toNat + off.toInt) fun p =>
      ({ y with npc := some p } : Iss).setInt d ((t.pc + 1).setWidth 64) := by
  have hth : y.th = t := (int_reads hb).keeps.1
  rw [← hth]
  exact goesTo_of_jump (g := fun z => z.setInt d ((z.th.pc + 1).setWidth 64)) hi (by
    dsimp only [bind, Except.bind]; rw [hb]; rfl)

theorem execRet_goes (hi : Issues (.ret c a) s c t) (hq : (issueState (.ret c a) c t s).queues [a] [] = .ok ())
    (ha : (issueState (.ret c a) c t s).int 1 a = .ok (off, y)) :
    GoesTo (execRet c a s) s c off.toInt fun p => { y with npc := some p } :=
  goesTo_of_jump (g := id) hi (by
    rw [hq]; dsimp only [bind, Except.bind]; rw [ha]; dsimp only
    exact (bind_pure _).symm)

/-- The last round of a loop goes on to the next instruction. -/
theorem execLoop_ends (hi : Issues (.loop c d b) s c t) (hb : (issueState (.loop c d b) c t s).int 2 b = .ok (off, x))
    (hd : x.int 3 d = .ok (1, y)) : execLoop c d b s = .next ((y.setInt d 0).finish c) :=
  issue_ok hi (by dsimp only [bind, Except.bind]; rw [hb]; dsimp only; rw [hd]; dsimp only; rw [if_pos (sub_self 1)]; rfl)

theorem execLoop_goes (hi : Issues (.loop c d b) s c t) (hb : (issueState (.loop c d b) c t s).int 2 b = .ok (off, x))
    (hd : x.int 3 d = .ok (n, y)) (hn : n ≠ 1) :
    GoesTo (execLoop c d b s) s c (t.pc.toNat + off.toInt) fun p => ({ y with npc := some p } : Iss).setInt d (n - 1) :=
  goesTo_of_jump (g := fun z => z.setInt d (n - 1)) hi (by
    have hth : y.th = t := ((int_reads hb).trans (int_reads hd)).keeps.1
    dsimp only [bind, Except.bind]; rw [hb]; dsimp only; rw [hd]; dsimp only
    rw [if_neg (mt sub_eq_zero.mp hn), Iss.relative_eq hth])

end Sys2Proof.Machine
end

section
/-! The end of a thread (R131, R221, R236, R242, R247, R298, R322). -/

namespace Sys2Proof.Machine

/-! ### Flits on their way (R366 to R370) -/

/-- Between `s` and `s'` only the network moved. -/
def NetRest (s s' : State) : Prop :=
  s' = { s with packets := s'.packets, fresh := s'.fresh, pending := s'.pending, nextId := s'.nextId }

theorem NetRest.trans {s s1 s2 : State} (h1 : NetRest s s1) (h2 : NetRest s1 s2) : NetRest s s2 := by
  unfold NetRest at *
  rw [h2, h1]

theorem NetRest.foldl {α : Type} {f : State → α → State} (hf : ∀ s a, NetRest s (f s a)) (l : List α) (s : State) :
    NetRest s (l.foldl f s) := by
  induction l generalizing s with
  | nil => rfl
  | cons a r ih => exact (hf s a).trans (ih _)

variable (s : State)

theorem addFlits_net (id : Nat) (p : NetPkt) (fs : List Flit) : NetRest s (addFlits s id p fs) := by
  unfold addFlits
  refine NetRest.trans (s1 := { s with packets := _ }) rfl (NetRest.foldl (fun s e => ?_) _ _)
  split
  · rfl
  · rfl

theorem injectFlits_net (b : PktBody) (fs : List Flit) : NetRest s (injectFlits s b fs) :=
  NetRest.trans (s1 := s.newId.2) rfl (addFlits_net ..)

/-! ### An open packet aborted (R242, R369) -/

/-- A core that retains a thread's open packet no longer. -/
def withoutPacket (c : Nat) : Option OpenPacket → State
  | none => s
  | some p => s.updCore c fun k => { k with retained := k.retained.filter fun r => r.body.seq != p.seq }

theorem abortOpen_net (c : Nat) (t : Thread) : NetRest (withoutPacket s c t.packet) (abortOpen s c t) := by
  unfold abortOpen
  cases t.packet with
  | none => rfl
  | some p =>
    dsimp only
    split
    · exact addFlits_net ..
    · exact injectFlits_net ..

variable {s} {key : Nat} {t : Thread}

/-- A thread that ends its open packet: the thread and its core are left, and the packet's last flits are on their way. -/
theorem abortPacket_net (ht : s.thread? key = some t) :
    NetRest (withoutPacket (s.setThread key { t with packet := none }) (coreOf key) t.packet) (abortPacket s key) := by
  rw [abortPacket, ht]
  exact abortOpen_net ..

theorem withoutPacket_rest (c : Nat) (p : Option OpenPacket) :
    withoutPacket s c p = { s with cores := (withoutPacket s c p).cores } := by cases p <;> rfl

theorem withoutPacket_retained (c : Nat) (p : OpenPacket) {r : Retained}
    (hr : r ∈ ((withoutPacket s c (some p)).core c).retained) : r.body.seq ≠ p.seq := by
  rw [withoutPacket, State.core_updCore, if_pos rfl] at hr
  simpa using (List.mem_filter.mp hr).2

/-! ### A borrow returned (R221, R236) -/

section
variable (s) (c : Nat) (t : Thread) (d : Nat)

theorem giveBack_rest : giveBack s c t d = { s with slots := (giveBack s c t d).slots } := by
  unfold giveBack
  split <;> rfl

/-- A slot that is given back stays with the owner that it may be lent by. -/
theorem lent_giveBack (k : Nat) : ((giveBack s c t d).slot k).lent = (s.slot k).lent := by
  unfold giveBack
  split
  · have hslot (x : SlotSt) : ({ s with slots := s.slots.put .reset (slotKey c t.lender) x } : State).slot k
        = if k = slotKey c t.lender then x else s.slot k := State.slot_setSlot ..
    dsimp only
    rw [hslot]
    split
    case isTrue h => rw [h]
    case isFalse => rfl
  · rfl

/-- The lender's slot is free `d` cycles later. -/
theorem slot_giveBack (h : t.status.getLsbD 13 = true) : ((giveBack s c t d).slot (slotKey c t.lender)).withheld = false
    ∧ ((giveBack s c t d).slot (slotKey c t.lender)).freeFrom = s.cyc + d := by
  have hslot (x : SlotSt) : ({ s with slots := s.slots.put .reset (slotKey c t.lender) x } : State).slot (slotKey c t.lender) = x :=
    SMap.getD_put_self ..
  rw [giveBack, if_pos h]
  dsimp only
  rw [hslot]
  exact ⟨rfl, rfl⟩

end

/-! ### A member's exit (R298) -/

theorem markExit_rest : markExit s t = { s with groups := (markExit s t).groups } := State.updGroup_eq ..

@[simp] theorem slot_markExit (k : Nat) : (markExit s t).slot k = s.slot k := by rw [markExit_rest]; rfl
@[simp] theorem thread?_markExit (k : Nat) : (markExit s t).thread? k = s.thread? k := by rw [markExit_rest]; rfl
@[simp] theorem core_markExit (k : Nat) : (markExit s t).core k = s.core k := by rw [markExit_rest]; rfl

/-- The barrier unit of a member's group knows of its exit. -/
theorem mem_exited_markExit {g : Group} (hg : s.group? t.launch t.group = some g) (hm : t.rank < g.barrier.mcount)
    (hh : t.handle = none) : ∃ g', (markExit s t).group? t.launch t.group = some g' ∧ t.rank ∈ g'.barrier.exited := by
  rw [markExit, State.updGroup, hg]
  refine ⟨_, State.group?_setGroup .., ?_⟩
  dsimp only
  by_cases hc : t.rank ∈ g.barrier.exited
  · simp [hc]
  · simp [hc, hm, hh]

/-! ### A slot freed (R82, R247, R322) -/

theorem putFrame_rest (c b : Nat) (ws : List Word) : ∃ m, putFrame s c b ws = { s with gfile := m } := by
  unfold putFrame
  generalize ws.zip (List.range ws.length) = l
  induction l generalizing s with
  | nil => exact ⟨_, rfl⟩
  | cons p r ih =>
    obtain ⟨m, hm⟩ := ih (s := { s with gfile := s.gfile.put 0 (gKey c (b + p.2)) p.1 })
    exact ⟨m, hm⟩

variable (s key)

/-- A lent slot goes back to its owner. -/
theorem freeSlot_lent {o : Thread} (hl : (s.slot key).lent = some o) : ∃ m, freeSlot s key
    = { s.setSlot key { s.slot key with lent := none, frame := [] } with gfile := m, threads := s.threads.set key o } := by
  obtain ⟨m, hm⟩ := putFrame_rest (s := s.setSlot key { s.slot key with lent := none, frame := [] }) (coreOf key) o.gBase
    (s.slot key).frame
  refine ⟨m, ?_⟩
  unfold freeSlot
  dsimp only
  rw [hl]
  exact congrArg (State.setThread · key o) hm

/-- Any other slot is empty. -/
theorem freeSlot_empty (hl : (s.slot key).lent = none) : freeSlot s key
    = { s.setSlot key { s.slot key with freeFrom := s.cyc + 1, loan := (0, 0) } with threads := s.threads.erase key }.updCore
        (coreOf key) fun k => { k with idleSince := s.cyc + 1 } := by
  unfold freeSlot
  dsimp only
  rw [hl]
  rfl

theorem freeSlot_rest : freeSlot s key
    = { s with threads := (freeSlot s key).threads, slots := (freeSlot s key).slots, gfile := (freeSlot s key).gfile
               cores := (freeSlot s key).cores } := by
  cases hl : (s.slot key).lent with
  | some o => obtain ⟨m, hm⟩ := freeSlot_lent s key hl; rw [hm]; rfl
  | none => rw [freeSlot_empty s key hl]; rfl

/-- A freed slot holds the owner that it was lent by, or no thread. -/
theorem thread?_freeSlot (k : Nat) : (freeSlot s key).thread? k = if k = key then (s.slot key).lent else s.thread? k := by
  cases hl : (s.slot key).lent with
  | some o => obtain ⟨m, hm⟩ := freeSlot_lent s key hl; rw [hm]; exact SMap.get?_set ..
  | none => rw [freeSlot_empty s key hl]; exact SMap.get?_erase ..

theorem slot_freeSlot_ne {k : Nat} (hk : k ≠ key) : (freeSlot s key).slot k = s.slot k := by
  cases hl : (s.slot key).lent with
  | some o => obtain ⟨m, hm⟩ := freeSlot_lent s key hl; rw [hm]; exact SMap.getD_put_ne _ hk
  | none => rw [freeSlot_empty s key hl]; exact SMap.getD_put_ne _ hk

theorem lent_freeSlot : ((freeSlot s key).slot key).lent = none := by
  have hself (x : SlotSt) : (s.setSlot key x).slot key = x := SMap.getD_put_self ..
  cases hl : (s.slot key).lent with
  | some o => obtain ⟨m, hm⟩ := freeSlot_lent s key hl; rw [hm]; exact congrArg SlotSt.lent (hself _)
  | none => rw [freeSlot_empty s key hl]; exact (congrArg SlotSt.lent (hself _)).trans hl

/-- An empty slot is free from the next cycle on, and its windows stand. -/
theorem freeFrom_freeSlot (hl : (s.slot key).lent = none) :
    ((freeSlot s key).slot key).freeFrom = s.cyc + 1 ∧ (freeSlot s key).gfile = s.gfile := by
  have hself (x : SlotSt) : (s.setSlot key x).slot key = x := SMap.getD_put_self ..
  rw [freeSlot_empty s key hl]
  exact ⟨congrArg SlotSt.freeFrom (hself _), rfl⟩

theorem retained_freeSlot (c : Nat) : ((freeSlot s key).core c).retained = (s.core c).retained := by
  cases hl : (s.slot key).lent with
  | some o => obtain ⟨m, hm⟩ := freeSlot_lent s key hl; rw [hm]; rfl
  | none =>
    rw [freeSlot_empty s key hl, State.core_updCore]
    split
    case isTrue h => rw [h]; rfl
    case isFalse => rfl

/-! ### `exit` (R131) -/

/-- The state that an `exit` of thread `t` leaves. -/
def exited (s : State) (key : Nat) (t : Thread) : State :=
  freeSlot (markExit (abortPacket (returnBorrow s key 8) key) t) key

/-- The completion of an instruction that has no results and whose thread is gone changes the banks of its core alone. -/
theorem Iss.finish_gone {x : Iss} {c : Ctl} (h : x.gone = true) (hown : x.own = []) (hfills : x.fills = none) (hpushes : x.pushes = [])
    (hlane : Instr.lane x.i = false) : ∃ b, x.finish c = x.s.setCore x.core { x.s.core x.core with banks := b } := by
  obtain ⟨b, hb⟩ := reserveBanks_state x.s x.core (Iss.addStage (x.lat + x.extra) x.writes x.stages) (x.lat + x.extra)
  refine ⟨b, ?_⟩
  unfold Iss.finish
  dsimp only
  rw [h, hown, hfills, hpushes, pushAll_nil, noteLane_scalar hlane]
  exact hb

variable {s key}

/-- An `exit` at its completion. -/
def leaving (c : Ctl) (t : Thread) (s : State) : Iss := { issueState (.exit c) c t s with s := exited s s.cur t, gone := true }

theorem execExit_completes {c : Ctl} (hi : Issues (.exit c) s c t) : ∃ b, execExit c s
    = .next ((exited s s.cur t).setCore (coreOf s.cur) { (exited s s.cur t).core (coreOf s.cur) with banks := b }) := by
  have hdone : execExit c s = .next ((leaving c t s).finish c) := issue_ok hi rfl
  obtain ⟨b, hb⟩ := Iss.finish_gone (x := leaving c t s) (c := c) rfl rfl rfl rfl rfl
  exact ⟨b, by rw [hdone, hb]; rfl⟩

/-- What has become of the state when a thread that exits has returned its borrow and aborted its packet. -/
structure Released (s : State) (key : Nat) (t : Thread) (s' : State) : Prop where
  rest : s' = { s with threads := s'.threads, slots := s'.slots, cores := s'.cores, packets := s'.packets
                       fresh := s'.fresh, pending := s'.pending, nextId := s'.nextId }
  others : ∀ k, k ≠ key → s'.thread? k = s.thread? k
  lent : ∀ k, (s'.slot k).lent = (s.slot k).lent
  lender : t.status.getLsbD 13 = true → (s'.slot (slotKey (coreOf key) t.lender)).withheld = false
    ∧ (s'.slot (slotKey (coreOf key) t.lender)).freeFrom = s.cyc + 8
  retained : ∀ p, t.packet = some p → ∀ r ∈ (s'.core (coreOf key)).retained, r.body.seq ≠ p.seq

theorem released (ht : s.thread? key = some t) : Released s key t (abortPacket (returnBorrow s key 8) key) := by
  set u : Thread := { t with status := t.status &&& ~~~(0x2000 : BitVec 32) }
  set s1 := giveBack (s.setThread key u) (coreOf key) t 8 with hs1
  have hborrow : returnBorrow s key 8 = s1 := by rw [returnBorrow, ht]
  have hrest := giveBack_rest (s.setThread key u) (coreOf key) t 8
  rw [← hs1] at hrest
  have hthread (k : Nat) : s1.thread? k = if k = key then some u else s.thread? k := by
    rw [hrest]; exact State.thread?_setThread ..
  have hnet := abortPacket_net (t := u) (by rw [hthread, if_pos rfl] : s1.thread? key = some u)
  rw [hborrow]
  generalize abortPacket s1 key = s2 at hnet ⊢
  generalize hs' : withoutPacket (s1.setThread key { u with packet := none }) (coreOf key) u.packet = s' at hnet
  have hwithout := withoutPacket_rest (s := s1.setThread key { u with packet := none }) (coreOf key) u.packet
  rw [hs'] at hwithout
  refine ⟨?_, fun k hk => ?_, fun k => ?_, fun h => ?_, fun p hp r hr => ?_⟩
  · rw [hnet, hwithout, hrest]; rfl
  · have h2 : s2.thread? k = (s1.setThread key { u with packet := none }).thread? k := by rw [hnet, hwithout]; rfl
    rw [h2, State.thread?_setThread, if_neg hk, hthread, if_neg hk]
  · have h2 : s2.slot k = s1.slot k := by rw [hnet, hwithout]; rfl
    rw [h2]; exact lent_giveBack ..
  · have h2 (k : Nat) : s2.slot k = s1.slot k := by rw [hnet, hwithout]; rfl
    rw [h2]; exact slot_giveBack (s.setThread key u) (coreOf key) t 8 h
  · have h2 : s2.core (coreOf key) = s'.core (coreOf key) := by rw [hnet]; rfl
    have hu : u.packet = some p := hp
    rw [h2, ← hs', hu] at hr
    exact withoutPacket_retained _ _ hr

section
variable (ht : s.thread? key = some t)
include ht

theorem exited_rest : exited s key t = { s with
    threads := (exited s key t).threads, slots := (exited s key t).slots, gfile := (exited s key t).gfile
    cores := (exited s key t).cores, packets := (exited s key t).packets, fresh := (exited s key t).fresh
    pending := (exited s key t).pending, nextId := (exited s key t).nextId, groups := (exited s key t).groups } := by
  unfold exited
  rw [freeSlot_rest, markExit_rest, (released ht).rest]

theorem thread?_exited (k : Nat) : (exited s key t).thread? k = if k = key then (s.slot key).lent else s.thread? k := by
  rw [exited, thread?_freeSlot, slot_markExit, (released ht).lent, thread?_markExit]
  split
  case isTrue => rfl
  case isFalse hk => exact (released ht).others k hk

theorem freeFrom_exited (hl : (s.slot key).lent = none) :
    ((exited s key t).slot key).freeFrom = s.cyc + 1 ∧ (exited s key t).gfile = s.gfile := by
  obtain ⟨hfrom, hgfile⟩ := freeFrom_freeSlot (markExit (abortPacket (returnBorrow s key 8) key) t) key
    (by rw [slot_markExit, (released ht).lent, hl])
  rw [exited, hfrom, hgfile, markExit_rest, (released ht).rest]
  exact ⟨rfl, rfl⟩

theorem lender_exited (hb : t.status.getLsbD 13 = true) (hk : slotKey (coreOf key) t.lender ≠ key) :
    ((exited s key t).slot (slotKey (coreOf key) t.lender)).withheld = false
      ∧ ((exited s key t).slot (slotKey (coreOf key) t.lender)).freeFrom = s.cyc + 8 := by
  rw [exited, slot_freeSlot_ne _ _ hk, slot_markExit]
  exact (released ht).lender hb

theorem retained_exited {p : OpenPacket} (hp : t.packet = some p) {r : Retained}
    (hr : r ∈ ((exited s key t).core (coreOf key)).retained) : r.body.seq ≠ p.seq := by
  rw [exited, retained_freeSlot, core_markExit] at hr
  exact (released ht).retained p hp r hr

theorem mem_barrier_exited {g : Group} (hg : s.group? t.launch t.group = some g) (hm : t.rank < g.barrier.mcount)
    (hh : t.handle = none) : ∃ g', (exited s key t).group? t.launch t.group = some g' ∧ t.rank ∈ g'.barrier.exited := by
  have hgroup : (abortPacket (returnBorrow s key 8) key).group? t.launch t.group = some g := by rw [(released ht).rest]; exact hg
  obtain ⟨g', hg', hmem⟩ := mem_exited_markExit hgroup hm hh
  exact ⟨g', by rw [exited, freeSlot_rest]; exact hg', hmem⟩

end

end Sys2Proof.Machine

namespace Sys2Proof.Proofs
open Sys2Proof.Machine

/-- Settles O22: a control transfer is its jump, and an `exit` frees the slot of a thread that has returned what it held. -/
theorem controlFlow : Obligations.ControlFlow := by
  unfold Obligations.ControlFlow
  refine ⟨fun s c t d a b off n y => ⟨execBr_goes, execBrr_goes, execCall_goes, execRet_goes,
      fun x hi hb hd => ⟨?_, execLoop_goes hi hb hd⟩⟩,
    fun s c t hi => ?_⟩
  · rintro rfl
    exact execLoop_ends hi hb hd
  · have ht : s.thread? s.cur = some t := hi.2.1
    obtain ⟨b, hexec⟩ := execExit_completes hi
    refine ⟨_, hexec, ?_, fun k hk => ?_, ?_, fun hl => ?_, fun _ => lent_freeSlot .., lender_exited ht, fun p hp r hr => ?_,
      fun g => mem_barrier_exited ht⟩
    · rw [State.setCore_mem, exited_rest ht]
    · rw [State.thread?_setCore, thread?_exited ht, if_neg hk]
    · rw [State.thread?_setCore, thread?_exited ht, if_pos rfl]
    · obtain ⟨hfrom, hgfile⟩ := freeFrom_exited ht hl
      exact ⟨hfrom, hgfile, by rw [State.setCore_wfile, exited_rest ht]⟩
    · rw [State.core_setCore_self] at hr
      exact retained_exited ht hp hr

end Sys2Proof.Proofs
end

section
/-! Threads that threads create, and what they are waited for by (R66, R67, R132 to R134). -/

namespace Sys2Proof.Machine

/-! ### Ranks (R132) -/

/-- Of the numbers from `lo` on, one among the first `used.length + 1` is not in a list. -/
theorem exists_not_mem_from (used : List Nat) (lo : Nat) : ∃ i ∈ List.range (used.length + 1), lo + i ∉ used := by
  by_contra h
  push Not at h
  have hsub : (List.range (used.length + 1)).map (lo + ·) ⊆ used := by
    intro r hr
    obtain ⟨i, hi, rfl⟩ := List.mem_map.mp hr
    exact h i hi
  have hnodup : ((List.range (used.length + 1)).map (lo + ·)).Nodup := List.nodup_range.map (add_right_injective lo)
  have hle := (List.subperm_of_subset hnodup hsub).length_le
  simp at hle

variable {s : State} {l g lo : Nat}

/-- The rank of a new thread is the lowest that is free. -/
theorem freeRank_lowest : lo ≤ freeRank s l g lo ∧ freeRank s l g lo ∉ liveRanks s l g
    ∧ ∀ r, lo ≤ r → r < freeRank s l g lo → r ∈ liveRanks s l g := by
  unfold freeRank
  dsimp only
  cases hf : (List.range ((liveRanks s l g).length + 1)).find? fun i => !(liveRanks s l g).contains (lo + i) with
  | none =>
    obtain ⟨i, hi, hfree⟩ := exists_not_mem_from (liveRanks s l g) lo
    exact absurd (List.find?_eq_none.mp hf i hi) (by simpa using hfree)
  | some k =>
    obtain ⟨hk, -, hlow⟩ := List.find?_range_eq_some.mp hf
    rw [Option.getD_some]
    refine ⟨Nat.le_add_left .., by simpa [Nat.add_comm] using hk, fun r hlo hr => ?_⟩
    simpa [Nat.add_sub_cancel' hlo] using hlow (r - lo) (by omega)

/-- A rank that no live thread holds is that of no thread in a slot. -/
theorem rank_ne_of_not_live {r : Nat} (h : r ∉ liveRanks s l g) {e : Nat × Thread} (he : e ∈ s.threads) (hl : e.2.launch = l)
    (hg : e.2.group = g) : e.2.rank ≠ r := by
  rintro rfl
  refine h (List.mem_append_left _ (List.mem_map.mpr ⟨e, List.mem_filter.mpr ⟨List.mem_append_left _ he, ?_⟩, rfl⟩))
  simp [hl, hg]

/-! ### A thread put into a slot (R67) -/

/-- Entries erased one after another read as unlisted ones. -/
theorem getD_foldl_erase {α : Type} (m : SMap α) (f : Nat → Nat) (d : α) {i n : Nat} (h : i < n) :
    ((List.range n).foldl (fun m i => m.erase (f i)) m).getD (f i) d = d := by
  induction n with
  | zero => exact absurd h (Nat.not_lt_zero i)
  | succ n ih =>
    rw [List.range_succ, List.foldl_append, List.foldl_cons, List.foldl_nil, SMap.getD, SMap.get?_erase]
    split
    case isTrue => rfl
    case isFalse hne => exact ih (by rcases Nat.lt_succ_iff_lt_or_eq.mp h with h | rfl <;> simp_all)

/-- A thread's creation leaves its windows cleared and the thread in its slot. -/
theorem createThread_rest (s : State) (key : Nat) (t : Thread) : ∃ sl gr co, createThread s key t
    = { clearW (clearG s (coreOf key) t.gBase t.gSize) (coreOf key) t.wBase (ceil8 t.nv + ceil8 t.nk) with
        threads := s.threads.set key t, slots := sl, groups := gr, cores := co } := by
  unfold createThread
  dsimp only
  rw [State.updGroup_eq]
  exact ⟨_, _, _, rfl⟩

/-- A core's slots are below 64. -/
theorem rotLen_le (s : State) (c : Nat) : s.rotLen c ≤ 64 := by
  have h : 2 ^ ((s.core c).rot % 4) ≤ 2 ^ 3 := Nat.pow_le_pow_right (by decide) (by omega)
  unfold State.rotLen
  omega

theorem lowestSlot_lt {c j : Nat} {ctag : BitVec 16} (h : lowestSlot s c ctag l g = some j) : j < 64 := by
  unfold lowestSlot at h
  split at h
  case isTrue => exact nomatch h
  case isFalse => exact (List.mem_range.mp (List.mem_of_find?_eq_some h)).trans_le (rotLen_le s c)

theorem coreOf_slotKey {c j : Nat} (h : j < 64) : coreOf (slotKey c j) = c := by unfold coreOf slotKey; omega

/-! ### `spawn` (R132) -/

/-- The thread that `t` spawns into slot `j` with windows at `gb` and `wb`. -/
def spawnedThread (s : State) (c : Nat) (t : Thread) (mig : Bool) (pc : Word) (j gb wb : Nat) : Thread :=
  { blankThread mig gb (windowSizes s t.launch mig).1 wb (windowSizes s t.launch mig).2.1 (windowSizes s t.launch mig).2.2
      (s.core c).rot with
    pc := startPc pc
    segs := Vector.ofFn fun i => if mig && decide (2 ≤ i.val) then .null else t.segs[i]
    cseg := t.cseg, rank := freeRank s t.launch t.group (declared s t.launch), ctag := t.ctag, launch := t.launch
    group := t.group, readyAt := s.cyc + 8
    handle := some (BitVec.ofNat 64 (((s.core c).spawns + 1).toNat * 64 + j)) }

/-- The state with a spawned thread: the core has counted it, and its first general register holds the argument. -/
def withSpawned (s : State) (c : Nat) (n : Thread) (j : Nat) (arg : Word) : State :=
  Iss.putG ((createThread s (slotKey c j) n).updCore c fun k => { k with spawns := (s.core c).spawns + 1 }) c n.gBase arg

section
variable {key : Nat} {t : Thread} {mig : Bool} {pc arg : Word}

theorem spawned_full (h : 512 ≤ liveThreads s t.launch t.group
    ∨ lowestSlot s (coreOf key) t.ctag t.launch t.group = none
    ∨ findWindows s (coreOf key) (windowSizes s t.launch mig).1 (windowSizes s t.launch mig).2.1
      (windowSizes s t.launch mig).2.2 = none) :
    spawned s key t mig pc arg = none := by
  unfold spawned
  dsimp only
  split
  case isTrue => rfl
  case isFalse hlive =>
    rcases h.resolve_left hlive with h | h
    · rw [h]
    · rw [h]; cases lowestSlot s (coreOf key) t.ctag t.launch t.group <;> rfl

theorem spawned_room {j gb wb : Nat} (hlive : liveThreads s t.launch t.group < 512)
    (hslot : lowestSlot s (coreOf key) t.ctag t.launch t.group = some j)
    (hwin : findWindows s (coreOf key) (windowSizes s t.launch mig).1 (windowSizes s t.launch mig).2.1
      (windowSizes s t.launch mig).2.2 = some (gb, wb)) :
    spawned s key t mig pc arg = some (withSpawned s (coreOf key) (spawnedThread s (coreOf key) t mig pc j gb wb) j arg,
      BitVec.ofNat 64 (((s.core (coreOf key)).spawns + 1).toNat * 64 + j)) := by
  unfold spawned
  dsimp only
  rw [if_neg (by omega), hslot, hwin]
  rfl

end

section
variable (c : Nat) (n : Thread) {j : Nat} (arg : Word)

theorem withSpawned_spawns (j : Nat) : ((withSpawned s c n j arg).core c).spawns = (s.core c).spawns + 1 := by
  have h : (withSpawned s c n j arg).core c
      = ((createThread s (slotKey c j) n).updCore c fun k => { k with spawns := (s.core c).spawns + 1 }).core c := rfl
  rw [h, State.core_updCore, if_pos rfl]

theorem withSpawned_mem (j : Nat) : (withSpawned s c n j arg).mem = s.mem := by
  obtain ⟨sl, gr, co, h⟩ := createThread_rest s (slotKey c j) n
  rw [withSpawned, h]; rfl

theorem withSpawned_thread (j : Nat) : (withSpawned s c n j arg).thread? (slotKey c j) = some n := by
  obtain ⟨sl, gr, co, h⟩ := createThread_rest s (slotKey c j) n
  rw [withSpawned, h]; exact SMap.get?_set_self ..

/-- The windows of a spawned thread hold its argument, and zero everywhere else. -/
theorem withSpawned_windows (hj : j < 64) : (withSpawned s c n j arg).gfile.getD (gKey c n.gBase) 0 = arg
    ∧ (∀ k, 0 < k → k < n.gSize → (withSpawned s c n j arg).gfile.getD (gKey c (n.gBase + k)) 0 = 0)
    ∧ ∀ k, k < ceil8 n.nv + ceil8 n.nk → (withSpawned s c n j arg).wfile.getD (wKey c (n.wBase + k)) .zero = .zero := by
  obtain ⟨sl, gr, co, h⟩ := createThread_rest s (slotKey c j) n
  rw [coreOf_slotKey hj] at h
  rw [withSpawned, h]
  refine ⟨SMap.getD_put_self .., fun k h0 hk => ?_, fun k hk => ?_⟩
  · refine (SMap.getD_put_ne _ (by unfold gKey; omega)).trans ?_
    exact getD_foldl_erase s.gfile (fun i => gKey c (n.gBase + i)) 0 hk
  · exact getD_foldl_erase s.wfile (fun i => wKey c (n.wBase + i)) .zero hk

end

section
variable {c : Ctl} {t : Thread} {mig : Bool} {d a b : Opnd} {va vb : Word} {y : Iss}

/-- Two sources that are read leave the thread, and of the machine what a read leaves. -/
theorem Source2.leaves {i : Instr} (h : Source2 (issueState i c t s) d a b va vb y) :
    y.th = t ∧ ReadRest s y.s := by
  obtain ⟨-, x1, ha, hb⟩ := h
  exact ⟨((int_reads ha).trans (int_reads hb)).keeps.1, (int_rest ha).trans (int_rest hb)⟩

theorem execSpawn_full (hi : Issues (.spawn c mig d a b) s c t)
    (hs : Source2 (issueState (.spawn c mig d a b) c t s) d a b va vb y) (h : spawned y.s y.key y.th mig va vb = none) :
    execSpawn c mig d a b s = .next ((y.setInt d (BitVec.allOnes 64)).finish c) := by
  obtain ⟨hq, x1, ha, hb⟩ := hs
  exact issue_ok hi (by
    rw [hq]; dsimp only [bind, Except.bind]; rw [ha]; dsimp only; rw [hb]; dsimp only; rw [h]; rfl)

theorem execSpawn_room {s2 : State} {handle : Word} (hi : Issues (.spawn c mig d a b) s c t)
    (hs : Source2 (issueState (.spawn c mig d a b) c t s) d a b va vb y)
    (h : spawned y.s y.key y.th mig va vb = some (s2, handle)) :
    execSpawn c mig d a b s = .next ((({ y with s := s2 } : Iss).setInt d handle).finish c) := by
  obtain ⟨hq, x1, ha, hb⟩ := hs
  exact issue_ok hi (by
    rw [hq]; dsimp only [bind, Except.bind]; rw [ha]; dsimp only; rw [hb]; dsimp only; rw [h]; rfl)

end

/-! ### `join` and `slot` (R133, R134) -/

/-- A handle is waited for while a live thread, in its slot or parked with its slot lent, has it in the group. -/
theorem spawnLives_iff {c : Nat} {t : Thread} {h : Word} : spawnLives s c t h = true
    ↔ ∃ o, (s.thread? (slotKey c (h.toNat % 64)) = some o ∨ (s.slot (slotKey c (h.toNat % 64))).lent = some o)
      ∧ o.handle = some h ∧ o.launch = t.launch ∧ o.group = t.group := by
  simp only [spawnLives, List.any_eq_true, List.mem_append, Option.mem_toList, Bool.and_eq_true, beq_iff_eq, and_assoc]

section
variable {c : Ctl} {t : Thread} {d a : Opnd} {h : Word} {y : Iss}

theorem execJoin_waits (hi : Issues (.join c a) s c t) (hq : (issueState (.join c a) c t s).queues [a] [] = .ok ())
    (ha : (issueState (.join c a) c t s).int 1 a = .ok (h, y)) (hl : spawnLives s (coreOf s.cur) t h = true) :
    execJoin c a s = .next (holdThread s s.cur c.t .join) :=
  issue_hold hi (by rw [hq]; dsimp only [bind, Except.bind]; rw [ha]; exact if_pos hl)

theorem execJoin_completes (hi : Issues (.join c a) s c t) (hq : (issueState (.join c a) c t s).queues [a] [] = .ok ())
    (ha : (issueState (.join c a) c t s).int 1 a = .ok (h, y)) (hl : ¬ spawnLives s (coreOf s.cur) t h = true) :
    execJoin c a s = .next (y.finish c) :=
  issue_ok hi (by rw [hq]; dsimp only [bind, Except.bind]; rw [ha]; exact if_neg hl)

theorem execSlot_completes (hi : Issues (.slot c d) s c t) (hq : (issueState (.slot c d) c t s).queues [] [d] = .ok ()) :
    execSlot c d s = .next (((issueState (.slot c d) c t s).setInt d (slotMap s (coreOf s.cur) t)).finish c) :=
  issue_ok hi (by rw [hq]; rfl)

end

/-- The sum of the powers 2^j below 2^n for which a condition holds. -/
def bitsBelow (f : Nat → Bool) (n : Nat) : Nat := (List.range n).foldr (fun j acc => acc + if f j then 2 ^ j else 0) 0

theorem bitsBelow_succ (f : Nat → Bool) (n : Nat) : bitsBelow f (n + 1) = 2 ^ n * (f n).toNat + bitsBelow f n := by
  have hinit (l : List Nat) (a : Nat) : l.foldr (fun j acc => acc + if f j then 2 ^ j else 0) a
      = a + l.foldr (fun j acc => acc + if f j then 2 ^ j else 0) 0 := by
    induction l with
    | nil => rfl
    | cons j r ih => rw [List.foldr_cons, ih, List.foldr_cons, Nat.add_assoc]
  unfold bitsBelow
  rw [List.range_succ, List.foldr_append, hinit]
  cases hf : f n <;> simp [hf]

theorem bitsBelow_lt (f : Nat → Bool) (n : Nat) : bitsBelow f n < 2 ^ n := by
  induction n with
  | zero => exact Nat.one_pos
  | succ n ih =>
    have hbit := Nat.mul_le_mul_left (2 ^ n) (Bool.toNat_le (f n))
    rw [bitsBelow_succ, pow_succ]
    omega

/-- Its bits are those of the condition. -/
theorem testBit_bitsBelow (f : Nat → Bool) (n j : Nat) : (bitsBelow f n).testBit j = (decide (j < n) && f j) := by
  induction n with
  | zero => exact Nat.zero_testBit j
  | succ n ih =>
    rw [bitsBelow_succ, Nat.testBit_two_pow_mul_add _ (bitsBelow_lt f n), ih]
    rcases lt_trichotomy j n with h | rfl | h
    · simp [h, h.trans (Nat.lt_succ_self n)]
    · cases f j <;> simp
    · have hbit : (f n).toNat.testBit (j - n) = false :=
        Nat.testBit_lt_two_pow ((Bool.toNat_lt _).trans_le (Nat.le_self_pow (by omega) 2))
      rw [if_neg (by omega), hbit, decide_eq_false (by omega), Bool.false_and]

/-- The map of slots tells of each whether it is free, within the rotation and admissible. -/
theorem getLsbD_slotMap (c : Nat) (t : Thread) {j : Nat} (hj : j < 64) : (slotMap s c t).getLsbD j
    = (decide (j < s.rotLen c) && slotFree s (slotKey c j) && resident s c t.ctag && !spanForeign s c t.launch t.group) := by
  unfold slotMap
  by_cases h : (resident s c t.ctag && !spanForeign s c t.launch t.group) = true
  · have hbits := testBit_bitsBelow (fun j => slotFree s (slotKey c j)) (s.rotLen c) j
    rw [if_pos h, BitVec.getLsbD_ofNat, decide_eq_true hj, Bool.true_and, Bool.and_assoc, h, Bool.and_true]
    exact hbits
  · rw [if_neg h, Bool.and_assoc, Bool.eq_false_iff.mpr h, Bool.and_false]
    exact BitVec.getLsbD_zero

end Sys2Proof.Machine

namespace Sys2Proof.Proofs
open Sys2Proof.Machine

/-- Settles O23: a spawned thread is created as its parts say, where there is room; `join` and `slot` answer from the slots. -/
theorem threadsAreCreatedAndJoined : Obligations.ThreadsAreCreatedAndJoined := by
  unfold Obligations.ThreadsAreCreatedAndJoined
  refine ⟨fun s c t mig d a b va vb y hi hs => ?spawn, fun s c t a h y hi hq ha => ?join, fun s c t d hi hq => ?slot⟩
  case spawn =>
    obtain ⟨hth, hrest⟩ := hs.leaves
    dsimp only
    refine ⟨fun h => ?_, fun j gb wb hlive hslot hwin => ?_⟩
    · exact execSpawn_full hi hs (by rw [hth]; exact spawned_full h)
    · have hroom := spawned_room (key := y.key) (pc := va) (arg := vb) hlive hslot hwin
      obtain ⟨hg0, hgs, hws⟩ := withSpawned_windows (s := y.s) y.core
        (spawnedThread y.s y.core t mig va j gb wb) vb (lowestSlot_lt hslot)
      obtain ⟨hlo, hfree, hlow⟩ := freeRank_lowest (s := y.s) (l := t.launch) (g := t.group) (lo := declared y.s t.launch)
      refine ⟨withSpawned y.s y.core (spawnedThread y.s y.core t mig va j gb wb) j vb, spawnedThread y.s y.core t mig va j gb wb,
        execSpawn_room hi hs (by rw [hth]; exact hroom), withSpawned_spawns .., (withSpawned_mem ..).trans hrest.mem,
        withSpawned_thread .., fun hpc => if_neg (by omega), rfl, rfl, rfl, rfl, rfl, congrArg (· + 8) hrest.cyc, rfl, fun k => ?_,
        fun k => ?_, rfl, rfl, rfl, rfl, rfl, hg0, hgs, hws, hlo, hfree, fun e he hl hg => rank_ne_of_not_live hfree he hl hg, hlow⟩
      · simp [spawnedThread]
      · simp [spawnedThread, blankThread]
  case join =>
    exact ⟨fun hl => execJoin_waits hi hq ha (spawnLives_iff.mpr hl), fun hl => execJoin_completes hi hq ha (mt spawnLives_iff.mp hl)⟩
  case slot => exact ⟨_, execSlot_completes hi hq, fun j hj => getLsbD_slotMap _ _ hj⟩

end Sys2Proof.Proofs
end
